-- ==== Sys2Proof/Word.lean ====
section
/-! DEFINITION. The words of the machine: 8, 32 and 64 bits (00_scope R3, R7). -/

namespace Sys2Proof

/-- A byte of memory or scratchpad (R3). -/
abbrev Byte := BitVec 8

/-- One instruction word, one vector or uniform register (R7, R151). -/
abbrev Word := BitVec 32

/-- A register pair or a 64-bit CSR (R7, R278). -/
abbrev DWord := BitVec 64

end Sys2Proof
end

