-- ==== Sys2Proof/Config.lean ====
section
/-! DEFINITION. What the manual leaves open. Every constant here is opaque: nothing can be proved of its value,
so a statement that mentions one holds for every value of it. Each is named in the assumption log. -/

namespace Sys2Proof.Config

/-- Free value (log 5): an undefined vector register at group start (R38), by group stamp, register and lane. -/
opaque freeVector : Nat → Nat → Nat → Word

/-- Free value (log 6): an undefined scratchpad byte at residency (R77), by team stamp and offset. -/
opaque freeScratch : Nat → Nat → Byte

/-- Free value (log 8): which of 16 disagreeing entries of a 64 KiB page translates an access (R65). -/
opaque freePick : Nat → Nat

/-- Free value (log 13): the error of a TCOFF measurement, taken modulo 5 as −2 to 2 ticks (R24). -/
opaque freeTcoffError : Nat → Nat

/-- Free value (log 14): a byte of a frame whose contents the manual calls undefined (R420), by stamp and offset. -/
opaque freeByte : Nat → Nat → Byte

/-- Free value (log 15): an RD or MEMORY value read from outside the modelled device (R67, R110), by stamp and address. -/
opaque freeRemote : Nat → Nat → Byte

/-- Free value (log 15): the 16 metadata bits with which another device's home answers (R86, R110), by stamp and line. -/
opaque freeMeta : Nat → Nat → Nat

/-- Free value (log 15): a logical time of another device's home or owner (R110, R111), by stamp and number. -/
opaque freeTime : Nat → Nat → Nat

/-- Free value (log 15): the pin of a control-class line at another device's home, as domain, instance and context, when it
refuses an access (R113), by stamp and line. -/
opaque freePin : Nat → Nat → Option (Nat × Nat × Nat)

/-- Free value (log 101): the walk's table cache still holds an entry (R84), by stamp and level. -/
opaque freeHeld : Nat → Nat → Bool

/-- Free value (log 38): part of a save area lies in the HBM of a die that the save pool reaches into (R354), by team and die. -/
opaque freeSaveArea : Nat → Nat → Bool

/-- Free value (log 98): which of the values that a location has held a racing load takes (R112). -/
opaque freeRace : Nat → Nat

/-- Free value (log 11): an element of a B tile that a racing write has changed keeps its old value (R241), by stamp, entry and
element. -/
opaque freeOld : Nat → Nat → Nat → Bool

/-- Free value (log 122): the bytes that left a die in a window for which no UTILISATION_WINDOW came (R363), by stamp and die. -/
opaque freeTraffic : Nat → Nat → Nat

/-- Free value (log 17): which reason a record of 0x0103 shows when a word breaks several encoding checks (R405). -/
opaque freeReason : Nat → Nat

/-- Free value (log 112): the sign of the larger of −0 and +0 in a row's maximum (R247), by the sign of the first. -/
opaque freeZeroSign : Bool → Bool

/-- Free value (log 25): the port that carries the route to a fabric device (R425), taken modulo 36. -/
opaque routePort : Nat → Nat

/-- Free value (log 25): the fabric coherence domain identifier of another device (R370), by fabric number. -/
opaque fabricDomain : Nat → Nat

/-- Uninterpreted (log 16): XMSS verification of a firmware image under the Nirlas key (R465). -/
opaque xmssVerify : List Byte → Bool

/-- Uninterpreted (log 16): the security version in the header of a firmware image (R465). -/
opaque imageSecurity : List Byte → Nat

/-- Uninterpreted (log 16): the image version of a firmware image (R467). -/
opaque imageVersion : List Byte → Nat

/-- Uninterpreted (log 16): byte of the secret start of a chain of one leaf of the device's XMSS key (R466), by leaf, chain and byte. -/
opaque xmssSecret : Nat → Nat → Nat → Byte

/-- Uninterpreted (log 16): byte of the key that randomises the device's signatures (R466). -/
opaque xmssPrfKey : Nat → Byte

/-- Uninterpreted (log 16): byte of the public seed of the device's XMSS key (R467). -/
opaque xmssSeed : Nat → Byte

end Sys2Proof.Config
end

