-- ==== Sys2Proof/Machine/Tab.lean ====
section
/-! DEFINITION. Sparse tables: lists of numbered entries in rising order, the form in which State holds
memory, registers and every other collection of numbered things. -/

namespace Sys2Proof.Machine

/-- A table from numbers to values; an unlisted number has no entry. -/
abbrev Tab (α : Type) := List (Nat × α)

/-- The entry of number `k`. -/
def Tab.find {α : Type} : List (Nat × α) → Nat → Option α
  | [], _ => none
  | (j, v) :: t, k => if k = j then some v else Tab.find t k

/-- Enter `v` under `k`, in place of any entry of `k`, keeping the order. -/
def Tab.put {α : Type} : List (Nat × α) → Nat → α → List (Nat × α)
  | [], k, v => [(k, v)]
  | (j, w) :: t, k, v =>
    if k < j then (k, v) :: (j, w) :: t
    else if k = j then (k, v) :: t
    else (j, w) :: Tab.put t k v

/-- Remove the entry of `k`. -/
def Tab.del {α : Type} : List (Nat × α) → Nat → List (Nat × α)
  | [], _ => []
  | (j, w) :: t, k => if k = j then Tab.del t k else (j, w) :: Tab.del t k

/-- The entry of `k`, or `d` when there is none. -/
def Tab.get {α : Type} (t : List (Nat × α)) (k : Nat) (d : α) : α := (Tab.find t k).getD d

/-- Insert into a list that rises by a measure, before what measures the same. -/
def insertOn {α : Type} (f : α → Nat) (a : α) : List α → List α
  | [] => [a]
  | b :: t => if f a ≤ f b then a :: b :: t else b :: insertOn f a t

/-- A list in rising order of a measure; what measures the same keeps its order. -/
def sortOn {α : Type} (f : α → Nat) (l : List α) : List α := l.foldr (insertOn f) []

/-- The numbers rise strictly. -/
def Tab.sorted {α : Type} : List (Nat × α) → Bool
  | [] => true
  | [_] => true
  | (j, _) :: (k, w) :: t => decide (j < k) && Tab.sorted ((k, w) :: t)

/-- Change the entry of `k` if there is one. -/
def Tab.alter {α : Type} (t : List (Nat × α)) (k : Nat) (f : α → α) : List (Nat × α) :=
  match Tab.find t k with
  | none => t
  | some v => Tab.put t k (f v)

/-- Bits `lo + len − 1` to `lo` of a number read as a record (R3). -/
def bits (x lo len : Nat) : Nat := x / 2 ^ lo % 2 ^ len

/-- `x` with bits `lo + len − 1` to `lo` replaced by `v`. -/
def setBits (x lo len v : Nat) : Nat :=
  x % 2 ^ lo + (v % 2 ^ len) * 2 ^ lo + x / 2 ^ (lo + len) * 2 ^ (lo + len)

/-- Two's-complement value of the low `n` bits of `x` (R9). -/
def sextNat (x n : Nat) : Int :=
  if x % 2 ^ n < 2 ^ (n - 1) then (x % 2 ^ n : Nat) else (x % 2 ^ n : Nat) - (2 ^ n : Nat)

/-- Ceiling of `a / b`. -/
def ceilDiv (a b : Nat) : Nat := (a + b - 1) / b

/-- The bytes of a memory or scratchpad table, little-endian, through a reader of one byte (R3). -/
def readBytes (rd : Nat → Byte) (a : Nat) : Nat → Nat
  | 0 => 0
  | n + 1 => (rd a).toNat + 256 * readBytes rd (a + 1) n

end Sys2Proof.Machine
end

