-- ==== Sys2Proof/Syntax.lean ====
section
/-! DEFINITION. The instructions and events of the Oroulo 8840: one constructor per row of the opcode table.
A word row carries the fields of its format (R151). The operands of an event row stand in `Event`, and the step hands
them to the row's meaning through State. -/

namespace Sys2Proof

/-- Format A: three register operands (R151). -/
structure FmtA where
  g : BitVec 3
  d : BitVec 7
  a : BitVec 7
  b : BitVec 7
  deriving DecidableEq, Repr

/-- Format B: two registers and a 7-bit immediate (R151). -/
structure FmtB where
  g : BitVec 3
  d : BitVec 7
  a : BitVec 7
  i : BitVec 7
  deriving DecidableEq, Repr

/-- Format C: one register and a 14-bit immediate (R151). -/
structure FmtC where
  g : BitVec 3
  d : BitVec 7
  i : BitVec 14
  deriving DecidableEq, Repr

/-- Format D: global memory (R151). -/
structure FmtD where
  g : BitVec 3
  t : BitVec 7
  a : BitVec 7
  la : BitVec 4
  c : BitVec 2
  o : BitVec 1
  deriving DecidableEq, Repr

/-- Format DS: scratchpad (R151). -/
structure FmtDS where
  g : BitVec 3
  t : BitVec 7
  a : BitVec 7
  sw : BitVec 3
  off : BitVec 4
  deriving DecidableEq, Repr

/-- Format E: branches (R151). -/
structure FmtE where
  g : BitVec 3
  o : BitVec 21
  deriving DecidableEq, Repr

/-- FENCE, format C with its own immediate fields (R222). -/
structure FmtFence where
  g : BitVec 3
  d : BitVec 7
  widen : BitVec 1
  kind : BitVec 2
  dom : BitVec 4
  deriving DecidableEq, Repr

/-- Format F: matrix instructions (R151, R226). -/
structure FmtF where
  z : BitVec 1
  r : BitVec 1
  f : BitVec 2
  a : BitVec 7
  h : BitVec 5
  t : BitVec 8
  deriving DecidableEq, Repr

/-- Format F of the attention instructions, whose f field is 00 (R226). -/
structure FmtAtt where
  z : BitVec 1
  r : BitVec 1
  a : BitVec 7
  h : BitVec 5
  t : BitVec 8
  deriving DecidableEq, Repr

/-- Format G: engine commands, with m decided by the constructor (R151, R258). -/
structure FmtG where
  g : BitVec 3
  c : BitVec 2
  la : BitVec 4
  h : BitVec 5
  a : BitVec 7
  deriving DecidableEq, Repr

/-- Format G of TCOPY and TSTORE, with their flags (R257). -/
structure FmtCopy where
  g : BitVec 3
  c : BitVec 2
  la : BitVec 4
  h : BitVec 5
  a : BitVec 7
  rel : BitVec 1
  acq : BitVec 1
  deriving DecidableEq, Repr

/-- Format G of XBAR.WAIT and the blocking QDEQ, whose la and c are 0 (R258). -/
structure FmtBlock where
  g : BitVec 3
  h : BitVec 5
  a : BitVec 7
  deriving DecidableEq, Repr

/-- Format SYS: privileged operations, with sub decided by the constructor (R151, R277). -/
structure FmtSys where
  g : BitVec 3
  d : BitVec 7
  a : BitVec 7
  deriving DecidableEq, Repr

/-- What an access wants of a translation (R412, R416). -/
inductive AccessKind
  | load
  | store
  | atomic
  | ldk
  | fetch
  deriving DecidableEq, Repr

/-- A request of the host port (R366): device memory by HDM offset, or the launch window by byte offset. -/
inductive HostReq
  | readMem (pa size : Nat)
  | writeMem (pa size : Nat) (data : BitVec 512)
  | readWindow (off size : Nat)
  | writeWindow (off size : Nat) (data : BitVec 512)
  /-- A read of the control register at an offset by any master (R371). -/
  | readControl (offset : Nat)
  deriving DecidableEq, Repr

/-- A unit that firmware can declare failed (R461). -/
inductive FailUnit
  | quad (q : Nat)
  | pseudoChannel (stack : Nat)
  | bondLane
  | linkLane (port : Nat)
  deriving DecidableEq, Repr

/-- The instructions and events, in the order of the opcode table, but for RESERVED_OPCODE, which stands after the
words. -/
inductive Instr
  | nop (f : FmtA)
  | iadd (f : FmtA)
  | isub (f : FmtA)
  | iadd64 (f : FmtA)
  | isub64 (f : FmtA)
  | imul (f : FmtA)
  | imulhiS (f : FmtA)
  | imulhiU (f : FmtA)
  | imad (f : FmtA)
  | imadwS (f : FmtA)
  | imadwU (f : FmtA)
  | idivS (f : FmtA)
  | idivU (f : FmtA)
  | iremS (f : FmtA)
  | iremU (f : FmtA)
  | iminS (f : FmtA)
  | iminU (f : FmtA)
  | imaxS (f : FmtA)
  | imaxU (f : FmtA)
  | iabs (f : FmtA)
  | ineg (f : FmtA)
  | and (f : FmtA)
  | or (f : FmtA)
  | xor (f : FmtA)
  | andn (f : FmtA)
  | not (f : FmtA)
  | shl (f : FmtA)
  | shrU (f : FmtA)
  | shrS (f : FmtA)
  | rotl (f : FmtA)
  | shli (f : FmtB)
  | shriU (f : FmtB)
  | shriS (f : FmtB)
  | iaddi (f : FmtB)
  | movi (f : FmtC)
  | movhi (f : FmtC)
  | ldk (f : FmtC)
  | mov (f : FmtA)
  | sel (f : FmtA)
  | popc (f : FmtA)
  | clz (f : FmtA)
  | brev (f : FmtA)
  | bfeU (f : FmtA)
  | bfeS (f : FmtA)
  | bfi (f : FmtA)
  | lea (f : FmtB)
  | idot4Sb (f : FmtA)
  | idot4Ub (f : FmtA)
  | b3ext (f : FmtB)
  | umov (f : FmtA)
  | umovi (f : FmtC)
  | uadd (f : FmtA)
  | ulea (f : FmtB)
  | fadd (f : FmtA)
  | fsub (f : FmtA)
  | fmul (f : FmtA)
  | ffma (f : FmtA)
  | fmin (f : FmtA)
  | fmax (f : FmtA)
  | fabs (f : FmtA)
  | fneg (f : FmtA)
  | fdiv (f : FmtA)
  | fsqrt (f : FmtA)
  | frcp (f : FmtA)
  | frsq (f : FmtA)
  | fex2 (f : FmtA)
  | flg2 (f : FmtA)
  | fsint (f : FmtA)
  | fcost (f : FmtA)
  | frnd (f : FmtB)
  | fldexp (f : FmtA)
  | fexpo (f : FmtA)
  | fclass (f : FmtA)
  | hadd2 (f : FmtA)
  | hmul2 (f : FmtA)
  | hfma2 (f : FmtA)
  | badd2 (f : FmtA)
  | bmul2 (f : FmtA)
  | bfma2 (f : FmtA)
  | dadd (f : FmtA)
  | dmul (f : FmtA)
  | dfma (f : FmtA)
  | cvtF32Sw (f : FmtA)
  | cvtF32Uw (f : FmtA)
  | cvtSwF32 (f : FmtA)
  | cvtUwF32 (f : FmtA)
  | cvtF16x2F32 (f : FmtA)
  | cvtBf16x2F32 (f : FmtA)
  | cvtF32F16 (f : FmtB)
  | cvtF32Bf16 (f : FmtB)
  | cvtE4m3x2F32 (f : FmtA)
  | cvtE5m2x2F32 (f : FmtA)
  | cvtF32E4m3 (f : FmtB)
  | cvtF32E5m2 (f : FmtB)
  | cvtF64F32 (f : FmtA)
  | cvtF32F64 (f : FmtA)
  | qfp4 (f : FmtA)
  | dqfp4 (f : FmtA)
  | icmpEq (f : FmtA)
  | icmpNe (f : FmtA)
  | icmpLtS (f : FmtA)
  | icmpLeS (f : FmtA)
  | icmpLtU (f : FmtA)
  | icmpLeU (f : FmtA)
  | fcmpEq (f : FmtA)
  | fcmpNe (f : FmtA)
  | fcmpLt (f : FmtA)
  | fcmpLe (f : FmtA)
  | fcmpUo (f : FmtA)
  | pand (f : FmtA)
  | por (f : FmtA)
  | pxor (f : FmtA)
  | pnot (f : FmtA)
  | gset (f : FmtB)
  | shflIdx (f : FmtA)
  | shflUp (f : FmtB)
  | shflDn (f : FmtB)
  | shflXor (f : FmtB)
  | voteAll (f : FmtA)
  | voteAny (f : FmtA)
  | voteBal (f : FmtA)
  | matchLanes (f : FmtA)
  | reduxAdd (f : FmtA)
  | reduxMinS (f : FmtA)
  | reduxMaxS (f : FmtA)
  | sreg (f : FmtC)
  | p2v (f : FmtB)
  | v2p (f : FmtB)
  | lanemask (f : FmtB)
  | bra (f : FmtE)
  | brx (f : FmtA)
  | call (f : FmtE)
  | ret (f : FmtA)
  | exit (f : FmtA)
  | yield (f : FmtA)
  | setpri (f : FmtB)
  | launch (f : FmtA)
  | waitch (f : FmtA)
  | tbarSync (f : FmtA)
  | tbarArv (f : FmtA)
  | trap (f : FmtC)
  | bkpt (f : FmtA)
  | sleep (f : FmtA)
  | ldUb (f : FmtD)
  | ldSb (f : FmtD)
  | ldUh (f : FmtD)
  | ldSh (f : FmtD)
  | ldW (f : FmtD)
  | ldD (f : FmtD)
  | ldQ (f : FmtD)
  | stB (f : FmtD)
  | stH (f : FmtD)
  | stW (f : FmtD)
  | stD (f : FmtD)
  | stQ (f : FmtD)
  | ldaW (f : FmtD)
  | ldaD (f : FmtD)
  | stlW (f : FmtD)
  | stlD (f : FmtD)
  | ldsW (f : FmtDS)
  | ldsD (f : FmtDS)
  | ldsQ (f : FmtDS)
  | stsW (f : FmtDS)
  | stsD (f : FmtDS)
  | stsQ (f : FmtDS)
  | atomAdd (f : FmtD)
  | atomAdd64 (f : FmtD)
  | atomMinS (f : FmtD)
  | atomMaxS (f : FmtD)
  | atomAnd (f : FmtD)
  | atomOr (f : FmtD)
  | atomXchg (f : FmtD)
  | atomCas (f : FmtD)
  | atomFadd (f : FmtD)
  | fence (f : FmtFence)
  | mmaE2m1 (f : FmtF)
  | mmaE4m3 (f : FmtF)
  | mmaE5m2 (f : FmtF)
  | mmaBf16 (f : FmtF)
  | mmaF16 (f : FmtF)
  | mmaI8 (f : FmtF)
  | accmv (f : FmtF)
  | accrd (f : FmtF)
  | accwr (f : FmtF)
  | atqk (f : FmtAtt)
  | atsm (f : FmtAtt)
  | atpv (f : FmtAtt)
  | atfn (f : FmtAtt)
  | hbindSpad (f : FmtG)
  | hbindRec (f : FmtG)
  | hbindOff (f : FmtG)
  | hbindSeek (f : FmtG)
  | tcopy (f : FmtCopy)
  | tstore (f : FmtCopy)
  | xbarInit (f : FmtG)
  | xbarArv (f : FmtG)
  | xbarArvExp (f : FmtG)
  | xbarArvAck (f : FmtG)
  | xbarWait (f : FmtBlock)
  | qdeq (f : FmtBlock)
  | qdeqTry (f : FmtG)
  | qenq (f : FmtG)
  | qenqTry (f : FmtG)
  | treeFork (f : FmtG)
  | treePrune (f : FmtG)
  | treeCommit (f : FmtG)
  | treeAppend (f : FmtG)
  | treeAdopt (f : FmtG)
  | treeQctx (f : FmtG)
  | treeQuery (f : FmtG)
  | kvbindKp (f : FmtG)
  | kvbindVp (f : FmtG)
  | kvbindKt (f : FmtG)
  | kvbindVt (f : FmtG)
  | kvbindWk (f : FmtG)
  | kvbindWv (f : FmtG)
  | sampleSubmit (f : FmtG)
  | sampleVerify (f : FmtG)
  | collAllred (f : FmtG)
  | collAllgath (f : FmtG)
  | collRedscat (f : FmtG)
  | collHistmrg (f : FmtG)
  | csrrd (f : FmtSys)
  | csrwr (f : FmtSys)
  | eret (f : FmtSys)
  | tlbinv (f : FmtSys)
  | winrd (f : FmtSys)
  | winwr (f : FmtSys)
  | ctxsave (f : FmtSys)
  | ctxload (f : FmtSys)
  | halt (f : FmtSys)
  /-- A word at an instruction position whose encoding no instruction assigns raises the illegal-instruction trap at that word. Such
  words have a reserved primary opcode, bits [31:29] = 0b111, or a reserved m, sub or field value. (R163) -/
  | reservedOpcode (w : Word)
  /-- The partition arbiter grants the next turn to a ready group by aged priority and starvation. (R47) -/
  | turnGrant
  /-- A turn that has held the partition for 256 cycles ends after the instruction in progress. (R44) -/
  | turnTimeLimit
  /-- The 24th primary-port issue of a turn ends it. (R44) -/
  | turnInstructionLimit
  /-- A sleeping group's sleep time ends and it becomes ready again. (R207) -/
  | sleepExpiry
  /-- A queued record is delivered to the halted or just-returned privileged group, loading v0–v15, WINSEL and the entry PC. (R393) -/
  | recordDelivery
  /-- A write of CHARGE charges the named group's request and, with END, ends its slot's teams. (R396) -/
  | chargeWrite
  /-- A page-table walk completes, filling TLBs and setting A and D by compare-and-set. (R84) -/
  | pageWalk
  /-- The tile engine translates pages of coming tiles speculatively. (R85) -/
  | walkAheadTranslation
  /-- The operand fetcher copies a REC handle's block into the staging buffer ahead of use. (R261) -/
  | operandFetchCopy
  /-- The home L2 serves a read renewal, extending the line's lease. (R103) -/
  | homeRenewal
  /-- A store or atomic is performed at the home L2 with a write time above every granted lease. (R104) -/
  | homeWrite
  /-- A reply reaches the core, filling L1, raising LT and writing the load destination. (R102) -/
  | memoryReply
  /-- The issuing die's L2 grants a renewal from its copy or renews at the other die's home. (R106) -/
  | remoteL2Renewal
  /-- The home L2 evicts a line and raises the memory floor time. (R107) -/
  | l2Eviction
  /-- Every core's logical time rises by 1 every 1,024 cycles. (R108) -/
  | ltTick
  /-- A time reaching 2^47 makes the device subtract 2^46 from every logical time and signal the fabric. (R108) -/
  | rebase
  /-- A device receives a rebase signal over Diron Link, rebases and passes it on. (R108) -/
  | rebaseSignal
  /-- An access refused by a control-class pin is repeated. (R113) -/
  | pinRetry
  /-- An access still refused after 65,536 cycles raises the domain-violation fault. (R424) -/
  | domainViolation
  /-- A read from another device is served at the home per the line's metadata state. (R110) -/
  | fabricRead
  /-- A write or atomic from another device changes the line's owner and state at the home. (R110) -/
  | fabricWrite
  /-- A request forwarded by the home is served at the owner device. (R110) -/
  | ownerForward
  /-- An owner writes a line back to its home, changing its state. (R110) -/
  | ownerWriteback
  /-- A host read or write of device memory or the launch window is performed at HOST. (R366) -/
  | hostAccess
  /-- A CXL.cache host snoop is performed at the host port as a host load or store. (R368) -/
  | hostSnoop
  /-- A host write of a new nonzero sequence to a window slot copies the slot. (R341) -/
  | launchTrigger
  /-- The line monitor parses a copied record and accepts it into its queue, holds it or refuses it. (R342) -/
  | launchRecordParse
  /-- A held copy enters its launch queue when the queue has room. (R342) -/
  | holdBufferRelease
  /-- Each tick a die's dispatcher chooses a ready entry and places at most one team on a fitting core. (R348) -/
  | dispatchDecision
  /-- A placed team becomes resident with its initial group state. (R350) -/
  | teamResident
  /-- An exited group releases its place once its memory instructions complete. (R208) -/
  | groupPlaceRelease
  /-- A team whose groups have exited and commands completed leaves its core, freeing its resources. (R208) -/
  | teamLeave
  /-- A grid whose teams and children are done retires, releasing at PKG. (R52) -/
  | gridRetire
  /-- An unplaced tier-0 entry after pdelay ticks chooses a victim core and starts pre-empting its teams. (R353) -/
  | preemptVictimChoice
  /-- After its work drains a pre-empted team's state is saved and its resources freed. (R352) -/
  | preemptSave
  /-- A pre-emption still in phase 3 after 1,000,000 ticks is abandoned. (R448) -/
  | preemptAbandon
  /-- A saved team is restored onto a fitting core of its die. (R355) -/
  | teamRestore
  /-- The batch former retires, evicts and admits requests and launches the step grid. (R358) -/
  | batchFormerStep
  /-- 10,000 ticks after a step without a grid, the batch former starts its next step. (R361) -/
  | batchFormerIdleTimer
  /-- At each 4-cycle pass start the counting board grants eligible entries to decks and the move path. (R237) -/
  | boardPass
  /-- A granted operation writes its tiles, or ACCRD its registers, and frees its entry. (R239) -/
  | matrixOpComplete
  /-- A queued engine command's guard predicate is written and the command proceeds or is discarded. (R255) -/
  | guardResolve
  /-- A TCOPY sector is written at a receiver and its barrier's pending sectors fall. (R263) -/
  | tcopySectorWrite
  /-- A TSTORE source sector is read and its barrier's pending sectors fall. (R265) -/
  | tstoreSectorRead
  /-- A KV binding ends and drops its pins, freeing DRAINING sets. (R316) -/
  | bindingEnd
  /-- A group with a pruned tag ends as if every lane exited, its blocks and faults withdrawn. (R319) -/
  | groupCancel
  /-- An engine command with a pruned tag stops at its next segment boundary. (R319) -/
  | cancelledCommandStop
  /-- A collective whose timeout passes ends with status 1 at its ranks. (R276) -/
  | collTimeout
  /-- A failed collective instance is freed one timeout after its timeout. (R439) -/
  | collInstanceRelease
  /-- Writing GO to MIGCTL starts or refuses a page move. (R279) -/
  | migrationGo
  /-- A migration round recopies marked lines. (R88) -/
  | migrationRound
  /-- The freeze copies the last lines, rewrites the entry and invalidates TLBs, then releases held accesses. (R88) -/
  | migrationFreeze
  /-- A write of QSYNC rereads a queue descriptor and clears its counts. (R278) -/
  | qsyncWrite
  /-- Writing GO to RDCOLL starts or refuses a block's metadata rewrite. (R453) -/
  | rdcollGo
  /-- The rewrite sets the block's lines to state I and status 2. (R453) -/
  | rdcollDone
  /-- A write of KVPOOL makes the Abacus read the pool header. (R289) -/
  | kvpoolWrite
  /-- A write of FRSIZE sets the ring size and restarts FRHEAD. (R391) -/
  | frsizeWrite
  /-- A write of FRLOST clears it. (R391) -/
  | frlostClear
  /-- A write of MCLOST clears it. (R394) -/
  | mclostClear
  /-- A write of SPECDROP clears both fields. (R419) -/
  | specdropClear
  /-- A write of NOPAGECNT clears both fields. (R436) -/
  | nopagecntClear
  /-- A nonzero write of MPTBASE lets waiting records be delivered. (R393) -/
  | mptbaseWrite
  /-- A write of SCHEDCTL sets pdelay and EN, ignored before RUNNING. (R339) -/
  | schedctlWrite
  /-- A write of a CSR without behaviour of its own stores its fields. (R278) -/
  | csrWrite
  /-- A write of OWNER changes the owner when the writer may and raises the epoch. (R372) -/
  | ownerWrite
  /-- A control-register write is applied for the owner or dropped and counted in DENIED. (R371) -/
  | controlRegisterWrite
  /-- An owner write of DENIED clears it. (R371) -/
  | deniedClear
  /-- An owner write of LREFUSE clears it. (R444) -/
  | lrefuseClear
  /-- An owner write of CECNT or UECNT clears both die counts. (R460) -/
  | errorCounterClear
  /-- A write of a version register's selected field inside its range takes effect. (R373) -/
  | versionSelect
  /-- A core reset of a die ends its resident teams and empties its L1s. (R429) -/
  | coreReset
  /-- An uncore reset of a die starts, writing back modified lines when requested. (R430) -/
  | uncoreReset
  /-- At reset completion copies are discarded, MFT restarts above the mirror and TCOFF is remeasured. (R430) -/
  | uncoreResetComplete
  /-- A compute die is lost and the device runs on the other die. (R431) -/
  | dieLost
  /-- Power-on reset verifies firmware, tests, initialises HBM and counters, and trains links. (R464) -/
  | packagePowerOnReset
  /-- Mailbox command that verifies and stores a firmware image. (R467) -/
  | loadimage
  /-- Mailbox command that signs a measurement and nonce with the next XMSS index. (R466) -/
  | attest
  /-- Mailbox command that writes the device's XMSS public key. (R467) -/
  | getpub
  /-- Mailbox command that raises the stored minimum security version. (R467) -/
  | raisemin
  /-- Mailbox command that writes the stored image's versions. (R467) -/
  | imageinfo
  /-- Mailbox command that attests with a requester context in the measurement. (R467) -/
  | attestctx
  /-- A mailbox command writes its buffer, releases it at HOST and writes MBSTAT. (R467) -/
  | mailboxComplete
  /-- A sensor reaching 95 °C makes the device withhold issue slots. (R468) -/
  | thermalThrottle
  /-- A sensor falling below 92 °C ends withholding. (R468) -/
  | thermalRelease
  /-- A sensor reaching 110 °C shuts the device down. (R468) -/
  | thermalShutdown
  /-- Firmware declares a unit failed after 64 corrected errors and starts a takeover. (R461) -/
  | structureFailed
  /-- A spare quad takes a failed quad's number once no team is resident there. (R461) -/
  | quadSubstitution
  /-- The spare pseudo-channel copy ends and the spare serves alone. (R461) -/
  | pchanCopyComplete
  /-- Host link-up negotiates PCIe or CXL mode. (R365) -/
  | hostLinkUp
  /-- A Diron Link trains at the highest common version or stays down. (R373) -/
  | linkTraining
  /-- A flit is received; a bad CRC requests replay. (R369) -/
  | flitReceive
  /-- A sender replays from the requested sequence number. (R369) -/
  | flitReplay
  /-- A failed lane makes the port continue at 3 or 2 lanes. (R369) -/
  | linkLaneFailure
  /-- The fabric manager declares a device dead and its owned lines are lost. (R427) -/
  | deviceDeadDeclared
  /-- The fabric manager's reclaim resets a line's metadata to I at its home. (R427) -/
  | lineReclaim
  /-- Each 1,024-tick window sets the die-to-die utilisation band. (R363) -/
  | utilisationWindow
  /-- An engine starts the command at the head of a core's tile or uncore queue, at most one per cycle, freeing its entry and
  applying XBAR, HBIND, KVBIND or forwarding TREE, SAMPLE, QENQ, QDEQ or COLL. (R254) -/
  | engineCommandStart
  /-- Each die's 64-bit time counter TCOUNT advances by one every 1 ns tick, derived from the I/O die reference. (R22) -/
  | tcountTick
  /-- An L2 prefetcher makes a speculative translation, which is dropped and counted in SPECDROP if it would fault. (R419) -/
  | l2PrefetchTranslation
  /-- The fabric manager reprograms the routes through a dead Diron Link port, ending their dead state. (R425) -/
  | fabricRouteReprogram
  deriving DecidableEq, Repr

/-- What an event happens to: one constructor per event row of the opcode table, with the numbers of the units it
names and the data that comes from outside. The step hands it to the row's meaning through State. -/
inductive Event
  | turnGrant (core part : Nat)
  | turnTimeLimit (core part : Nat)
  | turnInstructionLimit (core part : Nat)
  | sleepExpiry (grp : Nat)
  | recordDelivery (sector : Nat)
  | chargeWrite (sector : Nat) (v : DWord)
  | pageWalk (core ctx va : Nat) (acc : AccessKind)
  | walkAheadTranslation (quad ctx va : Nat) (acc : AccessKind)
  | operandFetchCopy (quad entry : Nat)
  | homeRenewal (acc : Nat)
  | homeWrite (acc : Nat)
  | memoryReply (acc : Nat)
  | remoteL2Renewal (acc : Nat)
  | l2Eviction (line : Nat)
  | ltTick (die : Nat)
  | rebase
  | rebaseSignal
  | pinRetry (acc : Nat)
  | domainViolation (acc : Nat)
  | fabricRead (dev line time : Nat) (epoch : Bool) (control : Option Nat)
  | fabricWrite (dev line time : Nat) (epoch : Bool) (control : Option Nat)
  | ownerForward (dev line time : Nat) (write epoch : Bool) (control : Option Nat)
  | ownerWriteback (dev line : Nat) (data : BitVec 512) (wts : Nat) (epoch : Bool)
  | hostAccess (req : HostReq)
  | hostSnoop (line : Nat) (own : Bool) (data : BitVec 512)
  | launchTrigger (slot : Nat) (seq : DWord)
  | launchRecordParse
  | holdBufferRelease
  | dispatchDecision (die : Nat)
  | teamResident (team : Nat)
  | groupPlaceRelease (grp : Nat)
  | teamLeave (team : Nat)
  | gridRetire (grid : Nat)
  | preemptVictimChoice (die grid : Nat)
  | preemptSave (team : Nat)
  | preemptAbandon (team : Nat)
  | teamRestore (team core : Nat)
  | batchFormerStep (ctx : Nat)
  | batchFormerIdleTimer (ctx : Nat)
  | boardPass (quad : Nat)
  | matrixOpComplete (quad entry : Nat)
  | guardResolve (core : Nat) (uncore : Bool)
  | tcopySectorWrite (cmd tile sector : Nat)
  | tstoreSectorRead (cmd tile sector : Nat)
  | bindingEnd (binding : Nat)
  | groupCancel (grp : Nat)
  | cancelledCommandStop (cmd : Nat)
  | collTimeout (inst : Nat)
  | collInstanceRelease (inst : Nat)
  | migrationGo (ctx : Nat) (v : DWord)
  | migrationRound (move : Nat)
  | migrationFreeze (move : Nat)
  | qsyncWrite (v : DWord)
  | rdcollGo (v : DWord)
  | rdcollDone
  | kvpoolWrite (die : Nat) (v : DWord)
  | frsizeWrite (ctx : Nat) (v : DWord)
  | frlostClear (ctx : Nat)
  | mclostClear
  | specdropClear
  | nopagecntClear
  | mptbaseWrite (v : DWord)
  | schedctlWrite (v : DWord)
  | csrWrite (sector num : Nat) (v : BitVec 128)
  | ownerWrite (master : Nat) (v : DWord)
  | controlRegisterWrite (master offset : Nat) (v : DWord)
  | deniedClear (master : Nat)
  | lrefuseClear (master : Nat)
  | errorCounterClear (master offset : Nat)
  | versionSelect (master offset : Nat) (v : DWord)
  | coreReset (die : Nat)
  | uncoreReset (die : Nat) (requested : Bool)
  | uncoreResetComplete (die : Nat)
  | dieLost (die : Nat)
  /-- With the units that fail their built-in self-test (R461, R464). -/
  | packagePowerOnReset (faulty : List FailUnit)
  | loadimage
  | attest
  | getpub
  | raisemin
  | imageinfo
  | attestctx
  | mailboxComplete
  | thermalThrottle (sensor temp : Nat)
  | thermalRelease (sensor temp : Nat)
  | thermalShutdown (sensor temp : Nat)
  | structureFailed (unit : FailUnit)
  | quadSubstitution (quad : Nat)
  | pchanCopyComplete (stack : Nat)
  | hostLinkUp (cxl : Bool)
  | linkTraining (port pmin pmax : Nat)
  | flitReceive (port : Nat) (flit : BitVec 2048)
  | flitReplay (port seq : Nat)
  | linkLaneFailure (port : Nat)
  | deviceDeadDeclared (dev : Nat)
  | lineReclaim (line : Nat)
  | utilisationWindow (die bytes : Nat)
  | engineCommandStart (core : Nat) (uncore : Bool)
  | tcountTick
  | l2PrefetchTranslation (die ctx va : Nat)
  | fabricRouteReprogram (port : Nat)
  deriving DecidableEq, Repr

/-- The row of the opcode table that an event is an instance of. -/
def Event.row : Event → Instr
  | .turnGrant _ _ => .turnGrant
  | .turnTimeLimit _ _ => .turnTimeLimit
  | .turnInstructionLimit _ _ => .turnInstructionLimit
  | .sleepExpiry _ => .sleepExpiry
  | .recordDelivery _ => .recordDelivery
  | .chargeWrite _ _ => .chargeWrite
  | .pageWalk _ _ _ _ => .pageWalk
  | .walkAheadTranslation _ _ _ _ => .walkAheadTranslation
  | .operandFetchCopy _ _ => .operandFetchCopy
  | .homeRenewal _ => .homeRenewal
  | .homeWrite _ => .homeWrite
  | .memoryReply _ => .memoryReply
  | .remoteL2Renewal _ => .remoteL2Renewal
  | .l2Eviction _ => .l2Eviction
  | .ltTick _ => .ltTick
  | .rebase => .rebase
  | .rebaseSignal => .rebaseSignal
  | .pinRetry _ => .pinRetry
  | .domainViolation _ => .domainViolation
  | .fabricRead _ _ _ _ _ => .fabricRead
  | .fabricWrite _ _ _ _ _ => .fabricWrite
  | .ownerForward _ _ _ _ _ _ => .ownerForward
  | .ownerWriteback _ _ _ _ _ => .ownerWriteback
  | .hostAccess _ => .hostAccess
  | .hostSnoop _ _ _ => .hostSnoop
  | .launchTrigger _ _ => .launchTrigger
  | .launchRecordParse => .launchRecordParse
  | .holdBufferRelease => .holdBufferRelease
  | .dispatchDecision _ => .dispatchDecision
  | .teamResident _ => .teamResident
  | .groupPlaceRelease _ => .groupPlaceRelease
  | .teamLeave _ => .teamLeave
  | .gridRetire _ => .gridRetire
  | .preemptVictimChoice _ _ => .preemptVictimChoice
  | .preemptSave _ => .preemptSave
  | .preemptAbandon _ => .preemptAbandon
  | .teamRestore _ _ => .teamRestore
  | .batchFormerStep _ => .batchFormerStep
  | .batchFormerIdleTimer _ => .batchFormerIdleTimer
  | .boardPass _ => .boardPass
  | .matrixOpComplete _ _ => .matrixOpComplete
  | .guardResolve _ _ => .guardResolve
  | .tcopySectorWrite _ _ _ => .tcopySectorWrite
  | .tstoreSectorRead _ _ _ => .tstoreSectorRead
  | .bindingEnd _ => .bindingEnd
  | .groupCancel _ => .groupCancel
  | .cancelledCommandStop _ => .cancelledCommandStop
  | .collTimeout _ => .collTimeout
  | .collInstanceRelease _ => .collInstanceRelease
  | .migrationGo _ _ => .migrationGo
  | .migrationRound _ => .migrationRound
  | .migrationFreeze _ => .migrationFreeze
  | .qsyncWrite _ => .qsyncWrite
  | .rdcollGo _ => .rdcollGo
  | .rdcollDone => .rdcollDone
  | .kvpoolWrite _ _ => .kvpoolWrite
  | .frsizeWrite _ _ => .frsizeWrite
  | .frlostClear _ => .frlostClear
  | .mclostClear => .mclostClear
  | .specdropClear => .specdropClear
  | .nopagecntClear => .nopagecntClear
  | .mptbaseWrite _ => .mptbaseWrite
  | .schedctlWrite _ => .schedctlWrite
  | .csrWrite _ _ _ => .csrWrite
  | .ownerWrite _ _ => .ownerWrite
  | .controlRegisterWrite _ _ _ => .controlRegisterWrite
  | .deniedClear _ => .deniedClear
  | .lrefuseClear _ => .lrefuseClear
  | .errorCounterClear _ _ => .errorCounterClear
  | .versionSelect _ _ _ => .versionSelect
  | .coreReset _ => .coreReset
  | .uncoreReset _ _ => .uncoreReset
  | .uncoreResetComplete _ => .uncoreResetComplete
  | .dieLost _ => .dieLost
  | .packagePowerOnReset _ => .packagePowerOnReset
  | .loadimage => .loadimage
  | .attest => .attest
  | .getpub => .getpub
  | .raisemin => .raisemin
  | .imageinfo => .imageinfo
  | .attestctx => .attestctx
  | .mailboxComplete => .mailboxComplete
  | .thermalThrottle _ _ => .thermalThrottle
  | .thermalRelease _ _ => .thermalRelease
  | .thermalShutdown _ _ => .thermalShutdown
  | .structureFailed _ => .structureFailed
  | .quadSubstitution _ => .quadSubstitution
  | .pchanCopyComplete _ => .pchanCopyComplete
  | .hostLinkUp _ => .hostLinkUp
  | .linkTraining _ _ _ => .linkTraining
  | .flitReceive _ _ => .flitReceive
  | .flitReplay _ _ => .flitReplay
  | .linkLaneFailure _ => .linkLaneFailure
  | .deviceDeadDeclared _ => .deviceDeadDeclared
  | .lineReclaim _ => .lineReclaim
  | .utilisationWindow _ _ => .utilisationWindow
  | .engineCommandStart _ _ => .engineCommandStart
  | .tcountTick => .tcountTick
  | .l2PrefetchTranslation _ _ _ => .l2PrefetchTranslation
  | .fabricRouteReprogram _ => .fabricRouteReprogram

end Sys2Proof
end

