-- ==== Sys2Proof/Machine/Operands.lean ====
section
/-! DEFINITION. The operand forms of every word and the encoding checks they carry (R152 to R154, R200, R226, R252,
R277, R405, R406), and the registers a word reads and writes, which the interlocks consult (R157). -/

namespace Sys2Proof.Machine

/-- One operand of a word, or one condition on its encoding. -/
inductive Opnd
  /-- A vector destination of 1, 2 or 4 words (R152, R153). -/
  | dst (f : BitVec 7) (w : Nat)
  /-- A source of 1, 2 or 4 words, vector or uniform (R152, R153). -/
  | src (f : BitVec 7) (w : Nat)
  /-- A uniform destination of 1 or 2 words (R183). -/
  | udst (f : BitVec 7) (w : Nat)
  /-- A uniform source (R226). -/
  | usrc (f : BitVec 7)
  /-- A run of vector sources from a multiple of 4 (R226). -/
  | vec (f : BitVec 7) (len : Nat)
  /-- A run of vector destinations from a multiple of 4 (R243). -/
  | vdst (f : BitVec 7) (len : Nat)
  /-- Predicate destinations (R154, R197). -/
  | pdst (f : BitVec 7) (n : Nat)
  /-- Predicate sources (R154, R197). -/
  | psrc (f : BitVec 7) (n : Nat)
  /-- An operand block of an engine command (R252). -/
  | block (f : BitVec 7) (len : Nat) (even : Bool)
  /-- Handles h to h + n − 1 (R226). -/
  | handles (h : BitVec 5) (n : Nat)
  /-- A tile number that must be even (R226). -/
  | evenTile (t : BitVec 8)
  /-- The group must be privileged (R277). -/
  | sys
  /-- The illegal-instruction fault of this reason and field when the condition holds (R405). -/
  | bad (c : Bool) (reason field : Nat)
  deriving DecidableEq, Repr

/-- The special register numbers of R198. -/
def sregListed (n : Nat) : Bool :=
  n ≤ 2 || (4 ≤ n && n ≤ 6) || (8 ≤ n && n ≤ 10) || (12 ≤ n && n ≤ 14) || (0x10 ≤ n && n ≤ 0x12) ||
  (0x18 ≤ n && n ≤ 0x1B) || (0x20 ≤ n && n ≤ 0x23) || (0x28 ≤ n && n ≤ 0x31)

/-- Width in words of a CSR: a pair below 0x40, a quad from there (R278). -/
def csrWidth (n : Nat) : Nat := if n < 0x40 then 2 else 4

/-- The B handles a fusion field names (R230). -/
def fusedHandles (f : BitVec 2) : Nat := if f.toNat = 2 then 2 else if f.toNat = 3 then 4 else 1

/-- Reserved primary opcodes (R163). -/
def opcodeReserved (op : Nat) : Bool :=
  (0x35 ≤ op && op ≤ 0x3F) || (0x6D ≤ op && op ≤ 0x6F) || op = 0x8F || op = 0x9E || op = 0x9F ||
  (0xCD ≤ op && op ≤ 0xCF) || (0xDD ≤ op && op ≤ 0xDF)

/-- The reason of R405 for a word that no instruction assigns. -/
def reservedReason (w : Word) : Nat :=
  let op := w.toNat / 2 ^ 24
  if opcodeReserved op then 1
  else if 0xE0 ≤ op then 2
  else if op < 0xD0 then 8
  else if (op = 0xD5 && w.toNat % 8 = 0) || (op = 0xD6 && w.toNat % 8 = 0) then 11
  else 9

/-- The offending field of a reserved word, for reasons 4 to 7 only (R405): none here. -/
def reservedField (_ : Word) : Nat := 0

/-- The failing reasons of R405 for one operand, with the field value they name; `n` is the declared register count. -/
def Opnd.faults (n : Nat) (privileged : Bool) : Opnd → List (Nat × Nat)
  | .dst f w =>
    let v := f.toNat
    if 96 ≤ v then [(5, v)] else (if v % w ≠ 0 then [(6, v)] else []) ++ (if n < v + w then [(4, v)] else [])
  | .src f w =>
    let v := f.toNat
    (if v % w ≠ 0 then [(6, v)] else []) ++ (if (v < 96 && n < v + w) || 128 < v + w then [(4, v)] else [])
  | .udst f w =>
    let v := f.toNat
    if v < 96 then [(5, v)] else (if v % w ≠ 0 then [(6, v)] else []) ++ (if 128 < v + w then [(4, v)] else [])
  | .usrc f => if f.toNat < 96 then [(5, f.toNat)] else []
  | .vec f len =>
    let v := f.toNat
    if 96 ≤ v then [(5, v)] else (if v % 4 ≠ 0 then [(6, v)] else []) ++ (if n < v + len then [(4, v)] else [])
  | .vdst f len =>
    let v := f.toNat
    if 96 ≤ v then [(5, v)] else (if v % 4 ≠ 0 then [(6, v)] else []) ++ (if n < v + len then [(4, v)] else [])
  | .pdst f k => if 96 < f.toNat + k then [(7, f.toNat)] else []
  | .psrc f k => if 96 < f.toNat + k then [(7, f.toNat)] else []
  | .block f len even =>
    let v := f.toNat
    (if even && v % 2 ≠ 0 then [(6, v)] else []) ++
      (if (v < 96 && n < v + len) || 128 < v + len then [(4, v)] else [])
  | .handles h k => if 32 < h.toNat + k then [(4, h.toNat)] else []
  | .evenTile t => if t.toNat % 2 ≠ 0 then [(6, t.toNat)] else []
  | .sys => if privileged then [] else [(10, 0)]
  | .bad c r v => if c then [(r, v)] else []

/-- The lowest reason of a list, first occurrence (log 17: the manual gives no order among reasons). -/
def lowestReason : List (Nat × Nat) → Option (Nat × Nat)
  | [] => none
  | x :: t =>
    match lowestReason t with
    | none => some x
    | some y => if y.1 < x.1 then some y else some x

/-- The operands of a word, by constructor. DESIGN CHOICE (log 117): the A field of an ACCWR that clears is checked and interlocked as
that of the form that reads it (R226). -/
def opnds (i : Instr) : List Opnd :=
  match i with
  | .iadd f | .isub f | .imul f | .imulhiS f | .imulhiU f | .imad f | .idivS f | .idivU f | .iremS f
  | .iremU f | .iminS f | .iminU f | .imaxS f | .imaxU f | .idot4Sb f | .idot4Ub f | .and f | .or f | .xor f
  | .andn f | .shl f | .shrU f | .shrS f | .rotl f | .bfeU f | .bfeS f | .bfi f | .sel f | .fadd f | .fsub f
  | .fmul f | .ffma f | .fmin f | .fmax f | .fdiv f | .fldexp f | .hadd2 f | .hmul2 f | .hfma2 f | .badd2 f
  | .bmul2 f | .bfma2 f | .cvtF16x2F32 f | .cvtBf16x2F32 f | .cvtE4m3x2F32 f | .cvtE5m2x2F32 f | .shflIdx f =>
    [.dst f.d 1, .src f.a 1, .src f.b 1]
  | .iabs f | .ineg f | .not f | .popc f | .clz f | .brev f | .mov f | .fabs f | .fneg f | .fsqrt f | .frcp f
  | .frsq f | .fex2 f | .flg2 f | .fsint f | .fcost f | .fexpo f | .fclass f | .cvtF32Sw f | .cvtF32Uw f
  | .cvtSwF32 f | .cvtUwF32 f | .qfp4 f | .dqfp4 f | .matchLanes f | .reduxAdd f | .reduxMinS f
  | .reduxMaxS f =>
    [.dst f.d 1, .src f.a 1]
  | .iadd64 f | .isub64 f | .dadd f | .dmul f | .dfma f =>
    [.dst f.d 2, .src f.a 2, .src f.b 2]
  | .imadwS f | .imadwU f =>
    [.dst f.d 2, .src f.a 1, .src f.b 1]
  | .cvtF64F32 f =>
    [.dst f.d 2, .src f.a 1]
  | .cvtF32F64 f =>
    [.dst f.d 1, .src f.a 2]
  | .shli f | .shriU f | .shriS f | .iaddi f =>
    [.dst f.d 1, .src f.a 1]
  | .lea f =>
    [.dst f.d 2, .src f.a 1, .bad (4 < f.i.toNat) 8 f.i.toNat]
  | .ulea f =>
    [.udst f.d 2, .src f.a 1, .bad (4 < f.i.toNat) 8 f.i.toNat]
  | .b3ext f =>
    [.dst f.d 1, .src f.a 1, .bad (4 < f.i.toNat % 8 || 31 < f.i.toNat) 8 f.i.toNat]
  | .frnd f | .cvtF32E4m3 f | .cvtF32E5m2 f =>
    [.dst f.d 1, .src f.a 1, .bad (3 < f.i.toNat) 8 f.i.toNat]
  | .cvtF32F16 f | .cvtF32Bf16 f =>
    [.dst f.d 1, .src f.a 1, .bad (1 < f.i.toNat) 8 f.i.toNat]
  | .movi f | .movhi f | .ldk f =>
    [.dst f.d 1]
  | .umov f =>
    [.udst f.d 1, .src f.a 1]
  | .umovi f =>
    [.udst f.d 1]
  | .uadd f =>
    [.udst f.d 1, .src f.a 1, .src f.b 1]
  | .icmpEq f | .icmpNe f | .icmpLtS f | .icmpLeS f | .icmpLtU f | .icmpLeU f | .fcmpEq f | .fcmpNe f
  | .fcmpLt f | .fcmpLe f | .fcmpUo f =>
    [.pdst f.d 1, .src f.a 1, .src f.b 1]
  | .pand f | .por f | .pxor f =>
    [.pdst f.d 1, .psrc f.a 1, .psrc f.b 1]
  | .pnot f | .voteAll f | .voteAny f =>
    [.pdst f.d 1, .psrc f.a 1]
  | .voteBal f =>
    [.dst f.d 1, .psrc f.a 1]
  | .gset f =>
    [.bad (f.d.toNat = 0 || 7 < f.d.toNat) 8 f.d.toNat, .bad (f.g.toNat ≠ 0) 8 f.g.toNat, .bad (3 < f.i.toNat) 8 f.i.toNat,
    .psrc (if f.i.toNat / 2 % 2 = 1 then 0 else f.a) 1]
  | .shflUp f | .shflDn f | .shflXor f =>
    [.dst f.d 1, .src f.a 1, .bad (f.i.toNat / 32 = 3) 8 f.i.toNat]
  | .p2v f =>
    [.dst f.d 1, .bad (f.i.toNat = 0 || 32 < f.i.toNat) 8 f.i.toNat, .psrc f.a (if f.i.toNat ≤ 32 then f.i.toNat else 1)]
  | .v2p f =>
    [.pdst f.d (if f.i.toNat ≤ 32 then f.i.toNat else 1), .bad (f.i.toNat = 0 || 32 < f.i.toNat) 8 f.i.toNat, .src f.a 1]
  | .lanemask f =>
    [.dst f.d 1, .bad (4 < f.i.toNat) 8 f.i.toNat]
  | .sreg f =>
    [.dst f.d 1, .bad (!sregListed f.i.toNat) 8 (f.i.toNat % 256)]
  | .nop _ | .exit _ | .yield _ | .waitch _ | .tbarSync _ | .tbarArv _ | .bkpt _ =>
    []
  | .trap _ =>
    []
  | .bra _ =>
    []
  | .call _ =>
    [.dst 95 1]
  | .brx f | .ret f | .sleep f =>
    [.src f.a 1]
  | .setpri f =>
    [.bad (7 < f.i.toNat) 8 f.i.toNat]
  | .launch f =>
    [.dst f.d 1, .src f.a 2]
  | .ldUb f | .ldSb f | .ldUh f | .ldSh f | .ldW f | .ldaW f =>
    [.dst f.t 1, .src f.a 2]
  | .ldD f | .ldaD f =>
    [.dst f.t 2, .src f.a 2]
  | .ldQ f =>
    [.dst f.t 4, .src f.a 2]
  | .stB f | .stH f | .stW f | .stlW f =>
    [.src f.t 1, .src f.a 2]
  | .stD f | .stlD f =>
    [.src f.t 2, .src f.a 2]
  | .stQ f =>
    [.src f.t 4, .src f.a 2]
  | .atomAdd f | .atomMinS f | .atomMaxS f | .atomAnd f | .atomOr f | .atomXchg f | .atomFadd f =>
    [.dst f.t 1, .src f.a 2]
  | .atomAdd64 f | .atomCas f =>
    [.dst f.t 2, .src f.a 2]
  | .ldsW f =>
    [.dst f.t 1, .src f.a 1]
  | .ldsD f =>
    [.dst f.t 2, .src f.a 1]
  | .ldsQ f =>
    [.dst f.t 4, .src f.a 1]
  | .stsW f =>
    [.src f.t 1, .src f.a 1]
  | .stsD f =>
    [.src f.t 2, .src f.a 1]
  | .stsQ f =>
    [.src f.t 4, .src f.a 1]
  | .fence f =>
    [.dst f.d 1, .bad (f.kind.toNat = 0) 8 0, .bad (4 < f.dom.toNat) 8 f.dom.toNat]
  | .mmaE2m1 f =>
    [.vec f.a 20, .handles f.h (fusedHandles f.f)]
  | .mmaE4m3 f | .mmaE5m2 f | .mmaBf16 f | .mmaF16 f | .mmaI8 f =>
    [.vec f.a 16, .handles f.h (fusedHandles f.f)]
  | .accmv f =>
    [.usrc f.a, .bad (1 < f.f.toNat) 8 f.f.toNat]
  | .accrd f =>
    [.vdst f.a (if f.f.toNat = 0 then 16 else 8), .bad (f.f.toNat = 3) 8 3]
  | .accwr f =>
    [.vec f.a (if f.f.toNat = 0 then 16 else 8), .bad (f.f.toNat = 3) 8 3]
  | .atqk f =>
    [.vec f.a 16, .evenTile f.t]
  | .atsm f =>
    [.usrc f.a, .evenTile f.t]
  | .atpv f | .atfn f =>
    [.usrc f.a]
  | .hbindSpad f =>
    [.block f.a 2 false]
  | .hbindRec f =>
    [.block f.a 3 true]
  | .hbindOff _ =>
    []
  | .hbindSeek f =>
    [.block f.a 1 false]
  | .tcopy f | .tstore f | .xbarInit f | .xbarArv f | .xbarArvExp f | .xbarArvAck f | .xbarWait f | .qdeq f
  | .qdeqTry f | .qenq f | .qenqTry f =>
    [.block f.a 2 false]
  | .collAllred f | .collAllgath f | .collRedscat f | .collHistmrg f =>
    [.block f.a 2 true]
  | .treeFork f | .treePrune f | .treeCommit f | .treeAppend f | .treeAdopt f | .treeQctx f | .treeQuery f =>
    [.block f.a 4 true]
  | .kvbindKp f | .kvbindVp f | .kvbindKt f | .kvbindVt f | .kvbindWk f | .kvbindWv f =>
    [.block f.a 3 false]
  | .sampleSubmit f =>
    [.block f.a 8 true]
  | .sampleVerify f =>
    [.block f.a 12 true]
  | .csrrd f =>
    [.sys, .dst f.d (csrWidth f.a.toNat)]
  | .csrwr f =>
    [.sys, .src f.d (csrWidth f.a.toNat)]
  | .eret _ | .halt _ =>
    [.sys]
  | .tlbinv f | .ctxsave f | .ctxload f =>
    [.sys, .src f.d 1, .src f.a 2]
  | .winrd f =>
    [.sys, .dst f.d 1, .src f.a 1]
  | .winwr f =>
    [.sys, .src f.d 1, .src f.a 1]
  | .reservedOpcode w => [.bad true (reservedReason w) (reservedField w)]
  | .turnGrant | .turnTimeLimit | .turnInstructionLimit | .sleepExpiry | .recordDelivery | .chargeWrite
  | .pageWalk | .walkAheadTranslation | .operandFetchCopy | .homeRenewal | .homeWrite | .memoryReply
  | .remoteL2Renewal | .l2Eviction | .ltTick | .rebase | .rebaseSignal | .pinRetry | .domainViolation
  | .fabricRead | .fabricWrite | .ownerForward | .ownerWriteback | .hostAccess | .hostSnoop | .launchTrigger
  | .launchRecordParse | .holdBufferRelease | .dispatchDecision | .teamResident | .groupPlaceRelease
  | .teamLeave | .gridRetire | .preemptVictimChoice | .preemptSave | .preemptAbandon | .teamRestore
  | .batchFormerStep | .batchFormerIdleTimer | .boardPass | .matrixOpComplete | .guardResolve
  | .tcopySectorWrite | .tstoreSectorRead | .bindingEnd | .groupCancel | .cancelledCommandStop | .collTimeout
  | .collInstanceRelease | .migrationGo | .migrationRound | .migrationFreeze | .qsyncWrite | .rdcollGo
  | .rdcollDone | .kvpoolWrite | .frsizeWrite | .frlostClear | .mclostClear | .specdropClear
  | .nopagecntClear | .mptbaseWrite | .schedctlWrite | .csrWrite | .ownerWrite | .controlRegisterWrite
  | .deniedClear | .lrefuseClear | .errorCounterClear | .versionSelect | .coreReset | .uncoreReset
  | .uncoreResetComplete | .dieLost | .packagePowerOnReset | .loadimage | .attest | .getpub | .raisemin
  | .imageinfo | .attestctx | .mailboxComplete | .thermalThrottle | .thermalRelease | .thermalShutdown
  | .structureFailed | .quadSubstitution | .pchanCopyComplete | .hostLinkUp | .linkTraining | .flitReceive
  | .flitReplay | .linkLaneFailure | .deviceDeadDeclared | .lineReclaim | .utilisationWindow
  | .engineCommandStart | .tcountTick | .l2PrefetchTranslation | .fabricRouteReprogram => []

/-- The encoding check of R402: the reason and field of R405 when it fails. -/
def encodingCheck (i : Instr) (n : Nat) (privileged : Bool) : Option (Nat × Nat) :=
  lowestReason ((opnds i).flatMap (Opnd.faults n privileged))

/-- Info 1 of the illegal-instruction record: the field stands only with reasons 4 to 7 (R405). -/
def reasonInfo (r : Nat × Nat) : Nat := if 4 ≤ r.1 && r.1 ≤ 7 then r.1 + 256 * r.2 else r.1

/-- Register numbers (v 0–95, s 96–127) that an operand writes. -/
def Opnd.writes : Opnd → List Nat
  | .dst f w | .udst f w | .vdst f w => (List.range w).map (f.toNat + ·)
  | _ => []

/-- Register numbers that an operand reads. -/
def Opnd.reads : Opnd → List Nat
  | .src f w | .vec f w | .block f w _ => (List.range w).map (f.toNat + ·)
  | .usrc f => [f.toNat]
  | _ => []

/-- Predicates that an operand writes. -/
def Opnd.predWrites : Opnd → List Nat
  | .pdst f n => (List.range n).map (f.toNat + ·)
  | _ => []

/-- Registers a word touches; a destination is counted as read as well, since accumulating forms read it (R157). -/
def touched (i : Instr) : List Nat := (opnds i).flatMap fun o => o.writes ++ o.reads

/-- Registers a word writes. -/
def written (i : Instr) : List Nat := (opnds i).flatMap Opnd.writes

/-- Predicates a word names. -/
def predsNamed (i : Instr) : List Nat :=
  (opnds i).flatMap fun o => match o with
    | .pdst f n | .psrc f n => (List.range n).map (f.toNat + ·)
    | _ => []

/-- Predicates a word writes. -/
def predsWritten (i : Instr) : List Nat := (opnds i).flatMap Opnd.predWrites

end Sys2Proof.Machine
end

