-- ==== Sys2Proof/Machine/State.lean ====
section
/-! DEFINITION. The state of one ORL-8840 package, as plain data: what every rule of the manual names, and the
few fields of the model's own (`agenda`, `cur`, the two counters, `hostReply`) that INVENTORY.md lists first. -/

namespace Sys2Proof.Machine

/-- Why the machine stops. -/
inductive Fault
  /-- Raised by a step of a device that has shut itself down (R468): every resident state is lost and nothing runs.
  Safe: the manual gives the shut-down device no further behaviour. -/
  | poweredOff
  deriving DecidableEq, Repr

/-- Why the model gives no next state. -/
inductive Refusal
  /-- No meaning yet for the instruction named. Safe. -/
  | notModelled (mnemonic : String)
  /-- Raised by a word row executed when the issue latch names no group that stands at it: no word can issue
  without a group (R40). Safe: no step of the machine reaches it. -/
  | noIssuingGroup
  deriving DecidableEq, Repr

/-- The issue latch of the step in progress: the issuing group's key, the issue address, the active lanes, the word
and whether the second fetch port issues it (R40, R41). -/
structure Issue where
  grp : Nat
  pc : Word
  active : Word
  word : Word
  second : Bool
  /-- Offset and word of the header of the clause that holds the word (R144). -/
  hdr : Nat
  head : Word
  /-- The event in progress, when the step is one. -/
  event : Option Event
  /-- The word could not issue and is held (R45). -/
  held : Bool
  deriving DecidableEq, Repr

/-- A soft error: one that the device corrects, or one that it cannot correct where it is used (R447, R458). -/
inductive SoftError
  /-- A corrected error on a die: its class of R460 (8 or more: one that no register counts), and the unit and the location in it
  where it stands (R461). -/
  | corrected (die cls : Nat) (unit : FailUnit) (location : Nat)
  | register (grp : Nat)
  | operandLog (grp : Nat)
  | scratchpad (team : Nat)
  | accumulator (team : Nat)
  /-- An L1 line of a core. -/
  | l1 (core line : Nat)
  /-- A leased read copy in a die's L2 (R106). -/
  | l2Copy (die line : Nat)
  /-- An entry of a core's L1 TLB, by its position. -/
  | tlb (core n : Nat)
  /-- An entry of a quad's shared TLB, or with `ahead` of its walk-ahead TLB, by its position. -/
  | quadTlb (quad : Nat) (ahead : Bool) (n : Nat)
  /-- An entry of the table cache of a die's walks, by its position. -/
  | walkTlb (die n : Nat)
  /-- A dirty L2 line or an HBM line. -/
  | line (line : Nat)
  /-- The state of a team being saved (`restore` false) or restored; the structure is one less than R458 numbers it (R447). -/
  | saved (team : Nat) (restore : Bool) (structure_ : Nat)
  deriving DecidableEq, Repr

/-- The data of one shard; `chain` is none when the chain is invalid. The ring holds its last entries, the newest first (R322,
R325). -/
structure SampleIn where
  record : Nat
  chain : Option (List (Nat × Nat))
  logits : List Word
  bias : List (Nat × Word)
  allowed : List Bool
  ring : List Nat
  draft : List Word
  deriving DecidableEq, Repr

/-- A rank of a collective, or a shard of a set (R274, R275, R333). -/
structure Rank where
  r : Nat
  n : Nat
  sub : Nat
  type : Nat
  op : Nat
  count : Nat
  /-- Its command here; none for a rank of another device. -/
  cmd : Option Nat
  /-- Fabric number of its device. -/
  dev : Nat
  dst : Nat
  src : Nat
  /-- Its contribution: a code for each element, or a count and a mass for each bin; none before it is gathered. -/
  data : Option (List Nat)
  /-- The operand block of a shard and what it has read (R323, R325). -/
  shard : Option (List Word × SampleIn)
  deriving DecidableEq, Repr

/-- Which agent moves next: a partition's port, a management core, or an event of the table. -/
inductive Move
  /-- The primary port of partition `part` of core `core` (R40). -/
  | primary (core part : Nat)
  /-- The second port, in the cycle of the primary issue before it (R41). -/
  | secondary (core part : Nat)
  /-- The privileged group of management core `sector` (R393). -/
  | manage (sector : Nat)
  /-- The fetch unit checks the header before the issue address of a group, which needs no turn (R38, R39, R147). -/
  | fetch (grp : Nat)
  /-- The FENCE of number `op` of a group completes (R99, R224). -/
  | fence (grp op : Nat)
  /-- The LAUNCH of number `op` of a group is answered (R209). -/
  | launch (grp op : Nat)
  /-- The engine of a started command goes on with it: an access that a freeze or a pin has held is tried again (R88, R113). -/
  | goOn (cmd : Nat)
  /-- A rank of another device reaches the collective of a communicator and sequence over Diron Link (R275, R333). -/
  | farRank (comm seq timeout root : Nat) (a : Rank)
  /-- Rank `r` of another device contributes to the exchange in progress of a shard set (R333). -/
  | farStep (inst r : Nat)
  /-- The engine of another device, the root of an instance, ends it with a status (R276, R439). -/
  | farStatus (inst status : Nat)
  /-- A port sends a flit with header bits 16 to 39 and a payload of 244 bytes (R369). -/
  | sendFlit (port head : Nat) (payload : BitVec 1952)
  /-- An event row. -/
  | event (e : Event)
  /-- A soft error in the device's memories (R458). -/
  | error (e : SoftError)
  deriving DecidableEq, Repr

/-- A bound guard slot (R155). -/
structure Guard where
  pred : Nat
  inverted : Bool
  deriving DecidableEq, Repr

/-- Why a group is not ready (R45). -/
inductive Block
  | none
  /-- SLEEP, until this cycle of its die (R207). -/
  | sleep (untilCycle : Nat)
  /-- WAITCH, until these grids have retired (R53). -/
  | waitch (grids : List Nat)
  /-- TBAR.SYNC, until this phase completes (R211). -/
  | tbar (phase : Nat)
  /-- TBAR.ARV of a group that has arrived in this phase: it arrives in the next when the phase completes (R211). -/
  | tbarArv (phase : Nat)
  /-- XBAR.WAIT on the barrier at this offset while its phase is `v` (R269). -/
  | xbar (off v : Nat)
  /-- Blocking QDEQ, as the engine command of this number (R273). -/
  | qdeq (cmd : Nat)
  deriving DecidableEq, Repr

/-- The node tag of a group (R308, R317). -/
structure Tag where
  tree : Nat
  trunk : Bool
  slot : Nat
  gen : Nat
  deriving DecidableEq, Repr

/-- The query context of a group (R245, R308). -/
structure QueryCtx where
  tree : Nat
  node : Nat
  base : Nat
  rows : Nat
  deriving DecidableEq, Repr

/-- The reuse latch: block of quarter q under q, valid while bit q of `valid` is set (R233). -/
structure Latch where
  held : Bool
  aField : Nat
  e2m1 : Bool
  valid : Nat
  blocks : Tab (List Word)
  deriving DecidableEq, Repr

/-- A suspended group's record, whether it has been delivered, and the code that ERET consults (R394, R395). -/
structure Suspension where
  code : Nat
  mask : Word
  pc : Word
  delivered : Bool
  record : Nat
  deriving DecidableEq, Repr

/-- A c = 0 instruction whose lookahead still runs: after `left` more issues the group waits for it (R158). -/
structure Hold where
  op : Nat
  left : Nat
  deriving DecidableEq, Repr

/-- Lanes whose PC is the word after a header, reached in sequence or at entry, that the fetch unit has not yet been able to check:
the header's offset (R38, R39, R147). -/
structure Unseen where
  hdr : Nat
  lanes : Word
  deriving DecidableEq, Repr

/-- A FENCE that has issued and not completed: its lanes and fields, and the lines that a later access of the group, which it
orders only with respect to a narrower instance, has reached meanwhile (R99, R222, R224). -/
structure Fence where
  lanes : Word
  d : Nat
  kind : Nat
  dom : Nat
  widen : Bool
  early : List Nat
  deriving DecidableEq, Repr

/-- A LAUNCH that waits for the group's earlier stores and atomics: its leader, the record's address and d (R209). -/
structure Launching where
  lane : Nat
  va : Nat
  d : Nat
  word : Word
  pc : Word
  deriving DecidableEq, Repr

/-- One resident group (R31, R38). `vregs` lists rows of 32 lane values; a register not listed is undefined
(R38) or, in a privileged group, 0. A predicate is the mask of the lanes in which it is 1. -/
structure Group where
  privileged : Bool
  team : Nat
  gid : Nat
  regs : Nat
  stamp : Nat
  pcs : List Word
  vregs : Tab (List Word)
  uregs : Tab Word
  preds : Tab Word
  guards : Tab Guard
  c1 : Nat
  c2 : Nat
  c3 : Nat
  pri : Nat
  wait : Nat
  ready : Bool
  /-- The header at which lanes last arrived by a branch, call or return, or the entry header (R149). -/
  arrived : Nat
  tcounth : Option Word
  latch : Latch
  qctx : Option QueryCtx
  tag : Option Tag
  block : Block
  suspension : Option Suspension
  /-- Blocks whose fetch waits for a handler (R418). -/
  fetchWait : List Nat
  /-- Headers that wait to be checked (R39). -/
  unseen : List Unseen
  /-- FENCEs in progress, by number (R224). -/
  fences : Tab Fence
  /-- LAUNCHes in progress, by number (R209). -/
  launches : Tab Launching
  failed : Nat
  failBits : Nat
  holds : List Hold
  /-- Registers that an ACCRD has yet to write, with the operation's number (R157, R240). -/
  busy : Tab (List Nat)
  /-- Predicates whose write is still in flight, until the cycle given (R255). -/
  predBusy : Tab Nat
  exited : Bool
  cancelled : Bool
  /-- Its node tag has been pruned: it is to be cancelled (R317, R319). -/
  doomed : Bool
  deriving DecidableEq, Repr

/-- A turn of a partition: place, primary issues and the cycle at which it started (R44). -/
structure Turn where
  place : Nat
  issues : Nat
  start : Nat
  deriving DecidableEq, Repr

/-- The second port's chance in the cycle of a primary issue: group, second-lowest PC and its lanes as the cycle
started, and the primary word (R41). -/
structure Second where
  grp : Nat
  pc : Word
  lanes : Word
  word : Word
  deriving DecidableEq, Repr

/-- An operand-log entry; each listed lane has its words 0 to 6 (R415). `code` is the fault that holds it,
0 for an entry that waits behind another (R414). -/
structure LogEntry where
  grp : Nat
  op : Nat
  word : Word
  pc : Word
  code : Nat
  seq : Nat
  lanes : Tab (List Word)
  /-- (lane, register) pairs that a later interlocked instruction has written (R160). -/
  dead : List (Nat × Nat)
  /-- ERET has begun its replay, or every entry before it is being replayed (R415, R417). -/
  replaying : Bool
  deriving DecidableEq, Repr

/-- A partition: its turn, its second port's latch and its operand log (R41, R44, R415). -/
structure Part where
  turn : Option Turn
  second : Option Second
  log : Tab LogEntry
  /-- The cycle of its die at which its latest turn ended (R47). -/
  freed : Nat
  deriving DecidableEq, Repr

/-- A cached translation (R84). -/
structure TlbEntry where
  asid : Nat
  va : Nat
  size : Nat
  pa : Nat
  rd : Bool
  wr : Bool
  ex : Bool
  dup : Bool
  /-- A and D of the entry are known set (R64, R66). -/
  accessed : Bool
  dirty : Bool
  deriving DecidableEq, Repr

/-- A leased copy of a line in an L1 or in the other die's L2 (R101, R106). -/
structure CopyLine where
  wts : Nat
  rts : Nat
  data : Nat
  deriving DecidableEq, Repr

/-- The pin of a control-class line: domain code and the instance it names (R113). -/
structure Pin where
  dom : Nat
  inst : Nat
  ctx : Nat
  deriving DecidableEq, Repr

/-- A line held by its home L2 (R101, R113, R430). -/
structure HomeLine where
  wts : Nat
  rts : Nat
  pin : Option Pin
  dirty : Bool
  deriving DecidableEq, Repr

/-- What the accesses of one agent to one 16-byte block of data class have been: who (a team, or none for an agent without one,
and the agent's number), where it is (the numbers of `Agent.die`), whether from outside the domain, whether stores, the bytes as a
mask, and the widest domain of a full fence performed since (R93, R112). -/
structure RaceUse where
  team : Option Nat
  gid : Nat
  die : Nat
  dom : Nat
  outside : Bool
  wrote : Bool
  mask : Nat
  fenced : Option Nat
  /-- Widest domain of a release since (R337). -/
  released : Option Nat
  deriving DecidableEq, Repr

/-- A 16-byte block: every value that it has held since reset, once it has been stored to, and the accesses under a domain that does
not hold every agent (R112). -/
structure RaceBlock where
  images : List Nat
  uses : List RaceUse
  deriving DecidableEq, Repr

/-- A RESIDENT region of a core (R349). -/
structure Region where
  key : Nat
  size : Nat
  stamp : Nat
  /-- RESACL of its key has been written to 0 (R349). -/
  cleared : Bool
  /-- Stamps of the teams of the core that could use it at that write, for which it stays (R349, R362). -/
  users : List Nat
  bytes : Tab Byte
  deriving DecidableEq, Repr

/-- What a tile handle is bound to (R79, R259, R311). -/
inductive Handle
  /-- Unbound, with the code it keeps (R409). -/
  | unbound (code : Nat)
  /-- A canonical tile in scratchpad (R259). -/
  | spad (off type cols swz : Nat)
  /-- A shape record: its 512 bits, address, element type, walk order, narrowed extent 1 and cursor (R259, R260). -/
  | record (shape addr type order e1 cursor : Nat)
  /-- A KV read binding: its number, mode m, element type, cursor and, for a 16-bit V pair, which half (R311, R313). -/
  | kvRead (binding mode type cursor half : Nat)
  /-- A KV write binding: its number, mode and element type, and the cursor of its walk (R314). -/
  | kvWrite (binding mode type cursor : Nat)
  deriving DecidableEq, Repr

/-- A KV binding's snapshot: keys as (position, node slot or 64 for the trunk, set), the bitmap and the sets pinned
(R312, R316). -/
structure Binding where
  tree : Nat
  stream : Nat
  first : Nat
  count : Nat
  dim : Nat
  tokens : Nat
  type : Nat
  rotary : Nat
  ancestry : Nat
  keys : List (Nat × Nat × Nat)
  /-- Positions of a write binding that lie in sets which the place does not own: they are not written (R292). -/
  shut : List Nat
  pins : List Nat
  team : Nat
  grid : Nat
  deriving DecidableEq, Repr

/-- The latest of the things that come in a fixed order within a cycle: its cycle, and its rank in the order of that cycle. -/
structure Mark where
  cycle : Nat
  rank : Nat
  deriving DecidableEq, Repr

/-- A resident or placed team (R32, R36, R211, R263). -/
structure Team where
  grid : Nat
  tix : Nat
  core : Nat
  place : Nat
  occ : Nat
  /-- Keys of the team's groups that still hold a place, with their GROUPID. -/
  groups : List (Nat × Nat)
  /-- Places reserved at placement, as group keys by GROUPID; used by TEAM_RESIDENT. -/
  resident : Bool
  scratchSize : Nat
  stamp : Nat
  scratch : Tab Byte
  winBase : Nat
  winW : Nat
  acc : Tab Word
  handles : Tab Handle
  phase : Nat
  expected : Nat
  arrived : List Nat
  children : List Nat
  slot : Option Nat
  reqId : Nat
  reqRec : Nat
  /-- The tick at which pre-emption was chosen (R352). -/
  preempt : Option Nat
  /-- Barriers that have recorded a sender since XBAR.INIT (R263, R269). -/
  senders : List Nat
  /-- The latest change of each barrier, whose changes of one cycle come in order of core, partition and sector (R268). -/
  changes : Tab Mark
  /-- A charge of its slot, or the device, has ended it (R397, R440). -/
  ended : Bool
  deriving DecidableEq, Repr

/-- A grid accepted into a launch queue (R343, R347). -/
structure Grid where
  ctx : Nat
  record : Nat
  tier : Nat
  parent : Option Nat
  parentTeam : Nat
  depth : Nat
  queue : Nat
  accepted : Nat
  ready : Option Nat
  next0 : Nat
  next1 : Nat
  live : Nat
  params : Option (List Word)
  code : Nat
  /-- Manifest of a step grid: teams per slot and, by slot, (extent, request id, record address) (R57, R58). -/
  perSlot : Nat
  slots : Tab (Nat × Nat × Nat)
  step : Bool
  /-- Tick since which the entry has gone unplaced on each die (R353). -/
  unplaced0 : Nat
  unplaced1 : Nat
  /-- Victim core of its latest pre-emption (R353). -/
  preempting : Option Nat
  /-- 1: its share on a lost die had teams left; 2: its completion has been written for that (R431). -/
  cut : Nat
  deriving DecidableEq, Repr

/-- Where a lane access stands. -/
inductive AccStatus
  | waiting
  /-- Sent on to the home with this requester time (R106). -/
  | forwarded (time : Nat)
  /-- Held at its translation by the freeze of a move of its page (R88). -/
  | held
  /-- Refused by a pin since this cycle (R113, R115). -/
  | refused (cycle : Nat)
  /-- Answered with the line, its write time and lease end, the lease end that the core's own copy receives, and an atomic's old
  value with the line's data (R102, R104, R106). -/
  | replied (line wts rts lease old : Nat)
  deriving DecidableEq, Repr

/-- One lane's access to global memory (R94, R215, R221). -/
structure Access where
  op : Nat
  grp : Nat
  lane : Nat
  code : Nat
  kind : AccessKind
  va : Nat
  pa : Nat
  size : Nat
  data : Nat
  cmp : Nat
  rlx : Bool
  acq : Bool
  rel : Bool
  reg : Nat
  dom : Nat
  control : Bool
  /-- Registers of `reg` onward that a later interlocked instruction has written (R160). -/
  dead : List Nat
  /-- The core's logical time when the access was sent, or when the last FENCE that orders it completed, which a relaxed store
  carries (R99, R378). -/
  lt : Nat
  /-- Level of the leaf through which it was translated (R416). -/
  level : Nat
  status : AccStatus
  deriving DecidableEq, Repr

/-- A memory instruction that has issued and not completed: its group, counter and the lanes still to act (R216). -/
structure MemOp where
  grp : Nat
  c : Nat
  left : Word
  word : Word
  pc : Word
  deriving DecidableEq, Repr

/-- An engine command in a queue or in flight (R252 to R258, R421). -/
structure Cmd where
  /-- Its own number, by which it is known in the queues. -/
  num : Nat
  core : Nat
  grp : Nat
  team : Nat
  ctx : Nat
  op : Nat
  m : Nat
  pc : Word
  h : Nat
  c : Nat
  block : List Word
  item : List Byte
  tag : Option Tag
  qctx : Option QueryCtx
  handle : Handle
  /-- `none`: the guard is resolved and admits; `some (p, v)`: predicate p in flight, v whether it will admit (R255). -/
  guard : Option (Nat × Bool)
  /-- A later instruction has written s(h) (R160). -/
  dead : Bool
  done : List Nat
  skipped : List Nat
  started : Bool
  /-- Receiving teams of a TCOPY, fixed when it starts (R263). -/
  recv : List Nat
  /-- The pages of the tiles of a copy that have been translated and are not all moved, by tile (R280, R422). -/
  maps : Tab (Tab Nat)
  /-- What the bytes that a COLL has written held before, the latest first: they are restored when it fails (R276). -/
  prior : List (Nat × Byte)
  /-- Its node tag has been pruned, or its team has ended by a charge: it is to be stopped (R317, R319, R397). -/
  doomed : Bool
  deriving DecidableEq, Repr

/-- A saved team with its groups (R354). -/
structure Saved where
  team : Team
  groups : List (Nat × Group)
  logs : List LogEntry
  /-- Its memory instructions that wait in the log, and its withdrawn QDEQs and XBAR.WAITs. -/
  ops : List (Nat × MemOp)
  cmds : List (Nat × Cmd)
  units : Nat
  window : List Nat
  die : Nat
  deriving DecidableEq, Repr

/-- A core (R13, R36, R101, R254). -/
structure Core where
  lt : Nat
  l1 : Tab CopyLine
  tlb : List TlbEntry
  regions : List Region
  tileQ : List Nat
  uncoreQ : List Nat
  deriving DecidableEq, Repr

/-- An entry of a counting board (R235, R236): the operation, its captured operands and its tile identity. -/
structure Entry where
  core : Nat
  grp : Nat
  team : Nat
  pri : Nat
  posted : Nat
  instr : Nat
  fused : Bool
  op : Nat
  quarter : Nat
  reads : List Nat
  writes : List Nat
  a : List Word
  /-- B tiles by half: bytes of the canonical tile, or none while the fetcher has not copied it (R261). -/
  b : List (Option (List Byte))
  src : List Handle
  /-- What identifies the B tile (R236). -/
  bid : List Nat
  cols : Nat
  type : Nat
  nbv : Nat
  z : Bool
  conv : Nat
  lanes : Word
  sigma : Word
  rows : Nat
  masked : List Nat
  reg : Nat
  granted : Bool
  ctx : Nat
  pc : Word
  /-- The node tag of its group at posting (R257, R317). -/
  tag : Option Tag
  /-- The operand fetcher's copy has faulted and waits for a replay (R422). -/
  held : Bool
  deriving DecidableEq, Repr

/-- A quad: shared TLB, walk-ahead TLB, counting board, occupancy counts and service state (R84, R235, R263, R461). -/
structure Quad where
  tlb : List TlbEntry
  ahead : List TlbEntry
  board : Tab Entry
  occ : Tab Nat
  failed : Bool
  spare : Option Nat
  /-- The latest posting, the postings of one cycle coming in order of partition and core (R236). -/
  posted : Mark
  deriving DecidableEq, Repr

/-- A page move in progress (R87, R88). -/
structure Move2 where
  die : Nat
  ctx : Nat
  va : Nat
  size : Nat
  old : Nat
  new : Nat
  round : Nat
  marked : List Nat
  frozen : Bool
  deriving DecidableEq, Repr

/-- A line that is lost or uncorrectable: info 1 of its record, and the bytes that one store, known by a number, has rewritten
(R430, R458, R459). -/
structure BadLine where
  info : Nat
  store : Nat
  mask : Nat
  deriving DecidableEq, Repr

/-- An engine's access that a freeze of a page has held: a number that rises in the order in which accesses are held, the number of its
agent, and the address space and the page of the freeze (R88). -/
structure Stall where
  stamp : Nat
  agent : Nat
  asid : Nat
  base : Nat
  size : Nat
  deriving DecidableEq, Repr

/-- A compute die (R22, R107, R108, R289, R298, R348, R363, R430, R431). -/
structure Die where
  tcount : DWord
  ltTicks : Nat
  /-- Logical time of the cores that the table of cores does not list (R101, R108). -/
  ltBase : Nat
  mft : Nat
  mirror : Nat
  copies : Tab CopyLine
  /-- The table cache of the memory-management unit's walks: ASID, level, the address bits from the level's index up, and the
  address of the next table (R84, R280). -/
  walks : List (Nat × Nat × Nat × Nat)
  band : Nat
  decisions : Nat
  /-- One more than the tick of the latest decision (R348). -/
  decided : Nat
  ptr : Nat
  last : Nat
  placePtr : Nat
  lost : Bool
  resetting : Bool
  failReset : Bool
  poolN : Nat
  poolF0 : Nat
  pfxSeq : Nat
  /-- Cycle in which the last command reached its Abacus, and that command's core (R310). -/
  abacus : Nat × Nat
  /-- Utilisation windows of 1,024 ticks that have ended and been taken into account (R363). -/
  windows : Nat
  deriving DecidableEq, Repr

/-- A record on its way to a management core (R393). -/
structure Delivery where
  record : Nat
  /-- Its source is an I/O die unit or a management core's own group, so it names no group (R390, R398). -/
  unit : Bool
  /-- The stamp of the group that it names: another group may have taken its place since (R398). -/
  stamp : Option Nat
  deriving DecidableEq, Repr

/-- A sector management core (R393, R398). -/
structure Manage where
  winsel : Nat
  ctxsel : Nat
  queue : List Delivery
  /-- Records that wait at their source for room (R394). -/
  waiting : List Delivery
  halted : Bool
  /-- The privileged group has just executed ERET or HALT (R393). -/
  open_ : Bool
  handling : Option Delivery
  /-- The record during whose handling a handler fault has occurred (R398). -/
  again : Option Delivery
  inFault : Bool
  deriving DecidableEq, Repr

/-- A resident context slot (R69, R278, R391) and its batch former's presence. -/
structure Context where
  ptbase : DWord
  asid : Nat
  codebase : DWord
  nbv : Nat
  migva : DWord
  migframe : DWord
  migstatus : Nat
  migrounds : Nat
  rgnlo : Tab DWord
  rgnhi : Tab DWord
  frbase : DWord
  frsize : Nat
  frhead : Nat
  frtail : Nat
  frlost : Nat
  children : Nat
  /-- Tick and rank of the last record made for its ring, by which the records of one tick keep their order (R392). -/
  recTick : Nat
  recRank : Nat
  deriving DecidableEq, Repr

/-- A batch former (R356 to R361): descriptor, ACTIVE slots as (record address, prefill cursor, half) with the cursor at
`decoding` once prefill has ended, the tick each QUEUED record was first found, the tick before which a requeued one is not
admitted, the step number, the running grid, a pending descriptor and the idle timer. `halves` holds the halves of requests
that wait again (R335) and `emitted` the last token that the sampler has handed over in this step (R325), both by record
address. -/
structure Former where
  desc : Nat
  tier : Nat
  queue : Nat
  slots : Tab (Nat × Nat × Nat)
  found : Tab Nat
  requeued : Tab Nat
  halves : Tab Nat
  step : Nat
  grid : Option Nat
  pending : Option (Option Nat)
  idleAt : Option Nat
  emitted : Tab Nat
  deriving DecidableEq, Repr

/-- An item queue (R271 to R273). -/
structure ItemQueue where
  /-- QSYNC has named the queue and its descriptor has not been read since (R271). -/
  sync : Bool
  en : Bool
  asid : Nat
  ctx : Nat
  base : Nat
  log : Nat
  dom : Nat
  enq : Nat
  deq : Nat
  waitEnq : List Nat
  waitDeq : List Nat
  deriving DecidableEq, Repr

/-- A collective instance of one (communicator, sequence), or a shard set of SAMPLEs (R275, R276, R333, R439). -/
structure Coll where
  comm : Nat
  seq : Nat
  shard : Bool
  /-- Fabric number of the device of rank 0, whose engine serves the instance (R274, R275). -/
  root : Nat
  first : Nat
  timeout : Nat
  ranks : List Rank
  /-- Status it has ended with, at this tick (R276, R439). -/
  ended : Option (Nat × Nat)
  /-- Every contribution is there and the results are being written (R275). -/
  served : Bool
  /-- Of a shard set, the exchange in progress and the ranks of other devices that have contributed to it (R333). -/
  exchange : Nat
  came : List Nat
  deriving DecidableEq, Repr

/-- A Diron Link port (R369, R373, R425). -/
structure Port where
  up : Bool
  version : Nat
  lanes : Nat
  tx : Nat
  rx : Nat
  /-- The flits that the link has delivered since its training, the oldest first (R369). -/
  delivered : List (BitVec 2048)
  /-- The flits sent last, at most 256, by sequence number, the oldest first (R369). -/
  buffer : List (Nat × BitVec 2048)
  /-- What the last send or replay has put on the link, in order (R369). -/
  out : List (BitVec 2048)
  replays : Nat
  dead : Bool
  routeDead : Bool
  /-- The receiver has asked for a replay from `rx` (R369). -/
  asked : Bool
  /-- The flit that the partner last asked for again, and how often in a row (R369, R425). -/
  retry : Option (Nat × Nat)
  deriving DecidableEq, Repr

/-- Device CSRs (R278, R285, R338, R339, R394, R419, R436, R453). -/
structure DeviceCsrs where
  mptbase : DWord
  mcentry : Word
  mcbase : DWord
  fabid : DWord
  mclost : Nat
  specdrop0 : Nat
  specdrop1 : Nat
  nopage0 : Nat
  nopage1 : Nat
  tlim1 : Nat
  tlim2 : Nat
  tlim3 : Nat
  pdelay : Nat
  en : Bool
  cxl : Bool
  ressel : Nat
  resacl : Tab DWord
  savebase : DWord
  savesize : Nat
  treebase0 : DWord
  treebase1 : DWord
  kvpool0 : DWord
  kvpool1 : DWord
  pfxtab0 : DWord
  pfxtab1 : DWord
  smptmo : Nat
  qtbase : DWord
  rdframe : DWord
  rdstatus : Nat
  /-- The block that the running collapse rewrites (R453). -/
  rdblock : Nat
  deriving DecidableEq, Repr

/-- Control registers and platform state (R371 to R373, R444, R460 to R468). -/
structure Control where
  owner : Nat
  epoch : Nat
  /-- The last write of OWNER: one more than its tick, and its master (R372). -/
  ownTick : Nat
  ownMaster : Nat
  denied : Nat
  hifver : Nat
  dlver : Nat
  fwver : Nat
  lrefuse : DWord
  resetFailed : Bool
  fwstat : Nat
  /-- Bits of RESETCTL whose resets have not begun (R463). -/
  resetPending : Nat
  runningImage : List Byte
  /-- The valid image in non-volatile storage; none while one is being written or after a cut write (R465). -/
  storedImage : Option (List Byte)
  /-- The verified image that LOADIMAGE is writing (R465, R467). -/
  newImage : Option (List Byte)
  minVersion : Nat
  attidx : Nat
  mbcmd : DWord
  mbaddr : DWord
  mblen : Nat
  mbbusy : Bool
  mbtag : Nat
  mbresult : Nat
  /-- Output of the command in progress: host physical address, bytes to write there, and the result (R467). -/
  mbout : Option (Nat × List Byte × Nat)
  cecnt0 : Tab Nat
  cecnt1 : Tab Nat
  uecnt0 : Nat
  uecnt1 : Nat
  spareQuads : Nat
  sparePchan : Nat
  copying : List Nat
  bondFailed : Bool
  /-- Units that fail their built-in self-test at package power-on reset (R461, R464). -/
  faulty : List FailUnit
  /-- The corrected errors of the last 2^30 ticks: unit, location and tick, the newest first (R461). -/
  corrections : List (FailUnit × Nat × Nat)
  /-- Units with 64 corrected errors at one location within 2^30 ticks, which firmware declares failed (R461). -/
  failing : List FailUnit
  temp0 : Nat
  temp1 : Nat
  tempIo : Nat
  /-- Sensors (die 0, die 1, I/O die) that have reached 95 °C and not fallen below 92 °C (R468). -/
  withheld : List Nat
  deriving DecidableEq, Repr

/-- One ORL-8840 package and the order of moves to come. -/
structure State where
  powered : Bool
  agenda : List Move
  cur : Issue
  freeCtr : Nat
  idCtr : Nat
  /-- Value last returned to the host (R366). -/
  hostReply : Nat
  mem : List Host.Cell
  lineMeta : Tab (BitVec 16)
  home : Tab HomeLine
  /-- Lines lost or uncorrectable (R430, R458, R459). -/
  badLines : Tab BadLine
  /-- The values that blocks have held, and the accesses that may race on them, by number (R112). -/
  races : Tab RaceBlock
  /-- A logical time that no write passes of a line of another device that has left this device, or that another device performed
  (R118). -/
  awayFloor : Nat
  /-- The cycle since which a pin refuses the access of an engine, by the number of its agent (R113, R115). -/
  refusals : Tab Nat
  /-- The engine accesses that freezes hold, in the order in which they were held (R88). -/
  stalls : List Stall
  /-- Charges whose request record lies in a frozen or refused page: context, record and code, the oldest first (R88, R397). -/
  heldCharges : List (Nat × Nat × Nat)
  tcoff : Word
  epoch : Bool
  /-- Devices of which nothing has been heard under the present rebase epoch (R108). -/
  behind : List Nat
  die0 : Die
  die1 : Die
  cores : Tab Core
  parts : Tab Part
  quads : Tab Quad
  groups : Tab Group
  teams : Tab Team
  saved : Tab Saved
  grids : Tab Grid
  manage : Tab Manage
  contexts : Tab Context
  formers : Tab Former
  csr : DeviceCsrs
  ctl : Control
  window : Tab Byte
  lastTrigger : Tab DWord
  copies : List (Nat × Nat)
  hold : List (Nat × Nat)
  queues : Tab (List Nat)
  itemQueues : Tab ItemQueue
  colls : Tab Coll
  /-- The SAMPLEs that have reached a sampler and not ended, in order of arrival (R325). -/
  sampling : List Nat
  moves : Tab Move2
  ops : Tab MemOp
  accesses : Tab Access
  cmds : Tab Cmd
  bindings : Tab Binding
  ports : Tab Port
  deadDevices : List Nat
  deriving DecidableEq, Repr

/-- A line of the reset state: nothing held. -/
def Core.reset : Core := ⟨0, [], [], [], [], []⟩

/-- A partition with no turn and a free log (R44, R415). -/
def Part.reset : Part := ⟨none, none, [], 0⟩

/-- A quad in service with an empty board (R235, R263). -/
def Quad.reset : Quad := ⟨[], [], [], [], false, none, ⟨0, 0⟩⟩

/-- A compute die at package power-on reset (R22, R109, R348, R363). -/
def Die.reset : Die := ⟨0, 0, 0, 0, 0, [], [], 0, 0, 0, 0, 3, 0, false, false, false, 0, 0, 0, (0, 0), 0⟩

/-- A management core: halted, so the first record can be delivered at once (R393). -/
def Manage.reset : Manage := ⟨0, 0, [], [], true, true, none, none, false⟩

/-- A context slot that holds no resident context: ASID 0 (R68); NBV 0b10 (R141). -/
def Context.reset : Context := ⟨0, 0, 0, 2, 0, 0, 0, 0, [], [], 0, 0, 0, 0, 0, 0, 0, 0⟩

/-- An item queue before any QSYNC (R271). -/
def ItemQueue.reset : ItemQueue := ⟨false, false, 0, 0, 0, 0, 0, 0, 0, [], []⟩

/-- A released latch (R38, R233). -/
def Latch.reset : Latch := ⟨false, 0, false, 0, []⟩

/-- A port after training at the version both sides support (R373, R464). -/
def Port.reset : Port := ⟨true, 0x0200, 4, 0, 0, [], [], [], 0, false, false, false, none⟩

/-- The privileged group of a management core: single lane, no team, lane 0 alone (R16, R393). -/
def Group.privilegedReset : Group :=
  { privileged := true, team := 0, gid := 0, regs := 96, stamp := 0,
    pcs := [0], vregs := [], uregs := [], preds := [], guards := [], c1 := 0, c2 := 0, c3 := 0,
    pri := 0, wait := 0, ready := false, arrived := 0, tcounth := none, latch := Latch.reset,
    qctx := none, tag := none, block := .none, suspension := none, fetchWait := [],
    unseen := [], fences := [], launches := [], failed := 0, failBits := 0,
    holds := [], busy := [], predBusy := [], exited := false, cancelled := false, doomed := false }

/-- Device CSRs after package power-on reset (R333, R338, R339, R370; the rest log 7). -/
def DeviceCsrs.reset : DeviceCsrs :=
  { mptbase := 0, mcentry := 0, mcbase := 0, fabid := 0, mclost := 0, specdrop0 := 0, specdrop1 := 0,
    nopage0 := 0, nopage1 := 0, tlim1 := 5000000, tlim2 := 20000000, tlim3 := 50000000, pdelay := 20000,
    en := false, cxl := false, ressel := 0, resacl := [], savebase := 0, savesize := 0, treebase0 := 0,
    treebase1 := 0, kvpool0 := 0, kvpool1 := 0, pfxtab0 := 0, pfxtab1 := 0, smptmo := 200000, qtbase := 0,
    rdframe := 0, rdstatus := 0, rdblock := 0 }

/-- Control registers after step 6 of package power-on reset: FWSTAT RUNNING (R372, R373, R464; the rest log 7). -/
def Control.reset : Control :=
  { owner := 0, epoch := 0, ownTick := 0, ownMaster := 0, denied := 0, hifver := 0x0201, dlver := 0x0200, fwver := 0x0103, lrefuse := 0,
    resetFailed := false, fwstat := 3, resetPending := 0, runningImage := [], storedImage := some [], newImage := none,
    minVersion := 0,
    attidx := 0, mbcmd := 0, mbaddr := 0, mblen := 0, mbbusy := false, mbtag := 0, mbresult := 0, mbout := none,
    cecnt0 := [], cecnt1 := [], uecnt0 := 0, uecnt1 := 0, spareQuads := 0, sparePchan := 0, copying := [],
    bondFailed := false, faulty := [], corrections := [], failing := [], temp0 := 0, temp1 := 0, tempIo := 0, withheld := [] }

/-- The key of the privileged group of a sector; other keys are WINSEL values (R278), below 2^17. -/
def privKey (sector : Nat) : Nat := 0x20000 + sector

/-- The device right after package power-on reset has run its six steps (R464). -/
def State.reset : State :=
  { powered := true, agenda := [], cur := ⟨0, 0, 0, 0, false, 0, 0, none, false⟩, freeCtr := 0, idCtr := 0, hostReply := 0,
    mem := [], lineMeta := [], home := [], badLines := [], races := [], awayFloor := 0, refusals := [], stalls := [],
    heldCharges := [], tcoff := 0, epoch := false, behind := [],
    die0 := Die.reset, die1 := Die.reset, cores := [], parts := [], quads := [],
    groups := (List.range 16).map fun n => (privKey n, Group.privilegedReset),
    teams := [], saved := [], grids := [], manage := [], contexts := [], formers := [],
    csr := DeviceCsrs.reset, ctl := Control.reset, window := [], lastTrigger := [], copies := [], hold := [],
    queues := [], itemQueues := [], colls := [], sampling := [], moves := [], ops := [], accesses := [], cmds := [],
    bindings := [], ports := [], deadDevices := [] }

end Sys2Proof.Machine
end

