-- ==== Sys2Proof/Machine/Access.lean ====
section
/-! DEFINITION. Readers and writers of the parts of State: physical memory, the numbering of units, clocks, groups and
their registers. Everything else reaches State through these. -/

namespace Sys2Proof.Machine

/-! ### Physical memory -/

/-- Byte at a physical address; an unlisted byte is 0 (R464, log 7). -/
def memRead (m : List Host.Cell) (a : Nat) : Byte := (Tab.find m a).getD 0

/-- Write one byte; the list keeps only nonzero bytes, and addresses of 52 bits (R67). -/
def memWrite (m : List Host.Cell) (a : Nat) (v : Byte) : List Host.Cell :=
  if a < 2 ^ 52 then (if v = 0 then Tab.del m a else Tab.put m a v) else m

/-- Write `n` bytes little-endian (R3). -/
def memWriteLE (m : List Host.Cell) (a : Nat) : Nat → Nat → List Host.Cell
  | 0, _ => m
  | n + 1, v => memWriteLE (memWrite m a (BitVec.ofNat 8 v)) (a + 1) n (v / 256)

/-- The canonical form: addresses rise, lie below 2^52, and no listed byte is 0. -/
def memWf (m : List Host.Cell) : Bool :=
  Tab.sorted m && m.all fun c => decide (c.1 < 2 ^ 52) && decide (c.2 ≠ 0)

/-- A fabric address that names this device's own fabric number is local (R67). -/
def State.ownFabric (s : State) : Nat := s.csr.fabid.toNat % 256

/-- The address under which a physical address is held: own fabric addresses name local HBM (R67). -/
def State.norm (s : State) (pa : Nat) : Nat :=
  if pa / 2 ^ 50 = 1 && bits pa 40 8 = s.ownFabric then pa % 2 ^ 40 else pa

/-- The must-be-zero bits of a physical address are zero (R67). -/
def physOk (pa : Nat) : Bool :=
  if pa / 2 ^ 50 = 0 then decide (bits pa 40 10 = 0) else if pa / 2 ^ 50 = 1 then decide (bits pa 48 2 = 0) else true

/-- Local HBM of this device. -/
def State.isLocal (s : State) (pa : Nat) : Bool := decide (s.norm pa < 2 ^ 40)

/-- HBM of another device of the fabric: its number. -/
def State.remoteDev (s : State) (pa : Nat) : Option Nat :=
  let p := s.norm pa
  if p / 2 ^ 50 = 1 then some (bits p 40 8) else none

/-- Home die of a local address (R12, R67). DESIGN CHOICE (log 113): bit 39 also names the die whose L2 holds a line of another
device that this device owns, of which the manual says nothing. -/
def State.homeDie (s : State) (pa : Nat) : Nat := bits (s.norm pa) 39 1

/-- Line number of a physical address (R18). -/
def lineOf (pa : Nat) : Nat := pa / 64

/-- This device owns a line of another device's HBM and holds it (R110). -/
def State.owns (s : State) (pa : Nat) : Bool := (Tab.find s.home (lineOf (s.norm pa))).isSome

/-- Metadata state of a line (R86). -/
def State.lineState (s : State) (line : Nat) : Nat := (Tab.get s.lineMeta line (0 : BitVec 16)).toNat % 8

/-- Owner field of a line's metadata (R86). -/
def State.lineOwner (s : State) (line : Nat) : Nat := bits (Tab.get s.lineMeta line (0 : BitVec 16)).toNat 3 8

/-- A local line that another device owns (R110). -/
def State.ownedAway (s : State) (line : Nat) : Bool := 2 ≤ s.lineState line && s.lineState line ≤ 4

/-- A byte whose value the device does not hold: of another device's HBM, unless this device owns the line, of a line that
another device owns, of a lost die, or of a line that is lost or uncorrectable (R110, R431, R459). -/
def State.unheld (s : State) (pa : Nat) : Bool :=
  let p := s.norm pa
  ((s.remoteDev pa).isSome && !s.owns pa) || (p < 2 ^ 40 && s.ownedAway (lineOf p)) || (Tab.find s.badLines (lineOf p)).isSome ||
    (p < 2 ^ 40 && (if p < 2 ^ 39 then s.die0 else s.die1).lost)

/-- Byte at a physical address; a byte that the device does not hold reads a free value (log 15). -/
def State.peek (s : State) (pa : Nat) : Byte :=
  if s.unheld pa then Config.freeRemote s.freeCtr pa else memRead s.mem (s.norm pa)

/-- `n` bytes at a physical address, little-endian. -/
def State.peekLE (s : State) (pa n : Nat) : Nat := readBytes s.peek pa n

/-- The lines marked by a write while a move copies its page (R88). -/
def markMoves (ms : Tab Move2) (pa : Nat) : Tab Move2 :=
  ms.map fun (k, m) =>
    if m.old ≤ pa && pa < m.old + m.size && !(m.marked.contains (lineOf pa)) then
      (k, { m with marked := lineOf pa :: m.marked })
    else (k, m)

/-- The 16 bytes of a block. -/
def blockImage (m : List Host.Cell) (b : Nat) : Nat := readBytes (memRead m) (16 * b) 16

/-- What a block that has never been stored to has held, and its uses (R112). -/
def raceBlock (rs : Tab RaceBlock) (m : List Host.Cell) (b : Nat) : RaceBlock := Tab.get rs b ⟨[blockImage m b], []⟩

/-- A block whose memory goes from `m` to `m'` has held one value more, unless it has held it before (R112). -/
def noteImage (m m' : List Host.Cell) (rs : Tab RaceBlock) (b : Nat) : Tab RaceBlock :=
  let r := raceBlock rs m b
  if r.images.contains (blockImage m' b) then rs else Tab.put rs b { r with images := blockImage m' b :: r.images }

/-- The blocks of `n` bytes. -/
def blocksOf (pa n : Nat) : List Nat := (List.range (ceilDiv (pa % 16 + n) 16)).map (pa / 16 + ·)

/-- Store `n` bytes at a physical address, mark running moves and note what the blocks now hold; a store to a line of another device
that this device does not own changes nothing here. -/
def State.poke (s : State) (pa n v : Nat) : State :=
  let p := s.norm pa
  let m := memWriteLE s.mem p n v
  if (s.remoteDev pa).isSome && !s.owns pa then s
  else { s with mem := m, moves := markMoves s.moves p, races := (blocksOf p n).foldl (noteImage s.mem m) s.races }

/-- Memory becomes `m`, which differs from what it was in the `n` bytes at `a` alone: moves are marked and values noted as by stores
(R88, R112). -/
def State.setRange (s : State) (a n : Nat) (m : List Host.Cell) : State :=
  let cells := (s.mem ++ m).filter fun c => a ≤ c.1 && c.1 < a + n
  { s with
    mem := m
    moves := if s.moves = [] then [] else
      (List.range (ceilDiv (a % 64 + n) 64)).foldl (fun ms i => markMoves ms (a / 64 * 64 + 64 * i)) s.moves
    races := ((cells.map (·.1 / 16)).eraseDups).foldl (noteImage s.mem m) s.races }

/-- Store a list of bytes. -/
def State.pokeBytes (s : State) (pa : Nat) : List Byte → State
  | [] => s
  | b :: t => State.pokeBytes (s.poke pa 1 b.toNat) (pa + 1) t

/-! ### Units -/

/-- Core of a group key; management core `n` stands as core 2048 + n in the tables of cores (R14, R16). -/
def keyCore (k : Nat) : Nat := if 0x20000 ≤ k then 2048 + (k - 0x20000) else k % 2048

/-- Partition of a group key. -/
def keyPart (k : Nat) : Nat := if 0x20000 ≤ k then 0 else k / 2048 % 4

/-- Place of a group key. -/
def keyPlace (k : Nat) : Nat := if 0x20000 ≤ k then 0 else k / 8192

/-- Group key of a place, partition and core: the value WINSEL gives it (R278). -/
def mkKey (core part place : Nat) : Nat := place * 8192 + part * 2048 + core

/-- Die of a core number (R14). -/
def dieOfCore (c : Nat) : Nat := if c < 2048 then c / 1024 else (c - 2048) / 8

/-- Sector number 8 × die + sector of a core number (R14, R398). -/
def sectorOfCore (c : Nat) : Nat := if c < 2048 then c / 128 else c - 2048

/-- Quad of a core number (R14). -/
def quadOfCore (c : Nat) : Nat := c / 4

/-- Key of a partition in the table of partitions. -/
def partKey (core part : Nat) : Nat := core * 4 + part

def State.die (s : State) (d : Nat) : Die := if d = 0 then s.die0 else s.die1

def State.onDie (s : State) (d : Nat) (f : Die → Die) : State :=
  if d = 0 then { s with die0 := f s.die0 } else { s with die1 := f s.die1 }

/-- A core; one that is not listed holds nothing but its die's logical time. -/
def State.core (s : State) (c : Nat) : Core :=
  Tab.get s.cores c { Core.reset with lt := (s.die (dieOfCore c)).ltBase }

def State.onCore (s : State) (c : Nat) (f : Core → Core) : State :=
  { s with cores := Tab.put s.cores c (f (s.core c)) }

def State.part (s : State) (k : Nat) : Part := Tab.get s.parts k Part.reset

def State.onPart (s : State) (k : Nat) (f : Part → Part) : State :=
  { s with parts := Tab.put s.parts k (f (s.part k)) }

/-- The partition of a group. -/
def partOf (k : Nat) : Nat := partKey (keyCore k) (keyPart k)

def State.quad (s : State) (q : Nat) : Quad := Tab.get s.quads q Quad.reset

def State.onQuad (s : State) (q : Nat) (f : Quad → Quad) : State :=
  { s with quads := Tab.put s.quads q (f (s.quad q)) }

def State.manager (s : State) (n : Nat) : Manage := Tab.get s.manage n Manage.reset

def State.onManager (s : State) (n : Nat) (f : Manage → Manage) : State :=
  { s with manage := Tab.put s.manage n (f (s.manager n)) }

def State.context (s : State) (x : Nat) : Context := Tab.get s.contexts x Context.reset

def State.onContext (s : State) (x : Nat) (f : Context → Context) : State :=
  { s with contexts := Tab.put s.contexts x (f (s.context x)) }

def State.itemQueue (s : State) (q : Nat) : ItemQueue := Tab.get s.itemQueues q ItemQueue.reset

def State.port (s : State) (p : Nat) : Port := Tab.get s.ports p Port.reset

def State.onPort (s : State) (p : Nat) (f : Port → Port) : State :=
  { s with ports := Tab.put s.ports p (f (s.port p)) }

def State.group? (s : State) (k : Nat) : Option Group := Tab.find s.groups k

def State.onGroup (s : State) (k : Nat) (f : Group → Group) : State := { s with groups := Tab.alter s.groups k f }

/-- Change a group if it is still the one of that team that held the place (R208). -/
def State.onOwn (s : State) (k tid : Nat) (f : Group → Group) : State :=
  s.onGroup k fun g => if g.team = tid then f g else g

def State.setGroup (s : State) (k : Nat) (g : Group) : State := { s with groups := Tab.put s.groups k g }

def State.team? (s : State) (t : Nat) : Option Team := Tab.find s.teams t

def State.onTeam (s : State) (t : Nat) (f : Team → Team) : State := { s with teams := Tab.alter s.teams t f }

def State.grid? (s : State) (n : Nat) : Option Grid := Tab.find s.grids n

def State.onGrid (s : State) (n : Nat) (f : Grid → Grid) : State := { s with grids := Tab.alter s.grids n f }

/-- A fresh number for an access, command, grid, team or record in flight. -/
def State.fresh (s : State) : Nat × State := (s.idCtr, { s with idCtr := s.idCtr + 1 })

/-! ### Clocks -/

/-- Ticks of a die's counter (R22). -/
def State.ticks (s : State) (d : Nat) : Nat := (s.die d).tcount.toNat

/-- Cycles of a die: 1.9 for each tick (R5, R20; log 3). -/
def State.cycles (s : State) (d : Nat) : Nat := s.ticks d * 19 / 10

/-- Die 0 time of an event on a die: die 1 subtracts TCOFF (R24, R390). -/
def State.time0 (s : State) (d : Nat) : Nat :=
  if d = 0 then s.ticks 0 else ((s.ticks 1 : Int) - s.tcoff.toInt).toNat

/-! ### Lanes and registers of a group -/

/-- The lanes of a mask in ascending order (R8). -/
def lanesOf (m : Word) : List Nat := (List.range 32).filter fun l => m.getLsbD l

/-- Mask of a list of lanes. -/
def maskOf (ls : List Nat) : Word := ls.foldl (fun m l => m ||| BitVec.ofNat 32 (2 ^ l)) 0

/-- A lane's PC; a lane that has executed EXIT holds 0xFFFF_FFFF (R39). -/
def exitedPc : Word := 0xFFFFFFFF

/-- Lanes that stand at a PC. -/
def Group.lanesAt (g : Group) (pc : Word) : Word :=
  maskOf ((List.range g.pcs.length).filter fun l => g.pcs[l]? = some pc)

/-- PCs of the lanes that have not exited (R40). -/
def Group.livePcs (g : Group) : List Word := g.pcs.filter (· ≠ exitedPc)

/-- The lowest of a list of words. -/
def minWord : List Word → Option Word
  | [] => none
  | x :: t => match minWord t with
    | none => some x
    | some y => some (if y.toNat < x.toNat then y else x)

/-- The issue address: the minimum PC over lanes that have not exited (R40). -/
def Group.minPc (g : Group) : Option Word := minWord g.livePcs

/-- The second-lowest distinct PC (R41). -/
def Group.secondPc (g : Group) : Option Word :=
  match g.minPc with
  | none => none
  | some p => minWord (g.livePcs.filter (· ≠ p))

/-- The lowest-numbered lane of a mask (R9). -/
def lowestLane (m : Word) : Nat := (lanesOf m).headD 0

/-- A row of a vector register: its values in lanes 0 to 31; free before the first write (R38, log 5), and 0 in a
privileged group (log 4). -/
def Group.vrow (g : Group) (r : Nat) : List Word :=
  match Tab.find g.vregs r with
  | some row => row
  | none => (List.range 32).map fun l => if g.privileged then 0 else Config.freeVector g.stamp r l

/-- Vector register `r` in a lane. -/
def Group.vreg (g : Group) (r lane : Nat) : Word := (g.vrow r)[lane]?.getD 0

/-- Uniform register. -/
def Group.ureg (g : Group) (u : Nat) : Word := Tab.get g.uregs u 0

/-- A 7-bit register field as a source (R152). -/
def Group.reg (g : Group) (f lane : Nat) : Word := if f < 96 then g.vreg f lane else g.ureg (f - 96)

/-- A pair or quad as a source: the low word in the first register (R153). -/
def Group.regN (g : Group) (f lane : Nat) : Nat → Nat
  | 0 => 0
  | n + 1 => (g.reg f lane).toNat + 2 ^ 32 * g.regN (f + 1) lane n

/-- Write a vector register in one lane. -/
def Group.setV (g : Group) (r lane : Nat) (v : Word) : Group :=
  { g with vregs := Tab.put g.vregs r ((List.range 32).map fun l => if l = lane then v else g.vreg r l) }

/-- Write `n` words of a vector pair or quad in one lane. -/
def Group.setVN (g : Group) (r lane : Nat) : Nat → Nat → Group
  | 0, _ => g
  | n + 1, v => (g.setV r lane (BitVec.ofNat 32 v)).setVN (r + 1) lane n (v / 2 ^ 32)

/-- Write a uniform register. -/
def Group.setU (g : Group) (u : Nat) (v : Word) : Group := { g with uregs := Tab.put g.uregs u v }

/-- The mask of lanes in which a predicate is 1. -/
def Group.predMask (g : Group) (p : Nat) : Word := Tab.get g.preds p 0

/-- A predicate in a lane. -/
def Group.pred (g : Group) (p lane : Nat) : Bool := (g.predMask p).getLsbD lane

/-- Write a predicate in the lanes of `m` from the mask `v`. -/
def Group.setPred (g : Group) (p : Nat) (m v : Word) : Group :=
  { g with preds := Tab.put g.preds p ((g.predMask p &&& ~~~ m) ||| (v &&& m)) }

/-- Lanes that guard number `n` admits (R155). -/
def Group.guardMask (g : Group) (n : Nat) : Word :=
  if n = 0 then BitVec.allOnes 32
  else match Tab.find g.guards n with
    | none => BitVec.allOnes 32
    | some q => if q.inverted then ~~~ (g.predMask q.pred) else g.predMask q.pred

/-- Headers that wait to be checked, without the lanes of a mask (R39). -/
def dropUnseen (m : Word) (us : List Unseen) : List Unseen :=
  us.filterMap fun u => if u.lanes &&& ~~~ m = 0 then none else some { u with lanes := u.lanes &&& ~~~ m }

/-- Set the PCs of the lanes of a mask by a function of the lane; a header that those lanes waited for is forgotten. -/
def Group.setPcs (g : Group) (m : Word) (f : Nat → Word) : Group :=
  { g with
    pcs := (List.range g.pcs.length).map fun l => if m.getLsbD l then f l else (g.pcs[l]?).getD exitedPc
    unseen := dropUnseen m g.unseen }

/-- Lanes come to the word after a header at `H` that has yet to be checked (R39). -/
def Group.await (g : Group) (m : Word) (H : Nat) : Group :=
  let g1 := g.setPcs m fun _ => BitVec.ofNat 32 (H + 4)
  { g1 with unseen := g1.unseen ++ [⟨H, m⟩] }

/-- Every lane has exited. -/
def Group.allExited (g : Group) : Bool := g.pcs.all (· = exitedPc)

/-- Counter c1 to c3 (R159). -/
def Group.counter (g : Group) (c : Nat) : Nat := if c = 1 then g.c1 else if c = 2 then g.c2 else g.c3

def Group.setCounter (g : Group) (c v : Nat) : Group :=
  if c = 1 then { g with c1 := v } else if c = 2 then { g with c2 := v } else if c = 3 then { g with c3 := v } else g

/-! ### From a group to its team, grid, context and slot -/

def State.teamOf (s : State) (k : Nat) : Option Team :=
  match s.group? k with
  | none => none
  | some g => if g.privileged then none else s.team? g.team

def State.gridOf (s : State) (k : Nat) : Option Grid :=
  match s.teamOf k with
  | none => none
  | some t => s.grid? t.grid

/-- Context slot of a group. -/
def State.ctxOf (s : State) (k : Nat) : Nat :=
  match s.gridOf k with
  | none => 0
  | some g => g.ctx

/-- Batch slot of a team (R58, R390). -/
def State.slotOf (s : State) (k : Nat) : Option Nat :=
  match s.teamOf k with
  | none => none
  | some t => t.slot

/-! ### Records as numbers -/

/-- Fields of a record from (low bit, length, value) triples; later fields do not overlap earlier ones. -/
def packFields (fs : List (Nat × Nat × Nat)) : Nat :=
  fs.foldl (fun acc f => acc + (f.2.2 % 2 ^ f.2.1) * 2 ^ f.1) 0

/-- Word `i` of a record. -/
def recWord (x i : Nat) : Word := BitVec.ofNat 32 (x / 2 ^ (32 * i))

end Sys2Proof.Machine
end

