-- ==== Sys2Proof/Machine/Float.lean ====
section
/-! DEFINITION. Exact values of the floating-point formats, their arithmetic, and rounding (R119 to R142). A finite
value is sign, natural significand and power of two; nothing is rounded before the one rounding a rule asks for. -/

namespace Sys2Proof.Machine

/-- A value: NaN, a signed infinity, or (−1)^neg × m × 2^e, with signed zeros. -/
inductive Ext
  | nan
  | inf (neg : Bool)
  | fin (neg : Bool) (m : Nat) (e : Int)
  deriving DecidableEq, Repr

/-- An IEEE-style format: exponent and mantissa widths (R119). -/
structure FpFmt where
  eb : Nat
  mb : Nat
  deriving DecidableEq, Repr

def fp64 : FpFmt := ⟨11, 52⟩
def fp32 : FpFmt := ⟨8, 23⟩
def fp16 : FpFmt := ⟨5, 10⟩
def bf16 : FpFmt := ⟨8, 7⟩
def e5m2 : FpFmt := ⟨5, 2⟩

/-- Exponent bias (R119). -/
def FpFmt.bias (f : FpFmt) : Nat := 2 ^ (f.eb - 1) - 1

/-- Code of infinity without its sign. -/
def FpFmt.infCode (f : FpFmt) : Nat := (2 ^ f.eb - 1) * 2 ^ f.mb

/-- Code of the canonical quiet NaN (R120). -/
def FpFmt.nanCode (f : FpFmt) : Nat := f.infCode + 2 ^ (f.mb - 1)

/-- Position of the sign bit. -/
def FpFmt.signBit (f : FpFmt) : Nat := f.eb + f.mb

/-- Value of a magnitude code with the given mantissa width and bias, all codes finite (R119). -/
def finiteOf (mb bias : Nat) (neg : Bool) (mag : Nat) : Ext :=
  let E := mag / 2 ^ mb
  let m := mag % 2 ^ mb
  if E = 0 then .fin neg m (1 - (bias : Int) - mb) else .fin neg (2 ^ mb + m) ((E : Int) - bias - mb)

/-- Value of a code of an IEEE-style format (R119). -/
def FpFmt.decode (f : FpFmt) (c : Nat) : Ext :=
  let neg := c / 2 ^ f.signBit % 2 = 1
  let mag := c % 2 ^ f.signBit
  if f.infCode < mag then .nan else if mag = f.infCode then .inf neg else finiteOf f.mb f.bias neg mag

/-- Multiply by a power of two, exactly, or drop bits with a sticky lowest bit. -/
def shiftSticky (m : Nat) (sh : Int) : Nat :=
  if 0 ≤ sh then m * 2 ^ sh.toNat
  else
    let k := (-sh).toNat
    m / 2 ^ k

/-- Magnitude code of m × 2^e with mantissa width `mb` and bias `bias`, to nearest even or toward zero, unbounded
above: subnormals are kept, and a carry moves into the exponent (R121, R142). -/
def roundMag (mb bias : Nat) (toZero : Bool) (m : Nat) (e : Int) : Nat :=
  if m = 0 then 0
  else
    let emin : Int := 1 - bias
    let E := max ((Nat.log2 m : Int) + e) emin
    let q := E - mb
    let base := (E - emin).toNat * 2 ^ mb
    if q ≤ e then base + m * 2 ^ (e - q).toNat
    else
      let k := (q - e).toNat
      let n := m / 2 ^ k
      let r := m % 2 ^ k
      let half := 2 ^ (k - 1)
      if toZero || r < half || (r = half && n % 2 = 0) then base + n else base + n + 1

/-- Sign bit of a code. -/
def signCode (f : FpFmt) (neg : Bool) : Nat := if neg then 2 ^ f.signBit else 0

/-- rne(x, fmt) as a code: canonical NaN, infinities, signed zeros, overflow to infinity (R9, R120, R121). -/
def FpFmt.encode (f : FpFmt) (x : Ext) : Nat :=
  match x with
  | .nan => f.nanCode
  | .inf neg => signCode f neg + f.infCode
  | .fin neg m e => signCode f neg + min (roundMag f.mb f.bias false m e) f.infCode

/-- Toward zero, overflow to the largest finite value (R142). -/
def FpFmt.encodeZ (f : FpFmt) (x : Ext) : Nat :=
  match x with
  | .nan => f.nanCode
  | .inf neg => signCode f neg + f.infCode
  | .fin neg m e => signCode f neg + min (roundMag f.mb f.bias true m e) (f.infCode - 1)

/-- Exact product; 0 × ∞ is NaN (R121). -/
def Ext.mul : Ext → Ext → Ext
  | .nan, _ | _, .nan => .nan
  | .inf a, .inf b => .inf (a != b)
  | .inf a, .fin b m _ | .fin b m _, .inf a => if m = 0 then .nan else .inf (a != b)
  | .fin a m e, .fin b n k => .fin (a != b) (m * n) (e + k)

/-- Signed significand at exponent `k ≤ e`. -/
def alignTo (neg : Bool) (m : Nat) (e k : Int) : Int :=
  let v : Int := (m * 2 ^ (e - k).toNat : Nat)
  if neg then -v else v

/-- Exact sum; ∞ − ∞ is NaN; an exact zero of opposite signs is +0 (R121). -/
def Ext.add : Ext → Ext → Ext
  | .nan, _ | _, .nan => .nan
  | .inf a, .inf b => if a = b then .inf a else .nan
  | .inf a, .fin _ _ _ | .fin _ _ _, .inf a => .inf a
  | .fin a m e, .fin b n k =>
    if m = 0 && n = 0 then .fin (a && b) 0 0
    else if m = 0 then .fin b n k
    else if n = 0 then .fin a m e
    else
      let q := min e k
      let v := alignTo a m e q + alignTo b n k q
      .fin (decide (v < 0)) v.natAbs q

/-- Change of sign. -/
def Ext.neg : Ext → Ext
  | .nan => .nan
  | .inf a => .inf (!a)
  | .fin a m e => .fin (!a) m e

/-- Exact comparison of finite and infinite values; false when either is NaN. -/
def Ext.lt : Ext → Ext → Bool
  | .nan, _ | _, .nan => false
  | .inf a, .inf b => a && !b
  | .inf a, .fin _ _ _ => a
  | .fin _ _ _, .inf b => !b
  | .fin a m e, .fin b n k => decide (alignTo a m e (min e k) < alignTo b n k (min e k))

/-- Equality in value: −0 equals +0 (R192). -/
def Ext.eqv (x y : Ext) : Bool := x ≠ .nan && y ≠ .nan && !(Ext.lt x y) && !(Ext.lt y x)

/-! ### Quotients and roots, to more bits than any format keeps, with a sticky last bit -/

/-- Integer square root by bits: the largest r with r² ≤ n, found from bit `k` down. -/
def isqrtGo (n : Nat) : Nat → Nat → Nat
  | 0, r => r
  | k + 1, r => let t := r + 2 ^ k; isqrtGo n k (if t * t ≤ n then t else r)

/-- Integer square root. -/
def isqrt (n : Nat) : Nat := isqrtGo n (Nat.log2 n / 2 + 1) 0

/-- A value strictly between q and q + 1 units, or exactly q: one more bit tells which. -/
def sticky (q : Nat) (exact : Bool) : Nat := 2 * q + if exact then 0 else 1

/-- Exact quotient of finite nonzero magnitudes, to 80 bits and a sticky bit. -/
def quotient (m : Nat) (e : Int) (n : Nat) (k : Int) : Nat × Int :=
  let s := 80 + Nat.log2 n
  (sticky (m * 2 ^ s / n) (m * 2 ^ s % n = 0), e - k - s - 1)

/-- a / b (R185). -/
def Ext.div : Ext → Ext → Ext
  | .nan, _ | _, .nan => .nan
  | .inf _, .inf _ => .nan
  | .inf a, .fin b _ _ => .inf (a != b)
  | .fin a _ _, .inf b => .fin (a != b) 0 0
  | .fin a m e, .fin b n k =>
    if n = 0 then (if m = 0 then .nan else .inf (a != b))
    else if m = 0 then .fin (a != b) 0 0
    else let q := quotient m e n k; .fin (a != b) q.1 q.2

/-- √a (R185). -/
def Ext.sqrt : Ext → Ext
  | .nan => .nan
  | .inf a => if a then .nan else .inf false
  | .fin a m e =>
    if m = 0 then .fin a 0 0
    else if a then .nan
    else
      let odd := if e % 2 = 0 then (0 : Nat) else 1
      let n := m * 2 ^ (160 + odd)
      let r := isqrt n
      .fin false (sticky r (r * r = n)) ((e - odd) / 2 - 80 - 1)

/-- 1 / √a (R185). -/
def Ext.rsqrt : Ext → Ext
  | .nan => .nan
  | .inf a => if a then .nan else .fin false 0 0
  | .fin a m e =>
    if m = 0 then .inf a
    else if a then .nan
    else
      let odd := if e % 2 = 0 then (0 : Nat) else 1
      -- value = m·2^odd × 2^(e − odd); 2^260 / (m·2^odd) has an integer root of at least 100 bits
      let d := m * 2 ^ odd
      let r := isqrt (2 ^ 260 / d)
      .fin false (sticky r (r * r * d = 2 ^ 260)) (-((e - odd) / 2) - 130 - 1)

/-! ### Transcendental functions in fixed point with 192 fraction bits (R185; log 18) -/

/-- ln 2 × 2^192, rounded down. -/
def ln2Fix : Nat := 4350955369971217654477563090224794165364344896676135745069

/-- 2π × 2^192, rounded down. -/
def twoPiFix : Nat := 39440193395453077124792266728456537782926901730380179465120

/-- Product of fixed-point numbers. -/
def fixMul (a b : Nat) : Nat := a * b / 2 ^ 192

/-- Σ t^k / k! from term `k`, for `n` terms, `p` being t^(k−1)/(k−1)!. -/
def expSeries (t : Nat) : Nat → Nat → Nat → Nat
  | 0, _, _ => 0
  | n + 1, k, p => let q := fixMul p t / k; q + expSeries t n (k + 1) q

/-- e^t for 0 ≤ t < 1 in fixed point. -/
def expFix (t : Nat) : Nat := 2 ^ 192 + expSeries t 48 1 (2 ^ 192)

/-- z + z³/3 + z⁵/5 + … from z^(2k−1) = `p`. -/
def atanhSeries (zz : Nat) : Nat → Nat → Nat → Nat
  | 0, _, _ => 0
  | n + 1, k, p => p / (2 * k + 1) + atanhSeries zz n (k + 1) (fixMul p zz)

/-- ln x for 1 ≤ x < 2 in fixed point. -/
def lnFix (x : Nat) : Nat :=
  let z := (x - 2 ^ 192) * 2 ^ 192 / (x + 2 ^ 192)
  2 * atanhSeries (fixMul z z) 62 0 z

/-- 1 − u/(k(k+1)) × (…): the alternating series of cosine (from k = 1) and of sin t / t (from k = 2) in u = t². -/
def altSeries (u : Nat) : Nat → Nat → Nat
  | 0, _ => 2 ^ 192
  | n + 1, k => 2 ^ 192 - fixMul u (altSeries u n (k + 2)) / (k * (k + 1))

/-- 2^a (R185): a whole power of two exactly, otherwise the fixed-point value with a sticky bit. -/
def Ext.exp2 : Ext → Ext
  | .nan => .nan
  | .inf a => if a then .fin false 0 0 else .inf false
  | .fin a m e =>
    if m = 0 then .fin false 1 0
    else if (8 : Int) ≤ (Nat.log2 m : Int) + e then (if a then .fin false 1 (-2000) else .fin false 1 2000)
    else
      -- a in units of 2^−192: below 2^−192 only the sticky bit remains
      let v : Int := (if a then -1 else 1) * (shiftSticky m (e + 192) : Nat)
      let n := v / 2 ^ 192
      let f := (v % 2 ^ 192).toNat
      if 0 ≤ e || (f = 0 && m * 2 ^ 192 = shiftSticky m (e + 192) * 2 ^ (-e).toNat) then .fin false 1 n
      else .fin false (sticky (expFix (fixMul f ln2Fix)) false) (n - 192 - 1)

/-- exp a, the natural exponential (R327): the fixed-point value with a sticky bit. -/
def Ext.expNat : Ext → Ext
  | .nan => .nan
  | .inf a => if a then .fin false 0 0 else .inf false
  | .fin a m e =>
    if m = 0 then .fin false 1 0
    else if (8 : Int) ≤ (Nat.log2 m : Int) + e then (if a then .fin false 1 (-2000) else .fin false 1 2000)
    else
      let v : Int := (if a then -1 else 1) * (shiftSticky m (e + 192) : Nat)
      let n := v / (ln2Fix : Int)
      let f := (v % (ln2Fix : Int)).toNat
      .fin false (sticky (expFix f) false) (n - 192 - 1)

/-- log2 a (R185). -/
def Ext.log2 : Ext → Ext
  | .nan => .nan
  | .inf a => if a then .nan else .inf false
  | .fin a m e =>
    if m = 0 then .inf true
    else if a then .nan
    else
      let l := Nat.log2 m
      let E := (l : Int) + e
      if m = 2 ^ l then .fin (decide (E < 0)) E.natAbs 0
      else
        let x := m * 2 ^ 192 / 2 ^ l
        let frac : Nat := lnFix x * 2 ^ 192 / ln2Fix
        let v : Int := E * 2 ^ 192 + frac
        .fin (decide (v < 0)) (sticky (if v < 0 then v.natAbs - 1 else v.natAbs) false) (-193)

/-- sin(2π r) for a dyadic 0 < r ≤ 1/8, r = n / 2^k: r × 2π × (sin t / t). -/
def sinSmall (n k : Nat) : Nat × Int :=
  let r : Nat := shiftSticky n (192 - (k : Int))
  let t : Nat := fixMul r twoPiFix
  (sticky (n * twoPiFix * altSeries (fixMul t t) 24 2) false, -(k : Int) - 384 - 1)

/-- cos(2π r) for a dyadic 0 < r ≤ 1/8. -/
def cosSmall (n k : Nat) : Nat × Int :=
  let r : Nat := shiftSticky n (192 - (k : Int))
  let t : Nat := fixMul r twoPiFix
  (sticky (altSeries (fixMul t t) 24 1 - 1) false, -192 - 1)

/-- sin(2π r) for 0 ≤ r < 1/4, r = n / 2^k with 0 < n; cosine of the complement above 1/8. -/
def sinQuarter (n : Nat) (k : Nat) : Nat × Int :=
  if n * 8 ≤ 2 ^ k then sinSmall n k else cosSmall (2 ^ k - 4 * n) (k + 2)

/-- |sin(2π r)| and its sign for r = n / 2^k in [0, 1); `none` for an exact zero. -/
def sinTurn (n k : Nat) : Option (Bool × Nat × Int) :=
  let q := n * 4 / 2 ^ k
  let f := n * 4 % 2 ^ k          -- fraction of a quarter turn, over 2^k
  let neg := decide (2 ≤ q)
  if f = 0 then (if q % 2 = 0 then none else some (neg, 1, 0))
  else
    let g := if q % 2 = 0 then f else 2 ^ k - f
    let x : Nat × Int := sinQuarter g (k + 2)
    some (neg, x.1, x.2)

/-- sin(2π a) and cos(2π a), a in turns (R185). -/
def Ext.sinTurns : Ext → Ext
  | .nan | .inf _ => .nan
  | .fin a m e =>
    if 0 ≤ e then .fin a 0 0
    else
      let k := (-e).toNat
      match sinTurn (m % 2 ^ k) k with
      | none => .fin a 0 0
      | some (n, s, x) => .fin (a != n) s x

def Ext.cosTurns : Ext → Ext
  | .nan | .inf _ => .nan
  | .fin _ m e =>
    if 0 ≤ e then .fin false 1 0
    else
      let k := (-e).toNat + 2      -- cos r = sin (r + 1/4)
      if m % 2 ^ (k - 2) = 0 then .fin false 1 0
      else
        let n := (m * 4 + 2 ^ (k - 2)) % 2 ^ k
        -- near r = 0 the quarter form keeps every bit of the angle
        match sinTurn n k with
        | none => .fin false 0 0
        | some (neg, s, x) => .fin neg s x

/-! ### Integers -/

/-- Value of an integer. -/
def Ext.ofInt (v : Int) : Ext := .fin (decide (v < 0)) v.natAbs 0

/-- Integral value of a finite magnitude in a direction: 0 nearest even, 1 toward zero, 2 toward −∞, 3 toward +∞ (R186). -/
def roundInt (mode : Nat) (neg : Bool) (m : Nat) (e : Int) : Nat :=
  if 0 ≤ e then m * 2 ^ e.toNat
  else
    let k := (-e).toNat
    let n := m / 2 ^ k
    let r := m % 2 ^ k
    let up :=
      if mode = 0 then 2 ^ k < 2 * r || (2 * r = 2 ^ k && n % 2 = 1)
      else if mode = 1 then false
      else if mode = 2 then neg && r ≠ 0
      else !neg && r ≠ 0
    if up then n + 1 else n

/-! ### Narrow formats (R123 to R131) -/

/-- Value of an E4M3 code (R123). -/
def decodeE4M3 (c : Nat) : Ext :=
  if c % 128 = 127 then .nan else finiteOf 3 7 (128 ≤ c % 256) (c % 128)

/-- E4M3 code of a value, saturating at ±448 (R132). -/
def encodeE4M3 : Ext → Nat
  | .nan => 0x7F
  | .inf a => (if a then 128 else 0) + 0x7E
  | .fin a m e => (if a then 128 else 0) + min (roundMag 3 7 false m e) 0x7E

/-- Value of an E2M1 code (R125). -/
def decodeE2M1 (c : Nat) : Ext := finiteOf 1 1 (8 ≤ c % 16) (c % 8)

/-- Value of an E3M5 scale (R126). -/
def decodeE3M5 (c : Nat) : Ext := finiteOf 5 3 false (c % 256)

/-- P5 value of a code; codes below 0x80 read as zero (R131). -/
def decodeP5 (c : Nat) : Ext :=
  if c % 256 < 128 then .fin false 0 0 else .fin false (4 + c % 4) (-((bits c 2 5 : Nat) : Int) - 2)

/-- P5 code of a non-negative exact value (R131): below 2^−31 zero, from 1.75 the code 0x83, else the nearest, ties to
even f, a carry moving to the next power. -/
def encodeP5 : Ext → Nat
  | .fin _ m e =>
    if m = 0 then 0
    else
      let E := (Nat.log2 m : Int) + e
      if E < -31 then 0
      else if !(Ext.lt (.fin false m e) (.fin false 7 (-2))) then 0x83
      else
        -- bias 31 puts 2^−31 at exponent field 1 with two mantissa bits below it
        let mag := roundMag 2 32 false m e
        let c := mag - 4
        0x80 + (31 - c / 4) * 4 + c % 4
  | _ => 0

end Sys2Proof.Machine
end

