-- ==== Sys2Proof/Machine/Flags.lean ====
section
/-! DEFINITION. The machine has no flag register: what an instruction reports of its operands goes into predicates,
class words and status words. This file holds the relations that compares put into predicates, the classes of FP32
values, and the way a predicate is written (R187, R192, R223). -/

namespace Sys2Proof.Machine

/-- FP32 value of a word. -/
def fp (w : Word) : Ext := fp32.decode w.toNat

/-- FP32 word of a value, rounded to nearest even (R121). -/
def fpWord (x : Ext) : Word := BitVec.ofNat 32 (fp32.encode x)

/-- Neither is NaN and the values are equal; −0 equals +0 (R192). -/
def fcmpEq (a b : Word) : Bool := (fp a).eqv (fp b)

/-- Neither is NaN and a < b (R192). -/
def fcmpLt (a b : Word) : Bool := (fp a).lt (fp b)

/-- Neither is NaN and a ≤ b (R192). -/
def fcmpLe (a b : Word) : Bool := fcmpLt a b || fcmpEq a b

/-- a or b is NaN (R192). -/
def fcmpUo (a b : Word) : Bool := fp a = .nan || fp b = .nan

/-- Class mask of an FP32 word: exactly one bit (R187). -/
def fclassWord (a : Word) : Word :=
  let neg := a.getLsbD 31
  let E := bits a.toNat 23 8
  let m := bits a.toNat 0 23
  let bit : Nat :=
    if E = 255 && m ≠ 0 then (if a.getLsbD 22 then 9 else 8)
    else if E = 255 then (if neg then 0 else 7)
    else if E ≠ 0 then (if neg then 1 else 6)
    else if m ≠ 0 then (if neg then 2 else 5)
    else (if neg then 3 else 4)
  BitVec.ofNat 32 (2 ^ bit)

/-- The exponent word of FEXPO (R187). -/
def fexpoWord (a : Word) : Word :=
  let E := bits a.toNat 23 8
  let m := bits a.toNat 0 23
  if E = 255 then 0x7FFFFFFF
  else if E ≠ 0 then BitVec.ofInt 32 ((E : Int) - 127)
  else if m = 0 then 0x80000000
  else BitVec.ofInt 32 ((Nat.log2 m : Int) - 149)

/-- Write a predicate in the lanes of `m` from a relation of each lane; it is in flight for `lat` cycles (R175, R255). -/
def Group.setRel (g : Group) (now lat p : Nat) (m : Word) (rel : Nat → Bool) : Group :=
  let v := maskOf ((lanesOf m).filter rel)
  let g1 := g.setPred p m v
  if m = 0 then g else { g1 with predBusy := Tab.put g1.predBusy p (now + lat) }

/-- The status word of FENCE from the group's failure record (R223, R426). -/
def statusWord (failBits failed : Nat) : Word := BitVec.ofNat 32 (failBits % 8 + 256 * (min failed 255))

end Sys2Proof.Machine
end

