-- ==== Sys2Proof/Machine/Home.lean ====
section
/-! DEFINITION. What a home L2 does to a line's times, and the stores that the device makes on its own account
(R101 to R108, R111). -/

namespace Sys2Proof.Machine

/-- A line as its home holds it: filled from HBM with wts = MFT and rts = MFT + 64 × bucket when not held (R107). -/
def State.homeLine (s : State) (line : Nat) : HomeLine :=
  match Tab.find s.home line with
  | some h => h
  | none =>
    let mft := (s.die (s.homeDie (line * 64))).mft
    ⟨mft, mft + 64 * bits (Tab.get s.lineMeta line (0 : BitVec 16)).toNat 11 5, none, false⟩

/-- A logical time not below `t` bounds the writes that have left this device (R118). -/
def State.raiseAway (s : State) (t : Nat) : State := { s with awayFloor := max s.awayFloor t }

/-- The bytes of a line of another device are no longer held here. -/
def State.dropLine (s : State) (line : Nat) : State :=
  { s with mem := s.mem.filter fun c => c.1 / 64 ≠ line, badLines := Tab.del s.badLines line }

/-- A line leaves its home L2: the floor of its die rises to its lease end and its pin is dropped; an owned line of another device
goes back to its home with its bytes (R107, R110, R113). -/
def State.evictHome (s : State) (line : Nat) : State :=
  match Tab.find s.home line with
  | none => s
  | some h =>
    let s1 := { s with home := Tab.del s.home line }
    match s.remoteDev (line * 64) with
    | some _ => (s1.dropLine line).raiseAway h.rts
    | none => s1.onDie (s.homeDie (line * 64)) fun d =>
        { d with mft := max d.mft h.rts, mirror := max d.mirror (max d.mft h.rts) }

/-- The lines that the L2 of a die holds for this device. -/
def State.homesOn (s : State) (d : Nat) : Tab HomeLine := s.home.filter fun x => s.homeDie (x.1 * 64) = d

/-- Room for one more line in the L2 of a die, 256 MiB of lines held for this device and copies together: when it is full one of them,
any of them, leaves (R17; log 102). -/
def State.makeRoom (s : State) (d : Nat) : State :=
  let n := (s.die d).copies.length
  if s.home.length + n < 4194304 || (s.homesOn d).length + n < 4194304 then s
  else
    let i := Config.freePick s.freeCtr % ((s.homesOn d).length + n)
    match (s.homesOn d)[i]? with
    | some x => s.evictHome x.1
    | none => s.onDie d fun x => { x with copies := x.copies.eraseIdx (i - (s.homesOn d).length) }

/-- Room for a line in the L2 of its home. -/
def State.roomFor (s : State) (line : Nat) : State :=
  if (Tab.find s.home line).isSome then s else s.makeRoom (s.homeDie (line * 64))

/-- Replace a line at its home. -/
def State.setHome (s : State) (line : Nat) (h : HomeLine) : State :=
  let s1 := s.roomFor line
  { s1 with home := Tab.put s1.home line h }

/-- A renewal served at the home for requester time `T`: the write time and lease end of the reply (R103); for a host
line in PCIe mode no lease beyond `T` is granted (R368). -/
def homeRenew (s : State) (line T : Nat) : State × Nat × Nat :=
  let h := s.homeLine line
  let lease := if 2 ^ 51 ≤ line * 64 && !s.csr.cxl then T else T + 8
  let h' := { h with rts := max h.rts lease }
  (s.setHome line h', h'.wts, h'.rts)

/-- End of the longest remote read lease of a line (R86, R111). -/
def State.leaseEnd (s : State) (line : Nat) : Nat :=
  (s.die (s.homeDie (line * 64))).mft + 64 * bits (Tab.get s.lineMeta line (0 : BitVec 16)).toNat 11 5

/-- The port that carries the route to a device (R370, R425; log 25). -/
def State.routeTo (s : State) (d : Nat) : Port := s.port (Config.routePort d % 36)

/-- The link to a device carries coherent traffic: it is up at protocol version 2 (R370, R373). -/
def State.linkedTo (s : State) (d : Nat) : Bool := (s.routeTo d).up && decide (0x0200 ≤ (s.routeTo d).version)

/-- The port of the route to a device, when that route is dead or its link down (R373, R425). -/
def State.deadTo (s : State) (d : Nat) : Option Nat :=
  if (s.routeTo d).routeDead || !(s.routeTo d).up then some (Config.routePort d % 36) else none

/-- The port of the route on which an access to a line goes out, when it is dead: the route to the home of a line that is not held
here, or to the owner of a line homed here, which needs coherent traffic (R110, R373, R425). -/
def State.deadRoute (s : State) (pa : Nat) : Option Nat :=
  match s.remoteDev pa with
  | some d => if s.owns pa then none else s.deadTo d
  | none =>
    let line := lineOf (s.norm pa)
    if s.isLocal pa && s.ownedAway line && !s.deadDevices.contains (s.lineOwner line) &&
        ((s.routeTo (s.lineOwner line)).routeDead || !s.linkedTo (s.lineOwner line)) then
      some (Config.routePort (s.lineOwner line) % 36)
    else none

/-- Mask of the bytes of a line that an access covers. -/
def byteMask (off size : Nat) : Nat := (2 ^ size - 1) * 2 ^ off

/-- The bytes of a bad line that the store of a number has rewritten so far. -/
def BadLine.done (v : BadLine) (store : Nat) : Nat := if v.store = store then v.mask else 0

/-- The number of a lane instruction's store; the device's own stores of one step are another. -/
def storeOf (op : Nat) : Nat := 2 * op + 1

/-- A store has rewritten bytes of a line that is lost or uncorrectable; the line is whole again when it has rewritten all 64 (R459). -/
def State.repairBytes (s : State) (store pa n : Nat) : State :=
  let line := lineOf (s.norm pa)
  match Tab.find s.badLines line with
  | none => s
  | some v =>
    let m := Nat.lor (v.done store) (byteMask (s.norm pa % 64) n)
    { s with badLines := if m = 2 ^ 64 - 1 then Tab.del s.badLines line else Tab.put s.badLines line ⟨v.info, store, m⟩ }

/-- The metadata with which the home of a line answers: its own here, a free value at another device (R86, R110; log 15). -/
def State.metaAt (s : State) (pa : Nat) : Nat :=
  let line := lineOf (s.norm pa)
  if s.isLocal pa then (Tab.get s.lineMeta line (0 : BitVec 16)).toNat
  else if (s.remoteDev pa).isSome && !s.owns pa then Config.freeMeta s.freeCtr line % 2 ^ 16 else 0

/-- The fault with which an access meets the home of its line: code, info 0 and info 1. A dead route, a lost die, a line in
state 6 or 7, a line whose owner is dead, a line lost or uncorrectable that the access does not rewrite `whole`, and a write of a
read-duplicate copy, whose info 0 the caller completes (R89, R110, R425, R427, R428, R431, R459). -/
def State.lineFault (s : State) (pa : Nat) (write whole : Bool) : Option (Nat × Nat × Nat) :=
  let p := s.norm pa
  let line := lineOf p
  let m := s.metaAt p
  match s.deadRoute p with
  | some port => some (0x0401, port, 0)
  | none =>
    if s.isLocal p && (s.die (s.homeDie p)).lost then some (0x0405, p, 3)
    else if 6 ≤ m % 8 then some (0x0404, m, line * 64)
    else if 2 ≤ m % 8 && m % 8 ≤ 4 && s.deadDevices.contains (bits m 3 8) then some (0x0403, bits m 3 8, line * 64)
    else match Tab.find s.badLines line with
      | some v => if whole then none else some (0x0405, p, v.info)
      | none => if m % 8 = 5 && write then some (0x0205, 0, 0) else none

/-- Write the metadata of a line; the all-zero value is not listed (R86). -/
def State.setMeta (s : State) (line : Nat) (v : BitVec 16) : State :=
  { s with lineMeta := if v = 0 then Tab.del s.lineMeta line else Tab.put s.lineMeta line v }

/-- Take ownership of a line of another device's HBM: its bytes, unknown before, are held here from now on (R110;
log 15). -/
def State.takeLine (s : State) (line : Nat) : State :=
  if (s.remoteDev (line * 64)).isSome && !s.owns (line * 64) then
    { s with mem := memWriteLE s.mem (line * 64) 64 (s.peekLE (line * 64) 64) }
  else s

/-- A logical time that another device gives (log 15). -/
def State.awayTime (s : State) (n : Nat) : Nat := Config.freeTime s.freeCtr n % 2 ^ 47

/-- The latest lease end of a line that agents of this device hold or are about to receive: in an L1, in an L2 that holds a copy, and in
replies on their way. -/
def State.grantedHere (s : State) (line : Nat) : Nat :=
  let copy (cs : Tab CopyLine) : Nat := ((Tab.find cs line).map (·.rts)).getD 0
  let reply (a : Access) : Nat := match a.status with
    | .replied l _ r e _ => if l = line then max r e else 0
    | _ => 0
  s.accesses.foldl (fun n x => max n (reply x.2))
    (s.cores.foldl (fun n x => max n (copy x.2.l1)) (max (copy s.die0.copies) (copy s.die1.copies)))

/-- The lease end above which another device performs a write of a line: its own times are free, but no lease that this device holds
outlives the write (R104, R110, R111; log 15). -/
def State.awayLeaseEnd (s : State) (line : Nat) : Nat := max (s.awayTime 0) (s.grantedHere line)

/-- Write time and lease end of a load's reply, for requester time `T`, from another device: from the home of the line under R111, or
from the owner of a line homed here under R103. What that home or owner holds is free (log 15). -/
def State.awayLease (s : State) (pa T : Nat) : Nat × Nat :=
  let m := s.awayTime 0
  let r := if (s.remoteDev pa).isSome then m + 64 * min 31 (ceilDiv (max (T + 32) (m + 64 * (s.awayTime 1 % 32)) - m) 64)
    else max (T + 8) m
  (min r (s.awayTime 2), r)

/-- The times of a store performed at the home for writer time `T`: above every lease granted, remote ones included, and above
those of the home that a line comes from; a shared line becomes home only (R104, R110, R111). The new write time. -/
def homeStamp (s : State) (line T : Nat) : State × Nat :=
  let h := s.homeLine line
  let m := (Tab.get s.lineMeta line (0 : BitVec 16)).toNat
  let lease := if (s.remoteDev (line * 64)).isSome && !s.owns (line * 64) then s.awayLeaseEnd line
    else if m % 8 = 1 then max h.rts (s.leaseEnd line) else h.rts
  let w := max T (lease + 1)
  let s0 := s.takeLine line
  let s1 := if m % 8 = 1 then s0.setMeta line 0 else s0
  (s1.setHome line { h with wts := w, rts := w, dirty := true }, w)

/-- A store is performed at another device: by the owner of a line homed here, or at the home of a line that the link carries without
coherence (R110, R373). -/
def State.actsAway (s : State) (pa : Nat) : Bool :=
  (s.isLocal pa && s.ownedAway (lineOf (s.norm pa))) || (!s.owns pa && (s.remoteDev pa).any fun d => !s.linkedTo d)

/-- A store of the device's own changes nothing here: its route is dead, or it is performed at another device (R110, R425). -/
def State.storedAway (s : State) (pa : Nat) : Bool := (s.deadRoute pa).isSome || s.actsAway pa

/-- A store for writer time `T` that changes nothing here: where another device performs it, its write time passes the leases held
here (R104, R110, R425). -/
def State.storeAway (s : State) (T pa : Nat) : State :=
  if (s.deadRoute pa).isSome then s else s.raiseAway (max T (s.awayLeaseEnd (lineOf (s.norm pa)) + 1))

/-- A store of the device's own, of bytes that lie in one line, performed at the home (R104). -/
def State.deviceStore (s : State) (T pa n v : Nat) : State :=
  if s.storedAway pa then s.storeAway T pa else (((homeStamp s (lineOf (s.norm pa)) T).1).poke pa n v).repairBytes (2 * s.freeCtr) pa n

/-- The little-endian bytes of a number. -/
def leBytes (v : Nat) : Nat → List Byte
  | 0 => []
  | n + 1 => BitVec.ofNat 8 v :: leBytes (v / 256) n

/-- The number of a list of little-endian bytes. -/
def ofBytes : List Byte → Nat
  | [] => 0
  | b :: t => b.toNat + 256 * ofBytes t

/-- The parts of `n` bytes that lie in one line each: address and length. -/
def lineParts (a n : Nat) : List (Nat × Nat) :=
  (List.range (ceilDiv (a % 64 + n) 64)).map fun i =>
    let lo := max a (a / 64 * 64 + 64 * i)
    (lo, min (a + n) (a / 64 * 64 + 64 * (i + 1)) - lo)

/-- Store bytes line by line, by a store of bytes of one line (R104). -/
def State.byLines (s : State) (a : Nat) (bs : List Byte) (store : State → Nat → Nat → Nat → State) : State :=
  (lineParts a bs.length).foldl (fun s p => store s p.1 p.2 (ofBytes ((bs.drop (p.1 - a)).take p.2))) s

/-- A store of the device's own of a list of bytes: one store for each line (R104). -/
def State.deviceBytes (s : State) (T pa : Nat) (bs : List Byte) : State :=
  s.byLines pa bs fun s a n v => s.deviceStore T a n v

/-- A logical time that no store performed so far passes: the latest write time of a line that an L2 holds, and of those that
have left it the floors, which their lease ends have raised (R104, R107, R110). -/
def State.frontier (s : State) : Nat := s.home.foldl (fun n x => max n x.2.wts) (max s.awayFloor (max s.die0.mft s.die1.mft))

/-- An acquire that no memory location carries: the core's logical time rises to the frontier, so that no lease hides
a store performed before (R51, R53, R118; log 27). -/
def State.acquire (s : State) (c : Nat) : State :=
  let f := s.frontier
  s.onCore c fun q => { q with lt := max q.lt f }

end Sys2Proof.Machine
end

