-- ==== Sys2Proof/Machine/Translate.lean ====
section
/-! DEFINITION. Translation of virtual addresses: the page-table walk with its faults, A and D bits, the TLBs, the
region table, and the reads of the code segment (R62 to R72, R84, R85, R412, R418, R419). -/

namespace Sys2Proof.Machine

/-- Outcome of a translation: a TLB entry, a fault with its code of R412 and level, a table line that cannot be read with the
code, info 0 and info 1 of its fault (R63, R86, R427, R428, R431), or held by a freeze (R88). -/
inductive Xlat
  | ok (e : TlbEntry)
  | fault (code level : Nat)
  | broken (code info0 info1 : Nat)
  | held
  deriving DecidableEq, Repr

/-- The code of R412 that an engine's record of a failed access shows: 0 for a dead link and for a line in a reserved state (R421,
R425, R428). -/
def Xlat.engineCode : Xlat → Nat
  | .fault code _ => code
  | .broken code _ _ => if code = 0x0401 || code = 0x0404 then 0 else code
  | _ => 0

/-- The translation itself has failed, as R412 lists it (R415). -/
def Xlat.isFault : Xlat → Bool
  | .fault _ _ => true
  | _ => false

/-- The number under which the management space stands among the contexts (R68). -/
def mgmtSpace : Nat := 64

/-- ASID of a space. -/
def State.asidOf (s : State) (x : Nat) : Nat := if x = mgmtSpace then 0 else (s.context x).asid

/-- Level-4 table of a space (R63, R68). -/
def State.rootOf (s : State) (x : Nat) : Nat :=
  let b := if x = mgmtSpace then s.csr.mptbase else (s.context x).ptbase
  bits b.toNat 12 40 * 4096

/-- Space in which a group's addresses are translated (R63, R393). -/
def State.spaceOf (s : State) (k : Nat) : Nat := if 0x20000 ≤ k then mgmtSpace else s.ctxOf k

/-- The canonical 64-bit form of a 57-bit address (R62). -/
def a64 (va : Nat) : Nat := va % 2 ^ 57 + if bits va 56 1 = 1 then 2 ^ 64 - 2 ^ 57 else 0

/-- Canonical form of a 64-bit address (R62). -/
def canonical (va : Nat) : Bool :=
  let t := bits va 56 8
  t = 0 || t = 255

/-- Domain and class of an address: the lowest enabled entry that covers it, else PKG data (R71, R72). -/
def State.regionOf (s : State) (x va : Nat) : Nat × Bool :=
  let c := s.context x
  let blk := bits va 21 36
  let hit := if c.rgnlo = [] then none else (List.range 64).find? fun i =>
    let lo := (Tab.get c.rgnlo i 0).toNat
    let hi := (Tab.get c.rgnhi i 0).toNat
    bits lo 0 1 = 1 && bits lo 4 4 ≤ 4 && bits lo 24 36 ≤ blk && blk ≤ bits hi 0 36
  match hit with
  | none => (2, false)
  | some i => let lo := (Tab.get c.rgnlo i 0).toNat; (bits lo 4 4, bits lo 8 1 = 1)

/-- Page size of a leaf by level (R63). -/
def leafSize (level : Nat) : Nat := if level = 2 then 2 ^ 30 else if level = 1 then 2 ^ 21 else 2 ^ 12

/-- A reserved bit, a reserved SH or a misaligned or impossible frame in a leaf entry (R64, R67, R412). -/
def leafReserved (pte level : Nat) : Bool :=
  bits pte 63 1 ≠ 0 || 2 ≤ bits pte 61 2 || bits pte 52 9 ≠ 0 || bits pte 12 40 * 4096 % leafSize level ≠ 0 ||
  (if level = 0 then bits pte 4 1 ≠ 0 else bits pte 5 1 ≠ 0) || !physOk (bits pte 12 40 * 4096)

/-- Any reserved field of a non-leaf entry nonzero: all but V, frame and the software field (R64; log 23). -/
def tableReserved (pte : Nat) : Bool :=
  bits pte 52 12 ≠ 0 || bits pte 1 7 ≠ 0 || !physOk (bits pte 12 40 * 4096)

/-- What one read of a walk finds: the next table, a leaf with its address and level, or a failure. -/
inductive WalkRead
  | table (t : Nat)
  | leaf (ea pte level : Nat)
  | fail (x : Xlat)
  deriving DecidableEq, Repr

/-- Read and check the entry at `ea` of a table of a level, as a load at domain PKG (R63, R64, R412). -/
def readEntry (s : State) (ea level : Nat) : WalkRead :=
  match s.lineFault ea false false with
  | some (code, i0, i1) => .fail (.broken code i0 i1)
  | none =>
    let pte := s.peekLE ea 8
    if pte % 2 = 0 then .fail (.fault 0x0201 level)
    else if level = 0 || (bits pte 4 1 = 1 && level ≤ 2) then
      if leafReserved pte level then .fail (.fault 0x0203 level) else .leaf ea pte level
    else if tableReserved pte then .fail (.fault 0x0203 level)
    else .table (bits pte 12 40 * 4096)

/-- The address bits that select an entry of a level and those above it. -/
def walkPrefix (va level : Nat) : Nat := va % 2 ^ 57 / 2 ^ (12 + 9 * level)

/-- The next table that the walk table cache of a die gives (R84). -/
def State.cachedTable (s : State) (d asid va level : Nat) : Option Nat :=
  ((s.die d).walks.find? fun w => w.1 = asid && w.2.1 = level && w.2.2.1 = walkPrefix va level).map (·.2.2.2)

/-- Enter a table in the walk table cache of a die, in place of any for the same entry. -/
def State.cacheTable (s : State) (d asid va level t : Nat) : State :=
  if s.cachedTable d asid va level = some t then s
  else
    let same (w : Nat × Nat × Nat × Nat) : Bool := w.1 = asid && w.2.1 = level && w.2.2.1 = walkPrefix va level
    s.onDie d fun x => { x with walks := (asid, level, walkPrefix va level, t) :: x.walks.filter fun w => !same w }

/-- The read of a table entry at `ea` by the walk of a core's access is an ordinary load at PKG: it renews the line at its home, and the
core's logical time rises to the line's write time. An engine without a logical time takes the value alone (R63, R102, R103, R118). -/
def State.entryLoad (s : State) (who : Option Nat) (ea : Nat) : State :=
  match who.filter fun _ => (s.lineFault ea false false).isNone with
  | none => s
  | some c =>
    let line := lineOf (s.norm ea)
    let T := (s.core c).lt
    let r := if ((s.remoteDev ea).isSome && !s.owns ea) || (s.isLocal ea && s.ownedAway line) then (s, (s.awayLease ea T).1)
      else match homeRenew s line T with
        | (s1, w, _) => (s1, w)
    if T < r.2 then r.1.onCore c fun q => { q with lt := r.2 } else r.1

/-- The walk of an ASID's address from a level down, on a die, for a core `who` or an engine: a hit in the table cache skips the read of
an entry. The cache may have dropped any entry by then (R63, R84, R412; log 101). -/
def walkGo (who : Option Nat) (d asid va : Nat) : Nat → Nat → State → State × WalkRead
  | 0, tbl, s =>
    let ea := tbl + 8 * bits va 12 9
    (s.entryLoad who ea, readEntry s ea 0)
  | l + 1, tbl, s =>
    let ea := tbl + 8 * bits va (12 + 9 * (l + 1)) 9
    let fresh := readEntry s ea (l + 1)
    let held := (s.cachedTable d asid va (l + 1)).filter fun t => fresh ≠ WalkRead.table t && Config.freeHeld s.freeCtr (l + 1)
    match held with
    | some t => walkGo who d asid va l t (s.cacheTable d asid va (l + 1) t)
    | none =>
      let s1 := s.entryLoad who ea
      match fresh with
      | .table t => walkGo who d asid va l t (s1.cacheTable d asid va (l + 1) t)
      | x => (s1, x)

/-- The walk from the level-4 table of a space, whose address may itself be one with a nonzero must-be-zero field (R67, R412). -/
def walkFrom (s : State) (who : Option Nat) (d x va : Nat) : State × WalkRead :=
  if physOk (s.rootOf x) then walkGo who d (s.asidOf x) va 4 (s.rootOf x) s else (s, .fail (.fault 0x0203 4))

/-- What a 64 KiB page's entry gives a translation: its bits but A, D, the software field and the frame's bits [15:12] (R65). -/
def blockKey (pte : Nat) : Nat := setBits pte 6 10 0

/-- Which entry of a 64 KiB page translates. While the entries with V = 1 and C = 1 agree, or cannot be read, the address's own;
otherwise any of those entries, picked anew each time, or the fault with which its line is read (R63, R65; free, log 8). -/
def pickEntry (s : State) (ea pte : Nat) : State × Except Xlat (Nat × Nat) :=
  if bits pte 5 1 = 1 then
    let at_ (i : Nat) : Nat := ea / 128 * 128 + 8 * i
    let entry (i : Nat) : Nat := s.peekLE (at_ i) 8
    let lost (i : Nat) : Bool := (s.lineFault (at_ i) false false).isSome
    let cand := (List.range 16).filter fun i => lost i || (bits (entry i) 5 1 = 1 && bits (entry i) 0 1 = 1)
    if cand.all fun i => lost i || blockKey (entry i) = blockKey pte then (s, .ok (ea, pte))
    else
      let i := (cand[Config.freePick s.freeCtr % cand.length]?).getD 0
      ({ s with freeCtr := s.freeCtr + 1 }, match s.lineFault (at_ i) false false with
        | some (code, i0, i1) => .error (.broken code i0 i1)
        | none => .ok (at_ i, entry i))
  else (s, .ok (ea, pte))

/-- What an access wants that an entry does not permit (R412, orders 4 to 6). -/
def permFault (e : TlbEntry) (acc : AccessKind) (region : Nat × Bool) : Option Nat :=
  let write := acc = .store || acc = .atomic
  if e.dup && write then some 0x0205
  else if !(match acc with
    | .load => e.rd
    | .store => e.wr
    | .atomic => e.rd && e.wr
    | .ldk | .fetch => e.ex) then some 0x0202
  else if e.dup && !(region.1 = 3 && !region.2) then some 0x0206
  else none

/-- Level of the leaf that an entry's page size implies (R416). -/
def TlbEntry.level (e : TlbEntry) : Nat := if e.size = 2 ^ 30 then 2 else if e.size = 2 ^ 21 then 1 else 0

/-- Physical address through an entry. -/
def TlbEntry.phys (e : TlbEntry) (va : Nat) : Nat := e.pa + va % e.size

/-- The walk of an access on a die, for a core `who` or an engine: checks, then A and, for a write, D set in the entry by an atomic at its
home (R66, R104, R412; log 9). A speculative walk sets neither (R85). -/
def walk (s : State) (d x va : Nat) (acc : AccessKind) (spec : Bool) (who : Option Nat) : State × Xlat :=
  match walkFrom s who d x va with
  | (s1, .fail r) => (s1, r)
  | (s1, .table _) => (s1, .fault 0x0203 0)
  | (s1, .leaf ea0 pte0 level) =>
    match (if level = 0 then pickEntry s1 ea0 pte0 else (s1, .ok (ea0, pte0))) with
    | (s2, .error r) => (s2, r)
    | (s2, .ok (ea, pte)) =>
      if leafReserved pte level then (s2, .fault 0x0203 level)
      else
        let size := if level = 0 && bits pte 5 1 = 1 then 2 ^ 16 else leafSize level
        let write := acc = .store || acc = .atomic
        let e : TlbEntry :=
          { asid := s2.asidOf x, va := va % 2 ^ 57 / size * size, size := size,
            pa := bits pte 12 40 * 4096 / size * size,
            rd := bits pte 1 1 = 1, wr := bits pte 2 1 = 1, ex := bits pte 3 1 = 1, dup := bits pte 61 2 = 1,
            accessed := !spec || bits pte 6 1 = 1, dirty := (!spec && write) || bits pte 7 1 = 1 }
        match permFault e acc (s2.regionOf x va) with
        | some c => (s2, .fault c level)
        | none =>
          let new := if spec then pte else setBits (if write then setBits pte 7 1 1 else pte) 6 1 1
          (if new = pte then s2 else s2.deviceStore ((who.map fun c => (s2.core c).lt).getD 0) ea 8 new, .ok e)

/-- An entry of a TLB that covers an address of an ASID. -/
def tlbFind (t : List TlbEntry) (asid va : Nat) : Option TlbEntry :=
  t.find? fun e => e.asid = asid && va % 2 ^ 57 / e.size * e.size = e.va

/-- Enter an entry, dropping the oldest beyond the capacity (R84; log 10). -/
def tlbFill (t : List TlbEntry) (cap : Nat) (e : TlbEntry) : List TlbEntry :=
  (e :: t.filter fun f => !(f.asid = e.asid && f.va = e.va && f.size = e.size)).take cap

/-- An entry serves an access without a walk: its A bit is known set, and its D bit for a write (R64). -/
def TlbEntry.serves (e : TlbEntry) (acc : AccessKind) : Bool :=
  e.accessed && (e.dirty || !(acc = .store || acc = .atomic))

/-- A frozen move holds the accesses to its page (R88). -/
def State.frozenAt (s : State) (asid va : Nat) : Bool :=
  s.moves.any fun (_, m) => m.frozen && (s.context m.ctx).asid = asid && m.va / m.size = va % 2 ^ 57 / m.size

/-- A freeze holds a page of the address space of a context (R88). -/
def State.spaceFrozen (s : State) (x : Nat) : Bool := s.moves.any fun m => m.2.frozen && s.asidOf m.2.ctx = s.asidOf x

/-- Translation of a lane access or a fetch on a core: L1 TLB, shared TLB, walk (R84). -/
def translate (s : State) (c x va : Nat) (acc : AccessKind) : State × Xlat :=
  let asid := s.asidOf x
  if !canonical va then (s, .fault 0x0204 0)
  else if s.frozenAt asid va then (s, .held)
  else
    let use (s' : State) (e : TlbEntry) : State × Xlat :=
      match permFault e acc (s'.regionOf x va) with
      | some code => (s', .fault code e.level)
      | none => (s', .ok e)
    match (tlbFind (s.core c).tlb asid va).filter (·.serves acc) with
    | some e => use s e
    | none =>
      let shared := if c < 2048 then (tlbFind (s.quad (quadOfCore c)).tlb asid va).filter (·.serves acc) else none
      match shared with
      | some e => use (s.onCore c fun q => { q with tlb := tlbFill q.tlb 128 e }) e
      | none =>
        match walk s (dieOfCore c) x va acc false (some c) with
        | (s1, .ok e) =>
          let s2 := s1.onCore c fun q => { q with tlb := tlbFill q.tlb 128 e }
          let s3 := if c < 2048 then s2.onQuad (quadOfCore c) fun q => { q with tlb := tlbFill q.tlb 4096 e } else s2
          (s3, .ok e)
        | r => r

/-- Translation of a tile-engine access: walk-ahead TLB, then a walk (R84, R412). -/
def translateEngine (s : State) (q x va : Nat) (acc : AccessKind) : State × Xlat :=
  let asid := s.asidOf x
  if !canonical va then (s, .fault 0x0204 0)
  else if s.frozenAt asid va then (s, .held)
  else
    match (tlbFind (s.quad q).ahead asid va).filter (·.serves acc) with
    | some e =>
      match permFault e acc (s.regionOf x va) with
      | some code => (s, .fault code e.level)
      | none => (s, .ok e)
    | none =>
      match walk s (q / 256) x va acc false none with
      | (s1, .ok e) => (s1.onQuad q fun u => { u with ahead := tlbFill u.ahead 512 e }, .ok e)
      | r => r

/-- Translation by an engine without a TLB of its own: a walk (R84 names none). DESIGN CHOICE (log 78): the memory-management unit of
die 0, with its table cache, walks for every such engine: those of the I/O die, the samplers and the Abaci, those of die 1 included. -/
def translateWalk (s : State) (x va : Nat) (acc : AccessKind) : State × Xlat :=
  if !canonical va then (s, .fault 0x0204 0)
  else if s.frozenAt (s.asidOf x) va then (s, .held) else walk s 0 x va acc false none

/-- Count a dropped speculative translation on a die, saturating (R419). -/
def State.countDrop (s : State) (d : Nat) : State :=
  let up (n : Nat) := min (n + 1) (2 ^ 32 - 1)
  if d = 0 then { s with csr := { s.csr with specdrop0 := up s.csr.specdrop0 } }
  else { s with csr := { s.csr with specdrop1 := up s.csr.specdrop1 } }

/-- Removal of entries by TLBINV's scope (R280). -/
def tlbDrop (scope asid va : Nat) (t : List TlbEntry) : List TlbEntry :=
  t.filter fun e =>
    if scope = 0 then !(e.asid = asid && va % 2 ^ 57 / e.size * e.size = e.va)
    else if scope = 1 then !(e.asid = asid)
    else false

/-- Removal of walk table cache entries by TLBINV's scope (R280). -/
def walksDrop (scope asid va : Nat) (ws : List (Nat × Nat × Nat × Nat)) : List (Nat × Nat × Nat × Nat) :=
  ws.filter fun w =>
    if scope = 0 then !(w.1 = asid && w.2.2.1 = walkPrefix va w.2.1) else if scope = 1 then w.1 ≠ asid else false

/-- Removal from every TLB and walk table cache of both dies (R88, R280). -/
def State.dropTlbs (s : State) (scope asid va : Nat) : State :=
  { s with
    die0 := { s.die0 with walks := walksDrop scope asid va s.die0.walks }
    die1 := { s.die1 with walks := walksDrop scope asid va s.die1.walks }
    cores := s.cores.map fun (c, q) => (c, { q with tlb := tlbDrop scope asid va q.tlb })
    quads := s.quads.map fun (n, q) =>
      (n, { q with tlb := tlbDrop scope asid va q.tlb, ahead := tlbDrop scope asid va q.ahead }) }

/-! ### The code segment -/

/-- Virtual address of a code offset (R70, R393). -/
def State.codeVa (s : State) (x off : Nat) : Nat :=
  let b := if x = mgmtSpace then s.csr.mcbase else (s.context x).codebase
  a64 (bits b.toNat 16 41 * 65536 + off)

/-- The fault of the first line of `n` bytes at a physical address that cannot be read or written (R110, R425 to R431). -/
def State.spanFault (s : State) (pa n : Nat) (write : Bool) : Option (Nat × Nat × Nat) :=
  (List.range (ceilDiv (pa % 64 + n) 64)).findSome? fun i => s.lineFault (pa / 64 * 64 + 64 * i) write false

/-- Read `n` bytes of a page through a translation that has been made: at their homes, or the fault met there. -/
def readAt (s : State) (e : TlbEntry) (va n : Nat) : Except Xlat Nat :=
  match s.spanFault (e.phys va) n false with
  | some (code, i0, i1) => .error (.broken code i0 i1)
  | none => .ok (s.peekLE (e.phys va) n)

/-- The code word at an offset, or how its translation or its read fails (R70, R86, R418). DESIGN CHOICE (log 111): of the values that
R70 allows for a block stored to since the launch, a fetch returns the one that memory holds now. -/
def fetch (s : State) (c x off : Nat) (acc : AccessKind) : State × Except Xlat Word :=
  let va := s.codeVa x off
  match translate s c x va acc with
  | (s1, .ok e) => (s1, (readAt s1 e va 4).map (BitVec.ofNat 32))
  | (s1, r) => (s1, .error r)

/-- The code word at an offset for the count of R149, which adds no access. -/
def codeAt (s : State) (c x off : Nat) : Option Word :=
  match (fetch s c x off .fetch).2 with
  | .ok w => some w
  | .error _ => none

end Sys2Proof.Machine
end

