-- ==== Sys2Proof/Machine/Races.lean ====
section
/-! DEFINITION. Agents, accesses from outside the domain of a data-class address and the races that they form, how a race ends, and
the pins of control-class lines (R91 to R93, R112 to R114). -/

namespace Sys2Proof.Machine

/-- An agent (R91): the space in which it translates, its team, a number that tells it apart, its core, and where it is: die 0 or 1
for an agent of a compute die, 2 for an engine of the I/O die, 3 for a host agent, 4 + d for an agent of another device d of the FAB
instance, and 260 + d for one of a device outside it. -/
structure Agent where
  space : Nat
  team : Option Nat
  gid : Nat
  core : Nat
  die : Nat
  deriving DecidableEq, Repr

/-- The engine that acts on a command belongs to the team of the group that issued it, and to that group's die unless it is the queue or
the collective engine, which stand on the I/O die and belong to no DIE instance (R91, R92; log 114). -/
def Cmd.agent (c : Cmd) : Agent :=
  ⟨c.ctx, if 0x20000 ≤ c.grp then none else some c.team, 2 ^ 20 + c.num, c.core,
    if c.op = 0xD6 || c.op = 0xD7 || c.op = 0xDB then 2 else dieOfCore c.core⟩

/-- The quad's engines that act on a posted entry (R91). -/
def Entry.agent (e : Entry) (id : Nat) : Agent := ⟨e.ctx, some e.team, 2 ^ 20 + id, e.core, dieOfCore e.core⟩

/-- The command processor, the batch former and the device itself in a space (R91). -/
def ioAgent (x : Nat) : Agent := ⟨x, none, 2 ^ 19, 0x7FF, 2⟩

/-- A host agent (R91, R92). -/
def hostAgent : Agent := ⟨mgmtSpace, none, 2 ^ 19, 0x7FF, 3⟩

/-- An engine's access is one of a command or of a posted entry, which the agent's number names. -/
def Agent.isEngine (ag : Agent) : Bool := 2 ^ 20 ≤ ag.gid && ag.die ≤ 2

/-- The group of an access: the agent of its lane. -/
def State.agentOf (s : State) (k : Nat) : Agent :=
  let g := s.group? k
  { space := s.spaceOf k
    team := g.bind fun g => if g.privileged then none else some g.team
    gid := ((g.map fun g => if g.privileged then k else g.gid)).getD k
    core := keyCore k
    die := dieOfCore (keyCore k) }

/-- Two accesses race: of different agents, of a common byte, one a store, and one from outside the domain of the address; no two
teams are inside the domain TEAM together, a host agent is inside HOST only, and an agent of another device inside FAB and HOST only
(R92, R93, R112). -/
def RaceUse.races (u v : RaceUse) : Bool :=
  !(u.team = v.team && u.gid = v.gid && u.die = v.die) && Nat.land u.mask v.mask ≠ 0 && (u.wrote || v.wrote) &&
    (u.outside || v.outside || (u.dom = 0 && v.dom = 0 && u.team ≠ v.team) || (u.die = 3 && v.dom < 4) ||
      (v.die = 3 && u.dom < 4) || (4 ≤ u.die && v.dom < 3) || (4 ≤ v.die && u.dom < 3))

/-- The instance of domain `d` around the agent of `u` contains the agent of `v` (R92). -/
def RaceUse.sees (u v : RaceUse) (d : Nat) : Bool :=
  if d = 0 then u.team.isSome && u.team = v.team
  else if d = 1 then u.die = v.die && u.die ≤ 1
  else if d = 2 then v.die ≤ 2
  else v.die < 260 && (d = 4 || v.die ≠ 3)

/-- A device belongs to this device's FAB instance: it carries the same domain identifier and is reached at protocol version 2
(R92, R370). -/
def State.inFab (s : State) (d : Nat) : Bool := Config.fabricDomain d % 65536 = bits s.csr.fabid.toNat 8 16 && s.linkedTo d

/-- Host memory (R67). -/
def State.isHost (s : State) (pa : Nat) : Bool := 2 ^ 51 ≤ s.norm pa

/-- An agent of a die lies outside the instance that contains the home of an address: at DIE unless on the home's die, at DIE or PKG
when the home is another device, at FAB when that device is outside the FAB instance, and at DIE when the home is the host port, which
stands on the I/O die. A host agent's direct access to host memory in PCIe mode is outside the device's order (R92, R93, R368,
R370). -/
def State.outsideDomain (s : State) (die dom pa : Nat) : Bool :=
  if die = 3 then s.isHost pa && !s.csr.cxl
  else if 4 ≤ die then 260 ≤ die
  else (dom = 1 && (s.homeDie pa ≠ die || s.isHost pa)) || ((dom = 1 || dom = 2) && (s.remoteDev pa).isSome) ||
    ((dom = 3 || dom = 4) && (s.remoteDev pa).any fun d => !s.inFab d)

/-- The use that an agent's access of `n` bytes of one block at domain `dom` is. -/
def State.useBy (s : State) (ag : Agent) (dom pa n : Nat) (wrote : Bool) : RaceUse :=
  { team := ag.team, gid := ag.gid, die := ag.die, dom := dom, outside := s.outsideDomain ag.die dom pa, wrote := wrote,
    mask := byteMask (s.norm pa % 16) n, fenced := none, released := none }

/-- The use that an access is. -/
def State.useOf (s : State) (a : Access) : RaceUse := s.useBy (s.agentOf a.grp) a.dom a.pa a.size (a.kind ≠ .load)

/-- The block of an access. -/
def State.blockOf (s : State) (a : Access) : Nat := s.norm a.pa / 16

/-- A use joins an earlier one of the same agent that has met no fence since. -/
def addUse (u : RaceUse) : List RaceUse → List RaceUse
  | [] => [u]
  | v :: t => if { v with mask := u.mask } = u then { v with mask := Nat.lor v.mask u.mask } :: t else v :: addUse u t

/-- Note a write, a read at a domain that does not hold every agent of the device, by an agent outside it or by none of the device's, or
one of a block that has uses. Bytes that the device does not hold are free values already (log 15). -/
def State.noteBlock (s : State) (pa : Nat) (u : RaceUse) : State :=
  let b := s.norm pa / 16
  let r := raceBlock s.races s.mem b
  if s.unheld pa || (r.uses = [] && 2 ≤ u.dom && !u.outside && u.die ≤ 2 && !u.wrote) then s
  else { s with races := Tab.put s.races b { r with uses := addUse u r.uses } }

/-- Note an access to a data-class address. -/
def State.noteUse (s : State) (a : Access) : State := if a.control then s else s.noteBlock a.pa (s.useOf a)

/-- Note an agent's access of `n` bytes, block by block, at domain `dom`. -/
def State.noteSpan (s : State) (ag : Agent) (dom pa n : Nat) (wrote : Bool) : State :=
  (List.range (ceilDiv (pa % 16 + n) 16)).foldl (fun s i =>
    let lo := max pa (pa / 16 * 16 + 16 * i)
    let hi := min (pa + n) (pa / 16 * 16 + 16 * (i + 1))
    s.noteBlock lo (s.useBy ag dom lo (hi - lo) wrote)) s

/-- The uses with which an access races. -/
def State.raced (s : State) (a : Access) : List RaceUse :=
  if a.control || s.unheld a.pa then []
  else (((Tab.find s.races (s.blockOf a)).map (·.uses)).getD []).filter fun v => (s.useOf a).races v

/-- What a load takes, given its bytes in a copy of the line: a load that races takes one of the values that its location has held,
any of them (R112; log 98). -/
def State.loadField (s : State) (a : Access) (data : Nat) : Nat :=
  if s.raced a = [] then bits data (8 * (s.norm a.pa % 64)) (8 * a.size)
  else
    let vs := ((Tab.find s.races (s.blockOf a)).map (·.images)).getD []
    bits ((vs[Config.freeRace s.freeCtr % vs.length]?).getD 0) (8 * (s.norm a.pa % 16)) (8 * a.size)

/-- The domain of the acquire of a SAMPLE on which a sampler acts (R323, R325). -/
def State.samplerDomain (s : State) (ag : Agent) : Option Nat :=
  if !ag.isEngine then none
  else ((Tab.find s.cmds (ag.gid - 2 ^ 20)).filter (·.op = 0xDA)).map fun c => bits ((c.block[7]?).getD 0).toNat 16 4

/-- A use is a lane's write that has not been released at a domain as wide as `d`: a sampler's read races with it (R325, R337). -/
def RaceUse.unreleased (u : RaceUse) (d : Nat) : Bool := u.wrote && u.gid < 2 ^ 19 && u.released.all (· < d)

/-- One byte that an agent other than a lane reads at domain `dom`: where it races, one of the values that its location has held
(R112, R337; log 98). -/
def State.agentByte (s : State) (ag : Agent) (dom pa : Nat) : Byte :=
  match Tab.find s.races (s.norm pa / 16) with
  | none => s.peek pa
  | some r =>
    let u := s.useBy ag dom pa 1 false
    let meets (v : RaceUse) : Bool :=
      u.races v || (Nat.land u.mask v.mask ≠ 0 && (s.samplerDomain ag).any v.unreleased)
    if s.unheld pa || !r.uses.any meets then s.peek pa
    else BitVec.ofNat 8 (bits ((r.images[Config.freeRace s.freeCtr % r.images.length]?).getD 0) (8 * (s.norm pa % 16)) 8)

/-! ### The end of a race -/

/-- The uses of a block with a byte in common with `u`. -/
def RaceBlock.near (r : RaceBlock) (u : RaceUse) : List RaceUse := r.uses.filter fun v => Nat.land u.mask v.mask ≠ 0

/-- The race on the bytes of `u` is over: each agent that raced on them has since performed a full fence at a domain whose
instance holds every agent that accessed them (R112). -/
def RaceBlock.over (r : RaceBlock) (u : RaceUse) : Bool :=
  let near := r.near u
  let raced := near.filter fun v => near.any fun w => v.races w
  raced ≠ [] && raced.all fun v => v.fenced.any fun d => near.all fun w => v.sees w d

/-- A full fence at domain `d` of a group. -/
def RaceBlock.fence (r : RaceBlock) (team : Option Nat) (gid d : Nat) : RaceBlock :=
  { r with uses := r.uses.map fun u => if u.team = team && u.gid = gid then { u with fenced := some (max d (u.fenced.getD 0)) } else u }

/-- A release at domain `d` of a group (R98, R99, R337). -/
def RaceBlock.release (r : RaceBlock) (team : Option Nat) (gid d : Nat) : RaceBlock :=
  { r with uses := r.uses.map fun u =>
      if u.team = team && u.gid = gid then { u with released := some (max d (u.released.getD 0)) } else u }

/-- A release at domain `d` by a group's agent. -/
def State.releaseUses (s : State) (ag : Agent) (d : Nat) : State :=
  let mark (x : Nat × RaceBlock) : Nat × RaceBlock := (x.1, x.2.release ag.team ag.gid d)
  { s with races := s.races.map mark }

/-- The uses of a block whose race a full fence of a group leaves open. -/
def RaceBlock.open_ (r : RaceBlock) : List RaceUse := r.uses.filter fun u => !r.over u

/-- The copies of some lines leave every L1 and every L2 that is not their home. -/
def State.dropCopies (s : State) (lines : List Nat) : State :=
  let keep (cs : Tab CopyLine) : Tab CopyLine := cs.filter fun x => !lines.contains x.1
  if lines = [] then s
  else
    { s with
      cores := s.cores.map fun x => (x.1, { x.2 with l1 := keep x.2.l1 })
      die0 := { s.die0 with copies := keep s.die0.copies }
      die1 := { s.die1 with copies := keep s.die1.copies } }

/-- A full fence of a group: the races that it ends are over, and their bytes are ordinary again: the one value that they hold is the
last of their home's order, and no copy leased before hides it (R112). -/
def State.fenceRaces (s : State) (team : Option Nat) (gid d : Nat) : State :=
  let mark (x : Nat × RaceBlock) : Nat × RaceBlock := (x.1, x.2.fence team gid d)
  let settle (x : Nat × RaceBlock) : Nat × RaceBlock := (x.1, { x.2 with uses := x.2.open_ })
  let fenced := s.races.map mark
  let ends (x : Nat × RaceBlock) : Bool := x.2.open_.length ≠ x.2.uses.length
  let kept := (fenced.map settle).filter fun x => x.2.uses ≠ [] || x.2.images.length ≠ 1
  let line (x : Nat × RaceBlock) : Nat := x.1 / 4
  ({ s with races := kept }).dropCopies ((fenced.filter ends).map line)

/-! ### Pins (R113, R114) -/

/-- What stands for an agent's TEAM instance: its team, or the agent itself when it has none. -/
def Agent.inst (ag : Agent) : Nat := ag.team.getD (2 ^ 32 + ag.gid)

/-- What stands for the instance of a domain that contains an agent (R92): its team or itself, its die, its device, or, for a device
outside this device's FAB instance, that device again. -/
def Agent.instOf (ag : Agent) (dom : Nat) : Nat :=
  if dom = 0 then ag.inst
  else if dom = 1 then ag.die
  else if ag.die < 4 || (3 ≤ dom && ag.die < 260) then 0 else ag.die

/-- The pinned instance of a domain contains an agent (R92, R113): an engine of the I/O die lies in no DIE instance, a host agent
in HOST only. -/
def Pin.inside (p : Pin) (ag : Agent) : Bool :=
  p.inst = ag.instOf p.dom && !(p.dom = 1 && (ag.die = 2 || ag.die = 3)) && !(2 ≤ p.dom && p.dom ≤ 3 && ag.die = 3)

/-- The pin that an agent's access at domain `dom` would set. -/
def Agent.pin (ag : Agent) (dom : Nat) : Pin := ⟨dom, ag.instOf dom, ag.space⟩

/-- Info 0 of a domain violation: the pin's domain and holder (R424). -/
def State.pinInfo (s : State) (p : Pin) : Nat :=
  let device (n : Nat) : Nat := if n < 4 then s.ownFabric else (n - 4) % 256
  let holder := if p.dom = 0 then ((s.team? p.inst).map (·.core)).getD 0
    else if p.dom = 1 && p.inst < 4 then p.inst else device p.inst
  p.dom + 256 * holder

/-- The pin that refuses an agent's access to a control-class line; that of another device's home is a free value (R113; log 15). -/
def State.pinAgainst (s : State) (ag : Agent) (pa : Nat) : Option Pin :=
  let line := lineOf (s.norm pa)
  if (s.remoteDev pa).isSome && !s.owns pa then
    (Config.freePin s.freeCtr line).map fun p => ⟨p.1, p.2.1, p.2.2⟩
  else (s.homeLine line).pin.filter fun p => !p.inside ag

/-- The first access to a control-class line at its home here, or to one that this device owns, pins it (R110, R113). -/
def State.pinBy (s : State) (ag : Agent) (dom pa : Nat) : State :=
  let line := lineOf (s.norm pa)
  let h := s.homeLine line
  if ((s.remoteDev pa).isNone || s.owns pa) && h.pin.isNone then s.setHome line { h with pin := some (ag.pin dom) } else s

/-- A pin refuses an access of an agent other than a lane: it is tried again, and an engine's raises a domain violation once it has been
refused for 65,536 cycles, counted afresh after that (R113, R115, R424; log 82). -/
def State.refuse (s : State) (ag : Agent) (p : Pin) : State × Xlat :=
  let now := s.cycles (if ag.die = 1 then 1 else 0)
  if !ag.isEngine then (s, .held)
  else match Tab.find s.refusals ag.gid with
    | none => ({ s with refusals := Tab.put s.refusals ag.gid now }, .held)
    | some c =>
      if now < c + 65536 then (s, .held)
      else ({ s with refusals := Tab.del s.refusals ag.gid }, .broken 0x0402 (s.pinInfo p) (ag.core % 2048))

/-- An agent of the instance of a FENCE's domain around group `k` (R92). -/
def State.inFence (s : State) (k : Nat) (f : Fence) (ag : Agent) : Bool :=
  if f.dom = 0 then (s.agentOf k).team.isSome && (s.agentOf k).team = ag.team
  else if f.dom = 1 then dieOfCore (keyCore k) = ag.die else true

/-- An agent other than group `k` itself does not reach a line on which an access has gone early before a FENCE of its instance
completes (R99). -/
def State.veils (s : State) (ag : Agent) (self pa : Nat) : Bool :=
  s.groups.any fun x => x.1 ≠ self && x.2.fences.any fun y =>
    y.2.early.contains (lineOf (s.norm pa)) && s.inFence x.1 y.2 ag

/-- An access of an agent other than a lane meets the home of its line: a fault of an engine's access, a refusal by a pin, a FENCE
that it may not overtake, or nothing in its way; a control-class line is pinned. A write on a dead route is no fault: it performs
nothing (R99, R113, R421, R425, R427, R428, R431). -/
def State.meetLine (s : State) (ag : Agent) (write whole : Bool) (va pa : Nat) : State × Option Xlat :=
  match (s.lineFault pa write whole).filter fun f => !(write && f.1 = 0x0401) with
  | some (code, i0, i1) => (s, some (.broken code i0 i1))
  | none =>
    if s.veils ag (2 ^ 20) pa then (s, some .held)
    else
      let r := s.regionOf ag.space va
      if !r.2 then (s, none)
      else match s.pinAgainst ag pa with
        | some p => ((s.refuse ag p).1, some (s.refuse ag p).2)
        | none =>
          let s1 := if (Tab.find s.refusals ag.gid).isNone then s else { s with refusals := Tab.del s.refusals ag.gid }
          (s1.pinBy ag r.1 pa, none)

end Sys2Proof.Machine
end

