-- ==== Sys2Proof/Machine/Ops.lean ====
section
/-! DEFINITION. The shared operations of the machine: fault records, rings and delivery, suspension and charging (taking
an exception) with ERET beside them, the end of lanes, groups and turns, headers and the advance of lanes, and the issue
of a word with its checks. -/

namespace Sys2Proof.Machine

/-! ### Reads and writes of virtual memory by engines of the I/O die and the device itself -/

/-- The lines of `n` bytes of a page, in order, meet their homes: the first that fails decides. -/
def meetLines (ag : Agent) (write : Bool) (va pa n : Nat) : Nat → State → State × Option Xlat
  | 0, s => (s, none)
  | m + 1, s =>
    let i := ceilDiv (pa % 64 + n) 64 - (m + 1)
    let lo := max pa (pa / 64 * 64 + 64 * i)
    match s.meetLine ag write (write && lo % 64 = 0 && lo + 64 ≤ pa + n) (va + (lo - pa)) lo with
    | (s1, none) => meetLines ag write va pa n m s1
    | r => r

/-- Translate and meet the homes of `n` bytes of a page for an engine of the I/O die acting in a space (R84, R88). -/
def reach (s : State) (x va n : Nat) (acc : AccessKind) : State × Except Xlat TlbEntry :=
  let ag := ioAgent x
  match translateWalk s x va acc with
  | (s1, .ok e) =>
    match meetLines ag (acc = .store) va (e.phys va) n (ceilDiv (e.phys va % 64 + n) 64) s1 with
    | (s2, some r) => (s2, .error r)
    | (s2, none) =>
      let r := s2.regionOf x va
      (if r.2 then s2 else s2.noteSpan ag r.1 (e.phys va) n (acc = .store), .ok e)
  | (s1, r) => (s1, .error r)

/-- `n` bytes of a page at a virtual address of a space, or how they fail. -/
def readVirt (s : State) (x va n : Nat) : State × Except Xlat Nat :=
  match reach s x va n .load with
  | (s1, .ok e) => (s1, .ok (readBytes (s1.agentByte (ioAgent x) (s1.regionOf x va).1) (e.phys va) n))
  | (s1, .error r) => (s1, .error r)

/-- Store `n` bytes of a page at a virtual address of a space; nothing is stored when they fail (R104). -/
def writeVirt (s : State) (x va n v : Nat) : State × Except Xlat Unit :=
  match reach s x va n .store with
  | (s1, .ok e) => (s1.deviceBytes 0 (e.phys va) (leBytes v n), .ok ())
  | (s1, .error r) => (s1, .error r)

/-! ### Fault records (R388 to R394) -/

/-- Default disposition of a fault code (R388): 0 suspended, 1 continuing, 2 charged, 3 recorded. -/
def disposition (code : Nat) : Nat :=
  if code ∈ [0x0201, 0x0202, 0x0203, 0x0205, 0x0206, 0x0303] then 1
  else if code ∈ [0x0405, 0x0501, 0x0502, 0x0503, 0x0504, 0x0601, 0x0602] then 2
  else if code ∈ [0x0120, 0x0207, 0x0301, 0x0302, 0x0401] then 3
  else 0

/-- The codes of R388. -/
def codeListed (code : Nat) : Bool :=
  code ∈ [0x0101, 0x0102, 0x0103, 0x0104, 0x0105, 0x0106, 0x0107, 0x0108, 0x0110, 0x0111, 0x0120, 0x0201, 0x0202,
    0x0203, 0x0204, 0x0205, 0x0206, 0x0207, 0x0301, 0x0302, 0x0303, 0x0401, 0x0402, 0x0403, 0x0404, 0x0405, 0x0501,
    0x0502, 0x0503, 0x0504, 0x0601, 0x0602]

/-- What a fault arises in: a group of a team, a management core's privileged group, or a unit of the I/O die (R390, R398). -/
inductive Origin
  | group
  | manager
  | io
  deriving DecidableEq, Repr

/-- Where a fault arises: what the record's fields say of it (R390). -/
structure Source where
  ctx : Nat
  core : Nat
  part : Nat
  place : Nat
  slot : Option Nat
  req : Nat
  die : Nat
  origin : Origin
  /-- The stamp of the group. -/
  stamp : Option Nat
  deriving DecidableEq, Repr

/-- The order of the records of one tick: ascending COREID, the I/O die last (R392). -/
def Source.rank (u : Source) : Nat := if u.origin = .io then 0x800 else u.core

/-- Source of a fault of a management core's group, in the context of the record that it handles (R398). -/
def managerSource (n ctx : Nat) : Source := ⟨ctx, 0x7FF, 0, 0, none, 0, n / 8, .manager, none⟩

/-- Source of a fault of a group (R390); a privileged group shows COREID 0x7FF (R398). -/
def State.sourceOf (s : State) (k : Nat) : Source :=
  if 0x20000 ≤ k then managerSource (k - 0x20000) 0
  else
    let t := s.teamOf k
    { ctx := s.ctxOf k, core := keyCore k, part := keyPart k, place := keyPlace k,
      slot := t.bind (·.slot), req := (t.map (·.reqId)).getD 0, die := dieOfCore (keyCore k),
      origin := .group, stamp := (s.group? k).map (·.stamp) }

/-- Source of a fault of an I/O die unit acting for a context (R390). -/
def ioSource (ctx : Nat) : Source := ⟨ctx, 0x7FF, 0, 0, none, 0, 0, .io, none⟩

/-- A fault: code, disposition and the fields that its rule states. -/
structure Report where
  code : Nat
  disp : Nat
  pc : Nat
  mask : Nat
  addr : Nat
  info0 : Nat
  info1 : Nat
  deriving DecidableEq, Repr

/-- The 512 bits of a fault record but for its sequence (R390). -/
def recordBits (s : State) (u : Source) (r : Report) : Nat :=
  packFields
    [(448, 64, r.info1), (384, 64, r.info0), (320, 64, r.addr), (256, 64, if u.slot.isSome then u.req else 0),
     (224, 32, r.pc), (192, 32, r.mask), (144, 48, s.time0 u.die), (140, 1, if u.slot.isSome then 1 else 0),
     (128, 12, u.slot.getD 0), (122, 6, u.ctx), (111, 11, u.core), (109, 2, u.part), (105, 4, u.place),
     (80, 16, r.code), (72, 4, r.disp)]

/-- A ring of 2^log entries is usable (R391). -/
def ringOn (c : Context) : Bool := 6 ≤ c.frsize && c.frsize ≤ 16

/-- The ring is full (R392). -/
def ringFull (c : Context) : Bool := 2 ^ c.frsize ≤ (c.frhead + 2 ^ 32 - c.frtail) % 2 ^ 32

/-- Write a record into its context's ring, or count it lost (R391, R392); the record with its sequence. -/
def State.ringWrite (s : State) (u : Source) (bits0 : Nat) : State × Nat :=
  let c := s.context u.ctx
  let rec1 := bits0 + (c.frhead % 2 ^ 32) * 2 ^ 32
  let note (c : Context) : Context := { c with recTick := s.ticks 0, recRank := u.rank }
  if ringOn c && !ringFull c then
    let a := bits c.frbase.toNat 12 40 * 4096 + 64 * (c.frhead % 2 ^ c.frsize)
    let s1 := s.deviceStore 0 a 64 rec1
    (s1.onContext u.ctx fun c => { note c with frhead := (c.frhead + 1) % 2 ^ 32 }, rec1)
  else
    (s.onContext u.ctx fun c => { note c with frlost := min (c.frlost + 1) (2 ^ 32 - 1) }, rec1)

/-- Fields that delivery reads back from a record. -/
def recCore (r : Nat) : Nat := bits r 111 11
def recKey (r : Nat) : Nat := mkKey (recCore r) (bits r 109 2) (bits r 105 4)
def recCode (r : Nat) : Nat := bits r 80 16
def recDisp (r : Nat) : Nat := bits r 72 4

/-- Management core that receives a record: the sector of its COREID; for an I/O die source sector 0 of die 0, or of
die 1 when die 0 is lost (R393). -/
def State.managerOf (s : State) (d : Delivery) : Nat :=
  if d.unit then (if s.die0.lost then 8 else 0) else recCore d.record / 128

/-- Queue a record for a management core: 64 records; beyond that a record of disposition 0 or 1 waits at its source
and one of disposition 2 or 3 is dropped and counted (R393, R394). -/
def State.enqueueAt (s : State) (n : Nat) (d : Delivery) : State :=
  let m := s.manager n
  if m.queue.length < 64 && m.waiting = [] then s.onManager n fun m => { m with queue := m.queue ++ [d] }
  else if recDisp d.record ≤ 1 then s.onManager n fun m => { m with waiting := m.waiting ++ [d] }
  else { s with csr := { s.csr with mclost := min (s.csr.mclost + 1) (2 ^ 32 - 1) } }

/-- Queue a record for its management core (R393). -/
def State.enqueueRecord (s : State) (d : Delivery) : State := s.enqueueAt (s.managerOf d) d

/-- Write a record into its ring and hand it to the management core. -/
def State.sendRecord (s : State) (u : Source) (bits : Nat) : State × Nat :=
  let w := s.ringWrite u bits
  (w.1.enqueueRecord ⟨w.2, u.origin ≠ .group, u.stamp⟩, w.2)

/-- Write the record of a fault and hand it to the management core (R390, R392, R393). -/
def State.report (s : State) (u : Source) (r : Report) : State × Nat := s.sendRecord u (recordBits s u r)

/-! ### Completion of instructions that count (R158, R159, R208) -/

/-- Completion for la and c of the instruction or command `op` of a group (R158). -/
def State.complete (s : State) (k c op : Nat) : State :=
  s.onGroup k fun g =>
    if c = 0 then { g with holds := g.holds.filter (·.op ≠ op) } else g.setCounter c (g.counter c - 1)

/-- Lanes of a memory instruction have acted; the last completes it (R216). -/
def State.lanesDone (s : State) (op : Nat) (m : Word) : State :=
  match Tab.find s.ops op with
  | none => s
  | some o =>
    let left := o.left &&& ~~~ m
    if left = 0 then ({ s with ops := Tab.del s.ops op }).complete o.grp o.c op
    else { s with ops := Tab.put s.ops op { o with left := left } }

/-! ### The end of turns, groups and teams (R44, R208, R211) -/

/-- End the turn that a group holds; its wait count restarts, and the partition notes the cycle (R44, R47). -/
def State.endTurn (s : State) (k : Nat) : State :=
  let p := s.part (partOf k)
  match p.turn with
  | none => s
  | some t =>
    if t.place = keyPlace k && k < 0x20000 then
      (s.onPart (partOf k) fun p => { p with turn := none, freed := s.cycles (dieOfCore (keyCore k)) }).onGroup k fun g =>
        { g with wait := 0 }
    else s

/-- End the turn of a group if it is still the one of that team that held the place. -/
def State.endOwnTurn (s : State) (k tid : Nat) : State :=
  if (s.group? k).any fun g => g.team = tid then s.endTurn k else s

/-- A group of team `t` is blocked on its barrier as `b` says. -/
def Group.atBarrier (g : Group) (t : Nat) (b : Block) : Bool := !g.privileged && g.team = t && g.block = b

/-- A group that TBAR.ARV has blocked on a phase arrives in the next as soon as that phase completes, unless it is suspended then: it
arrives when it has been resumed (R211, R394). -/
def Group.arrivesNext (g : Group) (t phase : Nat) : Bool := g.atBarrier t (.tbarArv phase) && g.suspension.isNone

/-- The group once phase `phase` of its team's barrier has completed: ready again (R211). -/
def Group.wake (t phase : Nat) (g : Group) : Group :=
  if g.atBarrier t (.tbar phase) || g.arrivesNext t phase then { g with block := .none } else g

/-- The phase of a team barrier completes when arrivals equal the expected count: every group blocked on it becomes
ready, and a group that TBAR.ARV blocked arrives in the next phase (R211). -/
def State.tbarCheck (s : State) (t : Nat) : State :=
  match s.team? t with
  | none => s
  | some tm =>
    if tm.arrived.length = tm.expected then
      let next := (s.groups.filter fun x => x.2.arrivesNext t tm.phase).map (·.1)
      let again := next ≠ [] && next.length = tm.expected
      let s1 := s.onTeam t fun tm =>
        { tm with phase := (tm.phase + if again then 2 else 1) % 2 ^ 32, arrived := if again then [] else next }
      { s1 with groups := s1.groups.map fun x => (x.1, x.2.wake t tm.phase) }
    else s

/-- A group arrives at its team barrier (R211). -/
def State.tbarArrive (s : State) (k t : Nat) : State :=
  (s.onTeam t fun tm => { tm with arrived := k :: tm.arrived }).tbarCheck t

/-- A group exits: its turn ends, and its team barrier no longer expects it nor counts its arrival (R208, R211). -/
def State.groupExit (s : State) (k : Nat) : State :=
  match s.group? k with
  | none => s
  | some g =>
    if g.exited || g.privileged then s
    else
      let s1 := (s.endTurn k).onGroup k fun g => { g with exited := true, block := .none }
      (s1.onTeam g.team fun tm => { tm with expected := tm.expected - 1, arrived := tm.arrived.filter (· ≠ k) }).tbarCheck
        g.team

/-- A group whose lanes have all exited exits (R208). -/
def State.exitCheck (s : State) (k : Nat) : State :=
  match s.group? k with
  | none => s
  | some g => if g.allExited && !g.privileged then s.groupExit k else s

/-- The interlocked destination of an instruction of a group becomes readable (R157). -/
def State.unbusy (s : State) (k op : Nat) : State := s.onGroup k fun g => { g with busy := Tab.del g.busy op }

/-- Drop the operand-log entries of a group; the instructions they hold complete (R319). -/
def State.dropLog (s : State) (k : Nat) : State :=
  let mine := (s.part (partOf k)).log.filter fun (_, e) => e.grp = k
  let s1 := s.onPart (partOf k) fun p => { p with log := p.log.filter fun (_, e) => e.grp ≠ k }
  mine.foldl (fun s x => (s.unbusy k x.2.op).lanesDone x.2.op (maskOf (x.2.lanes.map (·.1)))) s1

/-- Withdraw a group's blocking QDEQ and its started XBAR.WAIT (R273, R319). -/
def State.withdrawQdeq (s : State) (k : Nat) : State :=
  let mine := (s.cmds.filter fun (_, c) => c.grp = k && ((c.op = 0xD6 && c.m = 0) || (c.op = 0xD5 && c.started))).map (·.1)
  let keep (d : ItemQueue) : ItemQueue := { d with waitDeq := d.waitDeq.filter fun c => !mine.contains c }
  let core (q : Core) : Core := { q with uncoreQ := q.uncoreQ.filter fun c => !mine.contains c }
  if mine = [] then s
  else
    { s with
      itemQueues := s.itemQueues.map fun x => (x.1, keep x.2)
      cores := s.cores.map fun x => (x.1, core x.2)
      cmds := s.cmds.filter fun x => !mine.contains x.1 }

/-- Cancellation (R319): the group ends as if every lane had executed EXIT; blocks, suspension and unreplayed faults
are withdrawn, and no record is written. -/
def State.cancelGroup (s : State) (k : Nat) : State :=
  match s.group? k with
  | none => s
  | some g =>
    if g.privileged then s
    else if g.exited then
      (s.onGroup k fun g => { g with suspension := none, fetchWait := [], fences := [], launches := [], cancelled := true }).dropLog k
    else
      let s1 := s.onGroup k fun g =>
        { g with pcs := g.pcs.map fun _ => exitedPc, block := .none, suspension := none, fetchWait := [], unseen := [],
                  fences := [], launches := [], cancelled := true }
      let s2 := s1.withdrawQdeq k
      (s2.dropLog k).groupExit k

/-- Drop teams that have been saved: they count as exited (R397). -/
def State.dropSaved (s : State) (f : Saved → Bool) : State :=
  let gone := s.saved.filter fun x => f x.2
  let s1 := { s with saved := s.saved.filter fun x => !f x.2 }
  gone.foldl (fun s x =>
    let s2 := { s with teams := Tab.del s.teams x.1 }
    s2.onGrid x.2.team.grid fun g => { g with live := g.live - 1 }) s1

/-- Note of teams that a charge of their slot, or the device, has ended them (R397, R440). -/
def State.markEnded (s : State) (ids : List Nat) : State :=
  ids.foldl (fun s id => s.onTeam id fun t => { t with ended := true }) s

/-- End every team of a grid that serves a slot, as a cancelled group ends; its engine commands are stopped. Saved teams
of the slot end too, and teams not yet placed never are: the slot's extent becomes 0 (R58, R319, R397). -/
def State.endSlot (s : State) (grid slot : Nat) : State :=
  let ts := (s.teams.filter fun (_, t) => t.grid = grid && t.slot = some slot).map (·.1)
  let ks := (s.groups.filter fun (_, g) => !g.privileged && ts.contains g.team).map (·.1)
  let stop (c : Cmd) : Cmd := if ts.contains c.team then { c with doomed := true } else c
  let s1 := ks.foldl (fun s k => s.cancelGroup k) s
  let s2 : State := { s1 with cmds := s1.cmds.map fun x => (x.1, stop x.2) }
  let none1 (x : Nat × Nat × Nat) : Nat × Nat × Nat := (0, x.2)
  let s3 := (s2.markEnded ts).onGrid grid fun g => { g with slots := Tab.alter g.slots slot none1 }
  s3.dropSaved fun v => v.team.grid = grid && v.team.slot = some slot

/-- Ticks of an exchange of the sampler, whole units of 1,024 (R333). -/
def State.exchangeTicks (s : State) : Nat := ceilDiv s.csr.smptmo 1024 * 1024

/-- Write a code into a request record's fault code field when it holds 0 (R397); for 0x0502 the batch former will not
admit the request again until one exchange timeout has passed (R442). An access that a freeze of the record's page or a pin holds is
made later, in the order in which such accesses were held (R88, R113). -/
def State.chargeRequest (s : State) (x rec code : Nat) : State :=
  match readVirt s x (rec + 12) 2 with
  | (s1, .ok 0) =>
    match writeVirt s1 x (rec + 12) 2 code with
    | (s2, .error .held) => { s2 with heldCharges := s2.heldCharges ++ [(x, rec, code)] }
    | (s2, _) =>
      if code ≠ 0x0502 then s2
      else
        let wait (f : Former) : Former := { f with requeued := Tab.put f.requeued rec (s.ticks 0 + s.exchangeTicks) }
        { s2 with formers := Tab.alter s2.formers x wait }
  | (s1, .error .held) => { s1 with heldCharges := s1.heldCharges ++ [(x, rec, code)] }
  | (s1, _) => s1

/-- The charges that have been held are tried again, in their order (R88, R113). -/
def State.retryCharges (s : State) : State :=
  if s.heldCharges = [] then s
  else s.heldCharges.foldl (fun s c => s.chargeRequest c.1 c.2.1 c.2.2) { s with heldCharges := [] }

/-- Charge the slot that a group's team serves: request record, fault record, then the slot's teams (R397). A group
without a valid slot is suspended by the caller (R389). -/
def State.charge (s : State) (k : Nat) (r : Report) : State :=
  match s.teamOf k with
  | none => s
  | some t =>
    match t.slot with
    | none => s
    | some slot =>
      let u := s.sourceOf k
      let s1 := s.chargeRequest u.ctx t.reqRec r.code
      let s2 := (s1.report u { r with disp := 2 }).1
      s2.endSlot t.grid slot

/-- An interlocked instruction has written registers in some lanes: of loads and engine results still in flight to
them, the value written later in program order stands (R160). -/
def State.overtake (s : State) (k : Nat) (m : Word) (rs : List Nat) : State :=
  let acc (a : Access) : Access :=
    if a.grp = k && a.kind ≠ .store && m.getLsbD a.lane then { a with dead := rs ++ a.dead } else a
  let log (e : LogEntry) : LogEntry :=
    if e.grp = k then { e with dead := rs.flatMap (fun r => (lanesOf m).map fun l => (l, r)) ++ e.dead } else e
  let cmd (c : Cmd) : Cmd := if c.grp = k && rs.contains (96 + c.h) then { c with dead := true } else c
  let p := s.part (partOf k)
  { s with
    accesses := s.accesses.map fun x => (x.1, acc x.2)
    parts := if p.log = [] then s.parts else Tab.put s.parts (partOf k) { p with log := p.log.map fun x => (x.1, log x.2) }
    cmds := s.cmds.map fun x => (x.1, cmd x.2) }

/-- Load a record into the privileged group of a management core and start it at MCENTRY, whose header is checked when the
group next moves; loads still in flight to v0 to v15 no longer write them (R39, R160, R393, R398). -/
def State.startHandler (s : State) (n r : Nat) : State :=
  (s.overtake (privKey n) 1 (List.range 16)).onGroup (privKey n) fun g =>
    let g1 := (List.range 16).foldl (fun g i => g.setV i 0 (recWord r i)) g
    let H := s.csr.mcentry.toNat / 64 * 64
    { g1 with pcs := [BitVec.ofNat 32 (H + 4)], unseen := [⟨H, 1⟩], arrived := H, fetchWait := [], holds := [],
              block := .none }

/-- Where the group that a record names is now: its key, while it holds a place (R398). -/
def State.recordedKey (s : State) (d : Delivery) : Option Nat :=
  d.stamp.bind fun z => ((s.groups.filter fun x => !x.2.privileged && x.2.stamp = z).head?).map (·.1)

/-- The saved team whose group a record names. -/
def State.recordedTeam (s : State) (d : Delivery) : Option (Nat × Saved) :=
  d.stamp.bind fun z => (s.saved.filter fun x => x.2.groups.any fun g => g.2.stamp = z).head?

/-- Charge the slot of the team of a record's group with the record's code (R397, R398). -/
def State.chargeRecorded (s : State) (r : Nat) (t : Team) (slot : Nat) : State :=
  let ctx := bits r 122 6
  let u : Source := { ctx := ctx, core := recCore r, part := bits r 109 2, place := bits r 105 4, slot := some slot, req := t.reqId,
                      die := dieOfCore (recCore r), origin := .group, stamp := none }
  let s1 := s.chargeRequest ctx t.reqRec (recCode r)
  let s2 := s1.report u ⟨recCode r, 2, bits r 224 32, bits r 192 32, bits r 320 64, bits r 384 64, bits r 448 64⟩
  s2.1.endSlot t.grid slot

/-- End every lane of a record's group by a second handler fault, and charge the slot of its team; nothing when the group has left
since, whatever stands at its place (R398, R399). -/
def State.endRecorded (s : State) (d : Delivery) : State :=
  let charge (t : Team) (s : State) : State := (t.slot.map fun n => s.chargeRecorded d.record t n).getD s
  match s.recordedKey d with
  | some k => (((s.teamOf k).map fun t => charge t s).getD s).cancelGroup k
  | none =>
    match s.recordedTeam d with
    | none => s
    | some (id, v) =>
      let stop (g : Nat × Group) : Nat × Group :=
        if some g.2.stamp = d.stamp then (g.1, { g.2 with pcs := g.2.pcs.map fun _ => exitedPc, suspension := none, block := .none })
        else g
      charge v.team { s with saved := Tab.alter s.saved id fun v => { v with groups := v.groups.map stop } }

/-- The window selection of a record: the group it names, or place 15 (R393). -/
def recWinsel (d : Delivery) : Nat :=
  if d.unit then 15 * 8192 + recKey d.record % 8192 else recKey d.record

/-- A fault of the privileged group of management core `n`; its own record is delivered to it (R393, R398; log 47). -/
def State.handlerFault (s : State) (n code pc : Nat) : State :=
  let m := s.manager n
  let h := (m.handling.map (·.record)).getD 0
  let u := managerSource n (bits h 122 6)
  let r : Report := ⟨0x0120, 3, pc, 1, 0, code, recCode h + n * 2 ^ 32⟩
  let w := s.ringWrite u (recordBits s u r)
  let s1 := match m.handling, m.again with
    | some _, some a => (w.1.endRecorded a).onManager n fun m =>
        { m with again := none, handling := none, inFault := true, halted := false, open_ := false }
    | some b, none => w.1.onManager n fun m =>
        { m with again := some b, inFault := true, halted := false, open_ := false }
    | none, _ => w.1.onManager n fun m => { m with inFault := true, halted := false, open_ := false }
  (s1.onManager n fun m => { m with winsel := recWinsel ⟨w.2, true, none⟩ }).startHandler n w.2

/-- The second port of a partition has nothing to issue in this cycle (R41). -/
def State.clearSecond (s : State) (p : Nat) : State :=
  if (s.part p).second.isNone then s else s.onPart p fun q => { q with second := none }

/-- Suspend a group on a record of disposition 0: its turn ends, the second port issues nothing, and the record is delivered. A
group that stands suspended keeps the suspension that ERET will end (R389, R394, R395, R400, R401). -/
def State.suspend (s : State) (k : Nat) (r : Report) : State :=
  let w := s.report (s.sourceOf k) { r with disp := 0 }
  ((w.1.endTurn k).clearSecond (partOf k)).onGroup k fun g =>
    if g.suspension.isSome then g
    else { g with suspension := some ⟨r.code, BitVec.ofNat 32 r.mask, BitVec.ofNat 32 r.pc, false, w.2⟩ }

/-- TAKING AN EXCEPTION. A fault of a group with its code's default disposition (R388, R389): suspended, continuing,
charged (or suspended without a slot), or recorded; a fault of a privileged group restarts its handler (R398). -/
def State.takeFault (s : State) (k : Nat) (r : Report) : State :=
  if 0x20000 ≤ k then s.handlerFault (k - 0x20000) r.code r.pc
  else
    match disposition r.code with
    | 0 => s.suspend k r
    | 2 => if (s.slotOf k).isSome then s.charge k r else s.suspend k r
    | d => (s.report (s.sourceOf k) { r with disp := d }).1

/-! ### Headers (R144 to R150, R403) -/

/-- Count of a header (R145). -/
def hdrCount (h : Word) : Nat := bits h.toNat 22 4

/-- Class of a header (R145). -/
def hdrClass (h : Word) : Nat := bits h.toNat 26 3

/-- Signature of a header (R145). -/
def hdrSig (h : Word) : Bool := bits h.toNat 29 3 = 7

/-- The E bit (R145). -/
def hdrEnd (h : Word) : Bool := h.getLsbD 21

/-- A DATA header (R146, R150). -/
def hdrData (h : Word) : Bool := hdrSig h && hdrClass h = 7

/-- The reason of R403, orders 2 to 6, for which a header at word `w` of its block fails; `branch` tells reason 7
from reason 1. -/
def hdrReason (h : Word) (w : Nat) (branch : Bool) : Option Nat :=
  if !hdrSig h then some (if branch then 7 else 1)
  else if hdrClass h = 5 || hdrClass h = 6 then some 2
  else if hdrCount h = 0 then some 3
  else if bits h.toNat 0 15 ≠ 0 then some 4
  else if 15 < w + hdrCount h then some 5
  else none

/-- The headers of a block from word `w` on, each with its word index, up to the first that fails (R144). -/
def chain (rd : Nat → Option Word) (base : Nat) : Nat → Nat → List (Nat × Word)
  | 0, _ => []
  | n + 1, w =>
    if 15 < w then []
    else match rd (base + 4 * w) with
      | none => []
      | some h => if (hdrReason h w false).isSome || hdrData h then [] else (w, h) :: chain rd base n (w + hdrCount h + 1)

/-- The nearest word below word `n` of a block that is a header, itself in order, of a clause that reaches word `w` (R144, R147). -/
def headerBelow (rd : Nat → Option Word) (base w : Nat) : Nat → Option (Nat × Word)
  | 0 => none
  | n + 1 => match rd (base + 4 * n) with
    | none => none
    | some h =>
      if (hdrReason h n false).isNone && !hdrData h && w ≤ n + hdrCount h then some (n, h) else headerBelow rd base w n

/-- The clause whose instruction words include a code offset: its header's offset and word. No instruction word has a header's
signature, so the nearest header below whose clause reaches the word is the clause's, whatever stands before it in the block; a word
that bears the signature within a clause's count and is no header in order belongs to that clause (R43, R144, R147, R405). -/
def clauseAt (rd : Nat → Option Word) (pc : Nat) : Option (Nat × Word) :=
  let base := pc / 64 * 64
  let w := pc % 64 / 4
  if pc % 4 ≠ 0 || (rd base).all hdrData then none
  else (headerBelow rd base w w).map fun x => (base + 4 * x.1, x.2)

/-- Instruction words from the later of the run's first header and the header of the last arrival up to the header at
`H`, that header's included; 0 when the arrival lies above it. A block of the arrival is read from there on; a block with a header
that fails, before the arrival or after it, belongs to no run, and the first clause after it begins one (R147, R149). -/
def runCount (rd : Nat → Option Word) (arrived H : Nat) : Nat :=
  if H < arrived then 0
  else
    let blocks := (List.range 5).map fun i => H / 64 + i
    (blocks.foldl (fun (acc : Nat × Bool) b =>
      if b < 4 || b - 4 < arrived / 64 then acc
      else
        let base := (b - 4) * 64
        let from_ := if b - 4 = arrived / 64 then arrived % 64 / 4 else 0
        let hs := chain rd base 8 from_
        let fills (w : Nat) : Bool := w + ((chain rd base 8 w).foldl (fun n x => n + hdrCount x.2 + 1) 0) = 16
        let full := fills 0 && fills from_
        let r := hs.foldl (fun (a : Nat × Bool) x =>
          if H < base + 4 * x.1 then a
          else (if a.2 || base + 4 * x.1 = arrived then hdrCount x.2 else a.1 + hdrCount x.2, hdrEnd x.2)) acc
        (r.1, r.2 || !full)) (0, true)).1

/-- The blocks that a lane at a PC needs: its word's, and that of a header before it that has yet to be checked (R39). -/
def Group.needs (g : Group) (pc : Word) (lane : Nat) : List Nat :=
  match g.unseen.find? fun u => u.lanes.getLsbD lane with
  | some u => [u.hdr / 64 * 64]
  | none => [pc.toNat / 64 * 64]

/-- Lanes whose PC lies in a block, or that wait for a header in it (R418). -/
def Group.lanesIn (g : Group) (blk : Nat) : Word :=
  maskOf ((List.range g.pcs.length).filter fun l => (g.needs ((g.pcs[l]?).getD 0) l).contains blk)

/-- Lanes' fetch of a block fails at its translation (R418), or at the home of the line that it reads, whose record shows the virtual
address (R86, R425, R427, R428, R431): its record, and the block waits. Nothing while a freeze holds it. -/
def State.fetchFails (s : State) (k off : Nat) (lanes : Word) (x : Xlat) : State :=
  let blk := off / 64 * 64
  let m := lanes.toNat
  match (match x with
    | .fault code level => some (⟨code, 1, blk, m, blk, 0, 4 + 16 * level⟩ : Report)
    | .broken code i0 i1 => some ⟨code, 1, blk, m, s.codeVa (s.spaceOf k) blk, i0, i1⟩
    | _ => none) with
  | none => s
  | some r =>
  let s1 := if r.code = 0x0401 && k < 0x20000 then (s.report (s.sourceOf k) r).1 else s.takeFault k r
  if 0x20000 ≤ k then s1 else s1.onGroup k fun g => { g with fetchWait := blk :: g.fetchWait.filter (· ≠ blk) }

/-- The fetch of a block fails that lanes stand in or wait for. -/
def State.fetchFault (s : State) (k off : Nat) (x : Xlat) : State :=
  s.fetchFails k off (((s.group? k).getD Group.privilegedReset).lanesIn (off / 64 * 64)) x

/-- The word at a code offset of a group's code segment. -/
def fetchCode (s : State) (k off : Nat) : State × Except Xlat Word :=
  fetch s (keyCore k) (s.spaceOf k) off .fetch

/-- Reader of a group's code for framing. -/
def codeReader (s : State) (k : Nat) : Nat → Option Word := codeAt s (keyCore k) (s.spaceOf k)

/-- Lanes reach a header at offset `H` in sequence (R39, R147, R403, R404): they pass it, stand at it on a fault that
suspends the group, or wait behind it for its block. -/
def State.arriveSeq (s : State) (k : Nat) (m : Word) (H : Nat) : State :=
  let stay (s : State) := s.onGroup k fun g => g.await m H
  match fetchCode s k H with
  | (s1, .error x) => (stay s1).fetchFault k H x
  | (s1, .ok h) =>
    let bad (code i0 i1 : Nat) :=
      (s1.onGroup k fun g => g.setPcs m fun _ => BitVec.ofNat 32 H).takeFault k ⟨code, 0, H, m.toNat, 0, i0, i1⟩
    if hdrData h then bad 0x0102 (h.toNat + 2 ^ 32 * (H / 64 * 64)) 0
    else match (if H % 4 ≠ 0 then some 7 else hdrReason h (H % 64 / 4) false) with
      | some r => bad 0x0101 (h.toNat + 2 ^ 32 * H) r
      | none =>
        let a := ((s1.group? k).map (·.arrived)).getD 0
        if 24 < runCount (codeReader s1 k) a H then bad 0x0101 (h.toNat + 2 ^ 32 * H) 6
        else s1.onGroup k fun g => g.setPcs m fun _ => BitVec.ofNat 32 (H + 4)

/-- What a branch to offset `H` meets (R148, R403): nothing wrong, a fault with info 0 and info 1, or a fetch that
fails. -/
inductive Target
  | good
  | bad (code i0 i1 : Nat)
  | noFetch (x : Xlat)
  deriving DecidableEq, Repr

/-- Check the target of a branch (R148, R403). DEDUCED (log 100): a target that is a header of class DATA but not word 0 of its
block, which R403 names under no condition, raises executed-data as a DATA header does in sequence. -/
def checkTarget (s : State) (k H : Nat) : State × Target :=
  match fetchCode s k (H / 64 * 64) with
  | (s1, .error x) => (s1, .noFetch x)
  | (s1, .ok h0) =>
    if hdrData h0 then (s1, .bad 0x0102 (h0.toNat + 2 ^ 32 * (H / 64 * 64)) 1)
    else match fetchCode s1 k (H / 4 * 4) with
      | (s2, .error x) => (s2, .noFetch x)
      | (s2, .ok h) =>
        if H % 4 ≠ 0 then (s2, .bad 0x0101 (h.toNat + 2 ^ 32 * H) 7)
        else if hdrData h then (s2, .bad 0x0102 (h.toNat + 2 ^ 32 * (H / 64 * 64)) 1)
        else match hdrReason h (H % 64 / 4) true with
          | some r => (s2, .bad 0x0101 (h.toNat + 2 ^ 32 * H) r)
          | none => (s2, .good)

/-- Check the targets of lanes in ascending order: the first that fails, with its offset (R404). -/
def checkTargets (s : State) (k : Nat) : List (Nat × Nat) → State × Option (Nat × Target)
  | [] => (s, none)
  | (_, H) :: t =>
    match checkTarget s k H with
    | (s1, .good) => checkTargets s1 k t
    | (s1, r) => (s1, some (H, r))

/-- Lanes pass the header at `H` by a branch, call or return, which is then the header of the group's last arrival (R149,
R203). -/
def Group.land (g : Group) (m : Word) (H : Nat) : Group :=
  { g.setPcs m fun _ => BitVec.ofNat 32 (H + 4) with arrived := H }

/-- The header that lanes wait behind is checked at last, or the block of the word at which lanes stand is fetched (R147, R418). -/
def State.checkUnseen (s : State) (k : Nat) (u : Unseen) : State := s.arriveSeq k u.lanes u.hdr

/-- The block at which lanes stand is fetched: where that fails they wait, and their PCs stay (R39, R418). -/
def State.fetchHere (s : State) (k off : Nat) : State :=
  match fetchCode s k (off / 4 * 4) with
  | (s1, .error x) => s1.fetchFault k off x
  | (s1, .ok _) => s1

/-- Lanes of a word advance to the next instruction word, passing a header in between (R39, R199). -/
def State.advance (s : State) (u : Issue) (m : Word) : State :=
  if m = 0 then s
  else if u.pc.toNat = u.hdr + 4 * hdrCount u.head then s.arriveSeq u.grp m ((u.pc.toNat + 4) % 2 ^ 32)
  else s.onGroup u.grp fun g => g.setPcs m fun _ => u.pc + 4

/-! ### Issue (R40 to R45, R157 to R159, R400 to R402) -/

/-- What a word does once its encoding has been checked. -/
inductive Eff
  /-- It takes effect and its active lanes advance (R199). -/
  | ok (s : State)
  /-- It takes effect and has set the PCs of its lanes. -/
  | jump (s : State)
  /-- A fault at the word: no effect, the lanes of the mask stop (R400). -/
  | trap (code mask addr info0 info1 : Nat)
  /-- It cannot issue yet (R45). -/
  | hold
  /-- It cannot issue yet, and the fetch that it needs is reported, in the state in which it would have issued (R45, R418). -/
  | stall (f : State → State)

/-- A fault after issue: the group goes on past the word, but a privileged group has been started anew (R398, R413). -/
def Eff.faulted (k : Nat) (s : State) : Eff := if 0x20000 ≤ k then .jump s else .ok s

/-- The class of a clause admits an opcode (R146). -/
def classAdmits (cls op : Nat) : Bool :=
  op < 0xA0 || (op < 0xC0 && cls = 1) || (0xC0 ≤ op && op < 0xCD && cls = 2) || (0xD0 ≤ op && op < 0xDC && cls = 3) ||
    (op = 0xDC && cls = 4)

/-- The reason that a record shows: any of those that apply (R405; log 17). -/
def someReason (n : Nat) : List (Nat × Nat) → Option (Nat × Nat)
  | [] => none
  | [x] => some x
  | x :: y :: t => some (((x :: y :: t)[Config.freeReason n % (t.length + 2)]?).getD x)

/-- The encoding check of a word in its clause (R402, R405), a class mismatch being reason 3; `n` numbers the free choice. -/
def issueCheck (n : Nat) (i : Instr) (u : Issue) (g : Group) : Option (Nat × Nat) :=
  someReason n ((opnds i).flatMap (Opnd.faults g.regs g.privileged) ++
    (if classAdmits (hdrClass u.head) (u.word.toNat / 2 ^ 24) || opcodeReserved (u.word.toNat / 2 ^ 24) ||
      0xE0 ≤ u.word.toNat / 2 ^ 24 then [] else [(3, 0)]))

/-- A lane at a PC needs a block whose fetch waits for a handler (R418). -/
def Group.fetchStopped (g : Group) (pc : Word) : Bool :=
  g.fetchWait ≠ [] && (lanesOf (g.lanesAt pc)).any fun l => (g.needs pc l).any g.fetchWait.contains

/-- A group that can issue nothing on either port (R43, R45, R394, R418). -/
def Group.stopped (g : Group) (pc : Word) : Bool :=
  g.exited || g.suspension.isSome || g.block ≠ .none || g.fetchStopped pc

/-- A word waits for a lookahead that has run out or for a register that ACCRD has yet to write (R157, R158). -/
def Group.mustWait (g : Group) (i : Instr) : Bool :=
  g.holds.any (·.left = 0) || g.busy.any fun (_, rs) => rs.any fun r => (touched i).contains r

/-- One instruction counts toward every running lookahead (R158). -/
def Group.countIssue (g : Group) : Group := { g with holds := g.holds.map fun h => { h with left := h.left - 1 } }

/-- Interlocked formats A, B, C, DS, E and SYS, and ACCRD (R157, R240, R243). -/
def interlocked (op : Nat) : Bool := op < 0xA0 || (0xB0 ≤ op && op < 0xB6) || op = 0xBF || op = 0xC7 || op = 0xDC

/-- The turn after a primary issue: one more word; it ends when the group exits, blocks or is suspended, or the word
was the last of a clause with E (R44). -/
def State.afterIssue (s : State) (u : Issue) : State :=
  let k := u.grp
  if 0x20000 ≤ k then s
  else if u.second then s.exitCheck k
  else
    let s1 := s.onPart (partOf k) fun p => { p with turn := p.turn.map fun t => { t with issues := t.issues + 1 } }
    let s2 := s1.exitCheck k
    match s2.group? k with
    | none => s2
    | some g =>
      if g.exited || g.block ≠ .none || g.suspension.isSome ||
          (hdrEnd u.head && u.pc.toNat = u.hdr + 4 * hdrCount u.head) then s2.endTurn k
      else s2

/-- What an interlocked word writes stands over registers that are still in flight to it: in the lanes that take part, for SEL
and ACCRD in every active lane, and in a uniform register when the guard admits the lowest active lane (R160, R182, R183,
R243). -/
def State.overtaken (s : State) (i : Instr) (u : Issue) (m : Word) : State :=
  let op := u.word.toNat / 2 ^ 24
  let lanes := if op = 0x26 || op = 0xC7 then u.active else m
  let rs := if m.getLsbD (lowestLane u.active) then written i else (written i).filter (· < 96)
  if interlocked op && written i ≠ [] then s.overtake u.grp lanes rs else s

/-- A word that has taken effect: its active lanes advance, and the turn goes on or ends (R44, R199). -/
def State.finish (s : State) (u : Issue) : State := (s.advance u u.active).afterIssue u

/-- A word that cannot issue is held, and the second port issues only in a cycle in which the primary port does (R41, R45). -/
def State.holdWord (s : State) : State :=
  let s1 := if s.cur.second then s else s.clearSecond (partOf s.cur.grp)
  { s1 with cur := { s1.cur with held := true } }

/-- Issue the word of the latch: whatever the guard, the encoding is checked first (R402); a fault stops the lanes at
the word and takes no other effect (R400); a word that cannot issue changes nothing (R45). -/
def issue (i : Instr) (s : State) (body : State → Group → Word → Eff) : Host.Outcome State Fault Refusal :=
  let u := s.cur
  match s.group? u.grp with
  | none => .refused .noIssuingGroup
  | some g =>
    if u.active = 0 || u.active &&& ~~~ (g.lanesAt u.pc) ≠ 0 then .refused .noIssuingGroup
    else if g.stopped u.pc || g.mustWait i then .next s.holdWord
    else match issueCheck s.freeCtr i u g with
      | some r => .next (s.takeFault u.grp ⟨0x0103, 0, u.pc.toNat, u.active.toNat, 0, u.word.toNat, reasonInfo r⟩)
      | none =>
        let g1 := g.countIssue
        let m := u.active &&& g1.guardMask (u.word.toNat / 2 ^ 21 % 8)
        let s1 := (s.overtaken i u m).setGroup u.grp g1
        match body s1 g1 m with
        | .ok s2 => .next (s2.finish u)
        | .jump s2 => .next (s2.afterIssue u)
        | .trap code mask addr i0 i1 => .next (s.takeFault u.grp ⟨code, 0, u.pc.toNat, mask, addr, i0, i1⟩)
        | .hold => .next s.holdWord
        | .stall f => .next (f s).holdWord

/-- Change the issuing group. -/
def State.withGroup (s : State) (g : Group) : Eff := .ok (s.setGroup s.cur.grp g)

/-! ### ERET's return from a suspension (R395) -/

/-- A group that TBAR.ARV blocked on a phase which completed while it was suspended arrives in the next (R211, R394). -/
def State.lateArrival (s : State) (k : Nat) : State :=
  match s.group? k with
  | none => s
  | some g =>
    match g.block, s.team? g.team with
    | .tbarArv p, some t =>
      if t.phase = p || g.privileged then s else (s.onGroup k fun g => { g with block := .none }).tbarArrive k g.team
    | _, _ => s

/-- RETURN FROM AN EXCEPTION. A suspended group resumes at its PCs; for TRAP and BKPT the lanes of the record's mask
that still stand at its PC first advance past the word; lanes ended by the handler make the group exit (R395). The
framing of the word is read again for the advance. -/
def State.resume (s : State) (k : Nat) : State :=
  match s.group? k with
  | none => s
  | some g =>
    match g.suspension with
    | none => s
    | some z =>
      let s1 := s.onGroup k fun g => { g with suspension := none, fetchWait := [] }
      let m := z.mask &&& g.lanesAt z.pc
      let s2 :=
        if (z.code = 0x0110 || z.code = 0x0111) && m ≠ 0 then
          match clauseAt (codeReader s1 k) z.pc.toNat with
          | some (h, w) => s1.advance { s1.cur with grp := k, pc := z.pc, active := m, hdr := h, head := w } m
          | none => s1.onGroup k fun g => g.setPcs m fun _ => z.pc + 4
        else s1
      (s2.lateArrival k).exitCheck k

/-- Format F carries no guard: its lanes are the active lanes (R155, R226). -/
def unguarded (s : State) : Word := s.cur.active

/-! ### Events -/

/-- An event acts when the step's event is the one it matches; otherwise, and when it is not enabled, nothing happens
(log 2). -/
def onEvent (s : State) (f : Event → Option State) : Host.Outcome State Fault Refusal :=
  match s.cur.event with
  | none => .next s
  | some e => .next ((f e).getD s)

end Sys2Proof.Machine
end

