-- ==== Sys2Proof/Machine/Launch.lean ====
section
/-! DEFINITION. Launch records: their checks, their entry into a queue, completion records, and the batch former's
descriptor (R49, R343 to R347, R356, R357, R444, R445). -/

namespace Sys2Proof.Machine

/-- Declared registers n of a launch record (R343). -/
def recRegs (r : Nat) : Nat := 16 + 8 * bits r 128 4

/-- Accumulator window W of a launch record (R343). -/
def recWindow (r : Nat) : Nat :=
  let c := bits r 148 3
  if c = 0 then 0 else 8 * 2 ^ c

/-- Team extents of a launch record (R343). -/
def recDim (r axis : Nat) : Nat := bits r (96 + 10 * axis) 10 + 1

/-- Groups of a team, G (R33). -/
def recGroups (r : Nat) : Nat := recDim r 0 * recDim r 1 * recDim r 2 / 32

/-- Grid extents of a launch record (R343). -/
def recGrid (r axis : Nat) : Nat := if axis = 0 then bits r 32 31 else if axis = 1 then bits r 64 16 else bits r 80 16

/-- Teams of a grid (R34). -/
def recTeams (r : Nat) : Nat := recGrid r 0 * recGrid r 1 * recGrid r 2

/-- Scratchpad need in bytes (R343). -/
def recScratch (r : Nat) : Nat := bits r 136 10 * 4096

def recEntry (r : Nat) : Nat := bits r 0 32
def recTier (r : Nat) : Nat := bits r 160 2
def recKind (r : Nat) : Nat := bits r 162 2
def recQueue (r : Nat) : Nat := bits r 164 12
def recCtx (r : Nat) : Nat := bits r 176 6
def recResKey (r : Nat) : Nat := bits r 184 8
def recResSize (r : Nat) : Nat := bits r 328 10 * 4096
def recDeadline (r : Nat) : Nat := bits r 192 48
def recSplit (r : Nat) : Nat := bits r 256 64
def recFirstDie (r : Nat) : Nat := bits r 320 1
def recParams (r : Nat) : Nat := bits r 384 64
def recCompletion (r : Nat) : Nat := bits r 448 64
def recSeq (r : Nat) : Nat := bits r 1984 64

/-- The reserved fields of a launch record as (low bit, length) (R343). -/
def recReserved : List (Nat × Nat) :=
  [(512, 1472), (338, 46), (321, 7), (240, 16), (182, 2), (158, 2), (151, 1), (146, 2), (132, 4), (126, 2), (63, 1)]

/-- A descriptor of R357 is valid: bits 511 to 337 zero, the other reserved bits ignored (R6), LW at most HW, addresses aligned, a
table of 1 to 65,536 records. -/
def descOk (d : Nat) : Bool :=
  bits d 337 175 = 0 && bits d 288 24 ≤ bits d 312 24 && bits d 160 64 % 256 = 0 && bits d 96 64 % 64 = 0 && bits d 0 64 % 256 = 0 &&
  1 ≤ bits d 64 32 && bits d 64 32 ≤ 65536

/-- RESACL of a key lets a context use it (R338). -/
def State.resAllows (s : State) (key ctx : Nat) : Bool := (Tab.get s.csr.resacl key 0).getLsbD ctx

/-- The checks of a launch record in code order, 1 to 10 (R343, R444). `slot` is the window slot of a host record; a
record read by LAUNCH is judged in its parent's context and has none (R49). -/
def recordRefusal (s : State) (r ctx : Nat) (slot : Option Nat) : Option Nat :=
  if recReserved.any fun f => bits r f.1 f.2 ≠ 0 then some 1
  else if recKind r = 3 || 6 ≤ bits r 148 3 || 512 < bits r 136 10 || 10 < bits r 128 4 then some 2
  else if recDim r 0 % 8 ≠ 0 || recDim r 0 * recDim r 1 * recDim r 2 % 32 ≠ 0 || 1024 < recDim r 0 * recDim r 1 * recDim r 2
    then some 3
  else if recGrid r 0 = 0 || recGrid r 1 = 0 || recGrid r 2 = 0 then some 4
  else if recEntry r % 64 ≠ 0 || recParams r % 16 ≠ 0 || recCompletion r % 64 ≠ 0 then some 5
  else if slot.isSome && (s.context ctx).asid = 0 then some 6
  else if (slot.map (· / 64)).getD ctx ≠ ctx then some 7
  else if (recKind r = 1 && (recResKey r = 0 || recResSize r = 0 || 512 * 4096 < recResSize r)) ||
      (recKind r = 0 && recResKey r ≠ 0 && !s.resAllows (recResKey r) ctx) then some 9
  else if recKind r = 2 && recParams r ≠ 0 &&
      (recParams r % 64 ≠ 0 ||
        (match (readVirt s ctx (recParams r) 64).2 with | .ok d => !descOk d | .error _ => true)) then some 10
  else none

/-- The 512 bits of a completion record (R345). -/
def completionBits (identity status code : Nat) (missed : Bool) (start stop deadline : Nat) : Nat :=
  packFields [(0, 64, identity), (64, 8, status), (72, 16, code), (88, 1, if missed then 1 else 0), (96, 48, start),
    (144, 48, stop), (192, 48, deadline)]

/-- Write a completion record, released at HOST; a write that faults leaves a record of the fault with disposition 3
instead (R345, R445). -/
def State.writeCompletion (s : State) (x va v : Nat) : State :=
  if va = 0 then s
  else match writeVirt s x va 64 v with
    | (s1, .ok _) => s1
    | (s1, .error (.fault code level)) =>
      (s1.report (ioSource x) ⟨code, 3, 0xFFFFFFFF, 0, va, 0, 1 + 16 * level⟩).1
    | (s1, .error (.broken code i0 i1)) => (s1.report (ioSource x) ⟨code, 3, 0xFFFFFFFF, 0, va, i0, i1⟩).1
    | (s1, .error _) => s1

/-- A missed deadline: the end lies after a nonzero deadline (R345). -/
def missedBy (stop deadline : Nat) : Bool := deadline ≠ 0 && deadline < stop

/-- Batch-former control: a kind-2 record starts, replaces or, with pointer 0, stops the batch former (R356; log 24). A former that
starts again after a stop counts its steps from 0 again (DESIGN CHOICE: log 109). -/
def State.controlFormer (s : State) (r ctx tier : Nat) : State :=
  let desc := match (readVirt s ctx (recParams r) 64).2 with
    | .ok d => d
    | .error _ => 0
  match Tab.find s.formers ctx with
  | none =>
    if recParams r = 0 then s
    else { s with formers := Tab.put s.formers ctx ⟨desc, tier, recQueue r, [], [], [], [], 0, none, none, none, []⟩ }
  | some f =>
    let p : Option (Option Nat) := if recParams r = 0 then some none else some (some desc)
    let at0 := if f.grid.isNone then none else f.idleAt
    { s with formers := Tab.put s.formers ctx { f with pending := p, tier := tier, queue := recQueue r, idleAt := at0 } }

/-- Make the head entry of a queue ready when it has just become the head (R347). -/
def State.readyHead (s : State) (q : Nat) : State :=
  match (Tab.get s.queues q []).head? with
  | none => s
  | some n => s.onGrid n fun g => 
      if g.ready.isNone then { g with ready := some (s.ticks 0), unplaced0 := s.ticks 0, unplaced1 := s.ticks 0 } else g

/-- What acceptance needs beside the record: context, tier, parent, and the slots of a manifest (R49, R58). -/
structure Acceptance where
  ctx : Nat
  tier : Nat
  parent : Option Nat
  parentTeam : Nat
  depth : Nat
  step : Bool
  perSlot : Nat
  slots : Tab (Nat × Nat × Nat)
  params : Option (List Word)
  deriving DecidableEq, Repr

/-- Enter a valid record into its queue; its ACCEPTED record is written when it enters. A record of LAUNCH enters before
the host records that entered in the same tick (R342, R345, R347, R362). -/
def State.acceptGrid (s : State) (r : Nat) (a : Acceptance) : State × Nat :=
  let now := s.ticks 0
  let done (s : State) := s.writeCompletion a.ctx (recCompletion r) (completionBits (recSeq r) 1 0 false now 0 (recDeadline r))
  if recKind r = 2 then ((done s).controlFormer r a.ctx a.tier, 0)
  else
    let n := s.idCtr
    let g : Grid :=
      { ctx := a.ctx, record := r, tier := a.tier, parent := a.parent, parentTeam := a.parentTeam, depth := a.depth,
        queue := recQueue r, accepted := now, ready := none, next0 := 0, next1 := 0, live := 0, params := a.params,
        code := 0, perSlot := a.perSlot, slots := a.slots, step := a.step, unplaced0 := now, unplaced1 := now,
        preempting := none, cut := 0 }
    let before := Tab.get s.queues (recQueue r) []
    let late (m : Nat) : Bool := a.parent.isSome &&
      (s.grid? m).any fun h => h.parent.isNone && !h.step && h.accepted = now && h.next0 = 0 && h.next1 = 0
    let qs := Tab.put s.queues (recQueue r) (before.takeWhile (!late ·) ++ n :: before.dropWhile (!late ·))
    let s1 := { s with idCtr := n + 1, grids := Tab.put s.grids n g, queues := qs }
    let wait (x : Nat × Grid) : Nat × Grid := if late x.1 && before.contains x.1 then (x.1, { x.2 with ready := none }) else x
    ((done { s1 with grids := s1.grids.map wait }).readyHead (recQueue r), n)

/-- The outcome of LAUNCH for the leader once its record address is known (R49): codes in the order 1, 2, 4, or 0 with the
child queued at the lower of the two tiers. -/
def launchChild (s : State) (k va : Nat) (record : Nat) : State × Nat :=
  match s.teamOf k, s.gridOf k with
  | some t, some p =>
    if p.depth = 10 then (s, 1)
    else if (s.context p.ctx).children = 4096 then (s, 2)
    else if va % 256 ≠ 0 then (s, 4)
    else match recordRefusal s record p.ctx none with
      | some _ => (s, 4)
      | none =>
        let x := s.acceptGrid record ⟨p.ctx, max (recTier record) p.tier, some t.grid, ((s.group? k).map (·.team)).getD 0,
          p.depth + 1, false, 0, [], none⟩
        if recKind record = 2 then (x.1, 0)
        else
          let s2 := x.1.onContext p.ctx fun c => { c with children := c.children + 1 }
          (s2.onTeam (((s.group? k).map (·.team)).getD 0) fun t => { t with children := x.2 :: t.children }, 0)
  | _, _ => (s, 4)

/-- LAUNCH decides codes 1 and 2 before it reads the record (R49). -/
def launchEarly (s : State) (k va : Nat) : Option Nat :=
  match s.gridOf k with
  | none => some 4
  | some p =>
    if p.depth = 10 then some 1
    else if (s.context p.ctx).children = 4096 then some 2
    else if va % 256 ≠ 0 then some 4
    else none

end Sys2Proof.Machine
end

