-- ==== Sys2Proof/Machine/MemOps.lean ====
section
/-! DEFINITION. What memory instructions share: their widths and values, scratchpad windows, the posting of lane
accesses, the operand log with its replay, and the failure of an access (R74, R75, R94, R215 to R221, R407, R412 to R417,
R424 to R428). -/

namespace Sys2Proof.Machine

/-! ### Widths and values by opcode -/

/-- Access size in bytes (R215, R219, R221). -/
def memSize (op : Nat) : Nat :=
  if op ∈ [0xA0, 0xA1, 0xA7] then 1
  else if op ∈ [0xA2, 0xA3, 0xA8] then 2
  else if op ∈ [0xA5, 0xAA, 0xAD, 0xAF, 0xB1, 0xB4, 0xB7] then 8
  else if op ∈ [0xA6, 0xAB, 0xB2, 0xB5] then 16
  else 4

/-- What an opcode does to memory. -/
def memKind (op : Nat) : AccessKind :=
  if (0xA7 ≤ op && op ≤ 0xAB) || op = 0xAE || op = 0xAF || (0xB3 ≤ op && op ≤ 0xB5) then .store
  else if 0xB6 ≤ op && op ≤ 0xBE then .atomic
  else if op = 0x24 then .ldk
  else .load

/-- Kind code of a fault record (R416). -/
def kindCode : AccessKind → Nat
  | .load => 0
  | .store => 1
  | .atomic => 2
  | .ldk => 3
  | .fetch => 4

/-- Words of the data register: read by stores and atomics, written by loads and atomics. -/
def memWords (op : Nat) : Nat :=
  if op ∈ [0xA5, 0xAA, 0xAD, 0xAF, 0xB1, 0xB4, 0xB7, 0xBD] then 2
  else if op ∈ [0xA6, 0xAB, 0xB2, 0xB5] then 4 else 1

/-- Words that the completed access writes (R215, R221): ATOM.CAS leaves t+1. -/
def memResultWords (op : Nat) : Nat := if op = 0xBD then 1 else memWords op

/-- A load's register value from the bytes read (R215). -/
def loadValue (op raw : Nat) : Nat :=
  if op = 0xA1 then (BitVec.ofInt 32 (sextNat raw 8)).toNat
  else if op = 0xA3 then (BitVec.ofInt 32 (sextNat raw 16)).toNat
  else raw

/-- New value that an atomic stores, none when it performs no write (R221). -/
def atomNew (op old data cmp : Nat) : Option Nat :=
  let so := sextNat old 32
  let sd := sextNat data 32
  if op = 0xB6 then some ((old + data) % 2 ^ 32)
  else if op = 0xB7 then some ((old + data) % 2 ^ 64)
  else if op = 0xB8 then some (if sd < so then data else old)
  else if op = 0xB9 then some (if so < sd then data else old)
  else if op = 0xBA then some (Nat.land old data)
  else if op = 0xBB then some (Nat.lor old data)
  else if op = 0xBC then some data
  else if op = 0xBD then (if old = cmp then some data else none)
  else some (fpWord ((fp (BitVec.ofNat 32 old)).add (fp (BitVec.ofNat 32 data)))).toNat

/-- Fields of a format D word kept in the log: t, la, c and o (R151). -/
def wordT (w : Word) : Nat := bits w.toNat 14 7
def wordLa (w : Word) : Nat := bits w.toNat 3 4
def wordC (w : Word) : Nat := bits w.toNat 1 2
def wordO (w : Word) : Bool := w.getLsbD 0
def wordOp (w : Word) : Nat := w.toNat / 2 ^ 24

/-- .rlx acts on plain loads, stores and atomics only (R97). -/
def relaxed (w : Word) : Bool :=
  let op := wordOp w
  wordO w && ((0xA0 ≤ op && op ≤ 0xAB) || (0xB6 ≤ op && op ≤ 0xBE))

/-! ### Scratchpad (R74, R75) -/

/-- e′ from e: bits [6:4] combined with three higher bits (R75). -/
def swizzle (sw e : Nat) : Nat :=
  if sw = 0 then e else setBits e 4 3 (Nat.xor (bits e 4 3) (bits e (sw + 6) 3))

/-- RESIDENT regions of a core that the team with a stamp may use, in order of allocation, with their offsets in the window: those
that RESACL gives its context, and those cleared since that it used then (R74, R349, R362). -/
def State.residentWindow (s : State) (c ctx stamp : Nat) : List (Nat × Region) :=
  ((s.core c).regions.filter fun r => s.resAllows r.key ctx || r.users.contains stamp).foldl
    (fun acc r => acc ++ [(acc.foldl (fun n x => n + x.2.size) 0x200000, r)]) []

/-- Bytes of the RESIDENT window. -/
def State.residentSize (s : State) (t : Team) (ctx : Nat) : Nat :=
  (s.residentWindow t.core ctx t.stamp).foldl (fun n x => n + x.2.size) 0

/-- A team uses a region of its core: its record names the key, RESACL gives the key to its context, or it did when RESACL was
written to 0 (R349). -/
def State.usesRegion (s : State) (t : Team) (r : Region) : Bool :=
  r.users.contains t.stamp || (s.grid? t.grid).any fun g => recResKey g.record = r.key || s.resAllows r.key g.ctx

/-- Free the regions of a core whose key has been cleared and that no team on the core uses (R349). -/
def State.freeRegions (s : State) (c : Nat) : State :=
  let used (r : Region) : Bool := s.teams.any fun x => x.2.core = c && s.usesRegion x.2 r
  s.onCore c fun q => { q with regions := q.regions.filter fun r => !r.cleared || used r }

/-- Which window holds bytes `e` to `e + n − 1`: the team's allocation or the RESIDENT window (R74). -/
inductive SpadWin
  | own
  | resident
  | none
  deriving DecidableEq, Repr

def State.spadWin (s : State) (t : Team) (ctx e n : Nat) : SpadWin :=
  if e + n ≤ t.scratchSize then .own
  else if 0x200000 ≤ e && e + n ≤ 0x200000 + s.residentSize t ctx then .resident
  else .none

/-- The grid of a team is a resident loader of a region's key (R262, R349). -/
def State.isLoader (s : State) (t : Team) (key : Nat) : Bool :=
  match s.grid? t.grid with
  | none => false
  | some g => recKind g.record = 1 && recResKey g.record = key

/-- The region that an offset of the RESIDENT window lies in, with the offset inside it. -/
def State.residentAt (s : State) (t : Team) (ctx e : Nat) : Option (Region × Nat) :=
  ((s.residentWindow t.core ctx t.stamp).find? fun x => x.1 ≤ e && e < x.1 + x.2.size).map fun x => (x.2, e - x.1)

/-- One byte of a team's scratchpad space (R74); a byte never written is free (R77, log 6). -/
def State.spadByte (s : State) (t : Team) (ctx e : Nat) : Byte :=
  if e < 0x200000 then (Tab.find t.scratch e).getD (Config.freeScratch t.stamp e)
  else match s.residentAt t ctx e with
    | none => 0
    | some (r, o) => (Tab.find r.bytes o).getD (Config.freeScratch r.stamp o)

/-- Write one byte of a team's scratchpad space. -/
def State.spadPut (s : State) (tid : Nat) (t : Team) (ctx e : Nat) (v : Byte) : State :=
  if e < 0x200000 then s.onTeam tid fun t => { t with scratch := Tab.put t.scratch e v }
  else match s.residentAt t ctx e with
    | none => s
    | some (r, o) =>
      let put (q : Region) : Region := if q.key = r.key then { q with bytes := Tab.put q.bytes o v } else q
      s.onCore t.core fun c => { c with regions := c.regions.map put }

/-- Write `n` bytes little-endian. -/
def State.spadPutLE (s : State) (tid : Nat) (t : Team) (ctx e : Nat) : Nat → Nat → State
  | 0, _ => s
  | n + 1, v => State.spadPutLE (s.spadPut tid t ctx e (BitVec.ofNat 8 v)) tid t ctx (e + 1) n (v / 256)

/-- `n` bytes of a team's scratchpad space. -/
def State.spadLE (s : State) (t : Team) (ctx e n : Nat) : Nat := readBytes (s.spadByte t ctx) e n

/-! ### B tiles in scratchpad (R75, R135, R241) -/

/-- K of an element type: rows of a canonical tile (R135). -/
def typeK (t : Nat) : Nat :=
  if t = 1 then 64 else if t = 2 || t = 3 || t = 4 then 32 else if t = 7 then 8 else 16

/-- Bytes of a canonical tile (R135, R262). -/
def tileSize (t : Nat) : Nat := if t = 1 then 1344 else 1024

/-- Bytes of an element; two E2M1 elements share one (R125, R135). -/
def elemBytes (t : Nat) : Nat := if t = 5 || t = 6 then 2 else if t = 7 then 4 else 1

/-- Canonical tile of a scratchpad handle (R75, R135). -/
def State.spadTile (s : State) (tm : Team) (ctx off t swz : Nat) : List Byte :=
  (List.range (tileSize t)).map fun i => s.spadByte tm ctx (swizzle swz (off + i))

/-- Byte `i` of a posted operation's tile after a racing write: each element of which the write has changed a byte is the one held
or the new one, by `old` (R125, R135, R241). `b` are the bytes held, `p` and `n` those of the scratchpad before and after. -/
def racedByte (t : Nat) (old : Nat → Bool) (b p n : Nat → Byte) (i : Nat) : Byte :=
  if t = 1 && i < 1024 then
    let half (k : Nat) : Nat :=
      let x := bits (n i).toNat (4 * k) 4
      if x = bits (p i).toNat (4 * k) 4 || old (2 * i + k) then bits (b i).toNat (4 * k) 4 else x
    BitVec.ofNat 8 (half 0 + 16 * half 1)
  else
    let w := if t = 1 then (if i < 1280 then 1 else 2) else elemBytes t
    let j := i / w * w
    if (List.range w).all (fun k => n (j + k) = p (j + k)) || old (2 * j) then b i else n i

/-- A write to the scratchpad of core `c` has led from `s` to `s1`. It races with the token ids of every TREE of the team that has
issued and not completed: each id that it changes is the one held or the new one. A write that the TREE's group issued before it is
none of these (R301; log 11). -/
def State.raceTokens (s s1 : State) (c : Nat) (by_ : Option (Nat × Nat)) : State :=
  let earlier (id : Nat) (x : Cmd) : Bool :=
    by_.any fun w => w.1 = x.team && w.2 < id && (Tab.find s.ops w.2).any fun o => o.grp = x.grp
  let open_ (id : Nat) (x : Cmd) : Bool := x.core = c && x.op = 0xD8 && x.item ≠ [] && !earlier id x
  let off (x : Cmd) : Nat := ((x.block[3]?).getD 0).toNat
  let fix (id : Nat) (x : Cmd) : Cmd :=
    match s1.team? x.team with
    | none => x
    | some tm =>
      let p (i : Nat) : Byte := s.spadByte ((s.team? x.team).getD tm) x.ctx (off x + i)
      let n (i : Nat) : Byte := s1.spadByte tm x.ctx (off x + i)
      let old (i : Nat) : Byte := (x.item[i]?).getD 0
      { x with item := (List.range x.item.length).map (racedByte 7 (Config.freeOld s.freeCtr id) old p n) }
  if s1.cmds.any fun x => open_ x.1 x.2 then
    { s1 with cmds := s1.cmds.map fun x => if open_ x.1 x.2 then (x.1, fix x.1 x.2) else x }
  else s1

/-- A write to the scratchpad of core `c` has led from `s` to `s1`. It races with the read of every posted operation's tile that it
changes, unless it is an STS or TCOPY of the operation's team with a number above that of the posting (R241; log 11). -/
def State.raceTiles (s s1 : State) (c : Nat) (by_ : Option (Nat × Nat)) : State :=
  let open_ (id : Nat) (e : Entry) : Bool :=
    e.core = c && !(by_.any fun x => x.1 = e.team && id < x.2) && e.src.any fun h => match h with
      | .spad _ _ _ _ => true
      | _ => false
  let tile (id : Nat) (e : Entry) (x : Option (List Byte) × Handle) : Option (List Byte) :=
    match x.1, x.2, s1.team? e.team with
    | some b, .spad off t _ swz, some tm =>
      let p := s.spadTile ((s.team? e.team).getD tm) e.ctx off t swz
      let n := s1.spadTile tm e.ctx off t swz
      if p = n then some b
      else
        let at_ (l : List Byte) (i : Nat) : Byte := (l[i]?).getD 0
        some ((List.range b.length).map (racedByte t (Config.freeOld s.freeCtr id) (at_ b) (at_ p) (at_ n)))
    | b, _, _ => b
  let fix (id : Nat) (e : Entry) : Entry := if open_ id e then { e with b := (e.b.zip e.src).map (tile id e) } else e
  let s2 := s.raceTokens s1 c by_
  if (s1.quad (quadOfCore c)).board.any fun x => open_ x.1 x.2 then
    s2.onQuad (quadOfCore c) fun q => { q with board := q.board.map fun x => (x.1, fix x.1 x.2) }
  else s2

/-! ### Results -/

/-- Write a lane's result, but for registers that a later instruction has written (R160, R216). -/
def State.writeResult (s : State) (k lane reg : Nat) (dead : List Nat) : Nat → Nat → State
  | 0, _ => s
  | n + 1, v =>
    let s1 := if dead.contains reg then s else s.onGroup k fun g => g.setV reg lane (BitVec.ofNat 32 v)
    s1.writeResult k lane (reg + 1) dead n (v / 2 ^ 32)

/-- Accesses of an instruction that have not been performed. -/
def State.pendingOf (s : State) (op : Nat) : List (Nat × Access) := s.accesses.filter fun x => x.2.op = op

/-- Issued memory instructions of a group that have not completed (R208, R216). -/
def State.opsOf (s : State) (k : Nat) : List (Nat × MemOp) := s.ops.filter fun x => x.2.grp = k

/-- Log entries of a group, in program order (R417). -/
def State.logOf (s : State) (k : Nat) : List (Nat × LogEntry) :=
  let mine := (s.part (partOf k)).log.filter fun x => x.2.grp = k
  (List.range mine.length).foldl (fun acc _ =>
    match (mine.filter fun x => !(acc.any fun y => y.1 = x.1)).foldl (fun (b : Option (Nat × LogEntry)) x =>
      match b with
      | none => some x
      | some y => if x.2.op < y.2.op || (x.2.op = y.2.op && x.1 < y.1) then some x else some y) none with
    | none => acc
    | some x => acc ++ [x]) []

/-- A group has a lane page fault that has not been replayed (R213, R224, R414). -/
def State.hasLog (s : State) (k : Nat) : Bool := (s.part (partOf k)).log.any fun x => x.2.grp = k

/-- Every access of the group has been performed, and its FENCEs and LAUNCHes have completed. -/
def State.quiet (s : State) (k : Nat) : Bool :=
  (s.opsOf k).isEmpty && !s.hasLog k && (s.group? k).all fun g => g.fences.isEmpty && g.launches.isEmpty

/-- The lowest free index of a partition's operand log (R415). -/
def State.freeEntry (s : State) (p : Nat) : Option Nat :=
  (List.range 64).find? fun i => (Tab.find (s.part p).log i).isNone

/-! ### Operand-log entries (R413 to R417) -/

/-- Words 0 to 6 of a lane: data, compare, address and flags (R415). -/
def logWords (data cmp va : Nat) (op : Nat) (ft : Bool) : List Word :=
  let w (n : Nat) := BitVec.ofNat 32 (data / 2 ^ (32 * n))
  [w 0, if op = 0xBD then BitVec.ofNat 32 cmp else w 1, w 2, w 3, BitVec.ofNat 32 va, BitVec.ofNat 32 (va / 2 ^ 32),
    if ft then 3 else 1]

/-- Store data and compare value of a lane, read at issue (R157, R215, R221). -/
def memData (g : Group) (op t lane : Nat) : Nat × Nat :=
  if op = 0xBD then ((g.reg t lane).toNat, (g.reg (t + 1) lane).toNat)
  else match memKind op with
    | .store | .atomic => (g.regN t lane (memWords op) % 2 ^ (8 * memSize op), 0)
    | _ => (0, 0)

/-- Two accesses touch a common byte. -/
def overlaps (a n b m : Nat) : Bool := a < b + m && b < a + n

/-- Bytes of global memory that a held instruction accesses in a lane: a launch record of 256, and none for a scratchpad access
(R209, R219, R415). -/
def loggedSize (op : Nat) : Nat := if 0xB0 ≤ op && op ≤ 0xB5 then 0 else if op = 0x97 then 256 else memSize op

/-- A waiting entry of the group covers a location of global memory (R414). -/
def State.logCovers (s : State) (k va size : Nat) : Bool :=
  (s.logOf k).any fun x => x.2.lanes.any fun l =>
    let a := ((l.2[4]?).getD 0).toNat + 2 ^ 32 * ((l.2[5]?).getD 0).toNat
    loggedSize (wordOp x.2.word) ≠ 0 && overlaps va size a (loggedSize (wordOp x.2.word))

/-- A FENCE orders a later access of its group: for a release stores only (R99). -/
def Fence.orders (f : Fence) (k : AccessKind) : Bool := f.kind ≠ 2 || k = .store || k = .atomic

/-- Post one lane's access, translated to `pa` through a leaf of a level, or held at its translation (R88, R216). -/
def State.post (s : State) (k op opc lane va pa t : Nat) (data : Nat × Nat) (w : Word) (level : Nat) (st : AccStatus := .waiting) :
    State :=
  let r := s.regionOf (s.spaceOf k) va
  let a : Access :=
    { op := op, grp := k, lane := lane, code := opc, kind := memKind opc, va := va, pa := pa, size := memSize opc,
      data := data.1, cmp := data.2, rlx := relaxed w, acq := opc = 0xAC || opc = 0xAD, rel := opc = 0xAE || opc = 0xAF,
      reg := t, dom := r.1, control := r.2, dead := [], lt := (s.core (keyCore k)).lt, level := level, status := st }
  { s with idCtr := s.idCtr + 1, accesses := Tab.put s.accesses s.idCtr a }

/-- Enter the lanes of an instruction in the log under a free index. Behind entries that are all being replayed it is replayed
after them (R415, R417). -/
def State.logEnter (s : State) (k op : Nat) (w pc : Word) (lanes : Tab (List Word)) : State × Nat :=
  let p := partOf k
  let i := (s.freeEntry p).getD 0
  let follows := s.hasLog k && (s.logOf k).all (·.2.replaying)
  (s.onPart p fun q => { q with log := Tab.put q.log i ⟨k, op, w, pc, 0, 0, lanes, [], follows⟩ }, i)

/-- Set the fault that holds an entry and the sequence number of its latest record; it waits for a replay (R415). -/
def State.logMark (s : State) (k i code seq : Nat) : State :=
  s.onPart (partOf k) fun q =>
    { q with log := Tab.alter q.log i fun e => { e with code := code, seq := seq, replaying := false } }

/-- The sequence number that the next record of a group's context takes (R390, R392). -/
def State.nextSeq (s : State) (k : Nat) : Nat := (s.context (s.ctxOf k)).frhead % 2 ^ 32

/-- Report a lane page fault held in entry `i`: mask of held lanes, address of the lowest, mask of faulting lanes, kind
and level (R416). -/
def State.lanePageFault (s : State) (k i code level : Nat) (kind : Nat) (pc : Word) (held faulting va : Nat) : State :=
  if 0x20000 ≤ k then (s.takeFault k ⟨code, 1, pc.toNat, held, va, faulting, kind + 16 * level⟩).dropLog k
  else
    let r : Report := ⟨code, 1, pc.toNat, held, va, faulting + 2 ^ 32 * i, kind + 16 * level⟩
    let w := s.report (s.sourceOf k) r
    w.1.logMark k i code (bits w.2 32 32)

/-- Report the fault that an access held in entry `i` has met at a home, with its code's disposition; a dead link's continues, and a
store to a read-duplicate copy is a lane page fault of its lane (R416, R424, R425, R427, R428, R431). -/
def State.homeReport (s : State) (k i code : Nat) (pc : Word) (held va info0 info1 : Nat) : State :=
  let r : Report := ⟨code, disposition code, pc.toNat, held, va, if code = 0x0205 then info0 + 2 ^ 32 * i else info0, info1⟩
  if 0x20000 ≤ k then (s.takeFault k r).dropLog k
  else
    let s1 := s.logMark k i code (s.nextSeq k)
    if code = 0x0401 then (s1.report (s1.sourceOf k) { r with disp := 1 }).1 else s1.takeFault k r

/-- Report how the translation of lane `l`, the lowest held of entry `i`, failed; `faulting` is the mask for a lane page fault. -/
def State.xlatReport (s : State) (k i : Nat) (x : Xlat) (kind : Nat) (pc : Word) (held faulting va : Nat) : State :=
  match x with
  | .fault code level => s.lanePageFault k i code level kind pc held faulting va
  | .broken code i0 i1 => s.homeReport k i code pc held va i0 i1
  | _ => s

/-- Translate and post lanes in ascending order up to the lowest that faults: the state, and that lane with its fault. A lane whose
page is frozen is held at its translation (R88, R413). -/
def postLanes (k op opc t : Nat) (w : Word) : List (Nat × Nat × Nat × Nat) → State → State × Option (Nat × Xlat)
  | [], s => (s, none)
  | (l, va, data, cmp) :: rest, s =>
    match translate s (keyCore k) (s.spaceOf k) va (memKind opc) with
    | (s1, .ok e) => postLanes k op opc t w rest (s1.post k op opc l va (e.phys va) t (data, cmp) w e.level)
    | (s1, .held) => postLanes k op opc t w rest (s1.post k op opc l va 0 t (data, cmp) w 0 .held)
    | (s1, r) => (s1, some (l, r))

/-- A memory instruction may count on its counter (R159). -/
def Group.canCount (g : Group) (c : Nat) : Bool := c = 0 || g.counter c < 15

/-- Begin an instruction that counts: raise its counter, or hold the group after `la` more issues (R158). -/
def Group.begin (g : Group) (op c la : Nat) : Group :=
  if c = 0 then { g with holds := g.holds ++ [⟨op, la⟩] } else g.setCounter c (g.counter c + 1)

/-- Mask of the lanes among `ls` that a condition holds in. -/
def failing (ls : List Nat) (p : Nat → Bool) : Nat := (maskOf (ls.filter p)).toNat

/-- Issue of a global load, store or atomic (R215, R216, R221, R402, R407, R412 to R414). -/
def memIssue (i : Instr) (opc : Nat) (f : FmtD) (s : State) : Host.Outcome State Fault Refusal :=
  issue i s fun s g m =>
    let k := s.cur.grp
    let t := f.t.toNat
    let c := f.c.toNat
    let ls := lanesOf m
    let va (l : Nat) := g.regN f.a.toNat l 2
    let nc := ls.filter fun l => !canonical (va l)
    let mis := ls.filter fun l => va l % memSize opc ≠ 0
    if nc ≠ [] then
      .trap 0x0204 s.cur.active.toNat (va (nc.headD 0)) (maskOf nc).toNat (kindCode (memKind opc))
    else if mis ≠ [] then .trap 0x0104 s.cur.active.toNat (va (mis.headD 0)) (maskOf mis).toNat (memSize opc)
    else if !g.canCount c || (s.freeEntry (partOf k)).isNone then .hold
    else if m = 0 then .ok s
    else
      let op := s.idCtr
      let w := s.cur.word
      let s1 := { s with
        idCtr := op + 1
        groups := Tab.put s.groups k (g.begin op c f.la.toNat)
        ops := Tab.put s.ops op ⟨k, c, m, w, s.cur.pc⟩ }
      let lane (l : Nat) := let d := memData g opc t l; (l, va l, d.1, d.2)
      let entry (ft : Nat → Bool) (ls : List Nat) : Tab (List Word) :=
        ls.map fun l => let d := memData g opc t l; (l, logWords d.1 d.2 (va l) opc (ft l))
      if s.hasLog k && (!relaxed w || ls.any fun l => s.logCovers k (va l) (memSize opc)) then
        .ok (s1.logEnter k op w s.cur.pc (entry (fun _ => false) ls)).1
      else match postLanes k op opc t w (ls.map lane) s1 with
        | (s2, none) => .ok s2
        | (s2, some (fl, x)) =>
          let held := ls.filter fun l => fl ≤ l
          let bad (l : Nat) : Bool := match (translate s2 (keyCore k) (s2.spaceOf k) (va l) (memKind opc)).2 with
            | .fault _ _ => true
            | _ => false
          let e := s2.logEnter k op w s.cur.pc (entry bad held)
          .faulted k (e.1.xlatReport k e.2 x (kindCode (memKind opc)) s.cur.pc (maskOf held).toNat (failing held bad) (va fl))

/-! ### Replay (R417, R424 to R426) -/

/-- Count a failed store or atomic of a group (R223, R426). -/
def State.failStore (s : State) (k bit : Nat) : State :=
  s.onGroup k fun g => { g with failBits := Nat.lor g.failBits bit, failed := min 255 (g.failed + 1) }

/-- The status bit of a dropped lane by the fault that held it (R426). -/
def dropBit (code : Nat) : Nat := if code = 0x0401 then 1 else if code = 0x0402 then 2 else if code = 0x0403 then 4 else 0

/-- The log entry of an instruction of a group. -/
def State.entryOf (s : State) (k op : Nat) : Option (Nat × LogEntry) := (s.logOf k).find? fun x => x.2.op = op

/-- Take a lane out of a log entry; an entry without lanes becomes free (R417). -/
def State.logLaneDone (s : State) (k i lane : Nat) : State :=
  s.onPart (partOf k) fun q =>
    match Tab.find q.log i with
    | none => q
    | some e =>
      let ls := Tab.del e.lanes lane
      { q with log := if ls = [] then Tab.del q.log i else Tab.put q.log i { e with lanes := ls } }

/-- Registers of a lane that a later instruction has written (R160). -/
def LogEntry.deadIn (e : LogEntry) (lane : Nat) : List Nat := (e.dead.filter fun x => x.1 = lane).map (·.2)

/-- A scratchpad access of one lane by instruction `op`, performed at once (R219, R241). -/
def State.spadAccess (s : State) (k op opc lane e t sw data : Nat) (dead : List Nat) : State :=
  match s.teamOf k with
  | none => s
  | some tm =>
    let x := s.ctxOf k
    let a := swizzle sw e
    let id := ((s.group? k).map (·.team)).getD 0
    if memKind opc = .store then s.raceTiles (s.spadPutLE id tm x a (memSize opc) data) tm.core (some (id, op))
    else s.writeResult k lane t dead (memWords opc) (s.spadLE tm x a (memSize opc))

/-- The interlocked destination of a held LDK, LAUNCH or LDS becomes readable once none of its lanes is held (R157). -/
def State.settle (s : State) (k op : Nat) : State := if (s.entryOf k op).isSome then s else s.unbusy k op

/-- Outcome of one lane of a replay: done or under way, a fault that stops the replay, or not yet possible. -/
inductive Replay
  | done (s : State)
  | stays (s : State)
  | waits (s : State)

/-- Whether a held lane's translation has faulted: its flag FT (R415). -/
def State.flagFault (s : State) (k i lane : Nat) (ft : Bool) : State :=
  let flag (ws : List Word) : List Word := (List.range ws.length).map fun n =>
    let w := (ws[n]?).getD 0
    if n = 6 then (w &&& 5) ||| (if ft then 2 else 0) else w
  s.onPart (partOf k) fun q => { q with log := Tab.alter q.log i fun e => { e with lanes := Tab.alter e.lanes lane flag } }

/-- Some access of an instruction of a group is outstanding in a lane. -/
def State.inFlight (s : State) (op lane : Nat) : Bool := s.accesses.any fun x => x.2.op = op && x.2.lane = lane

/-- The bytes that the held LDK or LAUNCH of a group reads at a virtual address, or how its access fails. -/
def heldRead (s : State) (k va n : Nat) (acc : AccessKind) : State × Except Xlat Nat :=
  match translate s (keyCore k) (s.spaceOf k) va acc with
  | (s1, .ok e) => (s1, readAt s1 e va n)
  | (s1, x) => (s1, .error x)

/-- Replay one lane of an entry: supplied, dropped, or performed after a fresh translation; a fault writes a new record
and stops. A lane that is posted leaves the entry when its access has been performed; one whose page is frozen, or that the ordinary
accesses before it hold, goes on by itself (R88, R96, R417, R432). -/
def replayLane (s : State) (k i : Nat) (e : LogEntry) (lane : Nat) (ws : List Word) : Replay :=
  let opc := wordOp e.word
  let word (n : Nat) := ((ws[n]?).getD 0).toNat
  let va := word 4 + 2 ^ 32 * word 5
  let flags := word 6
  let t := wordT e.word
  let data := word 0 + 2 ^ 32 * word 1 + 2 ^ 64 * word 2 + 2 ^ 96 * word 3
  let fin (s : State) := ((s.logLaneDone k i lane).lanesDone e.op (maskOf [lane])).settle k e.op
  let held := (maskOf (e.lanes.map (·.1))).toNat
  let kind := kindCode (memKind opc)
  let fails (s : State) (x : Xlat) : Replay :=
    match x with
    | .held => .waits s
    | _ => .stays ((s.flagFault k i lane x.isFault).xlatReport k i x kind e.pc held (maskOf [lane]).toNat va)
  if flags % 2 = 0 then
    let s1 := match memKind opc with
      | .store | .atomic => s.failStore k (dropBit e.code)
      | _ => s
    .done (fin s1)
  else if flags / 4 % 2 = 1 && (memKind opc = .load || memKind opc = .ldk) then
    .done (fin (s.writeResult k lane t (e.deadIn lane) (memWords opc) data))
  else if s.inFlight e.op lane then .done s
  else if 0xB0 ≤ opc && opc ≤ 0xB5 then
    if s.accesses.any fun x => x.2.grp = k && x.2.op < e.op && !x.2.rlx then .waits s
    else .done (fin (s.spadAccess k e.op opc lane va t (bits e.word.toNat 4 3) (data % 2 ^ (8 * memSize opc)) (e.deadIn lane)))
  else if opc = 0x24 then
    match heldRead s k va 4 .ldk with
    | (s1, .ok v) => .done (fin (s1.writeResult k lane t (e.deadIn lane) 1 v))
    | (s1, .error x) => fails s1 x
  else if opc = 0x97 then
    match launchEarly s k va with
    | some c => .done (fin (s.writeResult k lane t (e.deadIn lane) 1 c))
    | none => match heldRead s k va 256 .load with
      | (s1, .ok v) =>
        let r := launchChild s1 k va v
        .done (fin (r.1.writeResult k lane t (e.deadIn lane) 1 r.2))
      | (s1, .error x) => fails s1 x
  else
    let d := if opc = 0xBD then (word 0, word 1) else (data % 2 ^ (8 * memSize opc), 0)
    let post (s : State) (pa level : Nat) (st : AccStatus) : State :=
      let s2 := s.post k e.op opc lane va pa t d e.word level st
      { s2 with accesses := Tab.alter s2.accesses s.idCtr fun a => { a with dead := e.deadIn lane } }
    match translate s (keyCore k) (s.spaceOf k) va (memKind opc) with
    | (s1, .ok x) => .done (post s1 (x.phys va) x.level .waiting)
    | (s1, .held) => .done (post s1 0 0 .held)
    | (s1, x) => fails s1 x

/-- Replay the lanes of one entry in ascending order; whether the replay goes on to the next entry. -/
def replayLanes (k i : Nat) : List (Nat × List Word) → State → State × Bool
  | [], s => (s, true)
  | (l, ws) :: rest, s =>
    match Tab.find (s.part (partOf k)).log i with
    | none => (s, true)
    | some e =>
      match replayLane s k i e l ws with
      | .done s1 => replayLanes k i rest s1
      | .waits s1 => (s1, false)
      | .stays s1 => (s1.onPart (partOf k) fun q =>
          { q with log := q.log.map fun x => (x.1, if x.2.grp = k then { x.2 with replaying := false } else x.2) }, false)

/-- Replay entries in entry order; a lane that faults again stops the replay (R417). -/
def replayEntries (k : Nat) : List (Nat × LogEntry) → State → State
  | [], s => s
  | (i, e) :: rest, s =>
    match replayLanes k i e.lanes s with
    | (s1, true) => replayEntries k rest s1
    | (s1, false) => s1

/-- Go on with the replay of a group's entries that has begun. -/
def State.goOn (s : State) (k : Nat) : State := replayEntries k ((s.logOf k).takeWhile (·.2.replaying)) s

/-- ERET replays every waiting entry of a group, in entry order (R417). -/
def State.replayLog (s : State) (k : Nat) : State :=
  let mark (x : Nat × LogEntry) : Nat × LogEntry := if x.2.grp = k then (x.1, { x.2 with replaying := true }) else x
  (if s.hasLog k then s.onPart (partOf k) fun q => { q with log := q.log.map mark } else s).goOn k

/-- A lane of an instruction has been served by its access: it leaves the instruction's log entry, and a replay that has begun goes on
(R216, R417). -/
def State.laneServed (s : State) (k op lane : Nat) : State :=
  let s1 := match s.entryOf k op with
    | some (i, _) => s.logLaneDone k i lane
    | none => s
  let s2 := s1.lanesDone op (maskOf [lane])
  if (s2.logOf k).any (·.2.replaying) then s2.goOn k else s2

/-! ### Accesses that fail after issue (R424 to R428, R431) -/

/-- Move an access and every later one of its instruction into the instruction's entry of the operand log, or a free one (R413,
R424); `none` when no entry is free. -/
def State.holdAccess (s : State) (id : Nat) : Option (State × Nat × List Nat) :=
  match Tab.find s.accesses id with
  | none => none
  | some a =>
    match Tab.find s.ops a.op with
    | none => none
    | some o =>
      let mine := s.accesses.filter fun x => x.2.op = a.op && id ≤ x.1
      let enter (t : Tab (List Word)) : Tab (List Word) := mine.foldl (fun t x =>
        match Tab.find t x.2.lane with
        | some _ => t
        | none => Tab.put t x.2.lane (logWords x.2.data x.2.cmp x.2.va x.2.code false)) t
      let dead := mine.flatMap fun x => x.2.dead.map fun r => (x.2.lane, r)
      let s1 := { s with accesses := s.accesses.filter fun x => !(x.2.op = a.op && id ≤ x.1) }
      match s1.entryOf a.grp a.op with
      | some (i, e) =>
        some (s1.onPart (partOf a.grp) fun q => { q with log := Tab.put q.log i { e with lanes := enter e.lanes, dead := dead ++ e.dead } },
          i, (enter e.lanes).map (·.1))
      | none =>
        if (s1.freeEntry (partOf a.grp)).isNone then none
        else
          let e := s1.logEnter a.grp a.op o.word o.pc (enter [])
          some (e.1.onPart (partOf a.grp) fun q => { q with log := Tab.alter q.log e.2 fun x => { x with dead := dead } },
            e.2, mine.map (·.2.lane))

/-- An access that its instruction's entry, or a free one, can hold. -/
def State.canHold (s : State) (a : Access) : Bool :=
  (s.entryOf a.grp a.op).isSome || (s.freeEntry (partOf a.grp)).isSome

/-- A fault of an access after issue, at its home: the access is held and the record of the rule is written with its code's
disposition; for a charged code the group may end (R416, R424, R427, R428, R431). -/
def State.accessFault (s : State) (id code info0 info1 : Nat) : State :=
  match Tab.find s.accesses id, s.holdAccess id with
  | some a, some (s1, i, lanes) =>
    let pc := ((Tab.find s.ops a.op).map (·.pc)).getD 0
    let s2 := if code = 0x0205 then s1.flagFault a.grp i a.lane true else s1
    s2.homeReport a.grp i code pc (maskOf lanes).toNat a.va info0 info1
  | _, _ => s

/-! ### The end of a freeze (R88, R432) -/

/-- An engine's access that a freeze has held and that has not gone on: the command or the posted entry is still there (R88). -/
def State.stalled (s : State) (z : Stall) : Bool :=
  let n := z.agent - 2 ^ 20
  (Tab.find s.cmds n).isSome || s.quads.any fun q => (Tab.find q.2.board n).isSome

/-- An engine's access to an address was held, by the freeze that held an access of number `n`, before that access and has not gone on
(R88). -/
def State.stallBefore (s : State) (n asid va : Nat) : Bool :=
  s.stalls.any fun z => z.stamp < n && z.asid = asid && z.base ≤ va % 2 ^ 57 && va % 2 ^ 57 < z.base + z.size && s.stalled z

/-- One access that a freeze has held is translated again: it goes on at the new frame, or fails as at issue. It waits while an
engine's access held before it has not gone on (R88). -/
def State.thawAccess (s : State) (id : Nat) : State :=
  match Tab.find s.accesses id with
  | none => s
  | some a =>
    if s.stallBefore id (s.asidOf (s.spaceOf a.grp)) a.va then s
    else match translate s (keyCore a.grp) (s.spaceOf a.grp) a.va a.kind with
    | (s1, .ok e) =>
      { s1 with accesses := Tab.alter s1.accesses id fun a => { a with pa := e.phys a.va, level := e.level, status := .waiting } }
    | (s1, .held) => s1
    | (s1, x) =>
      match s1.holdAccess id with
      | none => s1
      | some (s2, i, lanes) =>
        let pc := ((Tab.find s.ops a.op).map (·.pc)).getD 0
        (s2.flagFault a.grp i a.lane x.isFault).xlatReport a.grp i x (kindCode a.kind) pc (maskOf lanes).toNat (maskOf [a.lane]).toNat a.va

/-- A freeze has ended: the accesses that it held are translated in the order in which they were held, and replays that met it go
on (R88, R432). -/
def State.thaw (s : State) : State :=
  let ids := (s.accesses.filter fun x => x.2.status = .held).map (·.1)
  let s1 := ids.foldl (fun s id => s.thawAccess id) s
  let ks := (s1.parts.flatMap fun p => (p.2.log.filter fun x => x.2.replaying).map (·.2.grp)).eraseDups
  ks.foldl (fun s k => s.goOn k) s1

end Sys2Proof.Machine
end

