-- ==== Sys2Proof/Machine/Handles.lean ====
section
/-! DEFINITION. Tile handles and what they name: element types, shape records and their walks, canonical tiles of
scratchpad, of records and of KV pages (R75, R79 to R83, R128, R129, R135, R137, R231, R232, R259 to R261, R288, R313). -/

namespace Sys2Proof.Machine

/-! ### Element types (R135, R259) -/

/-- Exact value of an element code (R119 to R130). -/
def elemValue (t c : Nat) : Ext :=
  if t = 1 then decodeE2M1 c
  else if t = 2 then decodeE4M3 c
  else if t = 3 then e5m2.decode (c % 256)
  else if t = 4 then Ext.ofInt (sextNat c 8)
  else if t = 5 then bf16.decode (c % 65536)
  else if t = 6 then fp16.decode (c % 65536)
  else fp32.decode (c % 2 ^ 32)

/-! ### Shape records (R80, R81) -/

/-- The base address, in canonical form (R62, R80). -/
def shBase (sh : Nat) : Nat := a64 (bits sh 0 57)
def shFmt (sh : Nat) : Nat := bits sh 64 8
def shDims (sh : Nat) : Nat := bits sh 72 3
def shSwz (sh : Nat) : Nat := bits sh 75 3
def shRagged (sh : Nat) : Nat := bits sh 78 2

/-- Tile extents 0 and 1; 0 means 256 (R80). -/
def shTile (sh d : Nat) : Nat := let t := bits sh (80 + 8 * d) 8; if t = 0 then 256 else t

/-- Extent of a dimension: 1 at or above the declared count (R80). -/
def shExt (sh d : Nat) : Nat := if d < shDims sh then bits sh (96 + 24 * d) 24 else 1

/-- Stride of dimensions 1 to 4: 0 at or above the declared count (R80). -/
def shStride (sh d : Nat) : Nat := if d < shDims sh then bits sh (216 + 35 * (d - 1)) 35 else 0

/-- Side-array pointers: 0 block scales, 1 band scales, 2 metadata (R80). -/
def shPtr (sh p : Nat) : Nat := a64 (bits sh (356 + 51 * p) 51 * 64)

/-- A 2:4 format (R81). -/
def fmtSparse (f : Nat) : Bool := 8 ≤ f && f ≤ 0x0D

/-- Element type that a storage format gives; `tern` for a ternary record (R81, R259). -/
def fmtType (f tern : Nat) : Nat :=
  if f = 0 then 7 else if f = 1 || f = 0x0B then 6 else if f = 2 || f = 0x0A then 5 else if f = 3 || f = 8 then 2
  else if f = 4 || f = 9 then 3 else if f = 5 || f = 0x0D then 1 else if f = 6 || f = 0x0C then 4
  else if tern = 0 then 4 else tern

/-- Bytes of one stored element of a format that packs whole bytes (R81). -/
def fmtBytes (f : Nat) : Nat := if f = 0 then 4 else if f = 1 || f = 2 || f = 0x0A || f = 0x0B then 2 else 1

/-- Side arrays that a format needs (R81). -/
def fmtNeeds (f p : Nat) : Bool := if p = 2 then fmtSparse f else f = 5 || f = 0x0D

/-- Why HBIND.REC refuses a record: the lowest code of R409 from 0x12 to 0x16 that applies. -/
def shRefusal (sh : Nat) : Option Nat :=
  if bits sh 509 3 ≠ 0 || bits sh 57 7 ≠ 0 then some 0x12
  else if 2 ≤ shRagged sh then some 0x13
  else if shDims sh = 0 || 6 ≤ shDims sh || (List.range (shDims sh)).any (fun d => shExt sh d = 0) then some 0x14
  else if 0x0E ≤ shFmt sh then some 0x15
  else if (List.range 3).any fun p => fmtNeeds (shFmt sh) p && shPtr sh p = 0 then some 0x16
  else none

/-- Blocks along dimensions 0 and 1 (R260). -/
def shBlocks0 (sh : Nat) : Nat := ceilDiv (shExt sh 0) (shTile sh 0)
def shBlocks1 (sh e1 : Nat) : Nat := ceilDiv e1 (shTile sh 1)

/-- Number of blocks of a record's walk (R260). -/
def shBlocks (sh e1 : Nat) : Nat := shBlocks0 sh * shBlocks1 sh e1 * shExt sh 2 * shExt sh 3 * shExt sh 4

/-- A block: indices along dimensions 0 and 1, and the elements of dimensions 2 to 4. -/
structure Blk where
  b0 : Nat
  b1 : Nat
  i2 : Nat
  i3 : Nat
  i4 : Nat
  deriving DecidableEq, Repr

/-- The block at a cursor (R260). -/
def shBlk (sh order e1 cursor : Nat) : Blk :=
  let n0 := shBlocks0 sh
  let n1 := shBlocks1 sh e1
  let r := cursor / (n0 * n1)
  { b0 := if order = 0 then cursor % n0 else cursor / n1 % n0
    b1 := if order = 0 then cursor / n0 % n1 else cursor % n1
    i2 := r % shExt sh 2
    i3 := r / shExt sh 2 % shExt sh 3
    i4 := r / (shExt sh 2 * shExt sh 3) % shExt sh 4 }

/-! ### Elements of a tensor (R81, R82, R128, R129) -/

/-- Address of the row of dimension 0 at index x1 of a block. -/
def rowBase (sh : Nat) (b : Blk) (x1 : Nat) : Nat :=
  shBase sh + x1 * shStride sh 1 + b.i2 * shStride sh 2 + b.i3 * shStride sh 3 + b.i4 * shStride sh 4

/-- Number of a combination of the indices of dimensions 2 to 4, dimension 2 fastest. -/
def highIndex (sh : Nat) (b : Blk) : Nat := b.i2 + shExt sh 2 * (b.i3 + shExt sh 3 * b.i4)

/-- Round up to a multiple of 8. -/
def pad8 (n : Nat) : Nat := ceilDiv n 8 * 8

/-- Address of a row of a dense side array with `n` bytes before padding (R82). -/
def sideRow (sh p n : Nat) (b : Blk) (x1 : Nat) : Nat :=
  shPtr sh p + (x1 + shExt sh 1 * highIndex sh b) * pad8 n

/-- Address of the metadata byte of position x0 (R82, R129). -/
def metaAddr (sh : Nat) (b : Blk) (x0 x1 : Nat) : Nat :=
  sideRow sh 2 (ceilDiv (ceilDiv (shExt sh 0) 4) 2) b x1 + x0 / 8

/-- Address of the block scale of position x0 (R82). -/
def scaleAddr (sh : Nat) (b : Blk) (x0 x1 : Nat) : Nat := sideRow sh 0 (ceilDiv (shExt sh 0) 8) b x1 + x0 / 8

/-- Address of the band scale of index x1 (R82). -/
def bandAddr (sh : Nat) (b : Blk) (x1 : Nat) : Nat :=
  shPtr sh 1 + highIndex sh b * pad8 (2 * ceilDiv (shExt sh 1) 64) + 2 * (x1 / 64)

/-- `n` addresses from `a`. -/
def span (a n : Nat) : List Nat := (List.range n).map (a + ·)

/-- Addresses that the element at (x0, x1) of a block is read from. -/
def elemAddrs (sh : Nat) (b : Blk) (x0 x1 : Nat) : List Nat :=
  let f := shFmt sh
  let row := rowBase sh b x1
  if f = 5 then [row + x0 / 2]
  else if f = 7 then [row + x0 / 5]
  else if f = 0x0D then [metaAddr sh b x0 x1, row + x0 / 4]
  else if fmtSparse f then metaAddr sh b x0 x1 :: span (row + x0 / 4 * 2 * fmtBytes f) (2 * fmtBytes f)
  else span (row + x0 * fmtBytes f) (fmtBytes f)

/-- Code of a trit in an element type (R128, R137). -/
def tritCode (t d : Nat) : Nat :=
  if d = 0 then 0
  else
    let one := if t = 1 then 0x2 else if t = 2 then 0x38 else if t = 3 then 0x3C else if t = 4 then 1
      else if t = 5 then 0x3F80 else if t = 6 then 0x3C00 else 0x3F800000
    if d = 1 then one
    else if t = 4 then 0xFF
    else one + (if t = 1 then 8 else if t = 2 || t = 3 then 0x80 else if t = 7 then 0x80000000 else 0x8000)

/-- Little-endian number of `n` bytes through a reader. -/
def readN (rd : Nat → Byte) (a n : Nat) : Nat := readBytes rd a n

/-- Code of the element at (x0, x1) of a block in its element type (R81, R128, R129). -/
def elemCode (rd : Nat → Byte) (sh t : Nat) (b : Blk) (x0 x1 : Nat) : Nat :=
  let f := shFmt sh
  let row := rowBase sh b x1
  if f = 5 then bits (rd (row + x0 / 2)).toNat (4 * (x0 % 2)) 4
  else if f = 7 then
    let v := (rd (row + x0 / 5)).toNat
    if 243 ≤ v then 0 else tritCode t (v / 3 ^ (x0 % 5) % 3)
  else if fmtSparse f then
    let idx := bits (rd (metaAddr sh b x0 x1)).toNat (4 * (x0 / 4 % 2)) 4
    let value (j : Nat) : Nat :=
      if f = 0x0D then bits (rd (row + x0 / 4)).toNat (4 * j) 4
      else readN rd (row + (x0 / 4 * 2 + j) * fmtBytes f) (fmtBytes f)
    if x0 % 4 = idx / 4 then value 1 else if x0 % 4 = idx % 4 then value 0 else 0
  else readN rd (row + x0 * fmtBytes f) (fmtBytes f)

/-! ### Canonical tiles (R135, R137) -/

/-- What one byte of a canonical tile holds: elements (k, n), a block scale, or a byte of a band scale. -/
inductive TileCell
  | elem (k n : Nat)
  | scale (kb n : Nat)
  | band (n : Nat)
  deriving DecidableEq, Repr

/-- The cells of byte `i` of a canonical tile (R135). -/
def tileCells (t i : Nat) : List TileCell :=
  if t = 1 then
    if i < 1024 then [.elem (i / 16) (2 * (i % 16)), .elem (i / 16) (2 * (i % 16) + 1)]
    else if i < 1280 then [.scale ((i - 1024) / 32) ((i - 1024) % 32)]
    else [.band ((i - 1280) / 2)]
  else if t = 7 then [.elem (i / 128) (i % 128 / 4)]
  else if elemBytes t = 2 then [.elem (i / 64) (i % 64 / 2)]
  else [.elem (i / 32) (i % 32)]

/-- Byte `i` of a canonical tile from the values of its cells. -/
def tileByte (t i : Nat) (v : TileCell → Nat) : Byte :=
  match tileCells t i with
  | [x, y] => BitVec.ofNat 8 (v x + 16 * v y)
  | [.band n] => BitVec.ofNat 8 (v (.band n) / 256 ^ (i % 2))
  | [x] => BitVec.ofNat 8 (v x / 256 ^ (i % elemBytes t))
  | _ => 0

/-- Position in the tensor of row k, column n of canonical tile (u, v) of a block; none outside the block and the
extents (R83, R262). -/
def tilePos (sh e1 t : Nat) (b : Blk) (u v k n : Nat) : Option (Nat × Nat) :=
  let y0 := u * typeK t + k
  let y1 := v * 32 + n
  let x0 := b.b0 * shTile sh 0 + y0
  let x1 := b.b1 * shTile sh 1 + y1
  if y0 < shTile sh 0 && y1 < shTile sh 1 && x0 < shExt sh 0 && x1 < e1 then some (x0, x1) else none

/-- Position along dimension 1 of column n of canonical tile (u, v) of a block, for its band scale: none outside the extent, as the
ragged mode narrows it; the place in dimension 0 and the end of the block do not count (R135, R137). -/
def bandPos (sh e1 : Nat) (b : Blk) (v n : Nat) : Option Nat :=
  let x1 := b.b1 * shTile sh 1 + v * 32 + n
  if x1 < e1 then some x1 else none

/-- Addresses that a cell of a record's tile is read from. -/
def cellAddrs (sh e1 t : Nat) (b : Blk) (u v : Nat) : TileCell → List Nat
  | .elem k n => match tilePos sh e1 t b u v k n with
    | some (x0, x1) => elemAddrs sh b x0 x1
    | none => []
  | .scale kb n => match tilePos sh e1 t b u v (8 * kb) n with
    | some (x0, x1) => if shFmt sh = 7 then [] else [scaleAddr sh b x0 x1]
    | none => []
  | .band n => match bandPos sh e1 b v n with
    | some x1 => if shFmt sh = 7 then [] else span (bandAddr sh b x1) 2
    | none => []

/-- Value of a cell of a record's tile: side values of a ternary record are constants (R137). A block scale is that of the first
position of its block of 8, also where the block's origin is no multiple of 8 and the block spans two scales of the record, and 0
when that position lies outside the record's block or extents (DESIGN CHOICE, log 104). -/
def cellValue (rd : Nat → Byte) (sh e1 t : Nat) (b : Blk) (u v : Nat) : TileCell → Nat
  | .elem k n => match tilePos sh e1 t b u v k n with
    | some (x0, x1) => elemCode rd sh t b x0 x1
    | none => 0
  | .scale kb n =>
    if shFmt sh = 7 then 0x60
    else match tilePos sh e1 t b u v (8 * kb) n with
      | some (x0, x1) => (rd (scaleAddr sh b x0 x1)).toNat
      | none => 0
  | .band n => match bandPos sh e1 b v n with
    | some x1 => if shFmt sh = 7 then 0x3F80 else readN rd (bandAddr sh b x1) 2
    | none => 0

/-! ### Reading through the tile engine's translations (R84) -/

/-- The move whose freeze holds an address of an address space (R88). -/
def State.freezeOf (s : State) (asid va : Nat) : Option Move2 :=
  (s.moves.find? fun x => x.2.frozen && (s.context x.2.ctx).asid = asid && x.2.va / x.2.size = va % 2 ^ 57 / x.2.size).map (·.2)

/-- An engine's access to an address goes to its translation: a freeze holds it, and after the freeze so do the accesses that were
held before it and have not gone on (R88). -/
def State.stallAt (s : State) (ag : Agent) (va : Nat) : State × Bool :=
  let asid := s.asidOf ag.space
  let mine := s.stalls.find? fun z => z.agent = ag.gid && z.asid = asid && z.base ≤ va % 2 ^ 57 && va % 2 ^ 57 < z.base + z.size
  match s.freezeOf asid va, mine with
  | some _, some _ => (s, true)
  | some m, none =>
    if ag.isEngine then
      ({ s with idCtr := s.idCtr + 1, stalls := s.stalls.filter s.stalled ++ [⟨s.idCtr, ag.gid, asid, m.va, m.size⟩] }, true)
    else (s, true)
  | none, none => (s, false)
  | none, some z =>
    let lane (x : Nat × Access) : Bool :=
      x.1 < z.stamp && x.2.status = .held && s.asidOf (s.spaceOf x.2.grp) = asid && z.base ≤ x.2.va % 2 ^ 57 &&
        x.2.va % 2 ^ 57 < z.base + z.size
    if s.stallBefore z.stamp asid va || s.accesses.any lane then (s, true)
    else ({ s with stalls := s.stalls.filter (· ≠ z) }, false)

/-- Translate the pages of addresses in order and meet the homes of their lines: a table of 4 KiB pages, or the first address that
fails. `whole` tells that the access rewrites every byte of the line of an address. -/
def mapWith (tr : State → Nat → State × Xlat) (ag : Agent) (write : Bool) (whole : Nat → Bool) :
    List Nat → State → Tab Nat → State × Except (Nat × Xlat) (Tab Nat)
  | [], s, m => (s, .ok m)
  | a :: rest, s, m =>
    let next (s : State) (p : Nat) (m : Tab Nat) : State × Except (Nat × Xlat) (Tab Nat) :=
      match s.meetLine ag write (whole a) a (p + a % 4096) with
      | (s1, some x) => (s1, .error (a, x))
      | (s1, none) => mapWith tr ag write whole rest s1 m
    match Tab.find m (a / 4096) with
    | some p => next s p m
    | none =>
      match s.stallAt ag a with
      | (s0, true) => (s0, .error (a, if canonical a then .held else .fault 0x0204 0))
      | (s0, false) =>
        match tr s0 a with
        | (s1, .ok e) =>
          let p := e.phys (a / 4096 * 4096)
          next s1 p (Tab.put m (a / 4096) p)
        | (s1, r) => (s1, .error (a, r))

/-- Every byte of the line of a virtual address is in a list. -/
def wholeLine (as : List Nat) (a : Nat) : Bool := (List.range 64).all fun i => as.contains (a / 64 * 64 + i)

/-- Physical address through a table of pages. -/
def pagePhys (m : Tab Nat) (a : Nat) : Nat := Tab.get m (a / 4096) 0 + a % 4096

/-- A byte that an agent reads through a table of pages (R112). -/
def State.pageByte (s : State) (ag : Agent) (m : Tab Nat) (a : Nat) : Byte :=
  if s.races = [] then s.peek (pagePhys m a)
  else
    let r := s.regionOf ag.space a
    if r.2 then s.peek (pagePhys m a) else s.agentByte ag r.1 (pagePhys m a)

/-- Note an agent's accesses to `n` bytes from each of some virtual addresses, unless of control class (R112). -/
def State.notePages (s : State) (ag : Agent) (m : Tab Nat) (write : Bool) (n : Nat) (as : List Nat) : State :=
  if s.races = [] && (s.context ag.space).rgnlo = [] && ag.die ≠ 3 then s
  else as.foldl (fun s a =>
    let r := s.regionOf ag.space a
    if r.2 then s else s.noteSpan ag r.1 (pagePhys m a) n write) s

/-- Pages through the walk-ahead TLB of a quad (R84). The stores of one sector (fewer than 512 addresses) have been checked
with those of their whole tile. -/
def mapPages (q : Nat) (ag : Agent) (acc : AccessKind) (as : List Nat) (s : State) (m : Tab Nat) :
    State × Except (Nat × Xlat) (Tab Nat) :=
  let w := acc = .store
  mapWith (fun s a => translateEngine s q ag.space a acc) ag w (fun a => w && (as.length < 512 || wholeLine as a)) as s m

/-- One address in each line of the `n` bytes at `va`. -/
def spanLines (va n : Nat) : List Nat :=
  if n = 0 then []
  else va :: (List.range ((va + n - 1) / 64 - va / 64)).map fun i => (va / 64 + 1 + i) * 64

/-- Pages of the `n` bytes at a virtual address for an engine without a TLB: a walk (R84, R412). The access is one of its agent's
(R112). -/
def mapSpan (s : State) (ag : Agent) (va n : Nat) (acc : AccessKind) : State × Except (Nat × Xlat) (Tab Nat) :=
  let w := acc = .store
  let whole (a : Nat) : Bool := w && va ≤ a / 64 * 64 && a / 64 * 64 + 64 ≤ va + n
  match mapWith (fun s a => translateWalk s ag.space a acc) ag w whole (spanLines va n) s [] with
  | (s1, .ok m) => ((spanLines va n).foldl (fun s a => s.notePages ag m w (min (va + n) (a / 64 * 64 + 64) - a) [a]) s1, .ok m)
  | r => r

/-- The addresses that `n` bytes from byte `i` of canonical tile (u, v) of a record's block are read from. -/
def partAddrs (sh e1 t : Nat) (b : Blk) (u v i n : Nat) : List Nat :=
  (List.range n).flatMap fun j => (tileCells t (i + j)).flatMap (cellAddrs sh e1 t b u v)

/-- `n` bytes from byte `i` of canonical tile (u, v) of a record's block, read through a table of pages. -/
def tilePart (s : State) (ag : Agent) (sh e1 t : Nat) (b : Blk) (u v i n : Nat) (m : Tab Nat) : State × List Byte :=
  let rd := s.pageByte ag m
  (s.notePages ag m false 1 (partAddrs sh e1 t b u v i n), (List.range n).map fun j => tileByte t (i + j) (cellValue rd sh e1 t b u v))

/-- `n` bytes from byte `i` of canonical tile (u, v) of a record's block, or the address and way in which they fail. -/
def recTileBytes (s : State) (q : Nat) (ag : Agent) (sh e1 t : Nat) (b : Blk) (u v i n : Nat) :
    State × Except (Nat × Xlat) (List Byte) :=
  match mapPages q ag .load (partAddrs sh e1 t b u v i n) s [] with
  | (s1, .error r) => (s1, .error r)
  | (s1, .ok m) => let x := tilePart s1 ag sh e1 t b u v i n m; (x.1, .ok x.2)

/-! ### KV pages (R288, R313) -/

/-- Physical address of element `el` of the key or value of a position, in the frame of a stream of a page set (R288). -/
def kvAddr (bd : Binding) (set pos el : Nat) (value : Bool) : Nat :=
  65536 * (set + bd.stream) + (if value then 32768 else 0) + (pos % bd.tokens * bd.dim + el) * elemBytes bd.type

/-- Head chunks of a K handle and column blocks of a V handle (R313). -/
def kvInner (bd : Binding) (mode : Nat) : Nat :=
  if mode % 2 = 0 then ceilDiv bd.dim (typeK bd.type) else ceilDiv bd.dim 32

/-- Tiles of a KV read handle's walk (R313). -/
def kvBlocks (bd : Binding) (mode : Nat) : Nat := ceilDiv bd.keys.length 32 * kvInner bd mode

/-- The access of an engine to physical addresses, pages and tables that have no translation, meets a fault at the home of one of
their lines: the address and the way it fails (R421, R428; log 105). -/
def State.frameFault (s : State) (write : Bool) (pas : List Nat) : Option (Nat × Xlat) :=
  pas.findSome? fun p =>
    ((s.lineFault p write false).filter fun f => !(write && f.1 = 0x0401)).map fun f => (p, .broken f.1 f.2.1 f.2.2)

/-- Physical address of a cell of the canonical tile of a KV read handle at its cursor; none for a cell that is 0 (R313). -/
def kvCell (bd : Binding) (mode cursor half : Nat) : TileCell → Option Nat
  | .elem k n =>
    let b := cursor / kvInner bd mode
    let u := cursor % kvInner bd mode
    let at_ (key el : Nat) (value : Bool) : Option Nat :=
      match bd.keys[key]? with
      | none => none
      | some (pos, _, set) => if el < bd.dim then some (kvAddr bd set pos el value) else none
    if mode % 2 = 0 then at_ (32 * b + n) (u * typeK bd.type + k) false else at_ (32 * b + 16 * half + k) (32 * u + n) true
  | _ => none

/-- Canonical tile of a KV read handle at its cursor, or the physical address at which a read of its pages fails (R313, R421,
R428). -/
def State.kvTile (s : State) (bd : Binding) (mode cursor half : Nat) : Except (Nat × Xlat) (List Byte) :=
  let cells := (List.range 1024).flatMap fun i => tileCells bd.type i
  match s.frameFault false (cells.filterMap (kvCell bd mode cursor half)) with
  | some r => .error r
  | none => .ok ((List.range 1024).map fun i =>
      tileByte bd.type i fun x => ((kvCell bd mode cursor half x).map fun a => readN s.peek a (elemBytes bd.type)).getD 0)

/-! ### Handles of a team -/

def Team.handle (t : Team) (h : Nat) : Handle := Tab.get t.handles h (.unbound 0)

/-- No team: no scratchpad, no accumulator window, every handle unbound. -/
def noTeam : Team :=
  { grid := 0, tix := 0, core := 0, place := 0, occ := 0, groups := [], resident := false, scratchSize := 0,
    stamp := 0, scratch := [], winBase := 0, winW := 0, acc := [], handles := [], phase := 0, expected := 0,
    arrived := [], children := [], slot := none, reqId := 0, reqRec := 0, preempt := none, senders := [], changes := [], ended := false }

/-- The team of a group; a privileged group has none (R16). -/
def State.teamFor (s : State) (g : Group) : Team :=
  if g.privileged then noTeam else (s.team? g.team).getD noTeam

/-- Element type of a handle, 0 when unbound (R259). -/
def Handle.type : Handle → Nat
  | .unbound _ => 0
  | .spad _ t _ _ => t
  | .record _ _ t _ _ _ => t
  | .kvRead _ _ t _ _ => t
  | .kvWrite _ _ t _ => t

/-- Binding code of a handle-type fault (R409). -/
def Handle.kind : Handle → Nat
  | .unbound _ | .spad _ _ _ _ => 0
  | .record _ _ _ _ _ _ => 1
  | .kvRead _ _ _ _ _ => 2
  | .kvWrite _ _ _ _ => 3

/-- Blocks of a handle's walk: of a write binding, one for each 32 positions (R314). -/
def State.walkLen (s : State) : Handle → Nat
  | .unbound _ | .spad _ _ _ _ => 0
  | .record sh _ _ _ e1 _ => shBlocks sh e1
  | .kvRead b m _ _ _ => ((Tab.find s.bindings b).map fun bd => kvBlocks bd m).getD 0
  | .kvWrite b _ _ _ => ((Tab.find s.bindings b).map fun bd => ceilDiv bd.count 32).getD 0

/-- A handle with its cursor set modulo the walk's length; a handle without a cursor is unchanged (R259, R260). -/
def State.atCursor (s : State) (h : Handle) (f : Nat → Nat) : Handle :=
  let n := s.walkLen h
  let w (c : Nat) : Nat := if n = 0 then 0 else f c % n
  match h with
  | .unbound _ | .spad _ _ _ _ => h
  | .record sh a t o e1 c => .record sh a t o e1 (w c)
  | .kvRead b m t c half => .kvRead b m t (w c) half
  | .kvWrite b m t c => .kvWrite b m t (w c)

/-- Advance a handle of a team by one block (R260). -/
def State.advanceHandle (s : State) (tid h : Nat) : State :=
  match s.team? tid with
  | none => s
  | some t =>
    let nh := s.atCursor (t.handle h) (· + 1)
    match t.handle h with
    | .unbound _ | .spad _ _ _ _ => s
    | _ => s.onTeam tid fun t => { t with handles := Tab.put t.handles h nh }

/-- An HBIND or KVBIND of the team that names a handle has not completed; KVBIND.VP and KVBIND.VT may bind the next handle
too (R313, R402). -/
def State.bindPending (s : State) (tid h : Nat) : Bool :=
  s.cmds.any fun x => x.2.team = tid &&
    (((x.2.op = 0xD0 || x.2.op = 0xD9) && x.2.h = h) ||
      (x.2.op = 0xD9 && (x.2.m = 1 || x.2.m = 3) && x.2.h + 1 = h))

/-- A scratchpad access that a group issued before command `id` waits in the operand log (R414). -/
def State.spadEarlier (s : State) (k id : Nat) : Bool :=
  (s.logOf k).any fun x => x.2.op < id && 0xB0 ≤ wordOp x.2.word && wordOp x.2.word ≤ 0xB5

/-- A byte of a team's scratchpad as the stores of a group that wait in its operand log will leave it: what a later instruction of
the group reads at issue (R95, R96, R414). -/
def State.spadSeen (s : State) (k : Nat) (t : Team) (ctx e : Nat) : Byte :=
  let word (ws : List Word) (n : Nat) : Nat := ((ws[n]?).getD 0).toNat
  let put (b : Byte) (x : LogEntry) : Byte :=
    if 0xB3 ≤ wordOp x.word && wordOp x.word ≤ 0xB5 then
      x.lanes.foldl (fun b l =>
        let a := swizzle (bits x.word.toNat 4 3) (word l.2 4)
        if a ≤ e && e < a + memSize (wordOp x.word) then BitVec.ofNat 8 (word l.2 ((e - a) / 4) / 256 ^ ((e - a) % 4)) else b) b
    else b
  (s.logOf k).foldl (fun b x => put b x.2) (s.spadByte t ctx e)

/-- A binding that a handle uses. -/
def Handle.binding : Handle → Option Nat
  | .kvRead b _ _ _ _ | .kvWrite b _ _ _ => some b
  | _ => none

end Sys2Proof.Machine
end

