-- ==== Sys2Proof/Machine/Matrix.lean ====
section
/-! DEFINITION. Matrix and attention instructions (0xC0 to 0xCC; R226 to R251): what their issue posts on the quad's counting
board, how the board grants entries, and what an entry does when it completes. -/

namespace Sys2Proof.Machine

/-! ### Quarters, tiles and handles at issue -/

/-- A quarter takes part when one of its eight lanes is active (R227). -/
def quarterActive (m : Word) (q : Nat) : Bool := bits m.toNat (8 * q) 8 ≠ 0

/-- The quarters that take part. -/
def quarters (m : Word) : List Nat := (List.range 4).filter (quarterActive m)

/-- The lowest tile at or above the window among those named (R408). -/
def tileFault (w : Nat) (tiles : List Nat) : Option Nat :=
  tiles.foldl (fun b t => if t < w then b else match b with
    | none => some t
    | some x => some (min x t)) none

/-- What a handle must be: a predicate of the handle and its number. -/
abbrev HandleTest := Nat → Handle → Bool

/-- The binding checks of handles in ascending order: code, info 0 and info 1 of the first that fails (R402, R409). -/
def handleFault (t : Team) (ok : HandleTest) : List Nat → Option (Nat × Nat × Nat)
  | [] => none
  | h :: rest =>
    match t.handle h with
    | .unbound code => some (0x0107, h, code)
    | b => if ok h b then handleFault t ok rest else some (0x0108, h, b.type + 256 * b.kind)

/-- A matrix word accepts a handle: SPAD or REC of its element type, REC with the tile extents of R261 (R409). -/
def matrixOk (t : Nat) : HandleTest := fun _ h =>
  match h with
  | .spad _ ty _ _ => ty = t
  | .record sh _ ty _ _ _ => ty = t && shTile sh 0 = typeK ty && shTile sh 1 = 32
  | _ => false

/-- Number of entries of the counting board that belong to a core (R235). -/
def Quad.ofCore (q : Quad) (c : Nat) : Nat := (q.board.filter fun x => x.2.core = c).length

/-- A core has room for `n` entries: 16 of its own, 64 in all (R235). -/
def State.boardRoom (s : State) (c n : Nat) : Bool :=
  let q := s.quad (quadOfCore c)
  q.ofCore c + n ≤ 16 && q.board.length + n ≤ 64

/-- The rank of a posting within its cycle: partition order, then core order within the quad (R236). -/
def Entry.rank (e : Entry) : Nat := 4 * keyPart e.grp + e.core % 4

/-- Post entries with rising numbers (R235, R236). -/
def State.postEntries (s : State) (q : Nat) (es : List Entry) : State :=
  es.foldl (fun s e =>
    let id := s.idCtr
    { (s.onQuad q fun u => { u with board := Tab.put u.board id e, posted := ⟨e.posted, e.rank⟩ }) with idCtr := id + 1 }) s

/-- Words of a register block of a quarter: lane by lane, 20 words each (R136, R227). A block that is not E2M1 holds no block scales:
what a later E2M1 instruction would take for them from the latch is free (R233; log 81). -/
def Group.ablock (g : Group) (a q : Nat) (e2m1 : Bool) : List Word :=
  (List.range 8).flatMap fun l => (List.range 20).map fun w =>
    if w < 16 || e2m1 then g.vreg (a + w) (8 * q + l) else Config.freeVector g.stamp (96 + w) (8 * q + l)

/-- The latch serves quarter `q` of an instruction with this A field and kind (R233). -/
def Latch.serves (x : Latch) (a q : Nat) (e2m1 : Bool) : Bool :=
  x.held && x.aField = a && x.e2m1 = e2m1 && bits x.valid q 1 = 1

/-- The A block of a quarter, from the latch or the registers (R233). -/
def Group.takeA (g : Group) (a q : Nat) (e2m1 : Bool) : List Word :=
  if g.latch.serves a q e2m1 then Tab.get g.latch.blocks q [] else g.ablock a q e2m1

/-- The latch after an instruction that used the blocks of the quarters `qs`: held with them valid, the other quarters' valid bits kept
where the A field matched, or released (R233). -/
def Group.latchAfter (g : Group) (a : Nat) (e2m1 r : Bool) (qs : List Nat) : Latch :=
  if !r then Latch.reset
  else
    let same := g.latch.held && g.latch.aField = a
    let old := if same then g.latch.valid else 0
    { held := true, aField := a, e2m1 := e2m1
      valid := qs.foldl (fun v q => setBits v q 1 1) old
      blocks := qs.foldl (fun t q => Tab.put t q (g.takeA a q e2m1)) (if same then g.latch.blocks else []) }

/-- Rows of a quarter inside the query extent, as a mask (R245). -/
def rowsInside (qctx : Option QueryCtx) (q : Nat) : Nat :=
  match qctx with
  | none => 0xFFFF
  | some c => (List.range 16).foldl (fun m i => if 16 * q + i < c.rows then m + 2 ^ i else m) 0

/-- What identifies a handle's current tile (R236). Tiles of KV read handles, which the rule does not name, are the same when binding,
mode, type, cursor and half are (DESIGN CHOICE, log 107). -/
def State.tileId (s : State) (c ctx : Nat) : Handle → List Nat
  | .spad off t _ _ => [0, c, off, t]
  | .record _ a _ _ _ cur => [1, a, (s.context ctx).asid, cur]
  | .kvRead b m t cur half => [2, b, m, t, cur, half]
  | _ => []

/-- Column extent of a handle's current tile (R232, R259, R313). -/
def State.tileCols (s : State) : Handle → Nat
  | .spad _ _ cols _ => cols
  | .record sh _ _ o e1 cur => min 32 (e1 - (shBlk sh o e1 cur).b1 * 32)
  | .kvRead b m _ cur _ =>
    match Tab.find s.bindings b with
    | none => 0
    | some bd => if m % 2 = 0 then 32 else min 32 (bd.dim - 32 * (cur % kvInner bd m))
  | _ => 0

/-- The tile of a handle that is present at posting: a scratchpad tile as it stands, with the stores of the group that still wait in
its operand log (R95, R236, R241, R414; log 11). -/
def State.tileNow (s : State) (k : Nat) (tm : Team) (ctx : Nat) : Handle → Option (List Byte)
  | .spad off t _ swz => some ((List.range (tileSize t)).map fun i => s.spadSeen k tm ctx (swizzle swz (off + i)))
  | _ => none

/-- An entry that moves or computes nothing yet: the fields that every instruction of a group shares. -/
def State.entryBase (s : State) (k : Nat) (g : Group) (op : Nat) : Entry :=
  { core := keyCore k, grp := k, team := g.team, pri := g.pri, posted := s.cycles (dieOfCore (keyCore k)),
    instr := s.idCtr, fused := false, op := op, quarter := 0, reads := [], writes := [], a := [], b := [], src := [],
    bid := [], cols := 32, type := 0, nbv := (s.context (s.ctxOf k)).nbv, z := false, conv := 0, lanes := s.cur.active,
    sigma := 0, rows := 0xFFFF, masked := [], reg := 0, granted := false, ctx := s.ctxOf k, pc := s.cur.pc,
    tag := g.tag, held := false }

/-- A trap of a binding check (R402, R408, R409): tiles first, then handles. -/
def bindingTrap (s : State) (t : Team) (tiles : List Nat) (ok : HandleTest) (hs : List Nat) : Option Eff :=
  match tileFault t.winW tiles with
  | some n => some (.trap 0x0106 s.cur.active.toNat 0 (n % 512 + 2 ^ 16 * t.winW) 0)
  | none => (handleFault t ok hs).map fun f => .trap f.1 s.cur.active.toNat 0 f.2.1 f.2.2

/-- A word that streams from global memory waits until the group's earlier stores have been performed (R100, R257; log 22). -/
def State.storesPending (s : State) (k : Nat) : Bool :=
  s.accesses.any fun x => x.2.grp = k && (x.2.kind = .store || x.2.kind = .atomic)

/-- Some handle of a list names global memory. -/
def streams (t : Team) (hs : List Nat) : Bool :=
  hs.any fun h => match t.handle h with
    | .record _ _ _ _ _ _ | .kvRead _ _ _ _ _ => true
    | _ => false

/-- Issue of an instruction that names handles: it is held while a binding of one is pending (R402), and takes its binding traps; then
`body` posts it. -/
def handleIssue (s : State) (g : Group) (tiles : List Nat) (ok : HandleTest) (hs : List Nat)
    (body : Team → Eff) : Eff :=
  let t := s.teamFor g
  if !g.privileged && hs.any (s.bindPending g.team) then .hold
  else match bindingTrap s t tiles ok hs with
    | some e => e
    | none => if streams t hs && s.storesPending s.cur.grp then .hold else body t

/-! ### MMA (R229 to R233) -/

/-- The small operations of a matrix word that are posted: A quarter, handle and tile, both as offsets (R230). -/
def smallOps (f : Nat) (m : Word) : List (Nat × Nat × Nat) :=
  if f = 2 then (quarters m).filter (· < 2) |>.flatMap fun q => [(q, 0, 2 * q), (q, 1, 2 * q + 1)]
  else if f = 3 then (if quarterActive m 0 then (List.range 4).map fun n => (0, n, n) else [])
  else (quarters m).map fun q => (q, 0, q)

/-- A matrix instruction of element type `t`. -/
def mma (i : Instr) (op t : Nat) (f : FmtF) (s : State) : Host.Outcome State Fault Refusal :=
  issue i s fun s g _ =>
    let k := s.cur.grp
    let e2m1 := t = 1
    let acc := f.t.toNat
    let a := f.a.toNat
    let ops := smallOps f.f.toNat s.cur.active
    let hs := (List.range (fusedHandles f.f)).map (f.h.toNat + ·)
    handleIssue s g (ops.map fun o => acc + o.2.2) (matrixOk t) hs fun tm =>
      if ops = [] then .ok s
      else if !s.boardRoom (keyCore k) ops.length then .hold
      else
        let ctx := s.ctxOf k
        let base := s.entryBase k g op
        let entry (o : Nat × Nat × Nat) : Entry :=
          let h := tm.handle (f.h.toNat + o.2.1)
          { base with
            fused := f.f.toNat ≠ 0, quarter := o.1, writes := [acc + o.2.2], a := g.takeA a o.1 e2m1,
            b := [s.tileNow k tm ctx h], src := [h], bid := s.tileId (keyCore k) ctx h, cols := s.tileCols h,
            type := t, z := f.z = 1 }
        let latch := g.latchAfter a e2m1 (f.r = 1) (ops.map (·.1))
        let s1 := s.setGroup k { g with latch := latch }
        let s2 := s1.postEntries (quadOfCore (keyCore k)) (ops.map entry)
        .ok (hs.foldl (fun s h => s.advanceHandle g.team h) s2)

/-- MMA.E2M1 (R229). -/
def execMmaE2m1 (f : FmtF) (s : State) : Host.Outcome State Fault Refusal := mma (.mmaE2m1 f) 0xC0 1 f s
/-- MMA.E4M3 (R229). -/
def execMmaE4m3 (f : FmtF) (s : State) : Host.Outcome State Fault Refusal := mma (.mmaE4m3 f) 0xC1 2 f s
/-- MMA.E5M2 (R229). -/
def execMmaE5m2 (f : FmtF) (s : State) : Host.Outcome State Fault Refusal := mma (.mmaE5m2 f) 0xC2 3 f s
/-- MMA.BF16 (R229). -/
def execMmaBf16 (f : FmtF) (s : State) : Host.Outcome State Fault Refusal := mma (.mmaBf16 f) 0xC3 5 f s
/-- MMA.F16 (R229). -/
def execMmaF16 (f : FmtF) (s : State) : Host.Outcome State Fault Refusal := mma (.mmaF16 f) 0xC4 6 f s
/-- MMA.I8 (R229). -/
def execMmaI8 (f : FmtF) (s : State) : Host.Outcome State Fault Refusal := mma (.mmaI8 f) 0xC5 4 f s

/-! ### Accumulator moves (R243, R244) -/

/-- Post one entry of an accumulator move. -/
def moveIssue (s : State) (g : Group) (tiles : List Nat) (f : Entry → Entry) (after : State → Nat → State) : Eff :=
  let k := s.cur.grp
  handleIssue s g tiles (fun _ _ => true) [] fun _ =>
    if !s.boardRoom (keyCore k) 1 then .hold
    else
      let n := s.idCtr
      .ok (after (s.postEntries (quadOfCore (keyCore k)) [f (s.entryBase k g (s.cur.word.toNat / 2 ^ 24))]) n)

/-- ACCMV: D ← S, or D ← rne(D + S) (R244). -/
def execAccmv (f : FmtF) (s : State) : Host.Outcome State Fault Refusal :=
  issue (.accmv f) s fun s g _ =>
    let src := bits (g.ureg (f.a.toNat - 96)).toNat 0 8
    moveIssue s g [f.t.toNat, src]
      (fun e => { e with reads := [src], writes := [f.t.toNat], conv := f.f.toNat }) fun s _ => s

/-- ACCRD: the tile's columns go to the lanes' registers, which are interlocked until then (R240, R243). -/
def execAccrd (f : FmtF) (s : State) : Host.Outcome State Fault Refusal :=
  issue (.accrd f) s fun s g _ =>
    moveIssue s g [f.t.toNat]
      (fun e => { e with reads := [f.t.toNat], writes := if f.z = 1 then [f.t.toNat] else [], conv := f.f.toNat,
                         z := f.z = 1, reg := f.a.toNat })
      fun s n => s.onGroup s.cur.grp fun g =>
        { g with busy := Tab.put g.busy n ((List.range (if f.f.toNat = 0 then 16 else 8)).map (f.a.toNat + ·)) }

/-- ACCWR: the lanes' registers, read at issue, go to the tile's columns (R228, R243). DESIGN CHOICE (log 117): with clear, which reads
no register, its A field is still checked and interlocked as in the reading form. -/
def execAccwr (f : FmtF) (s : State) : Host.Outcome State Fault Refusal :=
  issue (.accwr f) s fun s g _ =>
    let n := if f.f.toNat = 0 then 16 else 8
    let words := if f.z = 1 then [] else (List.range 32).flatMap fun l => (List.range n).map fun i => g.vreg (f.a.toNat + i) l
    moveIssue s g [f.t.toNat]
      (fun e => { e with writes := [f.t.toNat], conv := f.f.toNat, z := f.z = 1, a := words }) fun s _ => s

/-! ### Attention (R245 to R250) -/

/-- K or V handles of attention: a KV read binding whose mode is of keys (even) or values (odd), in one of the four
types (R409). -/
def kvOk (values : Bool) : HandleTest := fun _ h =>
  match h with
  | .kvRead _ m t _ _ => decide (m % 2 = if values then 1 else 0) && (t = 2 || t = 3 || t = 5 || t = 6)
  | _ => false

/-- Key `n` of a binding is absent, or not visible to a query at position `p` (R246, R299). -/
def Binding.keyHidden (bd : Binding) (n p : Nat) : Bool :=
  match bd.keys[n]? with
  | none => true
  | some (pos, node, _) => p < pos || (node < 64 && bits bd.ancestry node 1 = 0)

/-- Masks of the sixteen rows of a quarter: bit j set where column j's key is not visible or absent; a group without a
query context masks nothing (R245, R246, R299). -/
def State.keyMasks (s : State) (qctx : Option QueryCtx) (h : Handle) (q : Nat) : List Nat :=
  match qctx, h with
  | some c, .kvRead b m _ cur _ =>
    match Tab.find s.bindings b with
    | none => List.replicate 16 0
    | some bd =>
      let blk := cur / kvInner bd m
      (List.range 16).map fun i =>
        let p := c.base + 16 * q + i
        (List.range 32).foldl (fun acc j =>
          if bd.keyHidden (32 * blk + j) p then acc + 2 ^ j else acc) 0
  | _, _ => List.replicate 16 0

/-- Post one entry for each quarter that takes part. -/
def postQuarters (s : State) (g : Group) (f : Entry → Nat → Entry) (hs : List Nat) (latch : Latch) : Eff :=
  let k := s.cur.grp
  let qs := quarters s.cur.active
  if !s.boardRoom (keyCore k) qs.length then .hold
  else
    let base := s.entryBase k g (s.cur.word.toNat / 2 ^ 24)
    let s1 := s.setGroup k { g with latch := latch }
    let s2 := s1.postEntries (quadOfCore (keyCore k)) (qs.map fun q => f { base with quarter := q, rows := rowsInside g.qctx q } q)
    .ok (hs.foldl (fun s h => s.advanceHandle g.team h) s2)

/-- ATQK: scores of Q against the keys of the handle's tile, with the mask of each row (R246). -/
def execAtqk (f : FmtAtt) (s : State) : Host.Outcome State Fault Refusal :=
  issue (.atqk f) s fun s g _ =>
    let k := s.cur.grp
    let acc := f.t.toNat
    let a := f.a.toNat
    let hn := f.h.toNat
    let qs := quarters s.cur.active
    handleIssue s g (qs.map fun q => acc + 2 * q) (kvOk false) [hn] fun tm =>
      let h := tm.handle hn
      postQuarters s g (fun e q =>
        { e with
          writes := [acc + 2 * q], a := g.takeA a q false, b := [none], src := [h],
          bid := s.tileId (keyCore k) (s.ctxOf k) h, type := h.type, z := f.z = 1,
          masked := s.keyMasks g.qctx h q }) [hn] (g.latchAfter a false (f.r = 1) qs)

/-- ATSM: the running softmax of the score tiles with scale σ (R247). -/
def execAtsm (f : FmtAtt) (s : State) : Host.Outcome State Fault Refusal :=
  issue (.atsm f) s fun s g _ =>
    let acc := f.t.toNat
    let qs := quarters s.cur.active
    handleIssue s g (qs.flatMap fun q => [acc + 2 * q, acc + 2 * q + 1]) (fun _ _ => true) [] fun _ =>
      postQuarters s g (fun e q =>
        { e with writes := [acc + 2 * q, acc + 2 * q + 1], sigma := g.ureg (f.a.toNat - 96), z := f.z = 1 }) [] g.latch

/-- The P base tile of ATPV and ATFN that a group's uniform register gives, with the reason for which an odd one is illegal (R226,
R405). -/
def Group.pBase (g : Group) (f : FmtAtt) : Nat × List (Nat × Nat) :=
  let b := bits (g.ureg (f.a.toNat - 96)).toNat 0 8
  (b, if b % 2 = 1 then [(6, b)] else [])

/-- The illegal-instruction trap of a word whose own fields are in order, for one of the reasons that remain (R405; log 17). -/
def reasonTrap (s : State) (rs : List (Nat × Nat)) : Option Eff :=
  (someReason s.freeCtr rs).map fun r => .trap 0x0103 s.cur.active.toNat 0 s.cur.word.toNat (reasonInfo r)

/-- A V operand: one handle, or the two handles of a 16-bit pair in order (R248, R409). -/
def pairOk (tm : Team) (hn : Nat) : HandleTest := fun n h =>
  kvOk true n h &&
    match tm.handle hn, h with
    | .kvRead b m t _ _, .kvRead b' m' t' _ half =>
      if t = 5 || t = 6 then b = b' && m = m' && t = t' && half = n - hn else true
    | _, _ => true

/-- Handles that ATPV names: two for a 16-bit type (R248). -/
def pvHandles (tm : Team) (hn : Nat) : List Nat :=
  if ((tm.handle hn).type = 5 || (tm.handle hn).type = 6) && (tm.handle hn).kind = 2 then [hn, hn + 1] else [hn]

/-- ATPV: the outputs, rescaled by c, gain P times the values (R248). -/
def execAtpv (f : FmtAtt) (s : State) : Host.Outcome State Fault Refusal :=
  issue (.atpv f) s fun s g _ =>
    let k := s.cur.grp
    let acc := f.t.toNat
    let hn := f.h.toNat
    let qs := quarters s.cur.active
    let tm0 := s.teamFor g
    let hs := pvHandles tm0 hn
    let pending := !g.privileged && s.bindPending g.team hn
    let b := (g.pBase f).1
    match reasonTrap s ((g.pBase f).2 ++ if !pending && 32 ≤ hs.foldl max 0 then [(4, hn)] else []) with
    | some e => e
    | none =>
      handleIssue s g (b :: qs.flatMap fun q => [acc + q, b + 2 * q, b + 2 * q + 1]) (pairOk tm0 hn) hs fun tm =>
        let h := tm.handle hn
        postQuarters s g (fun e q =>
          { e with
            writes := [acc + q], reads := [b + 2 * q, b + 2 * q + 1], b := hs.map fun _ => none,
            src := hs.map tm.handle,
            bid := hs.flatMap fun n => s.tileId (keyCore k) (s.ctxOf k) (tm.handle n),
            cols := s.tileCols h, type := h.type, z := f.z = 1 }) hs g.latch

/-- ATFN: each output row is divided by its sum l, or cleared when l is zero (R249). -/
def execAtfn (f : FmtAtt) (s : State) : Host.Outcome State Fault Refusal :=
  issue (.atfn f) s fun s g _ =>
    let acc := f.t.toNat
    let qs := quarters s.cur.active
    let b := (g.pBase f).1
    match reasonTrap s (g.pBase f).2 with
    | some e => e
    | none =>
      handleIssue s g (b :: qs.flatMap fun q => [acc + q, b + 2 * q + 1]) (fun _ _ => true) [] fun _ =>
        postQuarters s g (fun e q => { e with writes := [acc + q], reads := [b + 2 * q + 1] }) [] g.latch

end Sys2Proof.Machine
end

