-- ==== Sys2Proof/Machine/Engines.lean ====
section
/-! DEFINITION. Engine commands: their issue, completion and faults, tile handles, transaction barriers, and the copies of
the tile engine with their fix-up lists (R252 to R270, R300, R314, R421 to R423). -/

namespace Sys2Proof.Machine

/-! ### Source, faults and completion of a command -/

/-- Source of a fault of a command or a posted entry (R390): its group may have exited, or its team have been saved. -/
def State.sourceFor (s : State) (k ctx tid : Nat) : Source :=
  if 0x20000 ≤ k then s.sourceOf k
  else
    let t := ((Tab.find s.saved tid).map (·.team)) <|> s.team? tid
    { ctx := ctx % 64, core := keyCore k, part := keyPart k, place := keyPlace k, slot := t.bind (·.slot),
      req := (t.map (·.reqId)).getD 0, die := dieOfCore (keyCore k), origin := .group,
      stamp := ((s.group? k).filter fun g => g.team = tid).map (·.stamp) }

/-- Write a command's result to s(h), unless a later instruction has written it (R160, R253). -/
def State.setResult (s : State) (c : Cmd) (v : Word) : State :=
  if c.dead then s else s.onOwn c.grp c.team fun g => g.setU c.h v

/-- A command completes for la and c, with its result if it writes one (R158, R253). -/
def State.finishCmd (s : State) (id : Nat) (v : Option Word) : State :=
  match Tab.find s.cmds id with
  | none => s
  | some c =>
    let s1 := match v with
      | some w => s.setResult c w
      | none => s
    let s2 := { s1 with cmds := Tab.del s1.cmds id }
    if (s2.group? c.grp).any fun g => g.team = c.team then s2.complete c.grp c.c id else s2

/-- An invalid operand: a record of 0x0301 with the reason, and completion, whose write of s(h) acquires (R256, R301, R325,
R423). -/
def State.invalidCmd (s : State) (id reason : Nat) (v : Option Word) : State :=
  match Tab.find s.cmds id with
  | none => s
  | some c =>
    let r : Report := ⟨0x0301, 3, c.pc.toNat, 0, 0, c.op + 256 * c.m, reason⟩
    let s1 := (s.report (s.sourceFor c.grp c.ctx c.team) r).1.finishCmd id v
    if v.isSome then s1.acquire c.core else s1

/-- The team of the work of a group has ended by a charge, or the group by a cancellation (R319, R440). -/
def State.teamGone (s : State) (k tid : Nat) : Bool :=
  (s.team? tid).all (·.ended) || ((s.group? k).map fun g => g.cancelled && g.team = tid).getD false

/-- No record is written for a command any more: its team has ended, or its tag has been pruned, even where its group has left since
(R319, R440). -/
def State.cmdGone (s : State) (c : Cmd) : Bool := c.doomed || s.teamGone c.grp c.team

/-- Suspend the group of a command on a record already written, unless it has exited or stands suspended (R389). -/
def State.suspendOn (s : State) (k tid code record : Nat) (pc : Word) : State :=
  (s.endOwnTurn k tid).onOwn k tid fun g =>
    if g.exited || g.suspension.isSome then g else { g with suspension := some ⟨code, 0, pc, false, record⟩ }

/-- A charged fault of the work of a group: the slot of its team is charged, or the group is suspended when it has none;
nothing for a team that has ended. `req` is the request id to show where the rule names one (R389, R397, R433, R438, R440). -/
def State.chargeFor (s : State) (k tid ctx : Nat) (pc : Word) (code addr info0 info1 : Nat) (req : Option Nat) : State :=
  if s.teamGone k tid then s
  else
    let u := s.sourceFor k ctx tid
    let send (s : State) (disp : Nat) : State × Nat :=
      let b := recordBits s u ⟨code, disp, pc.toNat, 0, addr, info0, info1⟩
      s.sendRecord u (match req with
        | some v => setBits b 256 64 v
        | none => b)
    match u.slot, s.team? tid with
    | some slot, some t => ((send (s.chargeRequest u.ctx t.reqRec code) 2).1).endSlot t.grid slot
    | _, _ =>
      let w := send s 0
      w.1.suspendOn k tid code w.2 pc

/-- A charged fault of a command. -/
def State.chargeCmd (s : State) (c : Cmd) (code addr info0 info1 : Nat) (req : Option Nat) : State :=
  if c.doomed then s else s.chargeFor c.grp c.team c.ctx c.pc code addr info0 info1 req

/-- A fault of disposition 0 of an engine's access: its record suspends the group (R389, R424, R427). -/
def State.engineSuspend (s : State) (u : Source) (k tid : Nat) (pc : Word) (r : Report) : State :=
  let w := s.report u r
  w.1.suspendOn k tid r.code w.2 pc

/-- The record of an engine's access that fails, and what follows for its group: a lost or uncorrectable line is charged, a domain
violation and a dead owner suspend, and any other is a continuing fault of the segment (R421, R424, R427, R428, R431, R458). -/
def State.engineFault (s : State) (k tid ctx : Nat) (pc : Word) (va info0 info1 : Nat) (x : Xlat) : State :=
  let u := s.sourceFor k ctx tid
  match x with
  | .broken 0x0405 i0 i1 => s.chargeFor k tid ctx pc 0x0405 va i0 i1 none
  | .broken 0x0402 i0 i1 => s.engineSuspend u k tid pc ⟨0x0402, 0, pc.toNat, 0, va, i0, i1⟩
  | .broken 0x0403 i0 i1 => s.engineSuspend u k tid pc ⟨0x0403, 0, pc.toNat, 0, va, i0, i1⟩
  | _ => (s.report u ⟨0x0303, 1, pc.toNat, 0, va, info0, info1 + 2 ^ 16 * x.engineCode⟩).1

/-- The record of a fault of the I/O die acting for a context, with disposition 3: the code it is given, and the record
(R425, R427, R428, R431, R445). -/
def State.ioFault (s : State) (x va : Nat) (f : Xlat) (write : Bool) : State × Nat :=
  let rep (code i0 i1 : Nat) : State × Nat := ((s.report (ioSource x) ⟨code, 3, 0xFFFFFFFF, 0, va, i0, i1⟩).1, code)
  match f with
  | .broken code i0 i1 => rep code i0 i1
  | .fault code level => rep code 0 ((if write then 1 else 0) + 16 * level)
  | _ => (s, 0)

/-- Skip a segment of a command whose access faults: into the fix-up list with a record, unless the list is full and the
segment new (R421). Engines: 1 tile, 2 operand fetcher, 3 queue, 4 collective, 5 sampler. -/
def State.skipSegment (s : State) (id seg engine va : Nat) (write : Bool) (x : Xlat) : Option State :=
  match Tab.find s.cmds id with
  | none => none
  | some c =>
    let listed := c.skipped.contains seg
    if !listed && 16 ≤ c.skipped.length then none
    else
      let list := if listed then c.skipped else c.skipped ++ [seg]
      let pos := list.idxOf seg
      let s1 := { s with cmds := Tab.alter s.cmds id fun c => { c with skipped := list } }
      some (s1.engineFault c.grp c.team c.ctx c.pc va (seg + 2 ^ 32 * pos) (engine + if write then 256 else 0) x)

/-- The accesses that a group issued before a command have been performed (R100; log 22). -/
def State.earlierDone (s : State) (k id : Nat) : Bool :=
  !(s.accesses.any fun x => x.2.grp = k && x.2.op < id) &&
    !((s.part (partOf k)).log.any fun x => x.2.grp = k && x.2.op < id)

/-! ### Issue (R252 to R256) -/

/-- The shape of a command: opcode, sub-operation, fields and block length; `uncore` selects its queue (R254). -/
structure CmdForm where
  op : Nat
  m : Nat
  f : FmtG
  len : Nat
  uncore : Bool
  deriving DecidableEq, Repr

/-- Put a command at the end of a queue of its core. -/
def Core.push (c : Core) (uncore : Bool) (id : Nat) : Core :=
  if uncore then { c with uncoreQ := c.uncoreQ ++ [id] } else { c with tileQ := c.tileQ ++ [id] }

/-- A queue of a core (R254). -/
def Core.queue (c : Core) (uncore : Bool) : List Nat := if uncore then c.uncoreQ else c.tileQ

/-- The predicate of a guard slot that is still in flight at a cycle (R255). -/
def Group.guardInFlight (g : Group) (n now : Nat) : Option Nat :=
  match Tab.find g.guards n with
  | none => none
  | some q => match Tab.find g.predBusy q.pred with
    | some t => if n ≠ 0 && now < t then some q.pred else none
    | none => none

/-- Issue of an engine command: held while its queue is full, its counter is at 15 or a binding that it names is pending; `check`
gives its binding trap; `fill` captures what it reads at issue and `after` advances the handle it names (R252 to R256, R260, R402).
DESIGN CHOICE (log 120): a command carries the group's page tag as it stands at issue, also behind a TREE.QCTX that the Abacus has
not applied (R317). -/
def cmdIssue (i : Instr) (x : CmdForm) (s : State) (named : List Nat) (check : Group → Option Eff)
    (fill : Group → Nat → Cmd → Cmd) (after : State → Group → State) : Host.Outcome State Fault Refusal :=
  issue i s fun s g m =>
    let k := s.cur.grp
    let c := keyCore k
    let l := lowestLane s.cur.active
    let admits := m.getLsbD l
    let flight := g.guardInFlight (s.cur.word.toNat / 2 ^ 21 % 8) (s.cycles (dieOfCore c))
    if !g.privileged && named.any (s.bindPending g.team) then .hold
    else match check g with
      | some e => e
      | none =>
        if 16 ≤ ((s.core c).queue x.uncore).length || !g.canCount x.f.c.toNat then .hold
        else if flight.isNone && !admits then .ok s
        else
          let id := s.idCtr
          let base : Cmd :=
            { num := id, core := c, grp := k, team := g.team, ctx := s.spaceOf k, op := x.op, m := x.m, pc := s.cur.pc,
              h := x.f.h.toNat, c := x.f.c.toNat,
              block := (List.range x.len).map fun j => g.reg (x.f.a.toNat + j) l,
              item := [], tag := g.tag, qctx := g.qctx, handle := .unbound 0, guard := flight.map fun p => (p, admits),
              dead := false, done := [], skipped := [], started := false, recv := [], maps := [], prior := [], doomed := g.doomed }
          let s1 := { s with
            idCtr := id + 1
            groups := Tab.put s.groups k (g.begin id x.f.c.toNat x.f.la.toNat)
            cmds := Tab.put s.cmds id (fill g l base) }
          let s2 := s1.onCore c fun q => q.push x.uncore id
          .ok (if admits then after s2 g else s2)

/-- A command that names no handle. -/
def plainCmd (i : Instr) (op m : Nat) (f : FmtG) (len : Nat) (uncore : Bool) (s : State) : Host.Outcome State Fault Refusal :=
  cmdIssue i ⟨op, m, f, len, uncore⟩ s [] (fun _ => none) (fun _ _ c => c) fun s _ => s

/-- A word of a block; words beyond it are 0. -/
def Cmd.word (c : Cmd) (i : Nat) : Nat := ((c.block[i]?).getD 0).toNat

/-- Two words of a block as a 64-bit value. -/
def Cmd.dword (c : Cmd) (i : Nat) : Nat := c.word i + 2 ^ 32 * c.word (i + 1)

/-- The fields of a format without la and c, as format G (R258). -/
def blockG (f : FmtBlock) : FmtG := ⟨f.g, 0, 0, f.h, f.a⟩

/-- The common fields of TCOPY and TSTORE. -/
def copyG (f : FmtCopy) : FmtG := ⟨f.g, f.c, f.la, f.h, f.a⟩

/-! ### HBIND (R259) -/

/-- HBIND.SPAD enters the tile queue (R254, R259). -/
def execHbindSpad (f : FmtG) (s : State) : Host.Outcome State Fault Refusal :=
  cmdIssue (.hbindSpad f) ⟨0xD0, 0, f, 2, false⟩ s [f.h.toNat] (fun _ => none) (fun _ _ c => c) fun s _ => s
/-- HBIND.REC (R259). -/
def execHbindRec (f : FmtG) (s : State) : Host.Outcome State Fault Refusal :=
  cmdIssue (.hbindRec f) ⟨0xD0, 1, f, 3, false⟩ s [f.h.toNat] (fun _ => none) (fun _ _ c => c) fun s _ => s
/-- HBIND.OFF (R259). -/
def execHbindOff (f : FmtG) (s : State) : Host.Outcome State Fault Refusal :=
  cmdIssue (.hbindOff f) ⟨0xD0, 2, f, 0, false⟩ s [f.h.toNat] (fun _ => none) (fun _ _ c => c) fun s _ => s
/-- HBIND.SEEK (R259). -/
def execHbindSeek (f : FmtG) (s : State) : Host.Outcome State Fault Refusal :=
  cmdIssue (.hbindSeek f) ⟨0xD0, 3, f, 1, false⟩ s [f.h.toNat] (fun _ => none) (fun _ _ c => c) fun s _ => s

/-- Set a handle of a team. -/
def State.setHandle (s : State) (tid h : Nat) (v : Handle) : State :=
  s.onTeam tid fun t => { t with handles := Tab.put t.handles h v }

/-- Slot extent of a team, when it serves a slot (R57, R80). -/
def State.slotExtent (s : State) (tid : Nat) : Option Nat :=
  match s.team? tid with
  | none => none
  | some t => match t.slot, s.grid? t.grid with
    | some sl, some g => (Tab.find g.slots sl).map (·.1)
    | _, _ => none

/-- Result of HBIND.SPAD: the handle, or the lowest refusal code (R259, R409). -/
def spadBinding (s : State) (t : Team) (ctx a w : Nat) : Handle :=
  let ty := bits w 0 3
  let cols := bits w 8 6
  let win := s.spadWin t ctx a 1
  if a % 64 ≠ 0 || win = .none then .unbound 0x01
  else if ty = 0 then .unbound 0x02
  else if cols = 0 || 32 < cols then .unbound 0x03
  else if s.spadWin t ctx a (tileSize ty) ≠ win then .unbound 0x04
  else if bits w 3 5 ≠ 0 || bits w 14 2 ≠ 0 || bits w 19 13 ≠ 0 then .unbound 0x17
  else .spad a ty cols (bits w 16 3)

/-- Result of HBIND.REC once the record's 512 bits are known (R259, R409). -/
def recBinding (slotExt : Option Nat) (a w sh : Nat) : Handle :=
  match shRefusal sh with
  | some c => .unbound c
  | none =>
    if bits w 4 28 ≠ 0 then .unbound 0x17
    else if shFmt sh = 7 && bits w 0 3 = 7 then .unbound 0x18
    else
      let e1 := match shRagged sh, slotExt with
        | 1, some x => min (shExt sh 1) x
        | _, _ => shExt sh 1
      .record sh a (fmtType (shFmt sh) (bits w 0 3)) (bits w 3 1) e1 0

/-- HBIND takes effect and completes (R259). A record whose translation fails is refused; one in a line that cannot be read at its home
waits in the fix-up list (R409, R427, R428, R431). -/
def State.applyHbind (s : State) (id : Nat) (c : Cmd) : State :=
  match s.team? c.team with
  | none => s.finishCmd id none
  | some t =>
    if c.m = 0 then (s.setHandle c.team c.h (spadBinding s t c.ctx (c.word 0) (c.word 1))).finishCmd id none
    else if c.m = 1 then
      let a := c.dword 0
      if a % 64 ≠ 0 then (s.setHandle c.team c.h (.unbound 0x10)).finishCmd id none
      else match mapPages (quadOfCore c.core) c.agent .load [a] s [] with
        | (s1, .ok m) =>
          let sh := readBytes (s1.pageByte c.agent m) a 64
          ((s1.notePages c.agent m false 64 [a]).setHandle c.team c.h (recBinding (s1.slotExtent c.team) a (c.word 2) sh)).finishCmd
            id none
        | (s1, .error (_, .held)) => s1
        | (s1, .error (_, .fault _ _)) => (s1.setHandle c.team c.h (.unbound 0x11)).finishCmd id none
        | (s1, .error (va, x)) =>
          (({ s1 with cmds := Tab.alter s1.cmds id fun c => { c with started := true } }).skipSegment id 0 1 va false x).getD s
    else if c.m = 2 then (s.setHandle c.team c.h (.unbound 0)).finishCmd id none
    else
      let h := t.handle c.h
      let seek (s : State) (n : Nat) : State :=
        match ((s.team? c.team).getD noTeam).handle n with
        | .unbound _ | .spad _ _ _ _ => s
        | x => s.setHandle c.team n (s.atCursor x fun _ => c.word 0)
      let s1 := seek s c.h
      let s2 := match h with
        | .kvRead b m ty _ half =>
          let other := if half = 0 then c.h + 1 else c.h - 1
          match t.handle other with
          | .kvRead b' _ _ _ half' =>
            if m % 2 = 1 && (ty = 5 || ty = 6) && b' = b && half' ≠ half then seek s1 other else s1
          | _ => s1
        | _ => s1
      s2.finishCmd id none

/-! ### Transaction barriers (R267 to R270) -/

/-- A barrier's 128 bits: the bytes of scratchpad as they stand (R270). -/
def State.barrier (s : State) (t : Team) (off : Nat) : Nat := s.spadLE t 0 off 16

def barPhase (b : Nat) : Nat := bits b 0 4
def barArrivals (b : Nat) : Nat := bits b 4 20
def barSectors (b : Nat) : Nat := bits b 24 32
def barAcks (b : Nat) : Nat := bits b 56 8

/-- The test after every change (R268). -/
def barTest (b : Nat) : Nat :=
  if barArrivals b = 0 && barSectors b = 0 && barAcks b = 0 then
    setBits (setBits (setBits b 0 4 (barPhase b + 1)) 4 20 (bits b 64 20)) 56 8 (bits b 84 8)
  else b

/-- An XBAR.WAIT that sees another phase ends: an acquire (R118, R269). -/
def State.endWait (s : State) (id : Nat) (c : Cmd) : State :=
  let free (g : Group) : Group :=
    match g.block with
    | .xbar _ _ => { g with block := .none }
    | _ => g
  ((s.finishCmd id none).onOwn c.grp c.team free).acquire c.core

/-- A started XBAR.WAIT tests its barrier again, which a store may have changed (R269, R270). -/
def State.retryWait (s : State) (id : Nat) (c : Cmd) : State :=
  match s.team? c.team with
  | none => s
  | some t => if barPhase (s.barrier t (c.word 0)) ≠ c.word 1 % 16 then s.endWait id c else s

/-- Write a barrier and wake the groups of the team whose XBAR.WAIT sees another phase (R118, R269). -/
def State.setBarrier (s : State) (tid off b : Nat) : State :=
  match s.team? tid with
  | none => s
  | some t =>
    let s1 := s.raceTiles (s.spadPutLE tid t 0 off 16 b) t.core none
    let waits := s1.cmds.filter fun x =>
      x.2.team = tid && x.2.op = 0xD5 && x.2.started && x.2.word 0 = off && x.2.word 1 % 16 ≠ barPhase b
    waits.foldl (fun s x => s.endWait x.1 x.2) s1

/-- The change of a barrier by a command of a core and partition, or by one sector of it, is its latest (R268). -/
def Mark.change (now hi : Nat) (sector : Option Nat) (old : Mark) : Mark :=
  ⟨now, match sector with
    | some n => hi * 2 ^ 16 + 1 + n
    | none => if old.cycle = now && old.rank / 2 ^ 16 = hi then old.rank else hi * 2 ^ 16⟩

/-- A command changes a barrier of a team, with an XBAR or, when `sector` names one, with a sector of its copy (R268). -/
def State.changeBarrier (s : State) (c : Cmd) (sector : Option Nat) (tid off b : Nat) : State :=
  let mark := Mark.change (s.cycles (dieOfCore c.core)) (4 * (c.core % 4) + keyPart c.grp) sector
  (s.onTeam tid fun t => { t with changes := Tab.put t.changes off (mark (Tab.get t.changes off ⟨0, 0⟩)) }).setBarrier tid off b

/-- Why a barrier offset is invalid: reason 2 or 3 (R269, R423). -/
def barReason (t : Team) (off : Nat) : Option Nat :=
  if off % 16 ≠ 0 then some 2 else if t.scratchSize < off + 16 then some 3 else none

/-- XBAR.INIT's invalid reasons after the offset's (R269, R423). -/
def initReason (w : Nat) : Option Nat := if bits w 0 20 = 0 then some 4 else if bits w 28 4 ≠ 0 then some 9 else none

/-- A barrier-count fault (R269, R423). -/
def State.barFault (s : State) (c : Cmd) (off which : Nat) : State :=
  (s.report (s.sourceFor c.grp c.ctx c.team) ⟨0x0302, 3, c.pc.toNat, 0, off, which, 0⟩).1

/-- XBAR.INIT, XBAR.ARV, XBAR.ARV.EXP, XBAR.ARV.ACK and XBAR.WAIT take effect (R269). -/
def State.applyXbar (s : State) (id : Nat) (c : Cmd) : State :=
  let t := (s.team? c.team).getD noTeam
  let off := c.word 0
  let w := c.word 1
  match barReason t off with
  | some r => s.invalidCmd id r none
  | none =>
    let b := s.barrier t off
    if c.op = 0xD3 then
      match initReason w with
      | some r => s.invalidCmd id r none
      | none =>
        let n := bits w 0 20
        let a := bits w 20 8
        let s1 := s.onTeam c.team fun t => { t with senders := t.senders.filter (· ≠ off) }
        (s1.changeBarrier c none c.team off (packFields [(4, 20, n), (56, 8, a), (64, 20, n), (84, 8, a)])).finishCmd id none
    else if c.op = 0xD5 then
      let v := w % 16
      if barPhase b ≠ v then (s.finishCmd id none).acquire c.core
      else
        (({ s with cmds := Tab.alter s.cmds id fun c => { c with started := true } }).onOwn c.grp c.team fun g =>
          { g with block := .xbar off v }).endOwnTurn c.grp c.team
    else if c.m = 2 then
      if bits w 2 30 ≠ 0 then s.invalidCmd id 9 none
      else
        let sc := bits b 92 2
        let core := quadOfCore c.core * 4 + sc
        let sender := s.teams.find? fun x =>
          x.2.resident && x.2.core = core && x.2.place = bits b 94 6 && x.2.occ % 4096 = bits b 100 12
        match (if t.senders.contains off && sc = w % 4 then sender else none) with
        | none => s.invalidCmd id 10 none
        | some (tid, st) =>
          let x := s.barrier st off
          if st.scratchSize < off + 16 || barAcks x = 0 then (s.barFault c off 2).finishCmd id none
          else (s.changeBarrier c none tid off (barTest (setBits x 56 8 (barAcks x - 1)))).finishCmd id none
    else
      let n := if c.m = 1 then w else 0
      if 2 ^ 31 ≤ n then s.invalidCmd id 4 none
      else
        let phase : Option Word := some (BitVec.ofNat 32 (barPhase b))
        if barArrivals b = 0 then (s.barFault c off 1).finishCmd id phase
        else
          let b1 := setBits (setBits b 4 20 (barArrivals b - 1)) 24 32 (barSectors b + n)
          (s.changeBarrier c none c.team off (barTest b1)).finishCmd id phase

/-- XBAR.INIT (R269). -/
def execXbarInit (f : FmtG) (s : State) : Host.Outcome State Fault Refusal := plainCmd (.xbarInit f) 0xD3 0 f 2 false s
/-- XBAR.ARV (R269). -/
def execXbarArv (f : FmtG) (s : State) : Host.Outcome State Fault Refusal := plainCmd (.xbarArv f) 0xD4 0 f 2 false s
/-- XBAR.ARV.EXP (R269). -/
def execXbarArvExp (f : FmtG) (s : State) : Host.Outcome State Fault Refusal := plainCmd (.xbarArvExp f) 0xD4 1 f 2 false s
/-- XBAR.ARV.ACK (R264, R269). -/
def execXbarArvAck (f : FmtG) (s : State) : Host.Outcome State Fault Refusal := plainCmd (.xbarArvAck f) 0xD4 2 f 2 false s
/-- XBAR.WAIT; held while a lane page fault of the group waits (R269, R414). -/
def execXbarWait (f : FmtBlock) (s : State) : Host.Outcome State Fault Refusal :=
  cmdIssue (.xbarWait f) ⟨0xD5, 0, blockG f, 2, false⟩ s [] (fun _ => if s.hasLog s.cur.grp then some .hold else none)
    (fun _ _ c => c) fun s _ => s

/-! ### TCOPY and TSTORE (R257, R260 to R266) -/

/-- Handles that TCOPY accepts (R409). -/
def copyOk : HandleTest := fun _ h => match h with
  | .record _ _ _ _ _ _ => true
  | _ => false

/-- Handles that TSTORE accepts (R409). -/
def storeOk : HandleTest := fun _ h => match h with
  | .record _ _ _ _ _ _ | .kvWrite _ _ _ _ => true
  | _ => false

/-- Issue of a copy: the handle's state is captured and its cursor advances (R260, R261). -/
def copyIssue (i : Instr) (op : Nat) (ok : HandleTest) (f : FmtCopy) (s : State) : Host.Outcome State Fault Refusal :=
  cmdIssue i ⟨op, f.acq.toNat + 2 * f.rel.toNat, copyG f, 2, false⟩ s [f.h.toNat]
    (fun g => (handleFault (s.teamFor g) ok [f.h.toNat]).map fun r =>
      .trap r.1 s.cur.active.toNat 0 r.2.1 r.2.2)
    (fun g _ c => { c with handle := (s.teamFor g).handle f.h.toNat })
    fun s g => s.advanceHandle g.team f.h.toNat

/-- TCOPY (R262). -/
def execTcopy (f : FmtCopy) (s : State) : Host.Outcome State Fault Refusal := copyIssue (.tcopy f) 0xD1 copyOk f s
/-- TSTORE (R265). -/
def execTstore (f : FmtCopy) (s : State) : Host.Outcome State Fault Refusal := copyIssue (.tstore f) 0xD2 storeOk f s

/-- Fields of the second block word (R262). -/
def cpBarrier (w : Nat) : Nat := bits w 12 20
def cpMcast (w : Nat) : Nat := bits w 8 4
def cpType (w : Nat) : Nat := bits w 4 3
def cpDomain (w : Nat) : Nat := bits w 0 4

/-- What a copy moves: the canonical tiles of one block, nu by nv, in an element type (R262, R265, R314). -/
structure Job where
  type : Nat
  nu : Nat
  nv : Nat
  swz : Nat
  deriving DecidableEq, Repr

/-- Element type of a TCOPY: the block's own for a ternary record, unless it is 7 (R262). -/
def copyType (h : Handle) (w : Nat) : Nat :=
  match h with
  | .record sh _ t _ _ _ => if shFmt sh = 7 && cpType w ≠ 7 then fmtType 7 (cpType w) else t
  | _ => h.type

def State.job (s : State) (c : Cmd) : Job :=
  let t := if c.op = 0xD1 then copyType c.handle (c.word 1) else c.handle.type
  match c.handle with
  | .record sh _ _ _ _ _ => ⟨t, ceilDiv (shTile sh 0) (typeK t), ceilDiv (shTile sh 1) 32, shSwz sh⟩
  | .kvWrite b _ _ _ => ⟨t, ceilDiv (((Tab.find s.bindings b).map (·.dim)).getD 0) (typeK t), 1, 0⟩
  | _ => ⟨t, 0, 0, 0⟩

/-- Number of tiles, and of sectors of each (R263). -/
def Job.tiles (j : Job) : Nat := j.nu * j.nv
def Job.sectors (j : Job) : Nat := tileSize j.type / 32

/-- Every byte of a job from `off` lies in one window: the team allocation or, with every tile in one region that passes `ok` when the
rule asks so (`one`), the RESIDENT window (R74, R262, R265). -/
def tilesInside (s : State) (t : Team) (ctx off : Nat) (j : Job) (one : Bool) (ok : Region → Bool) : Bool :=
  let n := tileSize j.type
  let ws := s.residentWindow t.core ctx t.stamp
  let inside (a : Nat) : Bool := ws.any fun x => ok x.2 && x.1 ≤ a && a < x.1 + x.2.size
  off + n * j.tiles ≤ t.scratchSize ||
    (0x200000 ≤ off && (List.range j.tiles).all fun i =>
      let a := off + n * i
      if one then ws.any fun x => ok x.2 && x.1 ≤ a && a + n ≤ x.1 + x.2.size
      else (List.range n).all fun k => inside (a + k))

/-- Receiving teams of a TCOPY: the issuing team, or for each selected core its team of the grid with the lowest linear
index; `none` when a selected core has none (R263). -/
def State.receivers (s : State) (c : Cmd) (t : Team) (mcast : Nat) : Option (List Nat) :=
  if mcast = 0 then some [c.team]
  else
    ((List.range 4).filter fun n => bits mcast n 1 = 1).foldl (fun acc n =>
      match acc with
      | none => none
      | some l =>
        let core := quadOfCore c.core * 4 + n
        if core = c.core then some (l ++ [c.team])
        else
          let best := s.teams.foldl (fun (b : Option (Nat × Team)) x =>
            if x.2.core = core && x.2.resident && x.2.grid = t.grid then
              match b with
              | none => some x
              | some y => if x.2.tix < y.2.tix then some x else b
            else b) none
          best.map fun x => l ++ [x.1]) (some [])

/-- Why a copy's block is invalid: the lowest reason of R423. -/
def State.copyReason (s : State) (c : Cmd) (t : Team) : Option Nat :=
  let w := c.word 1
  let off := c.word 0
  let j := s.job c
  let key := ((s.grid? t.grid).map fun g => recResKey g.record).getD 0
  let loader (r : Region) : Bool := r.key = key && s.isLoader t r.key && cpMcast w = 0
  if 4 < cpDomain w then some 1
  else if off % 64 ≠ 0 then some 2
  else if !tilesInside s t c.ctx off j (c.op = 0xD1) (if c.op = 0xD1 then loader else fun _ => true) ||
      (cpBarrier w ≠ 0xFFFFF && t.scratchSize < cpBarrier w * 16 + 16) then some 3
  else if c.op = 0xD1 && (s.receivers c t (cpMcast w)).isNone then some 5
  else if c.op = 0xD2 && (match c.handle with
      | .record sh _ ty _ _ _ => !((shFmt sh ≤ 4 || shFmt sh = 6) && fmtType (shFmt sh) 0 = ty)
      | _ => false) then some 6
  else if bits w 7 1 ≠ 0 || (c.op = 0xD2 && cpMcast w ≠ 0) then some 9
  else none

/-- Mark a sector of a command as moved. -/
def State.markSector (s : State) (id n : Nat) : State :=
  { s with cmds := Tab.alter s.cmds id fun c => { c with done := n :: c.done } }

/-- A sector number of a command: 64 for each tile. -/
def sectorNo (tile sector : Nat) : Nat := tile * 64 + sector

/-- Every sector of every tile has been moved and no segment waits. -/
def Cmd.complete (c : Cmd) (j : Job) : Bool :=
  c.skipped = [] && (List.range j.tiles).all fun t => (List.range j.sectors).all fun n => c.done.contains (sectorNo t n)

/-- Lower the pending sectors of a barrier by one; the first sector that a copy counts at another team's records the sender (R263). -/
def State.countSector (s : State) (c : Cmd) (sector tid off : Nat) : State :=
  match s.team? tid with
  | none => s
  | some t =>
    if t.scratchSize < off + 16 then s
    else
      let b := s.barrier t off
      let own := (s.team? c.team).getD noTeam
      let names := tid ≠ c.team && c.done = []
      let b1 := if !names then b
        else setBits (setBits (setBits b 92 2 (c.core % 4)) 94 6 own.place) 100 12 own.occ
      let s1 := if !names then s
        else s.onTeam tid fun t => { t with senders := off :: t.senders.filter (· ≠ off) }
      s1.changeBarrier c (some sector) tid off (barTest (setBits b1 24 32 (barSectors b1 + 2 ^ 32 - 1)))

/-- Outcome of one sector or segment. -/
inductive Moved
  | ok (s : State)
  | fault (s : State) (va : Nat) (x : Xlat)
  /-- A freeze or a pin holds it (R88, R113). -/
  | wait (s : State)

/-- Move one sector of a TCOPY through the pages of its tile, whose homes have been met: its 32 bytes are read and written into every
receiver, and counted (R241, R263, R422). -/
def State.copySector (s : State) (id : Nat) (c : Cmd) (m : Tab Nat) (tile n : Nat) : State :=
  match c.handle with
  | .record sh _ _ o e1 cur =>
    let j := s.job c
    let u := tile / j.nv
    let v := tile % j.nv
    let x := tilePart s c.agent sh e1 j.type (shBlk sh o e1 cur) u v (32 * n) 32 m
    let dest := c.word 0 + tileSize j.type * tile + 32 * n
    let write (s : State) (tid : Nat) : State :=
      match s.team? tid with
      | none => s
      | some tm =>
        let s2 := s.raceTiles ((List.range 32).foldl (fun s i =>
          s.spadPut tid ((s.team? tid).getD noTeam) c.ctx (swizzle j.swz (dest + i)) ((x.2[i]?).getD 0)) s)
          tm.core (some (c.team, id))
        if cpBarrier (c.word 1) = 0xFFFFF then s2 else s2.countSector c (sectorNo tile n) tid (16 * cpBarrier (c.word 1))
    (c.recv.foldl write x.1).markSector id (sectorNo tile n)
  | _ => s

/-- The elements that one sector of a TSTORE stores into a write binding: their place in a tile, key position and page set (R314). -/
def kvStores (bd : Binding) (cursor t tile n : Nat) : List (Nat × Nat × Nat × Nat) :=
  let w := elemBytes t
  (List.range (32 / w)).filterMap fun i =>
    match tileCells t (32 * n + i * w) with
    | .elem k col :: _ =>
      let el := tile * typeK t + k
      match bd.keys[32 * cursor + col]? with
      | none => none
      | some (pos, _, set) => if bd.dim ≤ el || bd.shut.contains pos then none else some (el, col, pos, set)
    | _ => none

/-- A fault at the home of a page or of the rotary table that one sector of a TSTORE into a write binding meets (R300, R314,
R428). -/
def State.kvStoreFault (s : State) (bd : Binding) (mode cursor t tile n : Nat) : Option (Nat × Xlat) :=
  let es := kvStores bd cursor t tile n
  match (if mode = 4 && bd.rotary ≠ 0 then s.frameFault false (es.map fun x => bd.rotary + 8 * (x.1 / 2)) else none) with
  | some r => some r
  | none => s.frameFault true (es.map fun x => kvAddr bd x.2.2.2 x.2.2.1 x.1 (mode = 5))

/-- The whole of a tile can be translated and met at its homes, so that a segment that faults moves no byte: its pages, or the
address that fails (R421, R422). -/
def State.tileMap (s : State) (c : Cmd) (tile : Nat) : State × Except (Nat × Xlat) (Tab Nat) :=
  let j := s.job c
  match c.handle with
  | .record sh _ _ o e1 cur =>
    let b := shBlk sh o e1 cur
    let cells := (List.range (tileSize j.type)).flatMap fun i => tileCells j.type i
    let addrs := cells.flatMap (cellAddrs sh e1 j.type b (tile / j.nv) (tile % j.nv))
    mapPages (quadOfCore c.core) c.agent (if c.op = 0xD1 then .load else .store) addrs s []
  | .kvWrite bn mode _ cur =>
    match Tab.find s.bindings bn with
    | none => (s, .ok [])
    | some bd => (s, match (List.range j.sectors).findSome? fun n => s.kvStoreFault bd mode cur j.type tile n with
      | some r => .error r
      | none => .ok [])
  | _ => (s, .ok [])

/-- A store by an engine at a physical address: performed at the home; the issuing core's time rises past it (R104). On a dead route
it performs nothing (R425), and the owner of a line homed here performs it elsewhere (R110). -/
def State.engineStore (s : State) (core pa n v : Nat) : State :=
  if s.storedAway pa then s.storeAway (s.core core).lt pa
  else
    let w := homeStamp s (lineOf (s.norm pa)) (s.core core).lt
    ((w.1.poke pa n v).repairBytes (2 * s.freeCtr) pa n).onCore core fun q => { q with lt := max q.lt w.2 }

/-- A later element of the block, in linear order, that has been stored already covers a byte address (R80). -/
def laterDone (sh e1 t : Nat) (b : Blk) (nv : Nat) (done : List Nat) (x0 x1 a : Nat) : Bool :=
  let w := elemBytes t
  (List.range (shTile sh 1)).any fun dy =>
    let y1 := b.b1 * shTile sh 1 + dy
    let row := rowBase sh b y1
    if y1 < e1 && row ≤ a then
      let y0 := (a - row) / w
      let dx := y0 - b.b0 * shTile sh 0
      let k := dx % typeK t
      let tile := dx / typeK t * nv + dy / 32
      y0 < shExt sh 0 && b.b0 * shTile sh 0 ≤ y0 && dx < shTile sh 0 && (x1 < y1 || (x1 = y1 && x0 < y0)) &&
        done.contains (sectorNo tile ((k * 32 + dy % 32) * w / 32))
    else false

/-- Code of a value rounded once into a type, E4M3 saturating (R132, R300). -/
def encodeElem (t : Nat) (x : Ext) : Nat :=
  if t = 2 then encodeE4M3 x else if t = 3 then e5m2.encode x else if t = 5 then bf16.encode x
  else if t = 6 then fp16.encode x else fp32.encode x

/-- Rotation of a key pair at a position: the new elements 2i and 2i + 1 (R300). -/
def rotatePair (t f p : Nat) (x y : Nat) : Nat × Nat :=
  let phi := p * f % 2 ^ 40
  let angle : Ext := .fin false phi (-40)
  let c := fp32.decode (fp32.encode angle.cosTurns)
  let sn := fp32.decode (fp32.encode angle.sinTurns)
  let vx := elemValue t x
  let vy := elemValue t y
  (encodeElem t ((vx.mul c).add (vy.mul sn).neg), encodeElem t ((vx.mul sn).add (vy.mul c)))

/-- Byte address in scratchpad of element (k, n) of a canonical tile that starts at `off`. -/
def elemOffset (t off k n : Nat) : Nat :=
  off + (if elemBytes t = 2 then 64 * k + 2 * n else if elemBytes t = 4 then 128 * k + 4 * n else 32 * k + n)

/-- Read element (k, n) of a tile in scratchpad through its swizzle. -/
def State.spadElem (s : State) (tm : Team) (ctx t swz off k n : Nat) : Nat :=
  readBytes (fun i => s.spadByte tm ctx (swizzle swz i)) (elemOffset t off k n) (elemBytes t)

/-- Store the elements that one sector of a TSTORE holds into a record's tensor (R265). -/
def storeRecord (s : State) (c : Cmd) (tm : Team) (sh e1 : Nat) (b : Blk) (j : Job) (m : Tab Nat) (tile n : Nat) : State :=
  let t := j.type
  let w := elemBytes t
  (List.range (32 / w)).foldl (fun s i =>
    match tileCells t (32 * n + i * w) with
    | .elem k col :: _ =>
      match tilePos sh e1 t b (tile / j.nv) (tile % j.nv) k col with
      | none => s
      | some (x0, x1) =>
        let v := s.spadElem tm c.ctx t j.swz (c.word 0 + tileSize t * tile) k col
        let a := rowBase sh b x1 + x0 * w
        let covered (d : Nat) : Bool := laterDone sh e1 t b j.nv c.done x0 x1 (a + d)
        let put (s : State) (a n v : Nat) : State := s.engineStore c.core (pagePhys m a) n v
        if (List.range w).any covered then
          (List.range w).foldl (fun s d => if covered d then s else put s (a + d) 1 (v / 256 ^ d)) s
        else s.byLines a (leBytes v w) put
    | _ => s) s

/-- Store the elements of one sector into the frames of a write binding, keys rotated (R300, R314). -/
def storeKv (s : State) (c : Cmd) (tm : Team) (bd : Binding) (mode cursor : Nat) (j : Job) (tile n : Nat) : State :=
  let t := j.type
  (kvStores bd cursor t tile n).foldl (fun s x =>
    match x with
    | (el, col, pos, set) =>
      let read (e : Nat) := s.spadElem tm c.ctx t j.swz (c.word 0 + tileSize t * (e / typeK t)) (e % typeK t) col
      let v := if mode = 4 && bd.rotary ≠ 0 then
          let e0 := el / 2 * 2
          let f := s.peekLE (bd.rotary + 8 * (el / 2)) 8 % 2 ^ 40
          let r := rotatePair t f pos (read e0) (read (e0 + 1))
          if el % 2 = 0 then r.1 else r.2
        else read el
      s.engineStore c.core (kvAddr bd set pos el (mode = 5)) (elemBytes t) v) s

/-- Read one sector of a TSTORE from scratchpad, store its elements through the pages of its tile, whose homes have been met, and count
it (R265, R422). -/
def State.storeSector (s : State) (id : Nat) (c : Cmd) (m : Tab Nat) (tile n : Nat) : State :=
  let tm := (s.team? c.team).getD noTeam
  let j := s.job c
  let fin (s : State) : State :=
    let s1 := if cpBarrier (c.word 1) = 0xFFFFF then s else s.countSector c (sectorNo tile n) c.team (16 * cpBarrier (c.word 1))
    s1.markSector id (sectorNo tile n)
  match c.handle with
  | .record sh _ _ o e1 cur =>
    let b := shBlk sh o e1 cur
    let cells := (List.range 32).flatMap fun i => tileCells j.type (32 * n + i)
    let addrs := cells.flatMap (cellAddrs sh e1 j.type b (tile / j.nv) (tile % j.nv))
    fin (storeRecord (s.notePages c.agent m true 1 addrs) c tm sh e1 b j m tile n)
  | .kvWrite bn mode _ cur =>
    match Tab.find s.bindings bn with
    | none => fin s
    | some bd => fin (storeKv s c tm bd mode cur j tile n)
  | _ => s

/-- The pages of a tile that a command keeps while it moves the tile. -/
def State.keepMap (s : State) (id tile : Nat) (m : Tab Nat) : State :=
  { s with cmds := Tab.alter s.cmds id fun c => { c with maps := Tab.put c.maps tile m } }

/-- A tile is moved whole, or skipped: its pages are forgotten. -/
def State.dropMap (s : State) (id tile : Nat) : State :=
  { s with cmds := Tab.alter s.cmds id fun c => { c with maps := Tab.del c.maps tile } }

/-- Every sector of a tile has been moved. -/
def Cmd.tileMoved (c : Cmd) (sectors tile : Nat) : Bool := (List.range sectors).all fun i => c.done.contains (sectorNo tile i)

/-- One sector of a copy. Before the first of a tile the whole tile is translated and its lines are met at their homes, so that a
segment that faults moves no byte and counts no sector; its later sectors go through the same translations (R280, R421, R422; DEDUCED,
log 116). -/
def State.moveSector (s : State) (id tile n : Nat) : Moved :=
  match Tab.find s.cmds id with
  | none => .wait s
  | some c =>
    let go (s : State) (m : Tab Nat) : Moved :=
      let s1 := if c.op = 0xD1 then s.copySector id c m tile n else s.storeSector id c m tile n
      .ok (if (Tab.find s1.cmds id).any fun c => c.tileMoved (s1.job c).sectors tile then s1.dropMap id tile else s1)
    match Tab.find c.maps tile with
    | some m => go s m
    | none =>
      match s.tileMap c tile with
      | (s1, .error (_, .held)) => .wait s1
      | (s1, .error (va, x)) => .fault s1 va x
      | (s1, .ok m) => go (s1.keepMap id tile m) m

/-- A copy whose every sector has been moved completes; with its acquire or after its stores the core's time is past them
(R117, R257, R263, R265). -/
def State.copyDone (s : State) (id : Nat) : State :=
  match Tab.find s.cmds id with
  | none => s
  | some c => if c.complete (s.job c) then (s.finishCmd id none).acquire c.core else s

/-- TCOPY and TSTORE start: an invalid block ends them, a block without tiles completes at once (R256, R262, R265). -/
def State.startCopy (s : State) (id : Nat) (c : Cmd) : State :=
  let t := (s.team? c.team).getD noTeam
  match s.copyReason c t with
  | some r => s.invalidCmd id r none
  | none =>
    let rs := (s.receivers c t (cpMcast (c.word 1))).getD []
    ({ s with cmds := Tab.alter s.cmds id fun c => { c with started := true, recv := rs } }).copyDone id

/-- Progress of one sector of a started copy whose segment is not skipped (R257, R263, R265). -/
def sectorEvent (s : State) (op id tile n : Nat) : Option State :=
  match Tab.find s.cmds id with
  | none => none
  | some c =>
    let j := s.job c
    if c.op ≠ op || !c.started || j.tiles ≤ tile || j.sectors ≤ n || c.skipped.contains tile ||
        c.done.contains (sectorNo tile n) then none
    else match s.moveSector id tile n with
      | .ok s1 => some (s1.copyDone id)
      | .fault s1 va x => some ((s1.skipSegment id tile 1 va (op = 0xD2) x).getD s1)
      | .wait s1 => some s1

/-- TCOPY_SECTOR_WRITE (R263). -/
def execTcopySectorWrite (s : State) : Host.Outcome State Fault Refusal :=
  onEvent s fun
    | .tcopySectorWrite id tile n => sectorEvent s 0xD1 id tile n
    | _ => none

/-- TSTORE_SECTOR_READ (R265). -/
def execTstoreSectorRead (s : State) : Host.Outcome State Fault Refusal :=
  onEvent s fun
    | .tstoreSectorRead id tile n => sectorEvent s 0xD2 id tile n
    | _ => none

/-- Replay a skipped segment of a copy: its sectors move, or it faults again and stays with a new record; one that meets a freeze
leaves the list and moves after it, as any other segment (R422, R432). -/
def State.replaySegment (s : State) (id seg : Nat) : State :=
  let go := (List.range 42).foldl (fun (acc : Moved) n =>
    match acc with
    | .ok s =>
      match Tab.find s.cmds id with
      | none => .ok s
      | some c =>
        if (s.job c).sectors ≤ n || c.done.contains (sectorNo seg n) then .ok s else s.moveSector id seg n
    | r => r) (.ok s)
  let unlisted (s : State) : State :=
    { s with cmds := Tab.alter s.cmds id fun c => { c with skipped := c.skipped.filter (· ≠ seg) } }
  match go with
  | .ok s1 => (unlisted s1).copyDone id
  | .fault s1 va x =>
    (s1.skipSegment id seg 1 va (((Tab.find s.cmds id).map (·.op)).getD 0 = 0xD2) x).getD s1
  | .wait s1 => unlisted s1

end Sys2Proof.Machine
end

