-- ==== Sys2Proof/Machine/LaneInt.lean ====
section
/-! DEFINITION. Lane integer, move and uniform instructions (opcodes 0x00 to 0x34 but LDK; R172 to R183). -/

namespace Sys2Proof.Machine

/-! ### Shapes shared by the lane instructions -/

/-- Write a vector register in the lanes of `m` from a function of the lane; other lanes keep it (R172). -/
def Group.setRow (g : Group) (m : Word) (r : Nat) (f : Nat → Word) : Group :=
  { g with vregs := Tab.put g.vregs r ((List.range 32).map fun l => if m.getLsbD l then f l else g.vreg r l) }

/-- Write a vector pair, low word in the even register (R153). -/
def Group.setPair (g : Group) (m : Word) (r : Nat) (f : Nat → DWord) : Group :=
  (g.setRow m r fun l => (f l).extractLsb' 0 32).setRow m (r + 1) fun l => (f l).extractLsb' 32 32

/-- A pair read in a lane (R153). -/
def Group.pair (g : Group) (f lane : Nat) : DWord := BitVec.ofNat 64 (g.regN f lane 2)

/-- A lane instruction with a vector destination: `f` gives each participating lane its word. -/
def laneOp (i : Instr) (d : BitVec 7) (s : State) (f : Group → Nat → Word) : Host.Outcome State Fault Refusal :=
  issue i s fun s g m => s.withGroup (g.setRow m d.toNat (f g))

/-- A lane instruction with a vector pair as destination. -/
def pairOp (i : Instr) (d : BitVec 7) (s : State) (f : Group → Nat → DWord) : Host.Outcome State Fault Refusal :=
  issue i s fun s g m => s.withGroup (g.setPair m d.toNat (f g))

/-- One source. -/
def lane1 (i : Instr) (f : FmtA) (s : State) (op : Word → Word) : Host.Outcome State Fault Refusal :=
  laneOp i f.d s fun g l => op (g.reg f.a.toNat l)

/-- Two sources. -/
def lane2 (i : Instr) (f : FmtA) (s : State) (op : Word → Word → Word) : Host.Outcome State Fault Refusal :=
  laneOp i f.d s fun g l => op (g.reg f.a.toNat l) (g.reg f.b.toNat l)

/-- Two sources and the destination's old value. -/
def lane3 (i : Instr) (f : FmtA) (s : State) (op : Word → Word → Word → Word) : Host.Outcome State Fault Refusal :=
  laneOp i f.d s fun g l => op (g.reg f.a.toNat l) (g.reg f.b.toNat l) (g.vreg f.d.toNat l)

/-- One source and an immediate. -/
def laneI (i : Instr) (f : FmtB) (s : State) (op : Word → BitVec 7 → Word) : Host.Outcome State Fault Refusal :=
  laneOp i f.d s fun g l => op (g.reg f.a.toNat l) f.i

/-- Pair sources. -/
def pair2 (i : Instr) (f : FmtA) (s : State) (op : DWord → DWord → DWord) : Host.Outcome State Fault Refusal :=
  pairOp i f.d s fun g l => op (g.pair f.a.toNat l) (g.pair f.b.toNat l)

/-! ### Integer arithmetic (R176, R177) -/

/-- R177. -/
def divU (a b : Word) : Word := if b = 0 then 0xFFFFFFFF else BitVec.ofNat 32 (a.toNat / b.toNat)
def remU (a b : Word) : Word := if b = 0 then a else BitVec.ofNat 32 (a.toNat % b.toNat)
def divS (a b : Word) : Word := if b = 0 then 0xFFFFFFFF else BitVec.ofInt 32 (Int.tdiv a.toInt b.toInt)
def remS (a b : Word) : Word := if b = 0 then a else BitVec.ofInt 32 (Int.tmod a.toInt b.toInt)

/-- Byte `i` of a word (R174). -/
def byteOf (a : Word) (i : Nat) : Nat := bits a.toNat (8 * i) 8

/-- Sum of four signed or unsigned byte products (R176). -/
def dot4 (signed : Bool) (a b : Word) : Int :=
  (List.range 4).foldl (fun acc i =>
    acc + (if signed then sextNat (byteOf a i) 8 * sextNat (byteOf b i) 8 else ((byteOf a i * byteOf b i : Nat) : Int))) 0

/-- NOP: no effect; g is ignored (R176). -/
def execNop (f : FmtA) (s : State) : Host.Outcome State Fault Refusal := issue (.nop f) s fun s _ _ => .ok s

/-- d ← w(a + b) (R176). -/
def execIadd (f : FmtA) (s : State) : Host.Outcome State Fault Refusal := lane2 (.iadd f) f s fun a b => a + b
/-- d ← w(a − b) (R176). -/
def execIsub (f : FmtA) (s : State) : Host.Outcome State Fault Refusal := lane2 (.isub f) f s fun a b => a - b
/-- d64 ← w64(a64 + b64) (R176). -/
def execIadd64 (f : FmtA) (s : State) : Host.Outcome State Fault Refusal := pair2 (.iadd64 f) f s fun a b => a + b
/-- d64 ← w64(a64 − b64) (R176). -/
def execIsub64 (f : FmtA) (s : State) : Host.Outcome State Fault Refusal := pair2 (.isub64 f) f s fun a b => a - b
/-- d ← w(a × b) (R176). -/
def execImul (f : FmtA) (s : State) : Host.Outcome State Fault Refusal := lane2 (.imul f) f s fun a b => a * b
/-- d ← w64(sv(a) × sv(b))[63:32] (R176). -/
def execImulhiS (f : FmtA) (s : State) : Host.Outcome State Fault Refusal :=
  lane2 (.imulhiS f) f s fun a b => (BitVec.ofInt 64 (a.toInt * b.toInt)).extractLsb' 32 32
/-- d ← (a × b)[63:32] (R176). -/
def execImulhiU (f : FmtA) (s : State) : Host.Outcome State Fault Refusal :=
  lane2 (.imulhiU f) f s fun a b => BitVec.ofNat 32 (a.toNat * b.toNat / 2 ^ 32)
/-- d ← w(a × b + d) (R176). -/
def execImad (f : FmtA) (s : State) : Host.Outcome State Fault Refusal := lane3 (.imad f) f s fun a b d => a * b + d
/-- d64 ← w64(sv(a) × sv(b) + d64) (R176). -/
def execImadwS (f : FmtA) (s : State) : Host.Outcome State Fault Refusal :=
  pairOp (.imadwS f) f.d s fun g l =>
    BitVec.ofInt 64 ((g.reg f.a.toNat l).toInt * (g.reg f.b.toNat l).toInt) + g.pair f.d.toNat l
/-- d64 ← w64(a × b + d64) (R176). -/
def execImadwU (f : FmtA) (s : State) : Host.Outcome State Fault Refusal :=
  pairOp (.imadwU f) f.d s fun g l =>
    BitVec.ofNat 64 ((g.reg f.a.toNat l).toNat * (g.reg f.b.toNat l).toNat) + g.pair f.d.toNat l
/-- Signed quotient toward zero (R177). -/
def execIdivS (f : FmtA) (s : State) : Host.Outcome State Fault Refusal := lane2 (.idivS f) f s divS
/-- Unsigned quotient (R177). -/
def execIdivU (f : FmtA) (s : State) : Host.Outcome State Fault Refusal := lane2 (.idivU f) f s divU
/-- Signed remainder with the sign of a (R177). -/
def execIremS (f : FmtA) (s : State) : Host.Outcome State Fault Refusal := lane2 (.iremS f) f s remS
/-- Unsigned remainder (R177). -/
def execIremU (f : FmtA) (s : State) : Host.Outcome State Fault Refusal := lane2 (.iremU f) f s remU
/-- The operand with the smaller signed value (R176). -/
def execIminS (f : FmtA) (s : State) : Host.Outcome State Fault Refusal :=
  lane2 (.iminS f) f s fun a b => if a.toInt ≤ b.toInt then a else b
/-- The smaller operand, unsigned (R176). -/
def execIminU (f : FmtA) (s : State) : Host.Outcome State Fault Refusal :=
  lane2 (.iminU f) f s fun a b => if a.toNat ≤ b.toNat then a else b
/-- The operand with the larger signed value (R176). -/
def execImaxS (f : FmtA) (s : State) : Host.Outcome State Fault Refusal :=
  lane2 (.imaxS f) f s fun a b => if a.toInt ≤ b.toInt then b else a
/-- The larger operand, unsigned (R176). -/
def execImaxU (f : FmtA) (s : State) : Host.Outcome State Fault Refusal :=
  lane2 (.imaxU f) f s fun a b => if a.toNat ≤ b.toNat then b else a
/-- d ← w(abs(sv(a))) (R176). -/
def execIabs (f : FmtA) (s : State) : Host.Outcome State Fault Refusal :=
  lane1 (.iabs f) f s fun a => BitVec.ofNat 32 a.toInt.natAbs
/-- d ← w(−sv(a)) (R176). -/
def execIneg (f : FmtA) (s : State) : Host.Outcome State Fault Refusal := lane1 (.ineg f) f s fun a => -a
/-- d64 ← w64(d64 + sext(a, 64) × 2^imm7) (R176). -/
def execLea (f : FmtB) (s : State) : Host.Outcome State Fault Refusal :=
  pairOp (.lea f) f.d s fun g l =>
    g.pair f.d.toNat l + (g.reg f.a.toNat l).signExtend 64 * BitVec.ofNat 64 (2 ^ f.i.toNat)
/-- d ← w(d + Σ of four signed byte products) (R176). -/
def execIdot4Sb (f : FmtA) (s : State) : Host.Outcome State Fault Refusal :=
  lane3 (.idot4Sb f) f s fun a b d => d + BitVec.ofInt 32 (dot4 true a b)
/-- d ← w(d + Σ of four unsigned byte products) (R176). -/
def execIdot4Ub (f : FmtA) (s : State) : Host.Outcome State Fault Refusal :=
  lane3 (.idot4Ub f) f s fun a b d => d + BitVec.ofInt 32 (dot4 false a b)

/-! ### Logic, shifts and bit fields (R178 to R180) -/

/-- Shifts by a full unsigned amount; 32 or more gives 0 or copies of bit 31 (R178). -/
def shlBy (a : Word) (n : Nat) : Word := if 32 ≤ n then 0 else a <<< n
def shrUBy (a : Word) (n : Nat) : Word := if 32 ≤ n then 0 else a >>> n
def shrSBy (a : Word) (n : Nat) : Word := if 32 ≤ n then a.sshiftRight 31 else a.sshiftRight n

/-- The low `n` bits of a word, `n` up to 32. -/
def lowBits (t : Word) (n : Nat) : Nat := t.toNat % 2 ^ n

/-- BFE.U, BFE.S and BFI (R179): b carries pos in [7:0] and len in [15:8]. -/
def bfeU (a b : Word) : Word :=
  let n := min (byteOf b 1) 32
  BitVec.ofNat 32 (lowBits (shrUBy a (byteOf b 0)) n)
def bfeS (a b : Word) : Word :=
  let n := min (byteOf b 1) 32
  if n = 0 then 0 else BitVec.ofInt 32 (sextNat (lowBits (shrSBy a (byteOf b 0)) n) n)
def bfiW (a b d : Word) : Word :=
  let n := min (byteOf b 1) 32
  let m := shlBy (BitVec.ofNat 32 (2 ^ n - 1)) (byteOf b 0)
  (d &&& ~~~ m) ||| (shlBy a (byteOf b 0) &&& m)

/-- B3EXT: trit `i` of byte `j`; codes from 243 give 0 (R128, R180). -/
def b3extW (a : Word) (imm : BitVec 7) : Word :=
  let c := byteOf a (imm.toNat / 8 % 4)
  if 243 ≤ c then 0
  else
    let q := c / 3 ^ (imm.toNat % 8) % 3
    if q = 0 then 0 else if q = 1 then 1 else 0xFFFFFFFF

/-- d ← a AND b (R178). -/
def execAnd (f : FmtA) (s : State) : Host.Outcome State Fault Refusal := lane2 (.and f) f s fun a b => a &&& b
/-- d ← a OR b (R178). -/
def execOr (f : FmtA) (s : State) : Host.Outcome State Fault Refusal := lane2 (.or f) f s fun a b => a ||| b
/-- d ← a XOR b (R178). -/
def execXor (f : FmtA) (s : State) : Host.Outcome State Fault Refusal := lane2 (.xor f) f s fun a b => a ^^^ b
/-- d ← a AND NOT b (R178). -/
def execAndn (f : FmtA) (s : State) : Host.Outcome State Fault Refusal := lane2 (.andn f) f s fun a b => a &&& ~~~ b
/-- d ← NOT a (R178). -/
def execNot (f : FmtA) (s : State) : Host.Outcome State Fault Refusal := lane1 (.not f) f s fun a => ~~~ a
/-- Left shift (R178). -/
def execShl (f : FmtA) (s : State) : Host.Outcome State Fault Refusal := lane2 (.shl f) f s fun a b => shlBy a b.toNat
/-- Logical right shift (R178). -/
def execShrU (f : FmtA) (s : State) : Host.Outcome State Fault Refusal := lane2 (.shrU f) f s fun a b => shrUBy a b.toNat
/-- Arithmetic right shift (R178). -/
def execShrS (f : FmtA) (s : State) : Host.Outcome State Fault Refusal := lane2 (.shrS f) f s fun a b => shrSBy a b.toNat
/-- Rotate left by b[4:0] (R178). -/
def execRotl (f : FmtA) (s : State) : Host.Outcome State Fault Refusal :=
  lane2 (.rotl f) f s fun a b => a.rotateLeft (b.toNat % 32)
/-- Left shift by imm7 (R178). -/
def execShli (f : FmtB) (s : State) : Host.Outcome State Fault Refusal := laneI (.shli f) f s fun a i => shlBy a i.toNat
/-- Logical right shift by imm7 (R178). -/
def execShriU (f : FmtB) (s : State) : Host.Outcome State Fault Refusal := laneI (.shriU f) f s fun a i => shrUBy a i.toNat
/-- Arithmetic right shift by imm7 (R178). -/
def execShriS (f : FmtB) (s : State) : Host.Outcome State Fault Refusal := laneI (.shriS f) f s fun a i => shrSBy a i.toNat
/-- d ← number of 1 bits of a (R178). -/
def execPopc (f : FmtA) (s : State) : Host.Outcome State Fault Refusal :=
  lane1 (.popc f) f s fun a => BitVec.ofNat 32 (lanesOf a).length
/-- d ← number of leading zero bits; 32 for 0 (R178). -/
def execClz (f : FmtA) (s : State) : Host.Outcome State Fault Refusal :=
  lane1 (.clz f) f s fun a => if a = 0 then 32 else BitVec.ofNat 32 (31 - Nat.log2 a.toNat)
/-- d[i] ← a[31 − i] (R178). -/
def execBrev (f : FmtA) (s : State) : Host.Outcome State Fault Refusal :=
  lane1 (.brev f) f s fun a => maskOf ((lanesOf a).map fun i => 31 - i)
/-- Unsigned field extract (R179). -/
def execBfeU (f : FmtA) (s : State) : Host.Outcome State Fault Refusal := lane2 (.bfeU f) f s bfeU
/-- Signed field extract (R179). -/
def execBfeS (f : FmtA) (s : State) : Host.Outcome State Fault Refusal := lane2 (.bfeS f) f s bfeS
/-- Field insert (R179). -/
def execBfi (f : FmtA) (s : State) : Host.Outcome State Fault Refusal := lane3 (.bfi f) f s bfiW
/-- Trit extract (R180). -/
def execB3ext (f : FmtB) (s : State) : Host.Outcome State Fault Refusal := laneI (.b3ext f) f s b3extW

/-! ### Moves and constants (R181, R182) -/

/-- d ← w(a + sext(imm7, 32)) (R181). -/
def execIaddi (f : FmtB) (s : State) : Host.Outcome State Fault Refusal :=
  laneI (.iaddi f) f s fun a i => a + i.signExtend 32
/-- d ← sext(imm14, 32) (R181). -/
def execMovi (f : FmtC) (s : State) : Host.Outcome State Fault Refusal :=
  laneOp (.movi f) f.d s fun _ _ => f.i.signExtend 32
/-- d[31:18] ← imm14; d[17:0] unchanged (R181). -/
def execMovhi (f : FmtC) (s : State) : Host.Outcome State Fault Refusal :=
  laneOp (.movhi f) f.d s fun g l => BitVec.ofNat 32 (f.i.toNat * 2 ^ 18 + (g.vreg f.d.toNat l).toNat % 2 ^ 18)
/-- d ← a (R181). -/
def execMov (f : FmtA) (s : State) : Host.Outcome State Fault Refusal := lane1 (.mov f) f s fun a => a
/-- In every active lane: a where the guard admits it, else b (R182). -/
def execSel (f : FmtA) (s : State) : Host.Outcome State Fault Refusal :=
  issue (.sel f) s fun s g m =>
    s.withGroup (g.setRow s.cur.active f.d.toNat fun l => if m.getLsbD l then g.reg f.a.toNat l else g.reg f.b.toNat l)

/-! ### Uniform instructions (R183) -/

/-- A uniform instruction acts when the guard admits the lowest active lane, in which a vector source is read. -/
def uniformOp (i : Instr) (s : State) (f : Group → Nat → Group) : Host.Outcome State Fault Refusal :=
  issue i s fun s g m =>
    let l := lowestLane s.cur.active
    if m.getLsbD l then s.withGroup (f g l) else .ok s

/-- s(d) ← a (R183). -/
def execUmov (f : FmtA) (s : State) : Host.Outcome State Fault Refusal :=
  uniformOp (.umov f) s fun g l => g.setU (f.d.toNat - 96) (g.reg f.a.toNat l)
/-- s(d) ← sext(imm14, 32) (R183). -/
def execUmovi (f : FmtC) (s : State) : Host.Outcome State Fault Refusal :=
  uniformOp (.umovi f) s fun g _ => g.setU (f.d.toNat - 96) (f.i.signExtend 32)
/-- s(d) ← w(a + b) (R183). -/
def execUadd (f : FmtA) (s : State) : Host.Outcome State Fault Refusal :=
  uniformOp (.uadd f) s fun g l => g.setU (f.d.toNat - 96) (g.reg f.a.toNat l + g.reg f.b.toNat l)
/-- s(d):s(d+1) ← w64(s(d):s(d+1) + sext(a, 64) × 2^imm7) (R183). -/
def execUlea (f : FmtB) (s : State) : Host.Outcome State Fault Refusal :=
  uniformOp (.ulea f) s fun g l =>
    let v := g.pair f.d.toNat l + (g.reg f.a.toNat l).signExtend 64 * BitVec.ofNat 64 (2 ^ f.i.toNat)
    (g.setU (f.d.toNat - 96) (v.extractLsb' 0 32)).setU (f.d.toNat - 95) (v.extractLsb' 32 32)

end Sys2Proof.Machine
end

