-- ==== Sys2Proof/Machine/MemInstr.lean ====
section
/-! DEFINITION. Memory instructions (0xA0 to 0xBF) and LDK (R181, R215 to R224). A global access is posted at issue and
performed by events at its home; a scratchpad access is performed at issue. -/

namespace Sys2Proof.Machine

/-! ### Global loads and stores (R215) -/

/-- t ← zext(m8, 32) (R215). -/
def execLdUb (f : FmtD) (s : State) : Host.Outcome State Fault Refusal := memIssue (.ldUb f) 0xA0 f s
/-- t ← sext(m8, 32) (R215). -/
def execLdSb (f : FmtD) (s : State) : Host.Outcome State Fault Refusal := memIssue (.ldSb f) 0xA1 f s
/-- t ← zext(m16, 32) (R215). -/
def execLdUh (f : FmtD) (s : State) : Host.Outcome State Fault Refusal := memIssue (.ldUh f) 0xA2 f s
/-- t ← sext(m16, 32) (R215). -/
def execLdSh (f : FmtD) (s : State) : Host.Outcome State Fault Refusal := memIssue (.ldSh f) 0xA3 f s
/-- t ← m32 (R215). -/
def execLdW (f : FmtD) (s : State) : Host.Outcome State Fault Refusal := memIssue (.ldW f) 0xA4 f s
/-- t:t+1 ← m64 (R215). -/
def execLdD (f : FmtD) (s : State) : Host.Outcome State Fault Refusal := memIssue (.ldD f) 0xA5 f s
/-- t to t+3 ← m128 (R215). -/
def execLdQ (f : FmtD) (s : State) : Host.Outcome State Fault Refusal := memIssue (.ldQ f) 0xA6 f s
/-- m8 ← t[7:0] (R215). -/
def execStB (f : FmtD) (s : State) : Host.Outcome State Fault Refusal := memIssue (.stB f) 0xA7 f s
/-- m16 ← t[15:0] (R215). -/
def execStH (f : FmtD) (s : State) : Host.Outcome State Fault Refusal := memIssue (.stH f) 0xA8 f s
/-- m32 ← t (R215). -/
def execStW (f : FmtD) (s : State) : Host.Outcome State Fault Refusal := memIssue (.stW f) 0xA9 f s
/-- m64 ← t:t+1 (R215). -/
def execStD (f : FmtD) (s : State) : Host.Outcome State Fault Refusal := memIssue (.stD f) 0xAA f s
/-- m128 ← t to t+3 (R215). -/
def execStQ (f : FmtD) (s : State) : Host.Outcome State Fault Refusal := memIssue (.stQ f) 0xAB f s
/-- LD.W as an acquire (R98, R215). -/
def execLdaW (f : FmtD) (s : State) : Host.Outcome State Fault Refusal := memIssue (.ldaW f) 0xAC f s
/-- LD.D as an acquire (R98, R215). -/
def execLdaD (f : FmtD) (s : State) : Host.Outcome State Fault Refusal := memIssue (.ldaD f) 0xAD f s
/-- ST.W as a release (R98, R215). -/
def execStlW (f : FmtD) (s : State) : Host.Outcome State Fault Refusal := memIssue (.stlW f) 0xAE f s
/-- ST.D as a release (R98, R215). -/
def execStlD (f : FmtD) (s : State) : Host.Outcome State Fault Refusal := memIssue (.stlD f) 0xAF f s

/-! ### Scratchpad (R219, R220) -/

/-- A held interlocked load keeps its destination busy (R157). -/
def Group.markBusy (g : Group) (op reg n : Nat) : Group :=
  { g with busy := Tab.put g.busy op ((List.range n).map (reg + ·)) }

/-- Why a scratchpad access of one lane fails, for info 1 of 0x0105: 1 outside the windows, 2 a store to the RESIDENT
window by a grid that is no loader of the region's key (R74, R407); 0 when it may be made. -/
def State.spadCause (s : State) (k e n : Nat) (store : Bool) : Nat :=
  match s.teamOf k with
  | none => 1
  | some t =>
    match s.spadWin t (s.ctxOf k) e n with
    | .own => 0
    | .none => 1
    | .resident =>
      if !store then 0
      else match s.residentAt t (s.ctxOf k) e with
        | none => 1
        | some (r, _) => if s.isLoader t r.key then 0 else 2

/-- Issue of LDS or STS (R75, R219, R407): ordinary at TEAM, so it waits for the group's earlier ordinary accesses (R96;
log 26) and for a FENCE in progress that orders it (R224), and takes a log entry behind a waiting one (R414). -/
def spadIssue (i : Instr) (opc : Nat) (f : FmtDS) (s : State) : Host.Outcome State Fault Refusal :=
  issue i s fun s g m =>
    let k := s.cur.grp
    let n := memSize opc
    let store := memKind opc = .store
    let ls := lanesOf m
    let e (l : Nat) := (g.reg f.a.toNat l).toNat + f.off.toNat * n
    let mis := ls.filter fun l => e l % n ≠ 0
    let out := ls.filter fun l => s.spadCause k (e l) n store ≠ 0
    if mis ≠ [] then .trap 0x0104 s.cur.active.toNat (e (mis.headD 0)) (maskOf mis).toNat (n + 256)
    else if out ≠ [] then
      .trap 0x0105 s.cur.active.toNat (e (out.headD 0)) (maskOf out).toNat (n + 256 * s.spadCause k (e (out.headD 0)) n store)
    else if (s.freeEntry (partOf k)).isNone || s.accesses.any (fun x => x.2.grp = k && !x.2.rlx) ||
        g.fences.any (fun y => y.2.orders (memKind opc)) then .hold
    else if m = 0 then .ok s
    else if s.hasLog k then
      let op := s.idCtr
      let lanes : Tab (List Word) := ls.map fun l =>
        (l, logWords (if store then g.regN f.t.toNat l (memWords opc) else 0) 0 (e l) opc false)
      let g1 := if store then g else g.markBusy op f.t.toNat (memWords opc)
      let s1 := { s with
        idCtr := op + 1
        groups := Tab.put s.groups k g1
        ops := Tab.put s.ops op ⟨k, 0, m, s.cur.word, s.cur.pc⟩ }
      .ok (s1.logEnter k op s.cur.word s.cur.pc lanes).1
    else
      .ok (ls.foldl (fun s' l =>
        s'.spadAccess k s.idCtr opc l (e l) f.t.toNat f.sw.toNat (g.regN f.t.toNat l (memWords opc)) []) s)

/-- t ← word at e′ (R219). -/
def execLdsW (f : FmtDS) (s : State) : Host.Outcome State Fault Refusal := spadIssue (.ldsW f) 0xB0 f s
/-- t:t+1 ← the 8 bytes at e′ (R219). -/
def execLdsD (f : FmtDS) (s : State) : Host.Outcome State Fault Refusal := spadIssue (.ldsD f) 0xB1 f s
/-- t to t+3 ← the 16 bytes at e′ (R219). -/
def execLdsQ (f : FmtDS) (s : State) : Host.Outcome State Fault Refusal := spadIssue (.ldsQ f) 0xB2 f s
/-- word at e′ ← t (R219). -/
def execStsW (f : FmtDS) (s : State) : Host.Outcome State Fault Refusal := spadIssue (.stsW f) 0xB3 f s
/-- 8 bytes at e′ ← t:t+1 (R219). -/
def execStsD (f : FmtDS) (s : State) : Host.Outcome State Fault Refusal := spadIssue (.stsD f) 0xB4 f s
/-- 16 bytes at e′ ← t to t+3 (R219). -/
def execStsQ (f : FmtDS) (s : State) : Host.Outcome State Fault Refusal := spadIssue (.stsQ f) 0xB5 f s

/-! ### Atomics (R221) -/

/-- w(old + t) (R221). -/
def execAtomAdd (f : FmtD) (s : State) : Host.Outcome State Fault Refusal := memIssue (.atomAdd f) 0xB6 f s
/-- w64(old + t:t+1) (R221). -/
def execAtomAdd64 (f : FmtD) (s : State) : Host.Outcome State Fault Refusal := memIssue (.atomAdd64 f) 0xB7 f s
/-- The smaller signed value (R221). -/
def execAtomMinS (f : FmtD) (s : State) : Host.Outcome State Fault Refusal := memIssue (.atomMinS f) 0xB8 f s
/-- The larger signed value (R221). -/
def execAtomMaxS (f : FmtD) (s : State) : Host.Outcome State Fault Refusal := memIssue (.atomMaxS f) 0xB9 f s
/-- old AND t (R221). -/
def execAtomAnd (f : FmtD) (s : State) : Host.Outcome State Fault Refusal := memIssue (.atomAnd f) 0xBA f s
/-- old OR t (R221). -/
def execAtomOr (f : FmtD) (s : State) : Host.Outcome State Fault Refusal := memIssue (.atomOr f) 0xBB f s
/-- t (R221). -/
def execAtomXchg (f : FmtD) (s : State) : Host.Outcome State Fault Refusal := memIssue (.atomXchg f) 0xBC f s
/-- t when old equals t+1 (R221). -/
def execAtomCas (f : FmtD) (s : State) : Host.Outcome State Fault Refusal := memIssue (.atomCas f) 0xBD f s
/-- rne(old + t, FP32) (R221). -/
def execAtomFadd (f : FmtD) (s : State) : Host.Outcome State Fault Refusal := memIssue (.atomFadd f) 0xBE f s

/-! ### FENCE (R99, R114, R222 to R224) -/

/-- Raise to domain `d` the pin of every control-class line of an agent's context that is pinned more narrowly to an instance
containing it (R114). -/
def State.widen (s : State) (ag : Agent) (d : Nat) : State :=
  let line (h : HomeLine) : HomeLine :=
    match h.pin with
    | none => h
    | some p => if p.ctx = ag.space && p.dom < d && p.inside ag then { h with pin := some (ag.pin d) } else h
  { s with home := s.home.map fun x => (x.1, line x.2) }

/-- What a FENCE must see performed before it completes: for an acquire the group's earlier loads and atomics, otherwise every
earlier access (R99, R222). -/
def Fence.awaits (f : Fence) (k : AccessKind) : Bool := f.kind ≠ 1 || k = .load || k = .atomic

/-- Every access that a FENCE of number `op` must see performed has been. -/
def State.fenceReady (s : State) (k op : Nat) (f : Fence) : Bool :=
  !(s.accesses.any fun x => x.2.grp = k && x.2.op < op && f.awaits x.2.kind) &&
    !(s.logOf k).any fun x => x.2.op < op && f.awaits (memKind (wordOp x.2.word))

/-- A FENCE of number `op` has completed: the later accesses that it orders carry the logical time that its group's core has now, so
that none is performed before a time that the earlier ones have (R99, R104, R378). -/
def State.retime (s : State) (k op : Nat) (f : Fence) : State :=
  let lt := (s.core (keyCore k)).lt
  let late (a : Access) : Access := if a.grp = k && op < a.op && f.orders a.kind then { a with lt := max a.lt lt } else a
  { s with accesses := s.accesses.map fun x => (x.1, late x.2) }

/-- A FENCE completes: it widens if asked, writes the status word and clears the record; a release is noted, and a full fence may end
races (R112, R114, R222, R223, R337). -/
def State.endFence (s : State) (k : Nat) (f : Fence) : State :=
  match s.group? k with
  | none => s
  | some g =>
    let st := statusWord g.failBits g.failed
    let ag := s.agentOf k
    let s0 := (s.setGroup k { g.setRow f.lanes f.d (fun _ => st) with failBits := 0, failed := 0 })
    let s1 := if f.kind = 3 then (s0.releaseUses ag f.dom).fenceRaces ag.team ag.gid f.dom
      else if f.kind = 2 then s0.releaseUses ag f.dom else s0
    if f.widen then s1.widen ag f.dom else s1

/-- The group's oldest FENCE in progress completes once the accesses that it orders have been performed (R99, R224). -/
def State.fenceDone (s : State) (k op : Nat) : State :=
  match (s.group? k).bind fun g => Tab.find g.fences op with
  | none => s
  | some f =>
    if s.fenceReady k op f && (s.group? k).all (fun g => g.fences.all fun y => op ≤ y.1) then
      ((s.onGroup k fun g => { g with fences := Tab.del g.fences op, busy := Tab.del g.busy op }).endFence k f).retime k op f
    else s

/-- FENCE: it completes at once when the accesses that it orders have been performed, and the group's other fences too;
otherwise its d waits, later accesses that its kind orders wait, and the group issues past it (R222 to R224). Without a
participating lane it does nothing. -/
def execFence (f : FmtFence) (s : State) : Host.Outcome State Fault Refusal :=
  issue (.fence f) s fun s g m =>
    let k := s.cur.grp
    if s.hasLog k || (s.freeEntry (partOf k)).isNone then .hold
    else if m = 0 then .ok s
    else
      let op := s.idCtr
      let x : Fence := ⟨m, f.d.toNat, f.kind.toNat, f.dom.toNat, f.widen = 1, []⟩
      if s.fenceReady k op x && g.fences.isEmpty then .ok (s.endFence k x)
      else
        .ok { s.setGroup k { g with fences := Tab.put g.fences op x, busy := Tab.put g.busy op [f.d.toNat] } with
          idCtr := op + 1 }

/-! ### LDK (R150, R181, R418) -/

/-- d ← the code word at w(o + 4 × sext(imm14, 32)); a translation fault is a lane page fault of kind 3, and like a fault of the
line that is read it leaves the access held in the operand log, with d busy until its replay (R181, R412, R413, R427, R428,
R431). -/
def execLdk (f : FmtC) (s : State) : Host.Outcome State Fault Refusal :=
  issue (.ldk f) s fun s g m =>
    let k := s.cur.grp
    let off := (s.cur.pc + 4 * f.i.signExtend 32).toNat
    if m = 0 then .ok s
    else match fetch s (keyCore k) (s.spaceOf k) off .ldk with
      | (s1, .ok w) => .ok (s1.onGroup k fun g => g.setRow m f.d.toNat fun _ => w)
      | (_, .error .held) => .hold
      | (s1, .error x) =>
        if (s.freeEntry (partOf k)).isNone then .hold
        else
          let op := s1.idCtr
          let va := s1.codeVa (s1.spaceOf k) off
          let lanes : Tab (List Word) := (lanesOf m).map fun l => (l, logWords 0 0 va 0x24 x.isFault)
          let s2 := { s1 with
            idCtr := op + 1
            groups := Tab.put s1.groups k (g.markBusy op f.d.toNat 1)
            ops := Tab.put s1.ops op ⟨k, 0, m, s.cur.word, s.cur.pc⟩ }
          let e := s2.logEnter k op s.cur.word s.cur.pc lanes
          .faulted k (e.1.xlatReport k e.2 x 3 s.cur.pc m.toNat m.toNat va)

end Sys2Proof.Machine
end

