-- ==== Sys2Proof/WellFormed.lean ====
section
/-! DEFINITION. Well-formed instructions: the encoding checks of R402 for a kernel of 96 registers in a privileged
group (so that only the word decides), and for an event the ranges of the numbers that name its units (R13, R14,
R271, R338, R340, R366, R369, R371). -/

namespace Sys2Proof

open Sys2Proof.Machine

/-- The number of a unit that can fail names one (R461). -/
def FailUnit.present : FailUnit → Bool
  | .quad q => q < 512
  | .pseudoChannel k => k < 16
  | .bondLane => true
  | .linkLane p => p < 36

/-- The numbers of an event name units that exist. -/
def Event.unitsExist (e : Event) : Bool :=
  match e with
  | .turnGrant c p | .turnTimeLimit c p | .turnInstructionLimit c p => c < 2048 && p < 4
  | .recordDelivery s | .chargeWrite s _ => s < 16
  | .pageWalk c x v _ => c < 2064 && x < 64 && v < 2 ^ 64
  | .walkAheadTranslation q x v _ => q < 512 && x < 64 && v < 2 ^ 64
  | .operandFetchCopy q _ | .boardPass q | .matrixOpComplete q _ | .quadSubstitution q => q < 512
  | .ltTick d | .dispatchDecision d | .preemptVictimChoice d _ | .coreReset d | .uncoreReset d _
  | .uncoreResetComplete d | .dieLost d | .kvpoolWrite d _ | .utilisationWindow d _ => d < 2
  | .fabricRead d l _ _ _ | .fabricWrite d l _ _ _ | .ownerForward d l _ _ _ _ | .ownerWriteback d l _ _ _ =>
    d < 256 && l < 2 ^ 46
  | .hostAccess r =>
    match r with
    | .readMem pa n | .writeMem pa n _ => (pa + n ≤ 2 ^ 40 || (2 ^ 51 ≤ pa && pa + n ≤ 2 ^ 52)) && n ≤ 64
    | .readWindow o n | .writeWindow o n _ => o + n ≤ 2 ^ 20 && n ≤ 64
    | .readControl o => o < 65536
  | .hostSnoop l _ _ | .l2Eviction l | .lineReclaim l => l < 2 ^ 46
  | .launchTrigger s _ => s < 4096
  | .batchFormerStep x | .batchFormerIdleTimer x | .migrationGo x _ | .frsizeWrite x _ | .frlostClear x => x < 64
  | .guardResolve c _ | .engineCommandStart c _ | .teamRestore _ c => c < 2048
  | .csrWrite s n _ => s < 16 && n < 128
  | .ownerWrite m _ | .deniedClear m | .lrefuseClear m => 1 ≤ m && m ≤ 3
  | .controlRegisterWrite m o _ | .versionSelect m o _ | .errorCounterClear m o => 1 ≤ m && m ≤ 3 && o < 65536
  | .thermalThrottle n _ | .thermalRelease n _ | .thermalShutdown n _ => n < 3
  | .structureFailed u => u.present
  | .packagePowerOnReset us => us.all (·.present)
  | .pchanCopyComplete k => k < 16
  | .linkTraining p _ _ | .flitReceive p _ | .flitReplay p _ | .linkLaneFailure p | .fabricRouteReprogram p => p < 36
  | .deviceDeadDeclared d => d < 256
  | .l2PrefetchTranslation d x v => d < 2 && x < 64 && v < 2 ^ 64
  | _ => true

/-- A well-formed instruction word; every event row is well formed, and its operands are checked by `unitsExist`. -/
def Instr.wellFormed (i : Instr) : Bool := (encodingCheck i 96 true).isNone

end Sys2Proof
end

