-- ==== Sys2Proof/Decode.lean ====
section
/-! DEFINITION. The decoder of instruction words, total on every word, and after it the encoder, both written from
the opcode map and the formats (R151, R161 to R163, R222, R226, R257, R258, R277). A word that no instruction assigns
decodes to the row RESERVED_OPCODE; bytes that are not a whole word are rejected by name. -/

namespace Sys2Proof

/-- The fields of a word of this format (R151). -/
def FmtA.ofWord (w : Word) : FmtA :=
  ⟨w.extractLsb' 21 3, w.extractLsb' 14 7, w.extractLsb' 7 7, w.extractLsb' 0 7⟩

/-- The fields of a word of this format (R151). -/
def FmtB.ofWord (w : Word) : FmtB :=
  ⟨w.extractLsb' 21 3, w.extractLsb' 14 7, w.extractLsb' 7 7, w.extractLsb' 0 7⟩

/-- The fields of a word of this format (R151). -/
def FmtC.ofWord (w : Word) : FmtC :=
  ⟨w.extractLsb' 21 3, w.extractLsb' 14 7, w.extractLsb' 0 14⟩

/-- The fields of a word of this format (R151). -/
def FmtE.ofWord (w : Word) : FmtE :=
  ⟨w.extractLsb' 21 3, w.extractLsb' 0 21⟩

/-- The fields of a word of this format (R151). -/
def FmtD.ofWord (w : Word) : FmtD :=
  ⟨w.extractLsb' 21 3, w.extractLsb' 14 7, w.extractLsb' 7 7, w.extractLsb' 3 4, w.extractLsb' 1 2, w.extractLsb' 0 1⟩

/-- The fields of a word of this format (R151). -/
def FmtDS.ofWord (w : Word) : FmtDS :=
  ⟨w.extractLsb' 21 3, w.extractLsb' 14 7, w.extractLsb' 7 7, w.extractLsb' 4 3, w.extractLsb' 0 4⟩

/-- The fields of a word of this format (R151). -/
def FmtFence.ofWord (w : Word) : FmtFence :=
  ⟨w.extractLsb' 21 3, w.extractLsb' 14 7, w.extractLsb' 6 1, w.extractLsb' 4 2, w.extractLsb' 0 4⟩

/-- The fields of a word of this format (R151). -/
def FmtF.ofWord (w : Word) : FmtF :=
  ⟨w.extractLsb' 23 1, w.extractLsb' 22 1, w.extractLsb' 20 2, w.extractLsb' 13 7, w.extractLsb' 8 5, w.extractLsb' 0 8⟩

/-- The fields of a word of this format (R151). -/
def FmtAtt.ofWord (w : Word) : FmtAtt :=
  ⟨w.extractLsb' 23 1, w.extractLsb' 22 1, w.extractLsb' 13 7, w.extractLsb' 8 5, w.extractLsb' 0 8⟩

/-- The fields of a word of this format (R151). -/
def FmtG.ofWord (w : Word) : FmtG :=
  ⟨w.extractLsb' 21 3, w.extractLsb' 19 2, w.extractLsb' 15 4, w.extractLsb' 10 5, w.extractLsb' 3 7⟩

/-- The fields of a word of this format (R151). -/
def FmtCopy.ofWord (w : Word) : FmtCopy :=
  ⟨w.extractLsb' 21 3, w.extractLsb' 19 2, w.extractLsb' 15 4, w.extractLsb' 10 5, w.extractLsb' 3 7, w.extractLsb' 1 1, w.extractLsb' 0 1⟩

/-- The fields of a word of this format (R151). -/
def FmtBlock.ofWord (w : Word) : FmtBlock :=
  ⟨w.extractLsb' 21 3, w.extractLsb' 10 5, w.extractLsb' 3 7⟩

/-- The fields of a word of this format (R151). -/
def FmtSys.ofWord (w : Word) : FmtSys :=
  ⟨w.extractLsb' 21 3, w.extractLsb' 14 7, w.extractLsb' 7 7⟩

/-- Opcodes 0x00 to 0x0F (R161). -/
def decodeRow0 (lo : Nat) (w : Word) : Instr :=
  match lo with
  | 0x0 => .nop (.ofWord w)
  | 0x1 => .iadd (.ofWord w)
  | 0x2 => .isub (.ofWord w)
  | 0x3 => .iadd64 (.ofWord w)
  | 0x4 => .isub64 (.ofWord w)
  | 0x5 => .imul (.ofWord w)
  | 0x6 => .imulhiS (.ofWord w)
  | 0x7 => .imulhiU (.ofWord w)
  | 0x8 => .imad (.ofWord w)
  | 0x9 => .imadwS (.ofWord w)
  | 0xA => .imadwU (.ofWord w)
  | 0xB => .idivS (.ofWord w)
  | 0xC => .idivU (.ofWord w)
  | 0xD => .iremS (.ofWord w)
  | 0xE => .iremU (.ofWord w)
  | 0xF => .iminS (.ofWord w)
  | _ => .reservedOpcode w

/-- Opcodes 0x10 to 0x1F (R161). -/
def decodeRow1 (lo : Nat) (w : Word) : Instr :=
  match lo with
  | 0x0 => .iminU (.ofWord w)
  | 0x1 => .imaxS (.ofWord w)
  | 0x2 => .imaxU (.ofWord w)
  | 0x3 => .iabs (.ofWord w)
  | 0x4 => .ineg (.ofWord w)
  | 0x5 => .and (.ofWord w)
  | 0x6 => .or (.ofWord w)
  | 0x7 => .xor (.ofWord w)
  | 0x8 => .andn (.ofWord w)
  | 0x9 => .not (.ofWord w)
  | 0xA => .shl (.ofWord w)
  | 0xB => .shrU (.ofWord w)
  | 0xC => .shrS (.ofWord w)
  | 0xD => .rotl (.ofWord w)
  | 0xE => .shli (.ofWord w)
  | 0xF => .shriU (.ofWord w)
  | _ => .reservedOpcode w

/-- Opcodes 0x20 to 0x2F (R161). -/
def decodeRow2 (lo : Nat) (w : Word) : Instr :=
  match lo with
  | 0x0 => .shriS (.ofWord w)
  | 0x1 => .iaddi (.ofWord w)
  | 0x2 => .movi (.ofWord w)
  | 0x3 => .movhi (.ofWord w)
  | 0x4 => .ldk (.ofWord w)
  | 0x5 => .mov (.ofWord w)
  | 0x6 => .sel (.ofWord w)
  | 0x7 => .popc (.ofWord w)
  | 0x8 => .clz (.ofWord w)
  | 0x9 => .brev (.ofWord w)
  | 0xA => .bfeU (.ofWord w)
  | 0xB => .bfeS (.ofWord w)
  | 0xC => .bfi (.ofWord w)
  | 0xD => .lea (.ofWord w)
  | 0xE => .idot4Sb (.ofWord w)
  | 0xF => .idot4Ub (.ofWord w)
  | _ => .reservedOpcode w

/-- Opcodes 0x30 to 0x3F (R161). -/
def decodeRow3 (lo : Nat) (w : Word) : Instr :=
  match lo with
  | 0x0 => .b3ext (.ofWord w)
  | 0x1 => .umov (.ofWord w)
  | 0x2 => .umovi (.ofWord w)
  | 0x3 => .uadd (.ofWord w)
  | 0x4 => .ulea (.ofWord w)
  | _ => .reservedOpcode w

/-- Opcodes 0x40 to 0x4F (R161). -/
def decodeRow4 (lo : Nat) (w : Word) : Instr :=
  match lo with
  | 0x0 => .fadd (.ofWord w)
  | 0x1 => .fsub (.ofWord w)
  | 0x2 => .fmul (.ofWord w)
  | 0x3 => .ffma (.ofWord w)
  | 0x4 => .fmin (.ofWord w)
  | 0x5 => .fmax (.ofWord w)
  | 0x6 => .fabs (.ofWord w)
  | 0x7 => .fneg (.ofWord w)
  | 0x8 => .fdiv (.ofWord w)
  | 0x9 => .fsqrt (.ofWord w)
  | 0xA => .frcp (.ofWord w)
  | 0xB => .frsq (.ofWord w)
  | 0xC => .fex2 (.ofWord w)
  | 0xD => .flg2 (.ofWord w)
  | 0xE => .fsint (.ofWord w)
  | 0xF => .fcost (.ofWord w)
  | _ => .reservedOpcode w

/-- Opcodes 0x50 to 0x5F (R161). -/
def decodeRow5 (lo : Nat) (w : Word) : Instr :=
  match lo with
  | 0x0 => .frnd (.ofWord w)
  | 0x1 => .fldexp (.ofWord w)
  | 0x2 => .fexpo (.ofWord w)
  | 0x3 => .fclass (.ofWord w)
  | 0x4 => .hadd2 (.ofWord w)
  | 0x5 => .hmul2 (.ofWord w)
  | 0x6 => .hfma2 (.ofWord w)
  | 0x7 => .badd2 (.ofWord w)
  | 0x8 => .bmul2 (.ofWord w)
  | 0x9 => .bfma2 (.ofWord w)
  | 0xA => .dadd (.ofWord w)
  | 0xB => .dmul (.ofWord w)
  | 0xC => .dfma (.ofWord w)
  | 0xD => .cvtF32Sw (.ofWord w)
  | 0xE => .cvtF32Uw (.ofWord w)
  | 0xF => .cvtSwF32 (.ofWord w)
  | _ => .reservedOpcode w

/-- Opcodes 0x60 to 0x6F (R161). -/
def decodeRow6 (lo : Nat) (w : Word) : Instr :=
  match lo with
  | 0x0 => .cvtUwF32 (.ofWord w)
  | 0x1 => .cvtF16x2F32 (.ofWord w)
  | 0x2 => .cvtBf16x2F32 (.ofWord w)
  | 0x3 => .cvtF32F16 (.ofWord w)
  | 0x4 => .cvtF32Bf16 (.ofWord w)
  | 0x5 => .cvtE4m3x2F32 (.ofWord w)
  | 0x6 => .cvtE5m2x2F32 (.ofWord w)
  | 0x7 => .cvtF32E4m3 (.ofWord w)
  | 0x8 => .cvtF32E5m2 (.ofWord w)
  | 0x9 => .cvtF64F32 (.ofWord w)
  | 0xA => .cvtF32F64 (.ofWord w)
  | 0xB => .qfp4 (.ofWord w)
  | 0xC => .dqfp4 (.ofWord w)
  | _ => .reservedOpcode w

/-- Opcodes 0x70 to 0x7F (R161). -/
def decodeRow7 (lo : Nat) (w : Word) : Instr :=
  match lo with
  | 0x0 => .icmpEq (.ofWord w)
  | 0x1 => .icmpNe (.ofWord w)
  | 0x2 => .icmpLtS (.ofWord w)
  | 0x3 => .icmpLeS (.ofWord w)
  | 0x4 => .icmpLtU (.ofWord w)
  | 0x5 => .icmpLeU (.ofWord w)
  | 0x6 => .fcmpEq (.ofWord w)
  | 0x7 => .fcmpNe (.ofWord w)
  | 0x8 => .fcmpLt (.ofWord w)
  | 0x9 => .fcmpLe (.ofWord w)
  | 0xA => .fcmpUo (.ofWord w)
  | 0xB => .pand (.ofWord w)
  | 0xC => .por (.ofWord w)
  | 0xD => .pxor (.ofWord w)
  | 0xE => .pnot (.ofWord w)
  | 0xF => .gset (.ofWord w)
  | _ => .reservedOpcode w

/-- Opcodes 0x80 to 0x8F (R161). -/
def decodeRow8 (lo : Nat) (w : Word) : Instr :=
  match lo with
  | 0x0 => .shflIdx (.ofWord w)
  | 0x1 => .shflUp (.ofWord w)
  | 0x2 => .shflDn (.ofWord w)
  | 0x3 => .shflXor (.ofWord w)
  | 0x4 => .voteAll (.ofWord w)
  | 0x5 => .voteAny (.ofWord w)
  | 0x6 => .voteBal (.ofWord w)
  | 0x7 => .matchLanes (.ofWord w)
  | 0x8 => .reduxAdd (.ofWord w)
  | 0x9 => .reduxMinS (.ofWord w)
  | 0xA => .reduxMaxS (.ofWord w)
  | 0xB => .sreg (.ofWord w)
  | 0xC => .p2v (.ofWord w)
  | 0xD => .v2p (.ofWord w)
  | 0xE => .lanemask (.ofWord w)
  | _ => .reservedOpcode w

/-- Opcodes 0x90 to 0x9F (R161). -/
def decodeRow9 (lo : Nat) (w : Word) : Instr :=
  match lo with
  | 0x0 => .bra (.ofWord w)
  | 0x1 => .brx (.ofWord w)
  | 0x2 => .call (.ofWord w)
  | 0x3 => .ret (.ofWord w)
  | 0x4 => .exit (.ofWord w)
  | 0x5 => .yield (.ofWord w)
  | 0x6 => .setpri (.ofWord w)
  | 0x7 => .launch (.ofWord w)
  | 0x8 => .waitch (.ofWord w)
  | 0x9 => .tbarSync (.ofWord w)
  | 0xA => .tbarArv (.ofWord w)
  | 0xB => .trap (.ofWord w)
  | 0xC => .bkpt (.ofWord w)
  | 0xD => .sleep (.ofWord w)
  | _ => .reservedOpcode w

/-- Opcodes 0xA0 to 0xAF (R161). -/
def decodeRowA (lo : Nat) (w : Word) : Instr :=
  match lo with
  | 0x0 => .ldUb (.ofWord w)
  | 0x1 => .ldSb (.ofWord w)
  | 0x2 => .ldUh (.ofWord w)
  | 0x3 => .ldSh (.ofWord w)
  | 0x4 => .ldW (.ofWord w)
  | 0x5 => .ldD (.ofWord w)
  | 0x6 => .ldQ (.ofWord w)
  | 0x7 => .stB (.ofWord w)
  | 0x8 => .stH (.ofWord w)
  | 0x9 => .stW (.ofWord w)
  | 0xA => .stD (.ofWord w)
  | 0xB => .stQ (.ofWord w)
  | 0xC => .ldaW (.ofWord w)
  | 0xD => .ldaD (.ofWord w)
  | 0xE => .stlW (.ofWord w)
  | 0xF => .stlD (.ofWord w)
  | _ => .reservedOpcode w

/-- Opcodes 0xB0 to 0xBF (R161). -/
def decodeRowB (lo : Nat) (w : Word) : Instr :=
  match lo with
  | 0x0 => .ldsW (.ofWord w)
  | 0x1 => .ldsD (.ofWord w)
  | 0x2 => .ldsQ (.ofWord w)
  | 0x3 => .stsW (.ofWord w)
  | 0x4 => .stsD (.ofWord w)
  | 0x5 => .stsQ (.ofWord w)
  | 0x6 => .atomAdd (.ofWord w)
  | 0x7 => .atomAdd64 (.ofWord w)
  | 0x8 => .atomMinS (.ofWord w)
  | 0x9 => .atomMaxS (.ofWord w)
  | 0xA => .atomAnd (.ofWord w)
  | 0xB => .atomOr (.ofWord w)
  | 0xC => .atomXchg (.ofWord w)
  | 0xD => .atomCas (.ofWord w)
  | 0xE => .atomFadd (.ofWord w)
  | 0xF => if w.extractLsb' 7 7 = 0 then .fence (.ofWord w) else .reservedOpcode w
  | _ => .reservedOpcode w

/-- Opcodes 0xC0 to 0xCF (R161). -/
def decodeRowC (lo : Nat) (w : Word) : Instr :=
  match lo with
  | 0x0 => .mmaE2m1 (.ofWord w)
  | 0x1 => .mmaE4m3 (.ofWord w)
  | 0x2 => .mmaE5m2 (.ofWord w)
  | 0x3 => .mmaBf16 (.ofWord w)
  | 0x4 => .mmaF16 (.ofWord w)
  | 0x5 => .mmaI8 (.ofWord w)
  | 0x6 => .accmv (.ofWord w)
  | 0x7 => .accrd (.ofWord w)
  | 0x8 => .accwr (.ofWord w)
  | 0x9 => if w.extractLsb' 20 2 = 0 then .atqk (.ofWord w) else .reservedOpcode w
  | 0xA => if w.extractLsb' 20 2 = 0 then .atsm (.ofWord w) else .reservedOpcode w
  | 0xB => if w.extractLsb' 20 2 = 0 then .atpv (.ofWord w) else .reservedOpcode w
  | 0xC => if w.extractLsb' 20 2 = 0 then .atfn (.ofWord w) else .reservedOpcode w
  | _ => .reservedOpcode w

/-- Opcodes 0xD0 to 0xDF (R161). -/
def decodeRowD (lo : Nat) (w : Word) : Instr :=
  match lo with
  | 0x0 => match (w.extractLsb' 0 3).toNat with
    | 0 => .hbindSpad (.ofWord w)
    | 1 => .hbindRec (.ofWord w)
    | 2 => .hbindOff (.ofWord w)
    | 3 => .hbindSeek (.ofWord w)
    | _ => .reservedOpcode w
  | 0x1 => if w.extractLsb' 2 1 = 0 then .tcopy (.ofWord w) else .reservedOpcode w
  | 0x2 => if w.extractLsb' 2 1 = 0 then .tstore (.ofWord w) else .reservedOpcode w
  | 0x3 => match (w.extractLsb' 0 3).toNat with
    | 0 => .xbarInit (.ofWord w)
    | _ => .reservedOpcode w
  | 0x4 => match (w.extractLsb' 0 3).toNat with
    | 0 => .xbarArv (.ofWord w)
    | 1 => .xbarArvExp (.ofWord w)
    | 2 => .xbarArvAck (.ofWord w)
    | _ => .reservedOpcode w
  | 0x5 => match (w.extractLsb' 0 3).toNat with
    | 0 => if w.extractLsb' 15 6 = 0 then .xbarWait (.ofWord w) else .reservedOpcode w
    | _ => .reservedOpcode w
  | 0x6 => match (w.extractLsb' 0 3).toNat with
    | 0 => if w.extractLsb' 15 6 = 0 then .qdeq (.ofWord w) else .reservedOpcode w
    | 1 => .qdeqTry (.ofWord w)
    | _ => .reservedOpcode w
  | 0x7 => match (w.extractLsb' 0 3).toNat with
    | 0 => .qenq (.ofWord w)
    | 1 => .qenqTry (.ofWord w)
    | _ => .reservedOpcode w
  | 0x8 => match (w.extractLsb' 0 3).toNat with
    | 0 => .treeFork (.ofWord w)
    | 1 => .treePrune (.ofWord w)
    | 2 => .treeCommit (.ofWord w)
    | 3 => .treeAppend (.ofWord w)
    | 4 => .treeAdopt (.ofWord w)
    | 5 => .treeQctx (.ofWord w)
    | 6 => .treeQuery (.ofWord w)
    | _ => .reservedOpcode w
  | 0x9 => match (w.extractLsb' 0 3).toNat with
    | 0 => .kvbindKp (.ofWord w)
    | 1 => .kvbindVp (.ofWord w)
    | 2 => .kvbindKt (.ofWord w)
    | 3 => .kvbindVt (.ofWord w)
    | 4 => .kvbindWk (.ofWord w)
    | 5 => .kvbindWv (.ofWord w)
    | _ => .reservedOpcode w
  | 0xA => match (w.extractLsb' 0 3).toNat with
    | 0 => .sampleSubmit (.ofWord w)
    | 1 => .sampleVerify (.ofWord w)
    | _ => .reservedOpcode w
  | 0xB => match (w.extractLsb' 0 3).toNat with
    | 0 => .collAllred (.ofWord w)
    | 1 => .collAllgath (.ofWord w)
    | 2 => .collRedscat (.ofWord w)
    | 3 => .collHistmrg (.ofWord w)
    | _ => .reservedOpcode w
  | 0xC => match (w.extractLsb' 0 7).toNat with
    | 0 => .csrrd (.ofWord w)
    | 1 => .csrwr (.ofWord w)
    | 2 => .eret (.ofWord w)
    | 3 => .tlbinv (.ofWord w)
    | 4 => .winrd (.ofWord w)
    | 5 => .winwr (.ofWord w)
    | 6 => .ctxsave (.ofWord w)
    | 7 => .ctxload (.ofWord w)
    | 8 => .halt (.ofWord w)
    | _ => .reservedOpcode w
  | _ => .reservedOpcode w

/-- The instruction of a word at an instruction position (R161 to R163). -/
def decodeWord (w : Word) : Instr :=
  let lo := (w.extractLsb' 24 4).toNat
  match (w.extractLsb' 28 4).toNat with
  | 0x0 => decodeRow0 lo w
  | 0x1 => decodeRow1 lo w
  | 0x2 => decodeRow2 lo w
  | 0x3 => decodeRow3 lo w
  | 0x4 => decodeRow4 lo w
  | 0x5 => decodeRow5 lo w
  | 0x6 => decodeRow6 lo w
  | 0x7 => decodeRow7 lo w
  | 0x8 => decodeRow8 lo w
  | 0x9 => decodeRow9 lo w
  | 0xA => decodeRowA lo w
  | 0xB => decodeRowB lo w
  | 0xC => decodeRowC lo w
  | 0xD => decodeRowD lo w
  | _ => .reservedOpcode w

/-- Why bytes are no instruction word. -/
inductive DecodeError
  /-- Fewer than four bytes (R144). -/
  | tooShort (given : Nat)
  deriving DecidableEq, Repr

/-- The instruction of the first word of a stream of bytes, little-endian, and the bytes after it (R3, R144). -/
def decodeBytes : List Byte → Except DecodeError (Instr × List Byte)
  | b0 :: b1 :: b2 :: b3 :: rest => .ok (decodeWord (b3 ++ b2 ++ b1 ++ b0), rest)
  | short => .error (.tooShort short.length)

/-- The decoder on a word given as the opcode table numbers its bits: every row has one 32-bit word. -/
def decodeTableWord (nbits w : Nat) : Option Instr :=
  if nbits ≤ 32 ∧ w < 2 ^ 32 then
    let word := BitVec.ofNat 32 w
    match decodeBytes [word.extractLsb' 0 8, word.extractLsb' 8 8, word.extractLsb' 16 8, word.extractLsb' 24 8] with
    | .ok (i, _) => some i
    | .error _ => none
  else none

/-! The encoder. -/

/-- The word of this format with a primary opcode (R151). -/
def FmtA.toWord (f : FmtA) (op : Byte) : Word :=
  op ++ f.g ++ f.d ++ f.a ++ f.b

/-- The word of this format with a primary opcode (R151). -/
def FmtB.toWord (f : FmtB) (op : Byte) : Word :=
  op ++ f.g ++ f.d ++ f.a ++ f.i

/-- The word of this format with a primary opcode (R151). -/
def FmtC.toWord (f : FmtC) (op : Byte) : Word :=
  op ++ f.g ++ f.d ++ f.i

/-- The word of this format with a primary opcode (R151). -/
def FmtE.toWord (f : FmtE) (op : Byte) : Word :=
  op ++ f.g ++ f.o

/-- The word of this format with a primary opcode (R151). -/
def FmtD.toWord (f : FmtD) (op : Byte) : Word :=
  op ++ f.g ++ f.t ++ f.a ++ f.la ++ f.c ++ f.o

/-- The word of this format with a primary opcode (R151). -/
def FmtDS.toWord (f : FmtDS) (op : Byte) : Word :=
  op ++ f.g ++ f.t ++ f.a ++ f.sw ++ f.off

/-- The word of this format with a primary opcode (R151). -/
def FmtFence.toWord (f : FmtFence) (op : Byte) : Word :=
  op ++ f.g ++ f.d ++ (0 : BitVec 7) ++ f.widen ++ f.kind ++ f.dom

/-- The word of this format with a primary opcode (R151). -/
def FmtF.toWord (f : FmtF) (op : Byte) : Word :=
  op ++ f.z ++ f.r ++ f.f ++ f.a ++ f.h ++ f.t

/-- The word of this format with a primary opcode (R151). -/
def FmtAtt.toWord (f : FmtAtt) (op : Byte) : Word :=
  op ++ f.z ++ f.r ++ (0 : BitVec 2) ++ f.a ++ f.h ++ f.t

/-- The word of this format with a primary opcode (R151). -/
def FmtG.toWord (f : FmtG) (op : Byte) (m : BitVec 3) : Word :=
  op ++ f.g ++ f.c ++ f.la ++ f.h ++ f.a ++ m

/-- The word of this format with a primary opcode (R151). -/
def FmtCopy.toWord (f : FmtCopy) (op : Byte) : Word :=
  op ++ f.g ++ f.c ++ f.la ++ f.h ++ f.a ++ (0 : BitVec 1) ++ f.rel ++ f.acq

/-- The word of this format with a primary opcode (R151). -/
def FmtBlock.toWord (f : FmtBlock) (op : Byte) (m : BitVec 3) : Word :=
  op ++ f.g ++ (0 : BitVec 6) ++ f.h ++ f.a ++ m

/-- The word of this format with a primary opcode (R151). -/
def FmtSys.toWord (f : FmtSys) (op : Byte) (m : BitVec 7) : Word :=
  op ++ f.g ++ f.d ++ f.a ++ m

/-- The word of an instruction; an event has none (R151, R161, R162). -/
def encode (i : Instr) : Option Word :=
  match i with
  | .nop f => some (f.toWord 0x00)
  | .iadd f => some (f.toWord 0x01)
  | .isub f => some (f.toWord 0x02)
  | .iadd64 f => some (f.toWord 0x03)
  | .isub64 f => some (f.toWord 0x04)
  | .imul f => some (f.toWord 0x05)
  | .imulhiS f => some (f.toWord 0x06)
  | .imulhiU f => some (f.toWord 0x07)
  | .imad f => some (f.toWord 0x08)
  | .imadwS f => some (f.toWord 0x09)
  | .imadwU f => some (f.toWord 0x0A)
  | .idivS f => some (f.toWord 0x0B)
  | .idivU f => some (f.toWord 0x0C)
  | .iremS f => some (f.toWord 0x0D)
  | .iremU f => some (f.toWord 0x0E)
  | .iminS f => some (f.toWord 0x0F)
  | .iminU f => some (f.toWord 0x10)
  | .imaxS f => some (f.toWord 0x11)
  | .imaxU f => some (f.toWord 0x12)
  | .iabs f => some (f.toWord 0x13)
  | .ineg f => some (f.toWord 0x14)
  | .and f => some (f.toWord 0x15)
  | .or f => some (f.toWord 0x16)
  | .xor f => some (f.toWord 0x17)
  | .andn f => some (f.toWord 0x18)
  | .not f => some (f.toWord 0x19)
  | .shl f => some (f.toWord 0x1A)
  | .shrU f => some (f.toWord 0x1B)
  | .shrS f => some (f.toWord 0x1C)
  | .rotl f => some (f.toWord 0x1D)
  | .shli f => some (f.toWord 0x1E)
  | .shriU f => some (f.toWord 0x1F)
  | .shriS f => some (f.toWord 0x20)
  | .iaddi f => some (f.toWord 0x21)
  | .movi f => some (f.toWord 0x22)
  | .movhi f => some (f.toWord 0x23)
  | .ldk f => some (f.toWord 0x24)
  | .mov f => some (f.toWord 0x25)
  | .sel f => some (f.toWord 0x26)
  | .popc f => some (f.toWord 0x27)
  | .clz f => some (f.toWord 0x28)
  | .brev f => some (f.toWord 0x29)
  | .bfeU f => some (f.toWord 0x2A)
  | .bfeS f => some (f.toWord 0x2B)
  | .bfi f => some (f.toWord 0x2C)
  | .lea f => some (f.toWord 0x2D)
  | .idot4Sb f => some (f.toWord 0x2E)
  | .idot4Ub f => some (f.toWord 0x2F)
  | .b3ext f => some (f.toWord 0x30)
  | .umov f => some (f.toWord 0x31)
  | .umovi f => some (f.toWord 0x32)
  | .uadd f => some (f.toWord 0x33)
  | .ulea f => some (f.toWord 0x34)
  | .fadd f => some (f.toWord 0x40)
  | .fsub f => some (f.toWord 0x41)
  | .fmul f => some (f.toWord 0x42)
  | .ffma f => some (f.toWord 0x43)
  | .fmin f => some (f.toWord 0x44)
  | .fmax f => some (f.toWord 0x45)
  | .fabs f => some (f.toWord 0x46)
  | .fneg f => some (f.toWord 0x47)
  | .fdiv f => some (f.toWord 0x48)
  | .fsqrt f => some (f.toWord 0x49)
  | .frcp f => some (f.toWord 0x4A)
  | .frsq f => some (f.toWord 0x4B)
  | .fex2 f => some (f.toWord 0x4C)
  | .flg2 f => some (f.toWord 0x4D)
  | .fsint f => some (f.toWord 0x4E)
  | .fcost f => some (f.toWord 0x4F)
  | .frnd f => some (f.toWord 0x50)
  | .fldexp f => some (f.toWord 0x51)
  | .fexpo f => some (f.toWord 0x52)
  | .fclass f => some (f.toWord 0x53)
  | .hadd2 f => some (f.toWord 0x54)
  | .hmul2 f => some (f.toWord 0x55)
  | .hfma2 f => some (f.toWord 0x56)
  | .badd2 f => some (f.toWord 0x57)
  | .bmul2 f => some (f.toWord 0x58)
  | .bfma2 f => some (f.toWord 0x59)
  | .dadd f => some (f.toWord 0x5A)
  | .dmul f => some (f.toWord 0x5B)
  | .dfma f => some (f.toWord 0x5C)
  | .cvtF32Sw f => some (f.toWord 0x5D)
  | .cvtF32Uw f => some (f.toWord 0x5E)
  | .cvtSwF32 f => some (f.toWord 0x5F)
  | .cvtUwF32 f => some (f.toWord 0x60)
  | .cvtF16x2F32 f => some (f.toWord 0x61)
  | .cvtBf16x2F32 f => some (f.toWord 0x62)
  | .cvtF32F16 f => some (f.toWord 0x63)
  | .cvtF32Bf16 f => some (f.toWord 0x64)
  | .cvtE4m3x2F32 f => some (f.toWord 0x65)
  | .cvtE5m2x2F32 f => some (f.toWord 0x66)
  | .cvtF32E4m3 f => some (f.toWord 0x67)
  | .cvtF32E5m2 f => some (f.toWord 0x68)
  | .cvtF64F32 f => some (f.toWord 0x69)
  | .cvtF32F64 f => some (f.toWord 0x6A)
  | .qfp4 f => some (f.toWord 0x6B)
  | .dqfp4 f => some (f.toWord 0x6C)
  | .icmpEq f => some (f.toWord 0x70)
  | .icmpNe f => some (f.toWord 0x71)
  | .icmpLtS f => some (f.toWord 0x72)
  | .icmpLeS f => some (f.toWord 0x73)
  | .icmpLtU f => some (f.toWord 0x74)
  | .icmpLeU f => some (f.toWord 0x75)
  | .fcmpEq f => some (f.toWord 0x76)
  | .fcmpNe f => some (f.toWord 0x77)
  | .fcmpLt f => some (f.toWord 0x78)
  | .fcmpLe f => some (f.toWord 0x79)
  | .fcmpUo f => some (f.toWord 0x7A)
  | .pand f => some (f.toWord 0x7B)
  | .por f => some (f.toWord 0x7C)
  | .pxor f => some (f.toWord 0x7D)
  | .pnot f => some (f.toWord 0x7E)
  | .gset f => some (f.toWord 0x7F)
  | .shflIdx f => some (f.toWord 0x80)
  | .shflUp f => some (f.toWord 0x81)
  | .shflDn f => some (f.toWord 0x82)
  | .shflXor f => some (f.toWord 0x83)
  | .voteAll f => some (f.toWord 0x84)
  | .voteAny f => some (f.toWord 0x85)
  | .voteBal f => some (f.toWord 0x86)
  | .matchLanes f => some (f.toWord 0x87)
  | .reduxAdd f => some (f.toWord 0x88)
  | .reduxMinS f => some (f.toWord 0x89)
  | .reduxMaxS f => some (f.toWord 0x8A)
  | .sreg f => some (f.toWord 0x8B)
  | .p2v f => some (f.toWord 0x8C)
  | .v2p f => some (f.toWord 0x8D)
  | .lanemask f => some (f.toWord 0x8E)
  | .bra f => some (f.toWord 0x90)
  | .brx f => some (f.toWord 0x91)
  | .call f => some (f.toWord 0x92)
  | .ret f => some (f.toWord 0x93)
  | .exit f => some (f.toWord 0x94)
  | .yield f => some (f.toWord 0x95)
  | .setpri f => some (f.toWord 0x96)
  | .launch f => some (f.toWord 0x97)
  | .waitch f => some (f.toWord 0x98)
  | .tbarSync f => some (f.toWord 0x99)
  | .tbarArv f => some (f.toWord 0x9A)
  | .trap f => some (f.toWord 0x9B)
  | .bkpt f => some (f.toWord 0x9C)
  | .sleep f => some (f.toWord 0x9D)
  | .ldUb f => some (f.toWord 0xA0)
  | .ldSb f => some (f.toWord 0xA1)
  | .ldUh f => some (f.toWord 0xA2)
  | .ldSh f => some (f.toWord 0xA3)
  | .ldW f => some (f.toWord 0xA4)
  | .ldD f => some (f.toWord 0xA5)
  | .ldQ f => some (f.toWord 0xA6)
  | .stB f => some (f.toWord 0xA7)
  | .stH f => some (f.toWord 0xA8)
  | .stW f => some (f.toWord 0xA9)
  | .stD f => some (f.toWord 0xAA)
  | .stQ f => some (f.toWord 0xAB)
  | .ldaW f => some (f.toWord 0xAC)
  | .ldaD f => some (f.toWord 0xAD)
  | .stlW f => some (f.toWord 0xAE)
  | .stlD f => some (f.toWord 0xAF)
  | .ldsW f => some (f.toWord 0xB0)
  | .ldsD f => some (f.toWord 0xB1)
  | .ldsQ f => some (f.toWord 0xB2)
  | .stsW f => some (f.toWord 0xB3)
  | .stsD f => some (f.toWord 0xB4)
  | .stsQ f => some (f.toWord 0xB5)
  | .atomAdd f => some (f.toWord 0xB6)
  | .atomAdd64 f => some (f.toWord 0xB7)
  | .atomMinS f => some (f.toWord 0xB8)
  | .atomMaxS f => some (f.toWord 0xB9)
  | .atomAnd f => some (f.toWord 0xBA)
  | .atomOr f => some (f.toWord 0xBB)
  | .atomXchg f => some (f.toWord 0xBC)
  | .atomCas f => some (f.toWord 0xBD)
  | .atomFadd f => some (f.toWord 0xBE)
  | .fence f => some (f.toWord 0xBF)
  | .mmaE2m1 f => some (f.toWord 0xC0)
  | .mmaE4m3 f => some (f.toWord 0xC1)
  | .mmaE5m2 f => some (f.toWord 0xC2)
  | .mmaBf16 f => some (f.toWord 0xC3)
  | .mmaF16 f => some (f.toWord 0xC4)
  | .mmaI8 f => some (f.toWord 0xC5)
  | .accmv f => some (f.toWord 0xC6)
  | .accrd f => some (f.toWord 0xC7)
  | .accwr f => some (f.toWord 0xC8)
  | .atqk f => some (f.toWord 0xC9)
  | .atsm f => some (f.toWord 0xCA)
  | .atpv f => some (f.toWord 0xCB)
  | .atfn f => some (f.toWord 0xCC)
  | .hbindSpad f => some (f.toWord 0xD0 0)
  | .hbindRec f => some (f.toWord 0xD0 1)
  | .hbindOff f => some (f.toWord 0xD0 2)
  | .hbindSeek f => some (f.toWord 0xD0 3)
  | .tcopy f => some (f.toWord 0xD1)
  | .tstore f => some (f.toWord 0xD2)
  | .xbarInit f => some (f.toWord 0xD3 0)
  | .xbarArv f => some (f.toWord 0xD4 0)
  | .xbarArvExp f => some (f.toWord 0xD4 1)
  | .xbarArvAck f => some (f.toWord 0xD4 2)
  | .xbarWait f => some (f.toWord 0xD5 0)
  | .qdeq f => some (f.toWord 0xD6 0)
  | .qdeqTry f => some (f.toWord 0xD6 1)
  | .qenq f => some (f.toWord 0xD7 0)
  | .qenqTry f => some (f.toWord 0xD7 1)
  | .treeFork f => some (f.toWord 0xD8 0)
  | .treePrune f => some (f.toWord 0xD8 1)
  | .treeCommit f => some (f.toWord 0xD8 2)
  | .treeAppend f => some (f.toWord 0xD8 3)
  | .treeAdopt f => some (f.toWord 0xD8 4)
  | .treeQctx f => some (f.toWord 0xD8 5)
  | .treeQuery f => some (f.toWord 0xD8 6)
  | .kvbindKp f => some (f.toWord 0xD9 0)
  | .kvbindVp f => some (f.toWord 0xD9 1)
  | .kvbindKt f => some (f.toWord 0xD9 2)
  | .kvbindVt f => some (f.toWord 0xD9 3)
  | .kvbindWk f => some (f.toWord 0xD9 4)
  | .kvbindWv f => some (f.toWord 0xD9 5)
  | .sampleSubmit f => some (f.toWord 0xDA 0)
  | .sampleVerify f => some (f.toWord 0xDA 1)
  | .collAllred f => some (f.toWord 0xDB 0)
  | .collAllgath f => some (f.toWord 0xDB 1)
  | .collRedscat f => some (f.toWord 0xDB 2)
  | .collHistmrg f => some (f.toWord 0xDB 3)
  | .csrrd f => some (f.toWord 0xDC 0)
  | .csrwr f => some (f.toWord 0xDC 1)
  | .eret f => some (f.toWord 0xDC 2)
  | .tlbinv f => some (f.toWord 0xDC 3)
  | .winrd f => some (f.toWord 0xDC 4)
  | .winwr f => some (f.toWord 0xDC 5)
  | .ctxsave f => some (f.toWord 0xDC 6)
  | .ctxload f => some (f.toWord 0xDC 7)
  | .halt f => some (f.toWord 0xDC 8)
  | .reservedOpcode w => some w
  | .turnGrant | .turnTimeLimit | .turnInstructionLimit | .sleepExpiry | .recordDelivery | .chargeWrite
  | .pageWalk | .walkAheadTranslation | .operandFetchCopy | .homeRenewal | .homeWrite | .memoryReply
  | .remoteL2Renewal | .l2Eviction | .ltTick | .rebase | .rebaseSignal | .pinRetry | .domainViolation
  | .fabricRead | .fabricWrite | .ownerForward | .ownerWriteback | .hostAccess | .hostSnoop | .launchTrigger
  | .launchRecordParse | .holdBufferRelease | .dispatchDecision | .teamResident | .groupPlaceRelease
  | .teamLeave | .gridRetire | .preemptVictimChoice | .preemptSave | .preemptAbandon | .teamRestore
  | .batchFormerStep | .batchFormerIdleTimer | .boardPass | .matrixOpComplete | .guardResolve
  | .tcopySectorWrite | .tstoreSectorRead | .bindingEnd | .groupCancel | .cancelledCommandStop | .collTimeout
  | .collInstanceRelease | .migrationGo | .migrationRound | .migrationFreeze | .qsyncWrite | .rdcollGo
  | .rdcollDone | .kvpoolWrite | .frsizeWrite | .frlostClear | .mclostClear | .specdropClear
  | .nopagecntClear | .mptbaseWrite | .schedctlWrite | .csrWrite | .ownerWrite | .controlRegisterWrite
  | .deniedClear | .lrefuseClear | .errorCounterClear | .versionSelect | .coreReset | .uncoreReset
  | .uncoreResetComplete | .dieLost | .packagePowerOnReset | .loadimage | .attest | .getpub | .raisemin
  | .imageinfo | .attestctx | .mailboxComplete | .thermalThrottle | .thermalRelease | .thermalShutdown
  | .structureFailed | .quadSubstitution | .pchanCopyComplete | .hostLinkUp | .linkTraining | .flitReceive
  | .flitReplay | .linkLaneFailure | .deviceDeadDeclared | .lineReclaim | .utilisationWindow
  | .engineCommandStart | .tcountTick | .l2PrefetchTranslation | .fabricRouteReprogram => none

end Sys2Proof
end

