-- ==== Sys2Proof/Machine/Turns.lean ====
section
/-! DEFINITION. Which word a port issues next, and the turns of a partition: readiness, arbitration, turn limits, sleep and
the tick (R22, R39 to R47, R207). -/

namespace Sys2Proof.Machine

/-! ### What stands at an issue address -/

/-- A header's wait is met: every counter that wmask selects is at most wthr (R159). -/
def Group.waitMet (g : Group) (h : Word) : Bool :=
  let thr := bits h.toNat 15 3
  (!h.getLsbD 18 || g.c1 ≤ thr) && (!h.getLsbD 19 || g.c2 ≤ thr) && (!h.getLsbD 20 || g.c3 ≤ thr)

/-- The instruction of a word read little-endian from the code segment. -/
def wordInstr (w : Word) : Instr :=
  match decodeBytes [w.extractLsb' 0 8, w.extractLsb' 8 8, w.extractLsb' 16 8, w.extractLsb' 24 8] with
  | .ok (i, _) => i
  | .error _ => .reservedOpcode w

/-- The counter that a word of format D or G raises (R158), 0 when it raises none. -/
def countsOn (w : Word) : Nat :=
  let op := w.toNat / 2 ^ 24
  if 0xA0 ≤ op && op ≤ 0xBE && !(0xB0 ≤ op && op ≤ 0xB5) then bits w.toNat 1 2
  else if 0xD0 ≤ op && op ≤ 0xDB then bits w.toNat 19 2 else 0

/-- What stands at a lane's PC: nothing that can issue, a header that the fetch unit must check first, a block that it must fetch
(R39, R418), or a word of a clause whose wait is met. -/
inductive Pick
  | idle
  | arrive (k : Nat) (u : Unseen)
  | fetch (k off : Nat)
  | word (s : State) (u : Issue)

/-- The word of group `k` at `pc` for lanes `m`. -/
def pickAt (s : State) (k : Nat) (g : Group) (pc m : Word) (second : Bool) : Pick :=
  if g.stopped pc || m = 0 then .idle
  else match g.unseen.find? fun u => u.lanes &&& m ≠ 0 with
  | some u => if second then .idle else .arrive k u
  | none => match clauseAt (codeReader s k) pc.toNat with
    | none =>
      if second then .idle
      else if (codeReader s k (pc.toNat / 4 * 4)).isNone then .fetch k pc.toNat
      else .arrive k ⟨pc.toNat, m⟩
    | some (h, w) =>
      if pc.toNat = h + 4 && !g.waitMet w then .idle
      else match fetchCode s k pc.toNat with
        | (_, .error _) => .idle
        | (s1, .ok x) => .word s1 ⟨k, pc, m, x, second, h, w, none, false⟩

/-- The primary port: the group that holds the turn at its minimum PC, while the turn's limits allow (R40, R44). The
lanes at its second-lowest PC are noted for the second port (R41). -/
def primaryPick (s : State) (c p : Nat) : Pick :=
  match (s.part (partKey c p)).turn with
  | none => .idle
  | some t =>
    let k := mkKey c p t.place
    match s.group? k with
    | none => .idle
    | some g =>
      if 24 ≤ t.issues || t.start + 256 ≤ s.cycles (dieOfCore c) then .idle
      else match g.minPc with
        | none => .idle
        | some pc =>
          match pickAt s k g pc (g.lanesAt pc) false with
          | .word s1 u =>
            let z := g.secondPc.map fun q => (⟨k, q, g.lanesAt q, u.word⟩ : Second)
            .word (s1.onPart (partKey c p) fun q => { q with second := z }) u
          | r => r

/-- Opcodes that the second port issues (R41). -/
def secondClass (op : Nat) : Bool := op ≤ 0x8E || (0x90 ≤ op && op ≤ 0x94)

/-- A word reads or writes a register, predicate or guard slot that the primary word of its cycle writes (R41). -/
def conflicts (g : Group) (one two : Word) : Bool :=
  let i := wordInstr one
  let j := wordInstr two
  let slot := bits two.toNat 21 3
  let behind := match Tab.find g.guards slot with
    | some q => [q.pred]
    | none => []
  let set := if one.toNat / 2 ^ 24 = 0x7F then bits one.toNat 14 7 else 0
  (written i).any (fun r => (touched j).contains r) ||
    (predsWritten i).any (fun p => (predsNamed j ++ behind).contains p) ||
    (set ≠ 0 && (slot = set || (two.toNat / 2 ^ 24 = 0x7F && bits two.toNat 14 7 = set)))

/-- The second port (R41): its lanes are those noted as the cycle started. -/
def secondaryPick (s : State) (c p : Nat) : Pick :=
  match (s.part (partKey c p)).second with
  | none => .idle
  | some z =>
    match s.group? z.grp with
    | none => .idle
    | some g =>
      match pickAt (s.onPart (partKey c p) fun q => { q with second := none }) z.grp g z.pc (z.lanes &&& g.lanesAt z.pc) true with
      | .word s1 u =>
        if secondClass (u.word.toNat / 2 ^ 24) && !conflicts g z.word u.word then .word s1 u else .idle
      | r => r

/-- A record can be delivered to a management core: one waits, and the management space has its tables (R393). -/
def State.canDeliver (s : State) (n : Nat) : Bool :=
  let m := s.manager n
  s.csr.mptbase ≠ 0 && !(s.die (n / 8)).resetting && (m.again.isSome || m.queue ≠ [])

/-- A privileged group is halted, or about to receive a record: it does nothing (R393). -/
def State.manageHeld (s : State) (n : Nat) : Bool := (s.manager n).halted || ((s.manager n).open_ && s.canDeliver n)

/-- The privileged group of a management core, while it is not halted nor about to receive a record (R393). -/
def managePick (s : State) (n : Nat) : Pick :=
  match s.group? (privKey n) with
  | none => .idle
  | some g =>
    if s.manageHeld n then .idle
    else match g.minPc with
      | none => .idle
      | some pc =>
        match pickAt s (privKey n) g pc (g.lanesAt pc) false with
        | .word s1 u => .word (s1.onManager n fun m => { m with open_ := false }) u
        | r => r

/-- The header that lanes stand at or wait behind is checked by the fetch unit (R39, R147). -/
def State.arrival (s : State) (k : Nat) (u : Unseen) : State := (s.checkUnseen k u).exitCheck k

/-- A header before the issue address of a group is checked, and the block there fetched, without a turn of the group; not for a
management core that is halted (R38, R39, R393). -/
def fetchPick (s : State) (k : Nat) : Pick :=
  match s.group? k with
  | none => .idle
  | some g =>
    if 0x20000 ≤ k && s.manageHeld (k - 0x20000) then .idle
    else match g.minPc with
    | none => .idle
    | some pc =>
      match pickAt s k g pc (g.lanesAt pc) false with
      | .word _ _ => .idle
      | r => r

/-! ### Readiness and arbitration (R44 to R47) -/

/-- The ready groups of a partition, with keys, by place, as the arbiter has last seen them (R45): `step` looks before each event
that asks. A group of a team chosen for pre-emption is granted no turn (R352). -/
def State.readyGroups (s : State) (c p : Nat) : List (Nat × Group) :=
  s.groups.filter fun x =>
    !x.2.privileged && keyCore x.1 = c && keyPart x.1 = p && !((s.team? x.2.team).any fun t => t.preempt.isSome) &&
      x.2.ready

/-- The first entry of a list that is best by a measure; earlier entries win ties. -/
def bestBy (f : Nat × Group → Nat) : List (Nat × Group) → Option (Nat × Group)
  | [] => none
  | x :: t =>
    match bestBy f t with
    | none => some x
    | some y => if f x < f y then some y else some x

/-- The winner among ready groups listed by place: starving groups first, by wait; else by aged priority, then wait
(R47). -/
def turnWinner (gs : List (Nat × Group)) : Option (Nat × Group) :=
  let starving := gs.filter fun x => 1792 ≤ x.2.wait
  if starving ≠ [] then bestBy (fun x => x.2.wait) starving
  else bestBy (fun x => min 7 (x.2.pri + x.2.wait / 512) * 2 ^ 64 + x.2.wait) gs

/-- The group to which a partition that has stood without a turn for `d` cycles grants the next: the winner of the arbitration at
the turn's end, among the groups that were ready then and with the waits they had; when none was, the first to become ready,
by place among those of one cycle (R47). -/
def nextTurn (d : Nat) (gs : List (Nat × Group)) : Option (Nat × Group) :=
  let then_ := (gs.filter fun x => d ≤ x.2.wait).map fun x => (x.1, { x.2 with wait := x.2.wait - d })
  if then_ ≠ [] then turnWinner then_ else bestBy (fun x => x.2.wait) gs

/-- TURN_GRANT (R47): a partition without a turn grants the next. -/
def execTurnGrant (s : State) : Host.Outcome State Fault Refusal :=
  onEvent s fun
    | .turnGrant c p =>
      let now := s.cycles (dieOfCore c)
      let q := s.part (partKey c p)
      if q.turn.isSome then none
      else match nextTurn (now - q.freed) (s.readyGroups c p) with
        | none => none
        | some (k, _) =>
          some ((s.onPart (partKey c p) fun q => { q with turn := some ⟨keyPlace k, 0, now⟩, second := none }).onGroup k fun g =>
            { g with wait := 0 })
    | _ => none

/-- The turn of a partition ends when a condition on it holds; its group resumes at its current PCs later (R44). -/
def endTurnIf (s : State) (c p : Nat) (f : Turn → Bool) : Option State :=
  match (s.part (partKey c p)).turn with
  | none => none
  | some t => if f t then some (s.endTurn (mkKey c p t.place)) else none

/-- TURN_TIME_LIMIT: 256 cycles (R44). -/
def execTurnTimeLimit (s : State) : Host.Outcome State Fault Refusal :=
  onEvent s fun
    | .turnTimeLimit c p => endTurnIf s c p fun t => t.start + 256 ≤ s.cycles (dieOfCore c)
    | _ => none

/-- TURN_INSTRUCTION_LIMIT: 24 primary issues (R44). -/
def execTurnInstructionLimit (s : State) : Host.Outcome State Fault Refusal :=
  onEvent s fun
    | .turnInstructionLimit c p => endTurnIf s c p fun t => 24 ≤ t.issues
    | _ => none

/-- SLEEP_EXPIRY: the sleep time has passed and the group may be ready again (R207). -/
def execSleepExpiry (s : State) : Host.Outcome State Fault Refusal :=
  onEvent s fun
    | .sleepExpiry k =>
      match s.group? k with
      | none => none
      | some g =>
        match g.block with
        | .sleep t =>
          if t ≤ s.cycles (dieOfCore (keyCore k)) then some (s.onGroup k fun g => { g with block := .none }) else none
        | _ => none
    | _ => none

/-! ### The tick (R22) -/

/-- Wait counts after a tick: a ready group without the turn waits the cycles of the tick (R47). -/
def State.ageGroups (s old : State) : State :=
  let age (x : Nat × Group) : Nat × Group :=
    if x.2.privileged then x
    else
      let d := dieOfCore (keyCore x.1)
      let holds := ((old.part (partOf x.1)).turn.map (·.place)) = some (keyPlace x.1)
      let n := if holds then x.2.wait else if x.2.ready then x.2.wait + (s.cycles d - old.cycles d) else 0
      (x.1, { x.2 with wait := n })
  { s with groups := s.groups.map age }

/-- Bytes of 64 TB/s in 1,024 ticks (R363). -/
def windowBytes : Nat := 65536000

/-- The windows that have ended are taken into account, the last of them with `n` bytes (R363). -/
def Die.closeWindow (x : Die) (n : Nat) : Die := { x with band := min 7 (8 * n / windowBytes), windows := x.tcount.toNat / 1024 }

/-- A tick of a die: its counter advances (R22), and a window that has ended without a measurement has carried a free number of bytes
(R363; log 122). -/
def State.tickDie (s : State) (d : Nat) : Die :=
  let x := s.die d
  let y := if x.tcount.toNat / 1024 ≤ x.windows then x else x.closeWindow (Config.freeTraffic s.freeCtr d)
  { y with tcount := x.tcount + 1 }

/-- TCOUNT_TICK: the counter of each die advances by one (R22), no second port carries a chance into the next cycle
(R41), and charges that are held are tried again (R113). -/
def State.tick (s : State) : State :=
  (({ s with
    die0 := s.tickDie 0
    die1 := s.tickDie 1
    parts := s.parts.map fun (x : Nat × Part) => (x.1, { x.2 with second := none }) }).ageGroups s).retryCharges

/-- TCOUNT_TICK (R22). -/
def execTcountTick (s : State) : Host.Outcome State Fault Refusal :=
  onEvent s fun
    | .tcountTick => some s.tick
    | _ => none

end Sys2Proof.Machine
end

