-- ==== Sys2Proof/Machine/Walks.lean ====
section
/-! DEFINITION. Walks that are not part of an access of the model's own: a walk by the memory-management unit for a core, and
the speculative translations of the tile engine and of the L2 prefetchers (R84, R85, R419). -/

namespace Sys2Proof.Machine

/-- The word that the port of a group would issue now: the primary port of its partition, or its management core (R40, R393). -/
def State.nextPick (s : State) (k : Nat) : Pick :=
  if 0x20000 ≤ k then managePick s (k - 0x20000) else primaryPick s (keyCore k) (keyPart k)

/-- The word that a group's port would issue now makes an access of a kind to a page: it issues, its lanes leave it, and it is an LDK
of that page or posts an access to it (R45, R64, R181, R215, R221). -/
def State.wordWants (s : State) (k : Nat) (acc : AccessKind) (page : Nat) : Bool :=
  match s.nextPick k with
  | .word s1 u =>
    let op := wordOp u.word
    let s2 := { s1 with cur := u }
    let out :=
      if op = 0x24 then execLdk (FmtC.ofWord u.word) s2
      else if 0xA0 ≤ op && op ≤ 0xBE && !(0xB0 ≤ op && op ≤ 0xB5) then
        memIssue (wordInstr u.word) op (FmtD.ofWord u.word) s2
      else .refused .noIssuingGroup
    match out with
    | .next t =>
      let reads := op = 0x24 && acc = .ldk && s.codeVa (s.spaceOf k) (u.pc + 4 * (u.word.extractLsb' 0 14).signExtend 32).toNat / 4096 = page
      let posts := t.accesses.any fun x => s.idCtr ≤ x.1 && x.2.kind = acc && x.2.va / 4096 = page
      u.grp = k && !t.cur.held && (t.group? k).all (fun g => u.active &&& g.lanesAt u.pc = 0) &&
        ((reads && (s.group? k).any fun g => u.active &&& g.guardMask (bits u.word.toNat 21 3) ≠ 0) || posts)
    | _ => false
  | _ => false

/-- A block that the lanes at a group's issue address need, or the header before them, lies in a page (R39, R418). -/
def State.fetchWants (s : State) (k : Nat) (g : Group) (page : Nat) : Bool :=
  match g.minPc with
  | none => false
  | some pc =>
    !g.stopped pc && (lanesOf (g.lanesAt pc)).any fun l => (g.needs pc l).any fun b => s.codeVa (s.spaceOf k) b / 4096 = page

/-- A lane held in the operand log of a group is about to access a page in its replay: neither dropped nor supplied nor already under
way (R415, R417). -/
def State.replayWants (s : State) (k : Nat) (acc : AccessKind) (page : Nat) : Bool :=
  (s.logOf k).any fun e => e.2.replaying && memKind (wordOp e.2.word) = acc && e.2.lanes.any fun l =>
    let word (n : Nat) := ((l.2[n]?).getD 0).toNat
    word 6 % 2 = 1 && !(word 6 / 4 % 2 = 1 && (acc = .load || acc = .ldk)) && !s.inFlight e.2.op l.1 &&
      (word 4 + 2 ^ 32 * word 5) / 4096 = page

/-- A resident group of a core asks for the walk of a page: for a block that a lane needs, for the word that it issues next, or for a
lane held in its operand log (R84, R417, R418). -/
def State.wantsPage (s : State) (c x : Nat) (acc : AccessKind) (page : Nat) : Bool :=
  s.groups.any fun y =>
    keyCore y.1 = c && !y.2.exited && s.spaceOf y.1 = x &&
      (if acc = .fetch then s.fetchWants y.1 y.2 page else s.wordWants y.1 acc page || s.replayWants y.1 acc page)

/-- PAGE_WALK: a walk that a resident group's access asks for fills the core's and the quad's TLB and sets A, and D for a
write; a walk that meets a fault leaves the access to raise it (R64, R66, R84, R412). -/
def execPageWalk (s : State) : Host.Outcome State Fault Refusal :=
  onEvent s fun
    | .pageWalk c x va acc =>
      if !canonical va || !s.wantsPage c x acc (va / 4096) || s.frozenAt (s.asidOf x) va then none
      else match walk s (dieOfCore c) x va acc false (some c) with
        | (s1, .ok e) =>
          let s2 := s1.onCore c fun q => { q with tlb := tlbFill q.tlb 128 e }
          some (if c < 2048 then s2.onQuad (quadOfCore c) fun q => { q with tlb := tlbFill q.tlb 4096 e } else s2)
        | _ => none
    | _ => none

/-! ### Walk-ahead (R85, R419) -/

/-- The pages of a canonical tile of a record's block, in the order in which it is copied; a page may stand more than once. -/
def tilePages (sh e1 t : Nat) (b : Blk) (u v : Nat) : List Nat :=
  ((List.range (tileSize t)).flatMap fun i => (tileCells t i).flatMap fun c => (cellAddrs sh e1 t b u v c).map (· / 4096))

/-- Canonical tiles of a block of a record's handle, and those along dimension 1 (R83, R262). -/
def Handle.blockTiles : Handle → Nat × Nat
  | .record sh _ t _ _ _ => (ceilDiv (shTile sh 0) (typeK t) * ceilDiv (shTile sh 1) 32, ceilDiv (shTile sh 1) 32)
  | _ => (0, 1)

/-- The pages of canonical tile `n` of the block at a record handle's cursor. -/
def Handle.pagesOf (h : Handle) (n : Nat) : List Nat :=
  match h with
  | .record sh _ t o e1 cur => tilePages sh e1 t (shBlk sh o e1 cur) (n / h.blockTiles.2) (n % h.blockTiles.2)
  | _ => []

/-- Two handles are bound to one record (R259). -/
def Handle.sameRecord : Handle → Handle → Bool
  | .record _ a _ _ _ _, .record _ b _ _ _ _ => a = b
  | _, _ => false

/-- The tiles that a team's handle has issued and that are not copied yet, by the number of the copy or posted operation: with each
tile the handle as it was captured (R260, R261, R263). -/
def State.issuedTiles (s : State) (tid h : Nat) (now : Handle) : List (Handle × Nat) :=
  let copies := (s.cmds.filter fun x => x.2.team = tid && x.2.h = h && (x.2.op = 0xD1 || x.2.op = 0xD2)).map fun x =>
    (x.1, (List.range (s.job x.2).tiles).filterMap fun n =>
      if x.2.tileMoved (s.job x.2).sectors n then none else some (x.2.handle, n))
  let entries := (s.teams.filter fun x => x.1 = tid).flatMap fun x =>
    ((s.quad (quadOfCore x.2.core)).board.filter fun e => e.2.team = tid).map fun e =>
      (e.1, (e.2.b.zip e.2.src).filterMap fun b => if b.1.isNone && b.2.sameRecord now then some (b.2, 0) else none)
  ((copies ++ entries).foldl (fun (acc : Tab (List (Handle × Nat))) x => Tab.put acc x.1 x.2) []).flatMap (·.2)

/-- The pages of the tiles that a team's handle comes to, in the order in which they will be copied: of the tile whose copy is in
progress, or comes first, and at most 64 tiles ahead of it (R85). -/
def State.aheadPages (s : State) (tid h : Nat) (now : Handle) : List Nat :=
  let issued := (s.issuedTiles tid h now).eraseDups
  let n := now.blockTiles.1
  let next := if n = 0 then [] else (List.range 64).map fun i => (s.atCursor now (· + i / n), i % n)
  ((issued ++ next).take (if issued = [] then 64 else 65)).flatMap fun x => x.1.pagesOf x.2

/-- A speculative translation that does not fault (R85, R419). -/
def speculate (s : State) (d x va : Nat) (acc : AccessKind) : Option TlbEntry :=
  match (if canonical va then walk s d x va acc true none else (s, .fault 0x0204 0)).2 with
  | .ok e => some e
  | _ => none

/-- The tile engine of a quad comes to a page next: a team of the context has a handle whose tiles reach it, and every page before it
has been translated or dropped (R85). -/
def State.walksNext (s : State) (q x : Nat) (acc : AccessKind) (page : Nat) : Bool :=
  s.teams.any fun t =>
    quadOfCore t.2.core = q && ((s.grid? t.2.grid).any fun g => g.ctx = x) &&
      t.2.handles.any fun h =>
        let ps := s.aheadPages t.1 h.1 h.2
        ps.contains page && (ps.takeWhile (· ≠ page)).all fun p =>
          (tlbFind (s.quad q).ahead (s.asidOf x) (p * 4096)).isSome || (speculate s (q / 256) x (p * 4096) acc).isNone

/-- WALK_AHEAD_TRANSLATION: fills the walk-ahead TLB and sets no A bit; one that would fault is counted (R85, R419). -/
def execWalkAheadTranslation (s : State) : Host.Outcome State Fault Refusal :=
  onEvent s fun
    | .walkAheadTranslation q x va acc =>
      if !s.walksNext q x acc (va / 4096) || s.frozenAt (s.asidOf x) va then none
      else match speculate s (q / 256) x va acc with
        | some e => some (s.onQuad q fun u => { u with ahead := tlbFill u.ahead 512 e })
        | none => some (s.countDrop (q / 256))
    | _ => none

/-- L2_PREFETCH_TRANSLATION: fills no TLB; one that would fault is counted (R419). -/
def execL2PrefetchTranslation (s : State) : Host.Outcome State Fault Refusal :=
  onEvent s fun
    | .l2PrefetchTranslation d x va =>
      if s.frozenAt (s.asidOf x) va then none
      else some (if (speculate s d x va .load).isSome then s else s.countDrop d)
    | _ => none

end Sys2Proof.Machine
end

