-- ==== Sys2Proof/Machine/Board.lean ====
section
/-! DEFINITION. The counting board at work: grants, the operand fetcher, and what each entry does when it completes
(R138, R139, R142, R143, R232, R236 to R250, R261, R422). -/

namespace Sys2Proof.Machine

/-! ### Values -/

/-- Element (i, j) of a tile of a team (R78); a window starts at +0.0 (R77). -/
def Team.tile (t : Team) (n i j : Nat) : Word := Tab.get t.acc (n * 512 + i * 32 + j) 0

/-- Write elements of a tile. -/
def Team.setTile (t : Team) (n : Nat) (rows cols : List Nat) (f : Nat → Nat → Word) : Team :=
  { t with acc := rows.foldl (fun a i => cols.foldl (fun a j => Tab.put a (n * 512 + i * 32 + j) (f i j)) a) t.acc }

/-- Bits `lo` to `lo + len − 1` of word `w` of lane `i % 8` of an A block, for row i (R136). -/
def ablockBits (a : List Word) (i w lo len : Nat) : Nat := bits ((a[20 * (i % 8) + w]?).getD 0).toNat lo len

/-- Code of A(i, k): row i in lane i % 8, words 0 to 7 or 8 to 15 (R136). -/
def aCode (t : Nat) (a : List Word) (i k : Nat) : Nat :=
  let r := 8 * (i / 8)
  if t = 1 then ablockBits a i (r + k / 8) (4 * (k % 8)) 4
  else if elemBytes t = 2 then ablockBits a i (r + k / 2) (16 * (k % 2)) 16
  else ablockBits a i (r + k / 4) (8 * (k % 4)) 8

/-- E4M3 and E5M2 factors with exponent field 0 are read as +0 under NBV = 1 (R142). -/
def flushed (nbv t c : Nat) : Bool :=
  nbv = 1 && ((t = 2 && bits c 3 4 = 0 && bits c 0 3 ≠ 0) || (t = 3 && bits c 2 5 = 0 && bits c 0 2 ≠ 0))

/-- Value of a factor under a numeric-behaviour version. -/
def factor (nbv t c : Nat) : Ext := if flushed nbv t c then .fin false 0 0 else elemValue t c

/-- A(i, k), with its block scale for E2M1 (R127, R136). -/
def aValue (nbv t : Nat) (a : List Word) (i k : Nat) : Ext :=
  let v := factor nbv t (aCode t a i k)
  if t = 1 then v.mul (decodeE3M5 (ablockBits a i (16 + i / 8 * 2 + k / 32) (8 * (k / 8 % 4)) 8)) else v

/-- Byte of a canonical tile. -/
def byteAt (b : List Byte) (i : Nat) : Nat := ((b[i]?).getD 0).toNat

/-- B(k, n) of a canonical tile, with its block and band scales for E2M1 (R127, R135). -/
def bValue (nbv t : Nat) (b : List Byte) (k n : Nat) : Ext :=
  if t = 1 then
    let e := elemValue 1 (bits (byteAt b (16 * k + n / 2)) (4 * (n % 2)) 4)
    let s := decodeE3M5 (byteAt b (1024 + 32 * (k / 8) + n))
    let band := bf16.decode (byteAt b (1280 + 2 * n) + 256 * byteAt b (1281 + 2 * n))
    (e.mul s).mul band
  else if elemBytes t = 2 then factor nbv t (byteAt b (64 * k + 2 * n) + 256 * byteAt b (64 * k + 2 * n + 1))
  else factor nbv t (byteAt b (32 * k + n))

/-- Group size G (R138, R142). -/
def groupSize (nbv t : Nat) : Nat := if nbv = 1 || t = 1 then 8 else 16

/-- round_group: to nearest even, or toward zero under NBV = 1 (R142). -/
def roundGroup (nbv : Nat) (x : Ext) : Ext := fp32.decode (if nbv = 1 then fp32.encodeZ x else fp32.encode x)

/-- The summation of R138 over `K` products, from an accumulator word. -/
def matrixSum (nbv t K : Nat) (acc : Word) (prod : Nat → Ext) : Word :=
  let G := groupSize nbv t
  (List.range (K / G)).foldl (fun acc g =>
    let s := (List.range G).foldl (fun (x : Ext) i => x.add (prod (g * G + i))) (.fin false 0 0)
    fpWord ((fp acc).add (roundGroup nbv s))) acc

/-- Rows of a mask of sixteen. -/
def rowsOf (m : Nat) : List Nat := (List.range 16).filter fun i => bits m i 1 = 1

/-- The canonical tile of a half of an entry. -/
def Entry.tileOf (e : Entry) (half : Nat) : List Byte := ((e.b[half]?).getD none).getD []

/-! ### What an entry computes (R229, R232, R243 to R249) -/

/-- A small operation of MMA or ATQK on its tile; a masked score becomes −∞ (R138, R232, R246). -/
def Team.smallOp (t : Team) (e : Entry) : Team :=
  let n := e.writes.headD 0
  let K := typeK e.type
  t.setTile n (rowsOf e.rows) (List.range e.cols) fun i j =>
    if bits ((e.masked[i]?).getD 0) j 1 = 1 then 0xFF800000
    else matrixSum e.nbv e.type K (if e.z then 0 else t.tile n i j) fun k =>
      (aValue e.nbv e.type e.a i k).mul (bValue e.nbv e.type (e.tileOf 0) k j)

/-- The larger of two values that are not NaN. R122 orders −0 and +0 for FMIN and FMAX only: the sign of the larger is free here
(log 112). -/
def Ext.maxv (x y : Ext) : Ext :=
  match x, y with
  | .fin a 0 e, .fin b 0 k => if a = b then x else .fin (Config.freeZeroSign a) 0 (min e k)
  | x, y => if x.lt y then y else x

/-- P5 value of 2 raised to an exact value (R131, R247). -/
def p5Pow (x : Ext) : Ext :=
  match x with
  | .inf true => .fin false 0 0
  | x => decodeP5 (encodeP5 x.exp2)

/-- New elements of row i of ATSM: the 32 scores, and m, l, c (R247). -/
def softmaxRow (sigma : Word) (z : Bool) (S : Nat → Word) (m0 l0 : Word) : (Nat → Word) × Word × Word × Word :=
  let nan : Word := BitVec.ofNat 32 fp32.nanCode
  let m := if z then .inf true else fp m0
  let l := if z then .fin false 0 0 else fp l0
  let sg := fp sigma
  let t (j : Nat) : Ext := if fp (S j) = .inf true then .inf true else fp (fpWord (sg.mul (fp (S j))))
  let sgOk := match sg with
    | .fin false k _ => k ≠ 0
    | _ => false
  if !sgOk || m = .nan || l = .nan || (List.range 32).any (fun j => t j = .nan) then (fun _ => nan, nan, nan, nan)
  else
    let mn := (List.range 32).foldl (fun x j => x.maxv (t j)) m
    let c : Ext :=
      if mn = .inf true then .fin false 1 0
      else if mn = .inf false then (if m = .inf false then .fin false 1 0 else .fin false 0 0)
      else match m with
        | .inf true => .fin false 0 0
        | m => fp (fpWord (m.add mn.neg).exp2)
    let p (j : Nat) : Ext :=
      if mn = .inf true then .fin false 0 0
      else if mn = .inf false then (if t j = .inf false then .fin false 1 0 else .fin false 0 0)
      else match t j with
        | .inf true => .fin false 0 0
        | x => p5Pow (x.add mn.neg)
    let sum := (List.range 32).foldl (fun (x : Ext) j => x.add (p j)) (.fin false 0 0)
    (fun j => fpWord (p j), fpWord mn, fpWord ((c.mul l).add sum), fpWord c)

/-- ATSM of a quarter: score tile and row-state tile (R247). -/
def Team.softmax (t : Team) (e : Entry) : Team :=
  let sT := e.writes.headD 0
  (rowsOf e.rows).foldl (fun t i =>
    let r := softmaxRow e.sigma e.z (fun j => t.tile sT i j) (t.tile (sT + 1) i 0) (t.tile (sT + 1) i 1)
    let t1 := t.setTile sT [i] (List.range 32) fun _ j => r.1 j
    t1.setTile (sT + 1) [i] [0, 1, 2] fun _ j => if j = 0 then r.2.1 else if j = 1 then r.2.2.1 else r.2.2.2) t

/-- a5: the P5 value of a probability; NaN stays, a negative value is 0 (R248). -/
def a5 (x : Ext) : Ext :=
  match x with
  | .nan => .nan
  | .inf neg => if neg then .fin false 0 0 else decodeP5 0x83
  | .fin true _ _ => .fin false 0 0
  | x => decodeP5 (encodeP5 x)

/-- ATPV of a quarter (R248). -/
def Team.weighted (t : Team) (e : Entry) : Team :=
  let o := e.writes.headD 0
  let pT := e.reads.headD 0
  let K := typeK e.type
  t.setTile o (rowsOf e.rows) (List.range e.cols) fun i j =>
    let start : Word := if e.z then 0 else fpWord ((fp (t.tile (pT + 1) i 2)).mul (fp (t.tile o i j)))
    matrixSum e.nbv e.type 32 start fun k =>
      (a5 (fp (t.tile pT i k))).mul (bValue e.nbv e.type (e.tileOf (k / K)) (k % K) j)

/-- ATFN of a quarter (R249). -/
def Team.normalise (t : Team) (e : Entry) : Team :=
  let o := e.writes.headD 0
  let lT := e.reads.headD 0
  t.setTile o (rowsOf e.rows) (List.range 32) fun i j =>
    let l := t.tile lT i 1
    if bits l.toNat 0 31 = 0 then 0 else fpWord ((fp (t.tile o i j)).div (fp l))

/-- ACCMV (R244). -/
def Team.moveTile (t : Team) (e : Entry) : Team :=
  let src := e.reads.headD 0
  let d := e.writes.headD 0
  t.setTile d (List.range 16) (List.range 32) fun i j =>
    if e.conv = 1 then fpWord ((fp (t.tile d i j)).add (fp (t.tile src i j))) else t.tile src i j

/-- Word `w` of a lane of ACCRD: one FP32 element, or two narrowed ones (R243). -/
def accWord (t : Team) (n conv w j : Nat) : Word :=
  let f := if conv = 1 then bf16 else fp16
  if conv = 0 then t.tile n w j
  else BitVec.ofNat 32 (f.encode (fp (t.tile n (2 * w) j)) + 65536 * f.encode (fp (t.tile n (2 * w + 1) j)))

/-- ACCRD: registers of the active lanes, then the clear of their columns (R243). -/
def State.accRead (s : State) (e : Entry) : State :=
  let n := e.reads.headD 0
  let t := (s.team? e.team).getD noTeam
  let words := if e.conv = 0 then 16 else 8
  let s1 := s.onOwn e.grp e.team fun g =>
    (lanesOf e.lanes).foldl (fun g j =>
      (List.range words).foldl (fun g w => g.setV (e.reg + w) j (accWord t n e.conv w j)) g) g
  if e.z then s1.onTeam e.team fun t => t.setTile n (List.range 16) (lanesOf e.lanes) fun _ _ => 0 else s1

/-- ACCWR: columns of the active lanes from the words captured at issue (R243). -/
def Team.accWrite (t : Team) (e : Entry) : Team :=
  let n := e.writes.headD 0
  let words := if e.conv = 0 then 16 else 8
  let get (j w : Nat) : Nat := ((e.a[words * j + w]?).getD 0).toNat
  let f := if e.conv = 1 then bf16 else fp16
  t.setTile n (List.range 16) (lanesOf e.lanes) fun i j =>
    if e.z then 0
    else if e.conv = 0 then BitVec.ofNat 32 (get j i)
    else fpWord (f.decode (bits (get j (i / 2)) (16 * (i % 2)) 16))

/-- The effect of an entry. -/
def State.runEntry (s : State) (e : Entry) : State :=
  if e.op = 0xC7 then s.accRead e
  else s.onTeam e.team fun t =>
    if e.op = 0xC6 then t.moveTile e
    else if e.op = 0xC8 then t.accWrite e
    else if e.op = 0xCA then t.softmax e
    else if e.op = 0xCB then t.weighted e
    else if e.op = 0xCC then t.normalise e
    else t.smallOp e

/-! ### Eligibility and grants (R236, R237) -/

/-- An accumulator move, which takes the move path (R237). -/
def Entry.isMove (e : Entry) : Bool := e.op = 0xC6 || e.op = 0xC7 || e.op = 0xC8

/-- Two entries name a common tile. -/
def Entry.meets (e f : Entry) : Bool :=
  e.team = f.team && (e.reads ++ e.writes).any fun t => (f.reads ++ f.writes).contains t

/-- An entry is eligible by itself (R236): its B tiles are present and every earlier entry on its tiles has been granted,
and completed when either is a move. -/
def Quad.eligible (q : Quad) (id : Nat) (e : Entry) : Bool :=
  !e.granted && !e.held && e.b.all Option.isSome &&
    q.board.all fun x => !(x.1 < id && e.meets x.2) || (x.2.granted && !e.isMove && !x.2.isMove)

/-- Ungranted entries of an instruction. -/
def Quad.whole (q : Quad) (instr : Nat) : List (Nat × Entry) := q.board.filter fun x => x.2.instr = instr && !x.2.granted

/-- Eligible, a fused instruction's entries only together (R237). -/
def Quad.ready (q : Quad) (id : Nat) (e : Entry) : Bool :=
  if e.fused then !e.granted && (q.whole e.instr).all fun x => q.eligible x.1 x.2 else q.eligible id e

/-- Aged priority (R237). -/
def Entry.eff (e : Entry) (now : Nat) : Nat := min 7 (e.pri + (now - e.posted) / 256)

/-- An entry comes before another: higher aged priority, then older posting, then lower core, then lower quarter (R237). -/
def Entry.before (now : Nat) (x y : Nat × Entry) : Bool :=
  let ex := x.2.eff now
  let ey := y.2.eff now
  ey < ex || (ex = ey && (x.2.posted < y.2.posted || (x.2.posted = y.2.posted &&
    (x.2.core < y.2.core || (x.2.core = y.2.core && (x.2.quarter < y.2.quarter ||
      (x.2.quarter = y.2.quarter && x.1 < y.1)))))))

/-- Insert into an ordered list. -/
def orderedInsert (lt : (Nat × Entry) → (Nat × Entry) → Bool) (x : Nat × Entry) : List (Nat × Entry) → List (Nat × Entry)
  | [] => [x]
  | y :: t => if lt x y then x :: y :: t else y :: orderedInsert lt x t

/-- Entries in grant order. -/
def grantOrder (now : Nat) (es : List (Nat × Entry)) : List (Nat × Entry) :=
  es.foldl (fun l x => orderedInsert (Entry.before now) x l) []

/-- Grant entries of a list while decks are free; a fused instruction is granted whole or skipped (R237). -/
def Quad.fill (q : Quad) (granted : List Nat) : List (Nat × Entry) → List Nat
  | [] => granted
  | x :: rest =>
    if granted.contains x.1 then q.fill granted rest
    else
      let mine := if x.2.fused then (q.whole x.2.instr).map (·.1) else [x.1]
      if granted.length + mine.length ≤ 4 then q.fill (granted ++ mine) rest else q.fill granted rest

/-- The grants of one pass (R237). -/
def Quad.grants (q : Quad) (now : Nat) : List Nat :=
  let order := grantOrder now (q.board.filter fun x => q.ready x.1 x.2)
  let deck := order.filter fun x => !x.2.isMove
  let decks := match deck with
    | [] => []
    | x :: _ =>
      if x.2.fused then q.fill [] deck
      else
        let same := deck.filter fun y => y.2.bid = x.2.bid && x.2.bid ≠ []
        q.fill (q.fill [x.1] same) deck
  decks ++ ((order.filter fun x => x.2.isMove).take 2).map (·.1)

/-- BOARD_PASS: grant entries to the decks and the move path (R237). -/
def execBoardPass (s : State) : Host.Outcome State Fault Refusal :=
  onEvent s fun
    | .boardPass qn =>
      let q := s.quad qn
      let gs := q.grants (s.cycles (dieOfCore (4 * qn)))
      if gs = [] then none
      else
        let mark (x : Nat × Entry) : Nat × Entry := if gs.contains x.1 then (x.1, { x.2 with granted := true }) else x
        some (s.onQuad qn fun q => { q with board := q.board.map mark })
    | _ => none

/-- MATRIX_OP_COMPLETE: a granted entry takes effect after every earlier entry on its tiles, and is freed; an ACCRD's
registers become readable (R235, R239, R240). -/
def execMatrixOpComplete (s : State) : Host.Outcome State Fault Refusal :=
  onEvent s fun
    | .matrixOpComplete qn id =>
      let q := s.quad qn
      match Tab.find q.board id with
      | none => none
      | some e =>
        if !e.granted || q.board.any (fun x => x.1 < id && e.meets x.2) then none
        else
          let s1 := (s.runEntry e).onQuad qn fun q => { q with board := Tab.del q.board id }
          some (if e.op = 0xC7 then s1.unbusy e.grp id else s1)
    | _ => none

/-! ### The operand fetcher (R231, R261, R422) -/

/-- Copy the tile of one handle, or fail with an address. -/
def fetchTile (s : State) (ag : Agent) (e : Entry) (h : Handle) : State × Except (Nat × Xlat) (List Byte) :=
  match h with
  | .record sh _ t o e1 cur =>
    recTileBytes s (quadOfCore e.core) ag sh e1 t (shBlk sh o e1 cur) 0 0 0 (tileSize t)
  | .kvRead b m _ cur half =>
    match Tab.find s.bindings b with
    | some bd => (s, s.kvTile bd m cur half)
    | none => (s, .ok [])
  | _ => (s, .ok [])

/-- Copy the tiles of every half of an entry that is not present. -/
def fetchTiles (ag : Agent) (e : Entry) : List (Option (List Byte) × Handle) → State → State × Except (Nat × Xlat) (List (Option (List Byte)))
  | [], s => (s, .ok [])
  | (some b, _) :: rest, s =>
    match fetchTiles ag e rest s with
    | (s1, .ok l) => (s1, .ok (some b :: l))
    | r => r
  | (none, h) :: rest, s =>
    match fetchTile s ag e h with
    | (s1, .error r) => (s1, .error r)
    | (s1, .ok b) => match fetchTiles ag e rest s1 with
      | (s2, .ok l) => (s2, .ok (some b :: l))
      | r => r

/-- A posted entry is held for a handler, or no longer (R422). -/
def State.holdEntry (s : State) (qn id : Nat) (held : Bool) : State :=
  s.onQuad qn fun q => { q with board := Tab.alter q.board id fun e => { e with held := held } }

/-- Fetch the B tiles of an entry into the staging buffer, where every entry with the same tile finds it; a fault holds the
entry and writes a record (R261, R421, R422). -/
def State.fetchEntry (s : State) (qn id : Nat) : Option State :=
  match Tab.find (s.quad qn).board id with
  | none => none
  | some e =>
    if e.b.all Option.isSome then none
    else match fetchTiles (e.agent id) e (e.b.zip e.src) s with
      | (s1, .ok l) =>
        let put (x : Nat × Entry) : Nat × Entry :=
          if x.1 = id || (x.2.bid = e.bid && x.2.src = e.src && !x.2.granted) then (x.1, { x.2 with b := l, held := false }) else x
        some (s1.onQuad qn fun q => { q with board := q.board.map put })
      | (s1, .error (_, .held)) => some (s1.holdEntry qn id false)
      | (s1, .error (va, x)) => some ((s1.holdEntry qn id true).engineFault e.grp e.team e.ctx e.pc va 0 2 x)

/-- The blocks of a walk that earlier entries of the group still wait to use: the copy of an entry's block goes ahead of that many
(R261). -/
def Quad.aheadBy (q : Quad) (id : Nat) (e : Entry) : Nat :=
  let shares (x : Entry) : Bool := x.src.any fun h => match h with
    | .record _ a _ _ _ _ => e.src.any fun h => match h with
      | .record _ b _ _ _ _ => a = b
      | _ => false
    | _ => false
  let earlier := q.board.filter fun x => x.1 < id && x.2.grp = e.grp && !x.2.granted && x.2.bid ≠ e.bid && shares x.2
  (earlier.map (·.2.bid)).eraseDups.length

/-- Every page of the blocks of an entry can be translated, tried ahead of use (R419). -/
def State.fetchesAhead (s : State) (qn : Nat) (e : Entry) : Bool :=
  e.src.all fun h => match h with
    | .record sh _ t o e1 cur =>
      (tilePages sh e1 t (shBlk sh o e1 cur) 0 0).all fun p => (speculate s (qn / 256) e.ctx (p * 4096) .load).isSome
    | _ => true

/-- OPERAND_FETCH_COPY: a block at its use, or one of at most three ahead of it, whose translations are speculative (R261, R419). -/
def execOperandFetchCopy (s : State) : Host.Outcome State Fault Refusal :=
  onEvent s fun
    | .operandFetchCopy qn id =>
      match Tab.find (s.quad qn).board id with
      | none => none
      | some e =>
        let n := (s.quad qn).aheadBy id e
        if e.held || e.b.all Option.isSome || 3 < n then none
        else if n ≠ 0 && !s.fetchesAhead qn e then some (s.countDrop (qn / 256))
        else s.fetchEntry qn id
    | _ => none

/-- Entries of a group whose fetch has faulted are fetched again; one that meets a freeze is fetched after it (R422, R432). -/
def State.replayFetches (s : State) (k : Nat) : State :=
  let qn := quadOfCore (keyCore k)
  (((s.quad qn).board.filter fun x => x.2.grp = k && x.2.held).map (·.1)).foldl (fun s id => (s.fetchEntry qn id).getD s) s

end Sys2Proof.Machine
end

