-- ==== Sys2Proof/Machine/LaneFloat.lean ====
section
/-! DEFINITION. Lane floating point, conversions and block quantisation (opcodes 0x40 to 0x6C; R184 to R191). -/

namespace Sys2Proof.Machine

/-! ### FP32 (R184 to R187) -/

/-- FMIN and FMAX of R122: −0 is less than +0; the other operand of one NaN; the canonical NaN of two. -/
def fminmax (wantMax : Bool) (a b : Word) : Word :=
  if fp a = .nan then (if fp b = .nan then 0x7FC00000 else b)
  else if fp b = .nan then a
  else
    let less := fcmpLt a b || (fcmpEq a b && a.getLsbD 31 && !b.getLsbD 31)
    if less != wantMax then a else b

/-- FRND (R186). -/
def frndWord (a : Word) (mode : Nat) : Word :=
  match fp a with
  | .nan => 0x7FC00000
  | .inf _ => a
  | .fin neg m e => fpWord (.fin neg (roundInt mode neg m e) 0)

/-- FLDEXP: amounts beyond ±2,000 give the same results as ±2,000 (R187). -/
def fldexpWord (a b : Word) : Word :=
  match fp a with
  | .nan => 0x7FC00000
  | .inf _ => a
  | .fin neg m e => if m = 0 then a else fpWord (.fin neg m (e + max (-2000) (min 2000 b.toInt)))

/-- d ← rne(a + b) (R184). -/
def execFadd (f : FmtA) (s : State) : Host.Outcome State Fault Refusal :=
  lane2 (.fadd f) f s fun a b => fpWord ((fp a).add (fp b))
/-- d ← rne(a − b) (R184). -/
def execFsub (f : FmtA) (s : State) : Host.Outcome State Fault Refusal :=
  lane2 (.fsub f) f s fun a b => fpWord ((fp a).add (fp b).neg)
/-- d ← rne(a × b) (R184). -/
def execFmul (f : FmtA) (s : State) : Host.Outcome State Fault Refusal :=
  lane2 (.fmul f) f s fun a b => fpWord ((fp a).mul (fp b))
/-- d ← rne(a × b + d), one rounding (R184). -/
def execFfma (f : FmtA) (s : State) : Host.Outcome State Fault Refusal :=
  lane3 (.ffma f) f s fun a b d => fpWord (((fp a).mul (fp b)).add (fp d))
/-- The lesser operand (R122). -/
def execFmin (f : FmtA) (s : State) : Host.Outcome State Fault Refusal := lane2 (.fmin f) f s (fminmax false)
/-- The greater operand (R122). -/
def execFmax (f : FmtA) (s : State) : Host.Outcome State Fault Refusal := lane2 (.fmax f) f s (fminmax true)
/-- d ← a with bit 31 cleared (R184). -/
def execFabs (f : FmtA) (s : State) : Host.Outcome State Fault Refusal := lane1 (.fabs f) f s fun a => a &&& 0x7FFFFFFF
/-- d ← a with bit 31 inverted (R184). -/
def execFneg (f : FmtA) (s : State) : Host.Outcome State Fault Refusal := lane1 (.fneg f) f s fun a => a ^^^ 0x80000000
/-- d ← rne(a / b) (R185). -/
def execFdiv (f : FmtA) (s : State) : Host.Outcome State Fault Refusal :=
  lane2 (.fdiv f) f s fun a b => fpWord ((fp a).div (fp b))
/-- d ← rne(√a) (R185). -/
def execFsqrt (f : FmtA) (s : State) : Host.Outcome State Fault Refusal := lane1 (.fsqrt f) f s fun a => fpWord (fp a).sqrt
/-- d ← rne(1 / a) (R185). -/
def execFrcp (f : FmtA) (s : State) : Host.Outcome State Fault Refusal :=
  lane1 (.frcp f) f s fun a => fpWord ((Ext.fin false 1 0).div (fp a))
/-- d ← rne(1 / √a) (R185). -/
def execFrsq (f : FmtA) (s : State) : Host.Outcome State Fault Refusal := lane1 (.frsq f) f s fun a => fpWord (fp a).rsqrt
/-- d ← rne(2^a) (R185). -/
def execFex2 (f : FmtA) (s : State) : Host.Outcome State Fault Refusal := lane1 (.fex2 f) f s fun a => fpWord (fp a).exp2
/-- d ← rne(log2 a) (R185). -/
def execFlg2 (f : FmtA) (s : State) : Host.Outcome State Fault Refusal := lane1 (.flg2 f) f s fun a => fpWord (fp a).log2
/-- d ← rne(sin 2πa) (R185). -/
def execFsint (f : FmtA) (s : State) : Host.Outcome State Fault Refusal :=
  lane1 (.fsint f) f s fun a => fpWord (fp a).sinTurns
/-- d ← rne(cos 2πa) (R185). -/
def execFcost (f : FmtA) (s : State) : Host.Outcome State Fault Refusal :=
  lane1 (.fcost f) f s fun a => fpWord (fp a).cosTurns
/-- Round to an integral value in the direction of imm7[1:0] (R186). -/
def execFrnd (f : FmtB) (s : State) : Host.Outcome State Fault Refusal :=
  laneI (.frnd f) f s fun a i => frndWord a (i.toNat % 4)
/-- d ← rne(a × 2^sv(b)) (R187). -/
def execFldexp (f : FmtA) (s : State) : Host.Outcome State Fault Refusal := lane2 (.fldexp f) f s fldexpWord
/-- The exponent of a (R187). -/
def execFexpo (f : FmtA) (s : State) : Host.Outcome State Fault Refusal := lane1 (.fexpo f) f s fexpoWord
/-- The class mask of a (R187). -/
def execFclass (f : FmtA) (s : State) : Host.Outcome State Fault Refusal := lane1 (.fclass f) f s fclassWord

/-! ### Packed halves and FP64 (R188, R189) -/

/-- Half `h` of a word. -/
def halfOf (a : Word) (h : Nat) : Nat := bits a.toNat (16 * h) 16

/-- An operation on the two halves of words in a 16-bit format (R188). -/
def packed (t : FpFmt) (op : Ext → Ext → Ext → Ext) (a b d : Word) : Word :=
  let half (h : Nat) := t.encode (op (t.decode (halfOf a h)) (t.decode (halfOf b h)) (t.decode (halfOf d h)))
  BitVec.ofNat 32 (half 0 + 2 ^ 16 * half 1)

/-- FP64 value of a pair and pair of a value (R189). -/
def dp (x : DWord) : Ext := fp64.decode x.toNat
def dpWord (x : Ext) : DWord := BitVec.ofNat 64 (fp64.encode x)

/-- Halves of a + b in FP16 (R188). -/
def execHadd2 (f : FmtA) (s : State) : Host.Outcome State Fault Refusal :=
  lane3 (.hadd2 f) f s (packed fp16 fun a b _ => a.add b)
/-- Halves of a × b in FP16 (R188). -/
def execHmul2 (f : FmtA) (s : State) : Host.Outcome State Fault Refusal :=
  lane3 (.hmul2 f) f s (packed fp16 fun a b _ => a.mul b)
/-- Halves of a × b + d in FP16 (R188). -/
def execHfma2 (f : FmtA) (s : State) : Host.Outcome State Fault Refusal :=
  lane3 (.hfma2 f) f s (packed fp16 fun a b d => (a.mul b).add d)
/-- Halves of a + b in BF16 (R188). -/
def execBadd2 (f : FmtA) (s : State) : Host.Outcome State Fault Refusal :=
  lane3 (.badd2 f) f s (packed bf16 fun a b _ => a.add b)
/-- Halves of a × b in BF16 (R188). -/
def execBmul2 (f : FmtA) (s : State) : Host.Outcome State Fault Refusal :=
  lane3 (.bmul2 f) f s (packed bf16 fun a b _ => a.mul b)
/-- Halves of a × b + d in BF16 (R188). -/
def execBfma2 (f : FmtA) (s : State) : Host.Outcome State Fault Refusal :=
  lane3 (.bfma2 f) f s (packed bf16 fun a b d => (a.mul b).add d)
/-- d64 ← rne(a64 + b64, FP64) (R189). -/
def execDadd (f : FmtA) (s : State) : Host.Outcome State Fault Refusal :=
  pair2 (.dadd f) f s fun a b => dpWord ((dp a).add (dp b))
/-- d64 ← rne(a64 × b64, FP64) (R189). -/
def execDmul (f : FmtA) (s : State) : Host.Outcome State Fault Refusal :=
  pair2 (.dmul f) f s fun a b => dpWord ((dp a).mul (dp b))
/-- d64 ← rne(a64 × b64 + d64, FP64), one rounding (R189). -/
def execDfma (f : FmtA) (s : State) : Host.Outcome State Fault Refusal :=
  pairOp (.dfma f) f.d s fun g l =>
    dpWord (((dp (g.pair f.a.toNat l)).mul (dp (g.pair f.b.toNat l))).add (dp (g.pair f.d.toNat l)))

/-! ### Conversions (R132, R190) -/

/-- FP32 to a signed or unsigned word, toward zero, saturating; NaN gives 0 (R132). -/
def toSigned (a : Word) : Word :=
  match fp a with
  | .nan => 0
  | .inf neg => if neg then 0x80000000 else 0x7FFFFFFF
  | .fin neg m e =>
    let n := roundInt 1 neg m e
    if neg then (if 2 ^ 31 ≤ n then 0x80000000 else BitVec.ofInt 32 (-(n : Int)))
    else if 2 ^ 31 ≤ n then 0x7FFFFFFF else BitVec.ofNat 32 n
def toUnsigned (a : Word) : Word :=
  match fp a with
  | .nan => 0
  | .inf neg => if neg then 0 else 0xFFFFFFFF
  | .fin neg m e => if neg then 0 else (let n := roundInt 1 neg m e; if 2 ^ 32 ≤ n then 0xFFFFFFFF else BitVec.ofNat 32 n)

/-- Two codes in the high half, the old high half moved down (R190). -/
def pack8 (code : Ext → Nat) (a b d : Word) : Word :=
  BitVec.ofNat 32 (code (fp b) * 2 ^ 24 + code (fp a) * 2 ^ 16 + d.toNat / 2 ^ 16)

/-- FP32 of a signed word (R190). -/
def execCvtF32Sw (f : FmtA) (s : State) : Host.Outcome State Fault Refusal :=
  lane1 (.cvtF32Sw f) f s fun a => fpWord (.ofInt a.toInt)
/-- FP32 of an unsigned word (R190). -/
def execCvtF32Uw (f : FmtA) (s : State) : Host.Outcome State Fault Refusal :=
  lane1 (.cvtF32Uw f) f s fun a => fpWord (.fin false a.toNat 0)
/-- Signed word of an FP32 value (R132, R190). -/
def execCvtSwF32 (f : FmtA) (s : State) : Host.Outcome State Fault Refusal := lane1 (.cvtSwF32 f) f s toSigned
/-- Unsigned word of an FP32 value (R132, R190). -/
def execCvtUwF32 (f : FmtA) (s : State) : Host.Outcome State Fault Refusal := lane1 (.cvtUwF32 f) f s toUnsigned
/-- FP16 of a and b (R190). -/
def execCvtF16x2F32 (f : FmtA) (s : State) : Host.Outcome State Fault Refusal :=
  lane2 (.cvtF16x2F32 f) f s fun a b => BitVec.ofNat 32 (fp16.encode (fp a) + 2 ^ 16 * fp16.encode (fp b))
/-- BF16 of a and b (R190). -/
def execCvtBf16x2F32 (f : FmtA) (s : State) : Host.Outcome State Fault Refusal :=
  lane2 (.cvtBf16x2F32 f) f s fun a b => BitVec.ofNat 32 (bf16.encode (fp a) + 2 ^ 16 * bf16.encode (fp b))
/-- FP32 of an FP16 half (R190). -/
def execCvtF32F16 (f : FmtB) (s : State) : Host.Outcome State Fault Refusal :=
  laneI (.cvtF32F16 f) f s fun a i => fpWord (fp16.decode (halfOf a (i.toNat % 2)))
/-- FP32 of a BF16 half (R190). -/
def execCvtF32Bf16 (f : FmtB) (s : State) : Host.Outcome State Fault Refusal :=
  laneI (.cvtF32Bf16 f) f s fun a i => fpWord (bf16.decode (halfOf a (i.toNat % 2)))
/-- E4M3 codes of a and b (R190). -/
def execCvtE4m3x2F32 (f : FmtA) (s : State) : Host.Outcome State Fault Refusal :=
  lane3 (.cvtE4m3x2F32 f) f s (pack8 encodeE4M3)
/-- E5M2 codes of a and b (R190). -/
def execCvtE5m2x2F32 (f : FmtA) (s : State) : Host.Outcome State Fault Refusal :=
  lane3 (.cvtE5m2x2F32 f) f s (pack8 e5m2.encode)
/-- FP32 of an E4M3 byte (R190). -/
def execCvtF32E4m3 (f : FmtB) (s : State) : Host.Outcome State Fault Refusal :=
  laneI (.cvtF32E4m3 f) f s fun a i => fpWord (decodeE4M3 (byteOf a (i.toNat % 4)))
/-- FP32 of an E5M2 byte (R190). -/
def execCvtF32E5m2 (f : FmtB) (s : State) : Host.Outcome State Fault Refusal :=
  laneI (.cvtF32E5m2 f) f s fun a i => fpWord (e5m2.decode (byteOf a (i.toNat % 4)))
/-- FP64 of an FP32 value, exact (R190). -/
def execCvtF64F32 (f : FmtA) (s : State) : Host.Outcome State Fault Refusal :=
  pairOp (.cvtF64F32 f) f.d s fun g l => dpWord (fp (g.reg f.a.toNat l))
/-- FP32 of an FP64 value (R190). -/
def execCvtF32F64 (f : FmtA) (s : State) : Host.Outcome State Fault Refusal :=
  laneOp (.cvtF32F64 f) f.d s fun g l => fpWord (dp (g.pair f.a.toNat l))

/-! ### Block quantisation (R134, R191) -/

/-- Magnitude of a value. -/
def Ext.abs : Ext → Ext
  | .nan => .nan
  | .inf _ => .inf false
  | .fin _ m e => .fin false m e

/-- The greatest magnitude over the values that are not NaN (R134). -/
def amax (xs : List Ext) : Ext :=
  xs.foldl (fun acc x => if acc.lt x.abs then x.abs else acc) (.fin false 0 0)

/-- Block scale code of R134: 0x00 for a zero block, 0xFF above 6 × 31.5, else the smallest nonzero scale s with
amax ≤ 6 s. -/
def blockScale (m : Ext) : Nat :=
  if m.eqv (.fin false 0 0) then 0
  else ((List.range 256).find? fun c => c ≠ 0 && !(((decodeE3M5 c).mul (.fin false 6 0)).lt m)).getD 0xFF

/-- E2M1 code of x / scale: nearest, ties to the even mantissa bit, above 6 clamped; the sign of x is kept (R134). -/
def quantCode (x : Word) (scale : Nat) : Nat :=
  let sign := if x.getLsbD 31 then 8 else 0
  if scale = 0 then sign
  else match fp x with
    | .nan => sign
    | .inf _ => sign + 7
    | .fin _ m e =>
      match (Ext.fin false m e).div (decodeE3M5 scale) with
      | .fin _ q k => sign + min (roundMag 1 1 false q k) 7
      | _ => sign

/-- QFP4 (R191): the block of each quarter with participating lanes; lanes that do not participate contribute 0. -/
def execQfp4 (f : FmtA) (s : State) : Host.Outcome State Fault Refusal :=
  issue (.qfp4 f) s fun s g m =>
    let val (l : Nat) : Word := if m.getLsbD l then g.reg f.a.toNat l else 0
    let scales := (List.range 4).map fun q => blockScale (amax ((List.range 8).map fun i => fp (val (8 * q + i))))
    s.withGroup (g.setRow m f.d.toNat fun l =>
      let sc := (scales[l / 8]?).getD 0
      BitVec.ofNat 32 (sc * 256 + quantCode (val l) sc))

/-- DQFP4 (R191): the exact product of code and scale, with the sign of the code. -/
def execDqfp4 (f : FmtA) (s : State) : Host.Outcome State Fault Refusal :=
  lane1 (.dqfp4 f) f s fun a => fpWord ((decodeE2M1 (a.toNat % 16)).mul (decodeE3M5 (byteOf a 1)))

end Sys2Proof.Machine
end

