-- ==== Sys2Proof/Machine/Queues.lean ====
section
/-! DEFINITION. Item queues of the queue engine: QENQ, QDEQ and QSYNC (R271 to R273, R278, R421, R423). -/

namespace Sys2Proof.Machine

/-- Result of a queue that is disabled or belongs to another ASID, and of QSYNC for the commands that wait (R272, R284). -/
def queueClosed : Word := 0xFFFFFFFE

/-- Result of a TRY form that finds the queue full or empty (R272, R273). -/
def queueBusy : Word := 0xFFFFFFFF

/-- Items that a queue holds (R271). -/
def ItemQueue.count (d : ItemQueue) : Nat := (d.enq + 2 ^ 32 - d.deq) % 2 ^ 32

/-- The ring is full (R271). -/
def ItemQueue.full (d : ItemQueue) : Bool := decide (2 ^ d.log ≤ d.count)

/-- Virtual address of item number `n` (R271). -/
def ItemQueue.slot (d : ItemQueue) (n : Nat) : Nat := (d.base + 64 * (n % 2 ^ d.log)) % 2 ^ 64

def State.setQueue (s : State) (q : Nat) (d : ItemQueue) : State := { s with itemQueues := Tab.put s.itemQueues q d }

/-- A queue as its descriptor of 256 bits gives it, with counts of 0 (R271). DESIGN CHOICE (log 29): of a ring base that is not
64-byte-aligned, which R271 does not speak of, bits 5 to 0 are dropped. -/
def readQueueDesc (x : Nat) (d : ItemQueue) : ItemQueue :=
  let log := bits x 24 8
  { d with
    sync := false
    en := bits x 0 1 = 1 && 4 ≤ log && log ≤ 20 && bits x 36 4 ≤ 4
    asid := bits x 48 16
    base := bits x 64 64 / 64 * 64
    log := log
    dom := bits x 36 4 }

/-- The descriptor of a queue is read at its first use after QSYNC names it, in the management space; while the read
fails the queue stays disabled (R271; log 29). -/
def State.freshQueue (s : State) (q : Nat) : State :=
  let d := s.itemQueue q
  if d.sync then
    match readVirt s mgmtSpace (bits s.csr.qtbase.toNat 5 52 * 32 + 32 * q) 32 with
    | (s1, .ok x) => s1.setQueue q (readQueueDesc x d)
    | (s1, .error _) => s1
  else s

/-! ### Issue (R272, R273) -/

/-- Why the scratchpad word of a queue block is invalid: reason 2 or 3 (R423). -/
def queueReason (t : Team) (off : Nat) : Option Nat :=
  if off % 64 ≠ 0 then some 2 else if t.scratchSize < off + 64 then some 3 else none

/-- QENQ reads its 64 bytes at issue, after the group's own stores to them (R272, R414). -/
def qenqIssue (i : Instr) (m : Nat) (f : FmtG) (s : State) : Host.Outcome State Fault Refusal :=
  cmdIssue i ⟨0xD7, m, f, 2, true⟩ s [] (fun _ => none)
    (fun g _ c => { c with item := (List.range 64).map fun j => s.spadSeen c.grp (s.teamFor g) c.ctx (c.word 1 + j) })
    fun s _ => s

/-- QENQ (R272). -/
def execQenq (f : FmtG) (s : State) : Host.Outcome State Fault Refusal := qenqIssue (.qenq f) 0 f s
/-- QENQ.TRY (R272). -/
def execQenqTry (f : FmtG) (s : State) : Host.Outcome State Fault Refusal := qenqIssue (.qenqTry f) 1 f s

/-- QDEQ in its blocking form: the group blocks until its item arrives (R273). -/
def execQdeq (f : FmtBlock) (s : State) : Host.Outcome State Fault Refusal :=
  cmdIssue (.qdeq f) ⟨0xD6, 0, blockG f, 2, true⟩ s [] (fun _ => none) (fun _ _ c => c)
    fun s _ => s.onGroup s.cur.grp fun g => { g with block := .qdeq (s.idCtr - 1) }

/-- QDEQ.TRY (R273). -/
def execQdeqTry (f : FmtG) (s : State) : Host.Outcome State Fault Refusal := plainCmd (.qdeqTry f) 0xD6 1 f 2 true s

/-! ### At the queue engine -/

/-- A group that blocked on a command blocks no longer. -/
def State.unblockQdeq (s : State) (k id : Nat) : State :=
  s.onGroup k fun g => { g with block := if g.block = .qdeq id then .none else g.block }

/-- A queue command ends with its result; a group blocked on it is ready again (R273). -/
def State.finishQueue (s : State) (id : Nat) (v : Word) : State :=
  match Tab.find s.cmds id with
  | none => s
  | some c => (s.finishCmd id (some v)).unblockQdeq c.grp id

/-- The oldest QDEQ takes the next item: its ring access may be held, or leave it in place with its fix-up list (R273, R421). The second
result tells that the queue goes on. -/
def State.takeItem (s : State) (q id : Nat) (c : Cmd) : State × Bool :=
  let d := s.itemQueue q
  match mapSpan s c.agent (d.slot d.deq) 64 .load with
  | (s1, .ok m) =>
    let bytes := (List.range 64).map fun j => s1.pageByte c.agent m (d.slot d.deq + j)
    let s2 := s1.setQueue q { d with deq := (d.deq + 1) % 2 ^ 32, waitDeq := d.waitDeq.tail }
    let s3 := s2.raceTiles ((List.range 64).foldl (fun s j =>
      s.spadPut c.team ((s.team? c.team).getD noTeam) c.ctx (c.word 1 + j) ((bytes[j]?).getD 0)) s2) c.core none
    ((s3.finishQueue id (BitVec.ofNat 32 d.deq)).acquire c.core, true)
  | (s1, .error (_, .held)) => (s1, false)
  | (s1, .error (va, x)) => ((s1.skipSegment id 0 3 va false x).getD s1, false)

/-- The oldest QENQ writes its item (R272, R421). -/
def State.addItem (s : State) (q id : Nat) (c : Cmd) : State × Bool :=
  let d := s.itemQueue q
  match mapSpan s c.agent (d.slot d.enq) 64 .store with
  | (s1, .ok m) =>
    let s2 := s1.setQueue q { d with enq := (d.enq + 1) % 2 ^ 32, waitEnq := d.waitEnq.tail }
    ((s2.engineStore c.core (pagePhys m (d.slot d.enq)) 64 (ofBytes c.item)).finishQueue id (BitVec.ofNat 32 d.enq), true)
  | (s1, .error (_, .held)) => (s1, false)
  | (s1, .error (va, x)) => ((s1.skipSegment id 0 3 va true x).getD s1, false)

/-- Take one waiting command of a queue forward: the oldest QDEQ when there is an item, else the oldest QENQ when there is room. A TRY
form that has waited behind an access in progress and finds the queue empty or full when its turn comes ends with 0xFFFF_FFFF (R272,
R273, R421). -/
def State.serveQueue (s : State) (q : Nat) : State × Bool :=
  let d := s.itemQueue q
  let head (l : List Nat) : Option (Nat × Cmd) :=
    l.head?.bind fun id => ((Tab.find s.cmds id).filter (·.skipped = [])).map fun c => (id, c)
  let enq : State × Bool :=
    match head d.waitEnq with
    | none => (s, false)
    | some (id, c) =>
      if !d.full then s.addItem q id c
      else if c.m = 1 then ((s.setQueue q { d with waitEnq := d.waitEnq.tail }).finishQueue id queueBusy, true)
      else (s, false)
  match head d.waitDeq with
  | none => enq
  | some (id, c) =>
    if d.count ≠ 0 then s.takeItem q id c
    else if c.m = 1 then ((s.setQueue q { d with waitDeq := d.waitDeq.tail }).finishQueue id queueBusy, true)
    else enq

/-- Serve a queue while a waiting command can go on. -/
def State.pumpQueue (s : State) (q : Nat) : Nat → State
  | 0 => s
  | n + 1 =>
    match s.serveQueue q with
    | (s1, false) => s1
    | (s1, true) => s1.pumpQueue q n

/-- Serve a queue as far as it goes. -/
def State.pump (s : State) (q : Nat) : State :=
  let d := s.itemQueue q
  s.pumpQueue q (d.waitDeq.length + d.waitEnq.length)

/-- QENQ and QDEQ reach the queue engine (R272, R273). -/
def State.applyQueueCmd (s0 : State) (id : Nat) (c : Cmd) : State :=
  let q := c.word 0 % 4096
  match queueReason ((s0.team? c.team).getD noTeam) (c.word 1) with
  | some r => (s0.invalidCmd id r none).unblockQdeq c.grp id
  | none =>
    let s := s0.freshQueue q
    let d := s.itemQueue q
    if !d.en || d.asid ≠ s.asidOf c.ctx then s.finishQueue id queueClosed
    else if c.m = 1 && (if c.op = 0xD7 then d.full else d.count = 0) then s.finishQueue id queueBusy
    else
      let s1 := { s with cmds := Tab.alter s.cmds id fun c => { c with started := true } }
      if c.op = 0xD7 then (s1.setQueue q { d with waitEnq := d.waitEnq ++ [id] }).pump q
      else (s1.setQueue q { d with waitDeq := d.waitDeq ++ [id] }).pump q

/-- A write of QSYNC: the descriptor will be read again, the counts are 0, and the waiting commands end (R271, R278,
R284). -/
def State.qsync (s : State) (q : Nat) : State :=
  let d := s.itemQueue q
  let s1 := s.setQueue q { ItemQueue.reset with sync := true }
  (d.waitDeq ++ d.waitEnq).foldl (fun s id => s.finishQueue id queueClosed) s1

/-- QSYNC_WRITE (R278). -/
def execQsyncWrite (s : State) : Host.Outcome State Fault Refusal :=
  onEvent s fun
    | .qsyncWrite v => some (s.qsync (v.toNat % 4096))
    | _ => none

end Sys2Proof.Machine
end

