-- ==== Sys2Proof/Machine/Coll.lean ====
section
/-! DEFINITION. Collectives: COLL, the instances of the collective engine, their results, timeouts and release
(R274 to R276, R421, R422, R439). -/

namespace Sys2Proof.Machine

/-! ### The descriptor (R274) -/

def cdDst (d : Nat) : Nat := bits d 384 64
def cdSrc (d : Nat) : Nat := bits d 320 64
def cdCount (d : Nat) : Nat := bits d 288 32
def cdTimeout (d : Nat) : Nat := bits d 256 32
def cdSeq (d : Nat) : Nat := bits d 224 32
def cdComm (d : Nat) : Nat := bits d 192 32
def cdRanks (d : Nat) : Nat := bits d 176 16
def cdRank (d : Nat) : Nat := bits d 160 16
def cdType (d : Nat) : Nat := bits d 152 8
def cdOp (d : Nat) : Nat := bits d 148 4
def cdDomain (d : Nat) : Nat := bits d 144 4
def cdRoot (d : Nat) : Nat := bits d 128 8

/-- A field is invalid, or REDSCAT's count does not divide (R274, R276). Sub-operation 0 ALLRED, 1 ALLGATH, 2 REDSCAT,
3 HISTMRG. -/
def collInvalid (sub d : Nat) : Bool :=
  cdRanks d = 0 || 4096 < cdRanks d || cdRanks d ≤ cdRank d || (sub ≠ 3 && 1 < cdType d) ||
    ((sub = 0 || sub = 2) && 2 < cdOp d) || 4 < cdDomain d || (sub = 2 && cdCount d % cdRanks d ≠ 0)

/-- The rank that a descriptor describes; a field that its sub-operation ignores stands as 0 (R274). -/
def collRank (sub d cmd own : Nat) : Rank :=
  { r := cdRank d, n := cdRanks d, sub := sub, type := if sub = 3 then 0 else cdType d,
    op := if sub = 1 || sub = 3 then 0 else cdOp d, count := cdCount d, cmd := some cmd, dev := own, dst := cdDst d, src := cdSrc d,
    data := none, shard := none }

/-- Ranks disagree, or name one r (R276). -/
def Rank.disagrees (a b : Rank) : Bool :=
  a.n ≠ b.n || a.sub ≠ b.sub || a.type ≠ b.type || a.op ≠ b.op || a.count ≠ b.count || a.r = b.r

/-- Bytes of an element (R274, R275). -/
def Rank.width (a : Rank) : Nat := if a.sub ≠ 3 && a.type = 1 then 2 else 4

/-- Elements of a source (R274, R275). -/
def Rank.elems (a : Rank) : Nat := if a.sub = 3 then 512 else a.count

/-- Elements of a destination (R275). -/
def Rank.results (a : Rank) : Nat :=
  if a.sub = 0 then a.count else if a.sub = 1 then a.count * a.n else if a.sub = 2 then a.count / a.n else 512

/-- Byte of the destination that the source byte at `o` goes to, which names its segment (R257, R275). -/
def Rank.target (a : Rank) (o : Nat) : Nat :=
  if a.sub = 1 then a.r * a.count * a.width + o
  else if a.sub = 2 then (if a.results = 0 then 0 else o % (a.results * a.width)) else o

/-! ### Results (R275) -/

/-- combine of two FP32 values: sum, maximum or minimum (R122, R275). -/
def collCombine (op : Nat) (a b : Word) : Word :=
  if op = 0 then fpWord ((fp a).add (fp b)) else fminmax (op = 1) a b

/-- FP32 word of an element's code, exactly (R275). -/
def collWiden (type code : Nat) : Word := if type = 1 then BitVec.ofNat 32 (code * 65536) else BitVec.ofNat 32 code

/-- Element `e` of a rank's contribution. -/
def Rank.at (a : Rank) (e : Nat) : Nat := ((a.data.getD [])[e]?).getD 0

/-- reduce(e) over ranks in order of r (R275). -/
def collReduce (rs : List Rank) (type op e : Nat) : Nat :=
  match rs with
  | [] => 0
  | a :: t =>
    let acc := t.foldl (fun x b => collCombine op x (collWiden type (b.at e))) (collWiden type (a.at e))
    if type = 1 then bf16.encode (fp acc) else acc.toNat

/-- Element `e` of the result of rank `a` (R275). -/
def collElem (rs : List Rank) (a : Rank) (e : Nat) : Nat :=
  if a.sub = 0 then collReduce rs a.type a.op e
  else if a.sub = 1 then ((rs[e / a.count]?).map fun b => b.at (e % a.count)).getD 0
  else if a.sub = 2 then collReduce rs a.type a.op (a.r * a.results + e)
  else if e % 2 = 0 then min (2 ^ 32 - 1) (rs.foldl (fun n b => n + b.at e) 0)
  else collReduce rs 0 0 e

/-- A rank's destination bytes (R275). -/
def collBytes (rs : List Rank) (a : Rank) : List Byte :=
  (List.range a.results).flatMap fun e => leBytes (collElem rs a e) a.width

/-! ### Instances -/

/-- The instance of a communicator and sequence (R275). -/
def State.findColl (s : State) (comm seq : Nat) : Option (Nat × Coll) :=
  s.colls.find? fun x => x.2.comm = comm && x.2.seq = seq && !x.2.shard

def State.putColl (s : State) (n : Nat) (i : Coll) : State := { s with colls := Tab.put s.colls n i }

/-- Ranks of an instance, or 0 when none has arrived. -/
def Coll.size (i : Coll) : Nat := ((i.ranks.head?).map (·.n)).getD 0

/-- Keep an ended instance until every rank has received a status (R439). -/
def State.keepColl (s : State) (n : Nat) (i : Coll) : State :=
  if i.size ≤ i.ranks.length then { s with colls := Tab.del s.colls n } else s.putColl n i

/-- COLL completes with a status (R276); the write of s(h) acquires. -/
def State.collStatus (s : State) (id status : Nat) : State :=
  match Tab.find s.cmds id with
  | none => s
  | some c => (s.finishCmd id (some (BitVec.ofNat 32 status))).acquire c.core

/-- The destination bytes that a COLL has written are restored (R276). -/
def State.restoreDest (s : State) (id : Nat) : State :=
  match Tab.find s.cmds id with
  | none => s
  | some c => c.prior.foldl (fun s x => s.engineStore c.core x.1 1 x.2.toNat) s

/-- An instance of COLLs ends with a status other than 0 at every rank here that has arrived and not completed (R276). -/
def State.failColl (s : State) (n : Nat) (i : Coll) (status : Nat) : State :=
  let s1 := (i.ranks.filterMap (·.cmd)).foldl (fun s id => (s.restoreDest id).collStatus id status) s
  s1.keepColl n { i with ended := some (status, s.ticks 0), served := false }

/-- Forget the instances whose results are written at every rank here (R275). -/
def State.sweepColls (s : State) : State :=
  { s with colls := s.colls.filter fun x => !(x.2.served && x.2.ranks.all fun a => (a.cmd.bind (Tab.find s.cmds)).isNone) }

/-! ### Segments (R257, R421) -/

/-- 4 KiB segments of `n` bytes. -/
def segments (n : Nat) : Nat := ceilDiv n 4096

/-- Bytes of a source that belong to destination segment `g`, as runs of (offset, length) within single segments. -/
def Rank.runs (a : Rank) : List (Nat × Nat × Nat) :=
  let w := a.width
  let n := a.elems * w
  let start := if a.sub = 1 then a.r * a.count * w else 0
  if a.sub = 2 then
    let len := a.results * w
    (List.range a.n).flatMap fun j => (List.range (segments len)).map fun g => (g, j * len + 4096 * g, min 4096 (len - 4096 * g))
  else
    (List.range (segments (start + n))).filterMap fun g =>
      let lo := max start (4096 * g)
      let hi := min (start + n) (4096 * (g + 1))
      if lo < hi then some (g, lo - start, hi - lo) else none

/-- Translate the runs of a source; a run that faults skips its segment, and the later ones go on (R421). The result is
false when the command is held. -/
def gatherRuns (id : Nat) (ag : Agent) (src : Nat) : List (Nat × Nat × Nat) → State → State × Bool
  | [], s => (s, true)
  | (g, o, n) :: rest, s =>
    match mapSpan s ag (src + o) n .load with
    | (s1, .ok _) => gatherRuns id ag src rest s1
    | (s1, .error (_, .held)) => (s1, false)
    | (s1, .error (va, x)) =>
      match s1.skipSegment id g 4 va false x with
      | some s2 => gatherRuns id ag src rest s2
      | none => (s1, false)

/-- The codes of a source that can be read throughout. -/
def sourceCodes (s : State) (ag : Agent) (a : Rank) : Option (List Nat) :=
  match (mapSpan s ag a.src (a.elems * a.width) .load).2 with
  | .ok m => some ((List.range a.elems).map fun e => readN (s.pageByte ag m) (a.src + e * a.width) a.width)
  | .error _ => none

/-- Write the segments of a result that are not yet written; one that faults is skipped (R421). The result is false when
the command is held. -/
def scatter (id core : Nat) (ag : Agent) (dst : Nat) (item : List Byte) : List Nat → State → State × Bool
  | [], s => (s, true)
  | g :: rest, s =>
    let part := (item.drop (4096 * g)).take 4096
    match mapSpan s ag (dst + 4096 * g) part.length .store with
    | (s1, .ok m) =>
      let at_ (j : Nat) : Nat := pagePhys m (dst + 4096 * g + j)
      let old := (List.range part.length).map fun j => (at_ j, s1.peek (at_ j))
      let s2 := s1.byLines (dst + 4096 * g) part fun s a n v => s.engineStore core (pagePhys m a) n v
      scatter id core ag dst item rest
        { s2 with cmds := Tab.alter s2.cmds id fun c => { c with done := g :: c.done, prior := old.reverse ++ c.prior } }
    | (s1, .error (_, .held)) => (s1, false)
    | (s1, .error (va, x)) =>
      match s1.skipSegment id g 4 va true x with
      | some s2 => scatter id core ag dst item rest s2
      | none => (s1, false)

/-- Write a rank's result as far as it goes; with every segment written COLL completes with status 0 (R275, R276). The
destination's address stands in the last two words of the command's block. -/
def State.deliver (s : State) (id : Nat) : State :=
  match Tab.find s.cmds id with
  | none => s
  | some c =>
    let todo := (List.range (segments c.item.length)).filter fun g => !c.done.contains g && !c.skipped.contains g
    match scatter id c.core c.agent (c.dword 2) c.item todo s with
    | (s1, true) =>
      if ((Tab.find s1.cmds id).map (·.skipped)).getD [] = [] then (s1.collStatus id 0).sweepColls else s1
    | (s1, false) => s1

/-- Ranks in order of r. -/
def sortRanks (rs : List Rank) : List Rank := sortOn (·.r) rs

/-- With every contribution gathered, the instance is served: results are given to the ranks here and written; it stays until they are
(R275, R422). -/
def State.serveColl (s : State) (n : Nat) : State :=
  match Tab.find s.colls n with
  | none => s
  | some i =>
    if i.ended.isNone && !i.served && i.size = i.ranks.length && i.ranks.all (·.data.isSome) then
      let rs := sortRanks i.ranks
      let give (s : State) (a : Rank) : State :=
        match a.cmd with
        | none => s
        | some id =>
          { s with cmds := Tab.alter s.cmds id fun c =>
              { c with item := collBytes rs a, done := [],
                       block := c.block.take 2 ++ [BitVec.ofNat 32 a.dst, BitVec.ofNat 32 (a.dst / 2 ^ 32)] } }
      let s1 := rs.foldl give (s.putColl n { i with served := true })
      ((rs.filterMap (·.cmd)).foldl State.deliver s1).sweepColls
    else s

/-- Read a rank's contribution once it can be read throughout, and serve the instance (R275, R421). -/
def State.gather (s : State) (n id : Nat) : State :=
  match Tab.find s.colls n, Tab.find s.cmds id with
  | some i, some c =>
    match i.ranks.find? fun a => a.cmd = some id with
    | none => s
    | some a =>
      if a.data.isSome then s
      else match gatherRuns id c.agent a.src a.runs s with
      | (s1, false) => s1
      | (s1, true) =>
        if ((Tab.find s1.cmds id).map (·.skipped)).getD [] ≠ [] then s1
        else match sourceCodes s1 c.agent a with
          | none => s1
          | some codes =>
            let put (b : Rank) : Rank := if b.cmd = some id then { b with data := some codes } else b
            (s1.putColl n { i with ranks := i.ranks.map put }).serveColl n
  | _, _ => s

/-- The route to another device is dead or its link down, or the device is dead (R276, R373, R425, R427). -/
def State.deviceLost (s : State) (d : Nat) : Bool :=
  d ≠ s.ownFabric && (s.deadDevices.contains d || (s.routeTo d).routeDead || !(s.routeTo d).up)

/-- A rank arrives at its instance: one of this device gathers its contribution, one of another device brings it (R275, R276,
R439). -/
def State.joinColl (s : State) (a : Rank) (comm seq root timeout : Nat) : State :=
  let go (s : State) (n : Nat) : State :=
    match a.cmd with
    | some id => s.gather n id
    | none => s.serveColl n
  let end_ (s : State) (st : Nat) : State := a.cmd.elim s fun id => s.collStatus id st
  if s.deviceLost root then end_ s 4
  else match s.findColl comm seq with
    | none =>
      let n := s.idCtr
      let i : Coll := ⟨comm, seq, false, root, s.ticks 0, timeout, [a], none, false, 0, []⟩
      go (({ s with idCtr := n + 1 }).putColl n i) n
    | some (n, i) =>
      let j := { i with ranks := i.ranks ++ [a] }
      match i.ended with
      | some (st, _) => (end_ s st).keepColl n j
      | none => if i.ranks.any a.disagrees then s.failColl n j 3 else go (s.putColl n j) n

/-- COLL reaches the collective engine: its descriptor is read and checked (R274, R276, R421; log 30). -/
def State.applyColl (s : State) (id : Nat) (c : Cmd) : State :=
  let a := c.dword 0
  let s0 := { s with cmds := Tab.alter s.cmds id fun c => { c with started := true } }
  if a % 64 ≠ 0 then s0.collStatus id 2
  else match mapSpan s0 c.agent a 64 .load with
    | (s1, .ok m) =>
      let d := readN (s1.pageByte c.agent m) a 64
      if collInvalid c.m d then s1.collStatus id 2
      else s1.joinColl (collRank c.m d id s.ownFabric) (cdComm d) (cdSeq d) (cdRoot d) (cdTimeout d)
    | (s1, .error (_, .held)) => s1
    | (s1, .error (va, x)) => (s1.skipSegment id 0 4 va false x).getD s1

/-- A started COLL goes on: its descriptor, its source or its destination (R422). -/
def State.goOnColl (s : State) (id : Nat) (c : Cmd) : State :=
  if 2 < c.block.length then s.deliver id
  else match s.colls.find? fun x => !x.2.shard && x.2.ranks.any fun a => a.cmd = some id with
    | some (n, _) => s.gather n id
    | none => s.applyColl id c

/-! ### Issue -/

/-- COLL.ALLRED (R274). -/
def execCollAllred (f : FmtG) (s : State) : Host.Outcome State Fault Refusal := plainCmd (.collAllred f) 0xDB 0 f 2 true s
/-- COLL.ALLGATH (R274). -/
def execCollAllgath (f : FmtG) (s : State) : Host.Outcome State Fault Refusal := plainCmd (.collAllgath f) 0xDB 1 f 2 true s
/-- COLL.REDSCAT (R274). -/
def execCollRedscat (f : FmtG) (s : State) : Host.Outcome State Fault Refusal := plainCmd (.collRedscat f) 0xDB 2 f 2 true s
/-- COLL.HISTMRG (R274). -/
def execCollHistmrg (f : FmtG) (s : State) : Host.Outcome State Fault Refusal := plainCmd (.collHistmrg f) 0xDB 3 f 2 true s

end Sys2Proof.Machine
end

