-- ==== Sys2Proof/Machine/Sample.lean ====
section
/-! DEFINITION. The sampler engine: SAMPLE, its chain of stages, shard sets, draws and verification, the update of the
request record, and the charges of its results (R54, R321 to R334, R421, R438 to R441). -/

namespace Sys2Proof.Machine

/-! ### The operand block (R323) -/

def Cmd.spRec (c : Cmd) : Nat := c.dword 0
def Cmd.spLogits (c : Cmd) : Nat := c.dword 2
def Cmd.spFirst (c : Cmd) : Nat := bits (c.word 4) 0 20
def Cmd.spTokens (c : Cmd) : Nat := bits (c.word 5) 0 21
def Cmd.spPosition (c : Cmd) : Nat := bits (c.word 6) 0 24
def Cmd.spDraw (c : Cmd) : Nat := bits (c.word 6) 24 8
def Cmd.spShard (c : Cmd) : Nat := bits (c.word 7) 0 8
def Cmd.spCount (c : Cmd) : Nat := bits (c.word 7) 8 8 + 1
def Cmd.spDomain (c : Cmd) : Nat := bits (c.word 7) 16 4
def Cmd.spComm (c : Cmd) : Nat := bits (c.word 7) 20 12
def Cmd.spDraft (c : Cmd) : Nat := c.dword 8
def Cmd.spToken (c : Cmd) : Nat := bits (c.word 10) 0 20

/-- The block is invalid (R323). -/
def Cmd.spInvalid (c : Cmd) : Bool :=
  bits (c.word 4) 20 12 ≠ 0 || bits (c.word 5) 21 11 ≠ 0 || c.spRec % 256 ≠ 0 || c.spLogits % 64 ≠ 0 ||
    c.spTokens = 0 || 2 ^ 20 < c.spTokens || 2 ^ 20 < c.spFirst + c.spTokens || c.spCount ≤ c.spShard || 4 < c.spDomain ||
    (c.m = 1 && (c.spDraft % 64 ≠ 0 || bits (c.word 10) 20 12 ≠ 0 || c.word 11 ≠ 0))

/-- First sequence number of a SAMPLE's exchanges (R333). -/
def Cmd.spSeq (c : Cmd) : Nat := (c.spPosition * 256 + c.spDraw) * 32 % 2 ^ 32

/-- Communicator of a shard set (R333). -/
def Cmd.spCommunicator (c : Cmd) : Nat := 0xFFFFF000 + c.spComm

/-- The result word of a status other than OK (R324). -/
def sampleWord (status : Nat) : Word := BitVec.ofNat 32 (status * 2 ^ 24)

/-! ### Stage control blocks (R321, R322) -/

def scbType (d : Nat) : Nat := bits d 0 8
def scbNext (d : Nat) : Nat := a64 (bits d 13 51 * 64)

/-- The stage fields of a type as (low bit, length) (R321). -/
def scbFields (t : Nat) : List (Nat × Nat) :=
  if t = 1 then [(64, 32)]
  else if t = 2 || t = 3 then [(64, 64), (128, 21)]
  else if t = 4 then [(64, 32), (96, 32), (128, 32), (160, 64), (224, 21), (256, 32)]
  else if t = 5 then [(64, 21), (96, 32), (128, 32)]
  else [(64, 1)]

/-- An FP32 code is positive and finite; finite. -/
def fpPositive (w : Nat) : Bool := w ≠ 0 && w < 0x7F800000
def fpFinite (w : Nat) : Bool := w % 2 ^ 31 < 0x7F800000

/-- A stage control block meets the limits of R321. -/
def scbOk (d : Nat) : Bool :=
  let t := scbType d
  let f (lo len : Nat) := bits d lo len
  1 ≤ t && t ≤ 7 && f 8 5 = 0 &&
    bits d 64 448 = bits (packFields ((scbFields t).map fun x => (x.1, x.2, f x.1 x.2))) 64 448 &&
    (if t = 1 then fpPositive (f 64 32)
     else if t = 2 || t = 3 then f 64 64 % 8 = 0 && f 128 21 ≤ 2 ^ 20
     else if t = 4 then
       fpPositive (f 64 32) && fpFinite (f 96 32) && fpFinite (f 128 32) && f 160 64 % 4 = 0 && 1 ≤ f 224 21 && f 224 21 ≤ 2 ^ 20
     else if t = 5 then
       f 64 21 ≤ 2 ^ 20 && fpPositive (f 96 32) && f 96 32 ≤ 0x3F800000 &&
         (f 128 32 < 0x3F800000 || f 128 32 = 0x80000000)
     else true)

/-! ### What a shard reads (R325) -/

/-- Read `n` units of `w` bytes at a virtual address. -/
def readUnits (s : State) (x : Agent) (va w n : Nat) : State × Except (Nat × Xlat) (List Nat) :=
  match mapSpan s x va (w * n) .load with
  | (s1, .ok m) => (s1, .ok ((List.range n).map fun i => readN (s1.pageByte x m) (va + w * i) w))
  | (s1, .error r) => (s1, .error r)

/-- The chain from an address: its blocks with their addresses, or none when it is invalid (R322). -/
def readChain (s : State) (x : Agent) : Nat → Nat → Nat → State × Except (Nat × Xlat) (Option (List (Nat × Nat)))
  | 0, va, _ => (s, .ok (if va = 0 then some [] else none))
  | fuel + 1, va, last =>
    if va = 0 then (s, .ok (some []))
    else if va % 64 ≠ 0 then (s, .ok none)
    else match readUnits s x va 64 1 with
      | (s1, .error r) => (s1, .error r)
      | (s1, .ok ds) =>
        let d := ds.headD 0
        if !scbOk d || scbType d ≤ last then (s1, .ok none)
        else match readChain s1 x fuel (scbNext d) (scbType d) with
          | (s2, .ok (some t)) => (s2, .ok (some ((d, va) :: t)))
          | r => r

/-- The block of a stage, with its address. -/
def stage (ch : List (Nat × Nat)) (t : Nat) : Option (Nat × Nat) := ch.find? fun x => scbType x.1 = t

/-- The chain has the block that the sub-operation runs (R322). -/
def chainEnds (m : Nat) (ch : Option (List (Nat × Nat))) : Option (List (Nat × Nat)) :=
  ch.filter fun l => (stage l (if m = 1 then 7 else 6)).isSome

/-- Everything a shard reads (R325). -/
def sampleRead (s : State) (c : Cmd) : State × Except (Nat × Xlat) SampleIn :=
  let x := c.agent
  let f := c.spFirst
  let n := c.spTokens
  match readUnits s x c.spRec 256 1 with
  | (s1, .error r) => (s1, .error r)
  | (s1, .ok rs) =>
    let rec0 := rs.headD 0
    match readChain s1 x 7 (bits rec0 576 64) 0 with
    | (s2, .error r) => (s2, .error r)
    | (s2, .ok ch0) =>
      match chainEnds c.m ch0 with
      | none => (s2, .ok ⟨rec0, none, [], [], [], [], []⟩)
      | some ch =>
        let d (t : Nat) : Nat := ((stage ch t).map (·.1)).getD 0
        let used := min (bits (d 4) 256 32) (bits (d 4) 224 21)
        let len := if (stage ch 3).isSome then bits (d 3) 128 21 else 0
        let lo := f / 8
        let hi := ceilDiv (min len (f + n)) 8
        match readUnits s2 x (bits (d 2) 64 64) 8 (bits (d 2) 128 21) with
        | (s3, .error r) => (s3, .error r)
        | (s3, .ok bs) =>
          match readUnits s3 x (bits (d 3) 64 64 + lo) 1 (hi - lo) with
          | (s4, .error r) => (s4, .error r)
          | (s4, .ok ms) =>
            match readUnits s4 x (bits (d 4) 160 64) 4 used with
            | (s5, .error r) => (s5, .error r)
            | (s5, .ok ring) =>
              match readUnits s5 x c.spLogits 4 n with
              | (s6, .error r) => (s6, .error r)
              | (s6, .ok ls) =>
                match readUnits s6 x c.spDraft 4 (if c.m = 1 then n else 0) with
                | (s7, .error r) => (s7, .error r)
                | (s7, .ok qs) =>
                  let bit (t : Nat) : Bool := t < len && bits ((ms[t / 8 - lo]?).getD 0) (t % 8) 1 = 1
                  (s7, .ok
                    { record := rec0, chain := some ch
                      logits := ls.map (BitVec.ofNat 32 ·)
                      bias := bs.map fun b => (if bits b 20 12 = 0 then bits b 0 20 else 2 ^ 20, BitVec.ofNat 32 (b / 2 ^ 32))
                      allowed := (List.range n).map fun i => (stage ch 3).isNone || bit (f + i)
                      ring := ring.map fun r => if bits r 20 12 = 0 then bits r 0 20 else 2 ^ 20
                      draft := qs.map (BitVec.ofNat 32 ·) })

/-! ### The stages (R326) -/

/-- −∞: the value of an excluded token. -/
def negInf : Word := 0xFF800000

def fpAdd (a b : Word) : Word := fpWord ((fp a).add (fp b))

/-- A quotient to 400 further bits with a sticky bit (log 18). -/
def wideDiv : Ext → Ext → Ext
  | .fin a m e, .fin b n k =>
    if n = 0 || m = 0 then (Ext.fin a m e).div (.fin b n k)
    else .fin (a != b) (2 * (m * 2 ^ 400 / n) + if m * 2 ^ 400 % n = 0 then 0 else 1) (e - k - 401)
  | x, y => x.div y

/-- One token through SCALE, BIAS, MASK and PENALTY (R326). -/
def shapeToken (d : SampleIn) (ch : List (Nat × Nat)) (t : Nat) (allowed : Bool) (logit : Word) : Word :=
  let blk (n : Nat) : Option Nat := (stage ch n).map (·.1)
  let w (b lo : Nat) : Word := BitVec.ofNat 32 (bits b lo 32)
  let x0 := if fp logit = .nan then negInf else logit
  let keep (x : Word) (y : Word) : Word := if x = negInf then negInf else y
  let x1 := match blk 1 with
    | some b => keep x0 (fpWord ((fp x0).div (fp (w b 64))))
    | none => x0
  let x2 := d.bias.foldl (fun x e => if e.1 = t then keep x (fpAdd x e.2) else x) x1
  let x3 := if allowed then x2 else negInf
  match blk 4 with
  | none => x3
  | some b =>
    let c := (d.ring.filter (· = t)).length
    if c = 0 || x3 = negInf then x3
    else
      let rho := fp (w b 64)
      let y := if Ext.lt (.fin false 0 0) (fp x3) then wideDiv (fp x3) rho else (fp x3).mul rho
      fpWord ((y.add (fp (w b 96)).neg).add (((fp (w b 128)).mul (.fin false c 0)).neg))

/-- Working values of a shard after the shaping stages (R326). -/
def shapeShard (c : Cmd) (d : SampleIn) : List (Nat × Word) :=
  match d.chain with
  | none => []
  | some ch =>
    (List.range c.spTokens).map fun i =>
      (c.spFirst + i, shapeToken d ch (c.spFirst + i) ((d.allowed[i]?).getD true) ((d.logits[i]?).getD 0))

/-! ### Weights, ranks and sums (R327) -/

/-- A token of the set: its id, its key and its weight e. -/
structure Cand where
  id : Nat
  key : Nat
  e : Word
  deriving DecidableEq, Repr

/-- key(t) (R327). -/
def sampleKey (x : Word) : Nat := (if x.getLsbD 31 then ~~~x else x ^^^ 0x80000000).toNat

/-- e(t) against the maximum m (R327). -/
def sampleE (m x : Word) : Word :=
  if x = negInf then 0
  else if m = 0x7F800000 then (if x = 0x7F800000 then 0x3F800000 else 0)
  else fpWord (((fp x).add (fp m).neg).expNat)

/-- A list of shards: the tokens of each in ascending id. -/
abbrev Shards := List (List Cand)

/-- Ascending sum of a shard's weights (R327). -/
def ascSum (w : Cand → Word) (l : List Cand) : Word := l.foldl (fun a t => fpAdd a (w t)) 0

/-- Sums in ascending k, each addition rounded (R327). -/
def globalSum (l : List Word) : Word :=
  match l with
  | [] => 0
  | a :: t => t.foldl fpAdd a

def Shards.total (w : Cand → Word) (ss : Shards) : Word := globalSum (ss.map (ascSum w))

/-- Tokens of a set in shard order. -/
def Shards.all (ss : Shards) : List Cand := ss.flatten

def Shards.keep (p : Cand → Bool) (ss : Shards) : Shards := ss.map (·.filter p)

/-- Rank order (R327). -/
def Cand.before (a b : Cand) : Bool := b.key < a.key || (a.key = b.key && a.id < b.id)

/-- First token in rank order. -/
def firstRank (l : List Cand) : Option Cand :=
  l.foldl (fun b t => match b with
    | none => some t
    | some y => if t.before y then some t else b) none

/-! ### FILTER (R328, R329) -/

/-- Walk the bins from 255 downward: the bin whose addition reaches the target, with the sum before it (R329). -/
def walkBins {α : Type} (add : α → Nat → α) (reached : α → Bool) : Nat → α → Option (Nat × α)
  | 0, _ => none
  | b + 1, cum => if reached (add cum b) then some (b, cum) else walkBins add reached b (add cum b)

/-- Four radix passes: K*, with what accumulates above it; none when no bin reaches the target (R329). `bin prefix width b`
is what pass adds for byte b under a prefix. -/
def radixGo {α : Type} (bin : Nat → Nat → α → Nat → α) (reached : α → Bool) : Nat → Nat → Nat → α → Option (Nat × α)
  | 0, _, pre, cum => some (pre, cum)
  | n + 1, i, pre, cum =>
    match walkBins (bin pre i) reached 256 cum with
    | none => none
    | some (b, cum1) => radixGo bin reached n (i + 1) (pre * 256 + b) cum1

/-- Tokens of a shard that pass i counts in bin b (R329). -/
def binTokens (pre i b : Nat) (l : List Cand) : List Cand :=
  l.filter fun t => t.key / 2 ^ (32 - 8 * i) = pre && t.key / 2 ^ (24 - 8 * i) % 256 = b

/-- top-k (R328). -/
def filterTopK (k : Nat) (ss : Shards) : Shards :=
  let bin (pre i cum b : Nat) : Nat := cum + min (2 ^ 32 - 1) ((ss.map fun l => (binTokens pre i b l).length).foldl (· + ·) 0)
  match radixGo bin (fun n => k ≤ n) 4 0 0 0 with
  | none => ss
  | some (ks, above) =>
    let tied := (Shards.all ss).filter fun t => t.key = ks
    let kept := (tied.take (k - above)).map (·.id)
    ss.keep fun t => ks < t.key || (t.key = ks && kept.contains t.id)

/-- top-p: the target P = rne(p × Z′) over the survivors' mass (R328, R329). -/
def filterTopP (p : Word) (ss : Shards) : Shards :=
  let target := fpWord ((fp p).mul (fp (ss.total (·.e))))
  let mass (pre i b : Nat) : Word := globalSum (ss.map fun l => ascSum (·.e) (binTokens pre i b l))
  match radixGo (fun pre i cum b => fpAdd cum (mass pre i b)) (fun c => fcmpLe target c) 4 0 0 (0 : Word) with
  | none => ss
  | some (ks, _) => ss.keep fun t => ks ≤ t.key

/-- FILTER: top-k, min-p, top-p (R328). -/
def filterStage (b : Nat) (ss : Shards) : Shards :=
  let minp : Word := BitVec.ofNat 32 (bits b 128 32)
  let topp : Word := BitVec.ofNat 32 (bits b 96 32)
  let s1 := if bits b 64 21 = 0 then ss else filterTopK (bits b 64 21) ss
  let s2 := s1.keep fun t => !fcmpLt t.e minp
  if topp = 0x3F800000 then s2 else filterTopP topp s2

/-! ### Random values and draws (R330, R331) -/

/-- Rounds of Philox4x32-10 (R330). -/
def philox : Nat → Nat × Nat → Nat × Nat × Nat × Nat → Nat × Nat × Nat × Nat
  | 0, _, c => c
  | n + 1, k, c =>
    let k1 := if n + 1 = 10 then k else ((k.1 + 0x9E3779B9) % 2 ^ 32, (k.2 + 0xBB67AE85) % 2 ^ 32)
    let p0 := 0xD2511F53 * c.1
    let p1 := 0xCD9E8D57 * c.2.2.1
    philox n k1 (Nat.xor (Nat.xor (p1 / 2 ^ 32) c.2.1) k1.1, p1 % 2 ^ 32, Nat.xor (Nat.xor (p0 / 2 ^ 32) c.2.2.2) k1.2, p0 % 2 ^ 32)

/-- u0 and u1 of a request seed, a position and a draw index, as exact reals (R330). -/
def uniforms (seed position draw : Nat) : Ext × Ext :=
  let c := philox 10 (seed % 2 ^ 32, seed / 2 ^ 32) (position, draw, 0, 0)
  (.fin false (2 * c.1 + 1) (-33), .fin false (2 * c.2.1 + 1) (-33))

/-- First token of a shard with C(t) > r, from the running sum of the shards below (R331). -/
def drawShard (w : Cand → Word) (r : Ext) (base : Word) : List Cand → Word → Option Cand
  | [], _ => none
  | t :: rest, l =>
    let l1 := fpAdd l (w t)
    if r.lt (fp (fpAdd base l1)) then some t else drawShard w r base rest l1

def drawShards (w : Cand → Word) (r : Ext) : Shards → Word → Option Cand
  | [], _ => none
  | l :: rest, base =>
    match drawShard w r base l 0 with
    | some t => some t
    | none => drawShards w r rest (fpAdd base (ascSum w l))

/-- A draw from weights (R331): Z is the same running sum over all shards. -/
def drawFrom (w : Cand → Word) (u1 : Ext) (ss : Shards) : Option Cand :=
  let z := (ss.map (ascSum w)).foldl fpAdd 0
  match drawShards w (u1.mul (fp z)) ss 0 with
  | some t => some t
  | none => (Shards.all ss).getLast?

/-! ### VERIFY (R332, R441) -/

/-- q(t) of the draft, +0 when NaN or negative. -/
def draftOf (q : Tab Word) (t : Nat) : Word :=
  let w := Tab.get q t 0
  if fp w = .nan || w.getLsbD 31 then 0 else w

/-- Residual weight d(t) (R332). -/
def residual (q : Tab Word) (z : Word) (t : Cand) : Word :=
  let v := fpAdd (fpWord ((fp t.e).div (fp z))) (draftOf q t.id ^^^ 0x80000000)
  if fcmpLt 0 v then v else 0

/-- The token that VERIFY emits, with ACCEPT and RESIDUAL_ZERO; an infinite q of the draft token makes every residual weight +0 (R332,
R441). -/
def verify (mode x : Nat) (q : Tab Word) (u0 u1 : Ext) (ss : Shards) : Option (Nat × Bool × Bool) :=
  let l := Shards.all ss
  if mode = 1 then (firstRank l).map fun t => (t.id, t.id = x, false)
  else
    let z := ss.total (·.e)
    let e := ((l.find? fun t => t.id = x).map (·.e)).getD 0
    let held := (Tab.find q x).isSome
    -- u0 × q(x) < e(x) / Z′ exactly, with Z′ > 0
    let accept := held && ((u0.mul (fp (draftOf q x))).mul (fp z)).lt (fp e)
    if accept then some (x, true, false)
    else if fp (draftOf q x) = .inf false || fcmpEq (ss.total (residual q z)) 0 then (drawFrom (·.e) u1 ss).map fun t => (t.id, false, true)
    else (drawFrom (residual q z) u1 ss).map fun t => (t.id, false, false)

/-! ### The whole computation -/

/-- Outcome of a set: a status other than OK, or the token with ACCEPT and RESIDUAL_ZERO. -/
inductive SampleOut
  | status (v : Nat)
  | token (t : Nat) (accept zero : Bool)
  deriving DecidableEq, Repr

/-- Stages and draw over the shards in ascending k (R326 to R332). -/
def sampleCompute (shards : List (Cmd × SampleIn)) : SampleOut :=
  match shards.head?, (shards.head?).bind fun x => x.2.chain with
  | some (c0, d0), some ch =>
    if shards.any fun x => x.2.chain.isNone then .status 1
    else
      let xs := shards.map fun x => shapeShard x.1 x.2
      let m := xs.flatten.foldl (fun a t => fminmax true a t.2) negInf
      if m = negInf then .status 2
      else
        let all : Shards := xs.map fun l =>
          (l.filter fun t => t.2 ≠ negInf).map fun t => ⟨t.1, sampleKey t.2, sampleE m t.2⟩
        let ss := match stage ch 5 with
          | some (b, _) => filterStage b all
          | none => all
        let u := uniforms (bits d0.record 640 64) c0.spPosition c0.spDraw
        let q : Tab Word := shards.flatMap fun x => (List.range x.2.draft.length).map fun i => (x.1.spFirst + i, (x.2.draft[i]?).getD 0)
        let mode := bits (((stage ch (if c0.m = 1 then 7 else 6)).map (·.1)).getD 0) 64 1
        let pick : Option (Nat × Bool × Bool) :=
          if c0.m = 1 then verify mode (((shards.head?).map fun x => x.1.spToken).getD 0) q u.1 u.2 ss
          else if mode = 1 then (firstRank (Shards.all ss)).map fun t => (t.id, false, false)
          else (drawFrom (·.e) u.2 ss).map fun t => (t.id, false, false)
        match pick with
        | none => .status 2
        | some (t, a, z) => .token t a z
  | _, _ => .status 1

/-! ### Results, charges and the record (R324, R325, R438, R440) -/

/-- Charge for a SAMPLE (R438): its record shows the shard and the request id of the record that it names. -/
def State.chargeSample (s : State) (c : Cmd) (code info1 req : Nat) : State :=
  s.chargeCmd c code c.spRec (c.spShard + 256 * (c.spCount - 1)) info1 (some req)

/-- A SAMPLE completes with its result; the write of s(h) acquires (R324, R325). -/
def State.sampleDone (s : State) (id : Nat) (v : Word) : State :=
  match Tab.find s.cmds id with
  | none => s
  | some c => { (s.finishCmd id (some v)).acquire c.core with sampling := s.sampling.filter (· ≠ id) }

/-- Request id of the record that a SAMPLE names, for its fault record: what the record holds, whether or not its page moves. -/
def State.sampleReq (s : State) (c : Cmd) : Nat :=
  match (if canonical c.spRec then walk s 0 c.ctx c.spRec .load true none else (s, .fault 0x0204 0)).2 with
  | .ok e => s.peekLE (e.phys c.spRec) 8
  | _ => 0

/-- A SAMPLE ends with SHARDLOST, the exchange of that number of its set having ended with a status (R324, R333, R438). -/
def State.sampleLost (s : State) (id st exchange : Nat) : State :=
  match Tab.find s.cmds id with
  | none => s
  | some c =>
    (s.sampleDone id (sampleWord 3)).chargeSample c 0x0502 (st + 2 ^ 32 * ((c.spSeq + exchange) % 2 ^ 32)) (s.sampleReq c)

/-- Hand a token to the batch former of a context (R325). -/
def State.handToken (s : State) (ctx rec t : Nat) : State :=
  { s with formers := Tab.alter s.formers ctx fun f => { f with emitted := Tab.put f.emitted rec t } }

/-- Shard 0's update of the request, or the address at which it faults: of the record, the ring and the count as they stand when the
update is made (R325). -/
def sampleUpdate (s : State) (c : Cmd) (d : SampleIn) (token : Nat) : State × Option (Nat × Xlat) :=
  match mapSpan s c.agent c.spRec 256 .load with
  | (s0, .error r) => (s0, some r)
  | (s0, .ok m0) =>
    let record := readN (s0.pageByte c.agent m0) c.spRec 256
    if bits record 224 24 ≠ c.spPosition then (s0, none)
    else
      match mapSpan s0 c.agent c.spRec 256 .store with
      | (s1, .error r) => (s1, some r)
      | (s1, .ok m) =>
        let store (s : State) (m : Tab Nat) (a n v : Nat) : State := s.engineStore c.core (pagePhys m a) n v
        let base (s : State) : State :=
          let s2 := store s m (c.spRec + 88) 4 (bits record 704 32 + 1)
          (store s2 m (c.spRec + 28) 3 (bits record 224 24 + 1)).handToken c.ctx c.spRec token
        match d.chain.bind fun ch => stage ch 4 with
        | none => (base s1, none)
        | some (b, va) =>
          match mapSpan s1 c.agent va 64 .store with
          | (s2, .error r) => (s2, some r)
          | (s2, .ok m2) =>
            let count := readN (s2.pageByte c.agent m2) (va + 32) 4
            let e := bits b 160 64 + 4 * (count % bits b 224 21)
            match mapSpan s2 c.agent e 4 .store with
            | (s3, .error r) => (s3, some r)
            | (s3, .ok m3) => (store (store (base s3) m3 e 4 token) m2 (va + 32) 4 (count + 1), none)

/-! ### Shard sets (R333) -/

/-- The operands of a shard as its block holds them: a command with no unit of its own. -/
def Rank.asCmd (a : Rank) : Cmd :=
  { num := 0, core := 0, grp := 0, team := 0, ctx := 0, op := 0xDA, m := a.sub, pc := 0, h := 0, c := 0,
    block := (a.shard.map (·.1)).getD [], item := [], tag := none, qctx := none, handle := .unbound 0, guard := none,
    dead := false, done := [], skipped := [], started := true, recv := [], maps := [], prior := [], doomed := false }

/-- Operands and data of the shards of a set in ascending k. -/
def Coll.shards (i : Coll) : List (Cmd × SampleIn) :=
  (sortRanks i.ranks).filterMap fun a => a.shard.map fun x => (a.asCmd, x.2)

/-- Ranges are contiguous in ascending k from token 0 (R324). -/
def contiguous : List Cmd → Nat → Bool
  | [], _ => true
  | c :: t, at0 => c.spFirst = at0 && contiguous t (at0 + c.spTokens)

/-- Two shards disagree, or name one k (R276, R324). -/
def shardsDiffer (a b : Cmd) : Bool :=
  a.spCount ≠ b.spCount || a.spPosition ≠ b.spPosition || a.spDraw ≠ b.spDraw || a.m ≠ b.m || a.spRec ≠ b.spRec ||
    a.spShard = b.spShard

/-- Commands here of an instance. -/
def Coll.here (i : Coll) : List Nat := i.ranks.filterMap (·.cmd)

/-- Commands in ascending COREID, in which the records of one tick enter their ring (R392). -/
def State.byCore (s : State) (ids : List Nat) : List Nat := sortOn (fun id => ((Tab.find s.cmds id).map (·.core)).getD 0) ids

/-- Every shard here of a set ends with a status (R324). -/
def State.endSet (s : State) (i : Coll) (status : Nat) : State :=
  (s.byCore i.here).foldl (fun s id =>
    match Tab.find s.cmds id with
    | none => s
    | some c =>
      let s1 := s.sampleDone id (sampleWord status)
      if status = 2 then s1.chargeSample c 0x0503 c.spPosition (s.sampleReq c) else s1) s

/-- Every shard here of a set ends with its token. -/
def State.emitSet (s : State) (i : Coll) (t : Nat) (a z : Bool) : State :=
  let v : Word := BitVec.ofNat 32 (packFields [(0, 20, t), (20, 1, if a then 1 else 0), (21, 1, if z then 1 else 0)])
  i.here.foldl (fun s id => s.sampleDone id v) s

/-- Skip the one segment of a SAMPLE with a record; none for a SAMPLE whose team has ended, which writes no record (R334, R421,
R440). A freeze or a pin only holds it. -/
def State.skipSample (s : State) (id va : Nat) (write : Bool) (x : Xlat) : Option State :=
  match Tab.find s.cmds id with
  | none => none
  | some c =>
    match x with
    | .held => some s
    | x => if s.cmdGone c then none else some ((s.skipSegment id 0 5 va write x).getD s)

/-- The exchanges that the SAMPLEs of a set use: the block fields; the maximum; of top-k four radix passes and the counts at its last
key; of top-p the global sum and four radix passes; then the best token, or the sums of a draw, which for VERIFY follow the global sum
and the answer of the test, with the sum of the residual weights where the draft token is not accepted (R327 to R333; log 31). -/
def setExchanges (ds : List (Cmd × SampleIn)) : Nat :=
  match sampleCompute ds, ds.head? with
  | .token _ accept _, some (c0, d0) =>
    let ch := d0.chain.getD []
    let filter := match stage ch 5 with
      | some (b, _) => (if bits b 64 21 = 0 then 0 else 5) + if bits b 96 32 = 0x3F800000 then 0 else 5
      | none => 0
    let mode := bits (((stage ch (if c0.m = 1 then 7 else 6)).map (·.1)).getD 0) 64 1
    2 + filter + if mode = 1 || c0.m = 0 then 1 else if accept then 2 else 4
  | .status 2, _ => 2
  | _, _ => 1

/-- The next exchange of a set begins, with its own timeout (R333). -/
def Coll.nextExchange (i : Coll) (now : Nat) : Coll := { i with exchange := i.exchange + 1, came := [], first := now }

/-- A set that is ready goes on: with ranks on other devices to its next exchange while one remains; then it is computed: its stages, its
draw, the record and the results. Shard 0 updates the record; where its store faults and no record may be written, the set completes
without the update (R324, R325, R333, R440; log 106). -/
def State.serveSet (s : State) (n : Nat) (i : Coll) : State :=
  let gone : State := { s with colls := Tab.del s.colls n }
  let ds := i.shards
  if i.ranks.any (·.cmd.isNone) && i.exchange + 1 < (if contiguous (ds.map (·.1)) 0 then setExchanges ds else 1) then
    s.putColl n (i.nextExchange (s.ticks 0))
  else if !contiguous (ds.map (·.1)) 0 then gone.endSet i 5
  else match sampleCompute ds with
    | .status v => gone.endSet i v
    | .token t a z =>
      let emit (s : State) : State := ({ s with colls := Tab.del s.colls n }).emitSet i t a z
      let first := (i.ranks.find? fun a => a.r = 0).bind (·.cmd)
      match first.bind fun id => (Tab.find s.cmds id).map fun c => (id, c), ds.head? with
      | some (id, c), some (_, d) =>
        match sampleUpdate s c d t with
        | (s1, some (va, x)) => (s1.skipSample id va true x).getD (emit s1)
        | (s1, none) => emit s1
      | _, _ => emit s

/-- Ranks of other devices that have yet to contribute to the exchange in progress; they bring the first with them (R333). -/
def Coll.awaits (i : Coll) : Bool := 0 < i.exchange && i.ranks.any fun a => a.cmd.isNone && !i.came.contains a.r

/-- An exchange of a set is complete: every shard has arrived, those here are under way and wait for no handler, and those of other
devices have contributed (R333, R422). -/
def State.setReady (s : State) (i : Coll) : Bool :=
  i.shard && i.ended.isNone && i.size = i.ranks.length && !i.awaits &&
    i.here.all fun id => (Tab.find s.cmds id).any fun c => c.skipped = []

/-- The set that a shard joins: of its communicator and its first sequence number, else one of its record and sub-operation that lacks
its k and is open or has ended with a mismatch (R333, R337; log 31). -/
def State.findSet (s : State) (a : Rank) (comm seq : Nat) : Option (Nat × Coll) :=
  let same (x : Nat × Coll) : Bool := x.2.shard && x.2.comm = comm && 1 < x.2.size
  match s.colls.find? fun x => same x && x.2.seq = seq with
  | some x => some x
  | none => s.colls.find? fun x => same x && x.2.ended.all (·.1 = 3) &&
      x.2.ranks.any (fun b => b.asCmd.spRec = a.asCmd.spRec && b.sub = a.sub) && !(x.2.ranks.any fun b => b.r = a.r)

/-- Timeout of a shard set in units of 1,024 ticks (R333). -/
def State.setTimeout (s : State) : Nat := ceilDiv s.csr.smptmo 1024

/-- A shard that has read its data arrives at its set; the root of a set is the device of shard 0 (R333). -/
def State.joinSet (s : State) (a : Rank) (comm seq : Nat) : State :=
  let end_ (s : State) (f : State → Nat → State) : State := a.cmd.elim s (f s)
  let root := if a.r = 0 then a.dev else s.ownFabric
  let fresh : State :=
    let i : Coll := ⟨comm, seq, true, root, s.ticks 0, if a.n = 1 then 0 else s.setTimeout, [a], none, false, 0, []⟩
    ({ s with idCtr := s.idCtr + 1 }).putColl s.idCtr i
  if a.n = 1 then fresh
  else match s.findSet a comm seq with
    | none => fresh
    | some (n, i) =>
      let j := { i with ranks := i.ranks ++ [a], root := if a.r = 0 then a.dev else i.root }
      match i.ended with
      | some (3, _) => (end_ s fun s id => s.sampleDone id (sampleWord 5)).keepColl n j
      | some (st, _) => (end_ s fun s id => s.sampleLost id st i.exchange).keepColl n j
      | none =>
        if i.ranks.any fun b => shardsDiffer a.asCmd b.asCmd then
          (j.here.foldl (fun s id => s.sampleDone id (sampleWord 5)) s).keepColl n { j with ended := some (3, s.ticks 0) }
        else s.putColl n j

/-- Two SAMPLEs of one record may be shards of one set, which a sampler applies together (R325, R333). -/
def Cmd.companions (c d : Cmd) : Bool :=
  1 < c.spCount && 1 < d.spCount && c.spCommunicator = d.spCommunicator && (c.m = d.m || c.spSeq = d.spSeq) && c.spShard ≠ d.spShard

/-- It is the turn of a SAMPLE: every one of its record that reached the sampler of its die before it has ended, but those of its own
set (R325, R337). -/
def State.sampleTurn (s : State) (id : Nat) (c : Cmd) : Bool :=
  (s.sampling.takeWhile (· ≠ id)).all fun n =>
    match Tab.find s.cmds n with
    | none => true
    | some d => d.spRec ≠ c.spRec || d.ctx ≠ c.ctx || dieOfCore d.core ≠ dieOfCore c.core || c.companions d

/-- A SAMPLE at its turn reads its data and arrives at its set; where a read faults it arrives when a handler has replayed it, and is
dropped when its team has ended (R325, R333, R422, R440; log 106). -/
def State.sampleGo (s : State) (id : Nat) : State :=
  match Tab.find s.cmds id with
  | none => s
  | some c =>
    if c.skipped ≠ [] || !s.sampleTurn id c || s.colls.any (fun x => x.2.shard && x.2.here.contains id) then s
    else match sampleRead s c with
      | (s1, .error (va, x)) => (s1.skipSample id va false x).getD { s1.finishCmd id none with sampling := s.sampling.filter (· ≠ id) }
      | (s1, .ok d) =>
        s1.joinSet ⟨c.spShard, c.spCount, c.m, 0, 0, 0, some id, s.ownFabric, 0, 0, none, some (c.block, d)⟩ c.spCommunicator c.spSeq

/-- Let every SAMPLE go on that can, and compute every set that is ready; a set that ends may let others go on. -/
def State.pumpSamples (s : State) : Nat → State
  | 0 => s
  | n + 1 =>
    let s1 := s.sampling.foldl State.sampleGo s
    let s2 := (s1.colls.filter fun x => s1.setReady x.2).foldl (fun s x => if s.setReady x.2 then s.serveSet x.1 x.2 else s) s1
    s2.pumpSamples n

/-- Let the samplers go on as far as they can. -/
def State.pumpSets (s : State) : State := s.pumpSamples (s.sampling.length + s.colls.length + 1)

/-- SAMPLE reaches the sampler engine (R323, R325). -/
def State.applySample (s : State) (id : Nat) (c : Cmd) : State :=
  if c.spInvalid then s.invalidCmd id 8 (some (sampleWord 4))
  else
    ({ s with cmds := Tab.alter s.cmds id fun c => { c with started := true }, sampling := s.sampling ++ [id] }).pumpSets

/-- The sampler of a die holds 256 SAMPLEs in progress at most (R325). -/
def State.samplerRoom (s : State) (die : Nat) : Bool :=
  (s.cmds.filter fun x => x.2.op = 0xDA && x.2.started && dieOfCore x.2.core = die).length < 256

/-- SAMPLE.SUBMIT (R323). -/
def execSampleSubmit (f : FmtG) (s : State) : Host.Outcome State Fault Refusal := plainCmd (.sampleSubmit f) 0xDA 0 f 8 false s
/-- SAMPLE.VERIFY (R332). -/
def execSampleVerify (f : FmtG) (s : State) : Host.Outcome State Fault Refusal := plainCmd (.sampleVerify f) 0xDA 1 f 12 false s

/-! ### Timeouts and release (R276, R439) -/

/-- A rank has not arrived, or is lost with its die, or has not written its result (R276, R422, R439). -/
def State.collLacks (s : State) (i : Coll) : Bool :=
  i.served || i.awaits || i.ranks.length < i.size || i.ranks.any (fun a => a.data.isNone && a.shard.isNone) ||
    i.here.any fun id => (Tab.find s.cmds id).isNone

/-- An instance's timeout has passed, at the engine of the root (R275, R276, R333). -/
def State.collExpired (s : State) (i : Coll) : Bool :=
  i.ended.isNone && i.timeout ≠ 0 && i.root = s.ownFabric && s.collLacks i && decide (i.first + 1024 * i.timeout ≤ s.ticks 0)

/-- An instance ends with status 1, 3 or 4 (R276, R324, R438, R439). -/
def State.endInstance (s : State) (n : Nat) (i : Coll) (st : Nat) : State :=
  if !i.shard then s.failColl n i st
  else
    let one (s : State) (id : Nat) : State := if st = 3 then s.sampleDone id (sampleWord 5) else s.sampleLost id st i.exchange
    (((s.byCore i.here).foldl one s).keepColl n { i with ended := some (st, s.ticks 0) }).pumpSets

/-- COLL_TIMEOUT (R276, R333, R439). -/
def execCollTimeout (s : State) : Host.Outcome State Fault Refusal :=
  onEvent s fun
    | .collTimeout n =>
      match Tab.find s.colls n with
      | none => none
      | some i => if s.collExpired i then some (s.endInstance n i 1) else none
    | _ => none

/-- Ranks are lost with their links or devices: the instances whose root or one of whose ranks they are end with status 4 (R276,
R425, R427, R438). -/
def State.loseRanks (s : State) (hit : Nat → Bool) : State :=
  let lost (i : Coll) : Bool := i.ended.isNone && (i.ranks.map (·.dev) ++ [i.root]).any fun d => d ≠ s.ownFabric && hit d
  (s.colls.filter fun x => lost x.2).foldl (fun s x =>
    match Tab.find s.colls x.1 with
    | none => s
    | some i => s.endInstance x.1 i 4) s

/-- A rank of another device arrives over Diron Link: with its contribution at a COLL, with its operands and data at a shard set
(R275, R333). -/
def State.farRank (s : State) (comm seq timeout root : Nat) (a : Rank) : State :=
  if a.cmd.isSome || a.dev = s.ownFabric || s.deviceLost a.dev || (a.data.isNone && a.shard.isNone) then s
  else if a.shard.isSome then (s.joinSet a comm seq).pumpSets
  else s.joinColl a comm seq root timeout

/-- Rank `r` of another device contributes to the exchange in progress of a shard set (R333). -/
def State.farStep (s : State) (n r : Nat) : State :=
  match Tab.find s.colls n with
  | none => s
  | some i =>
    let far (a : Rank) : Bool := a.r = r && a.cmd.isNone && !s.deviceLost a.dev
    if i.shard && i.ended.isNone && 0 < i.exchange && i.ranks.any far && !i.came.contains r then
      (s.putColl n { i with came := r :: i.came }).pumpSets
    else s

/-- The engine of the root of an instance, another device, ends it with status 1, 3 or 4 (R275, R276, R333). -/
def State.farStatus (s : State) (n st : Nat) : State :=
  match Tab.find s.colls n with
  | none => s
  | some i => if i.root = s.ownFabric || i.ended.isSome || !(st = 1 || st = 3 || st = 4) then s else s.endInstance n i st

/-- COLL_INSTANCE_RELEASE: one further timeout has passed (R439). -/
def execCollInstanceRelease (s : State) : Host.Outcome State Fault Refusal :=
  onEvent s fun
    | .collInstanceRelease n =>
      match Tab.find s.colls n with
      | none => none
      | some i =>
        match i.ended with
        | some (_, t) =>
          if i.timeout ≠ 0 && t + 1024 * i.timeout ≤ s.ticks 0 then some { s with colls := Tab.del s.colls n } else none
        | none => none
    | _ => none

end Sys2Proof.Machine
end

