-- ==== Sys2Proof/Machine/Trees.lean ====
section
/-! DEFINITION. Token trees and copy-on-write KV pages: the Abacus's structures in physical memory, TREE, KVBIND, bindings
and their pins, the prefix table, and the marks that start a cancellation (R285 to R320, R433 to R436). -/

namespace Sys2Proof.Machine

/-! ### The table of trees (R285 to R287) -/

/-- Home die of a tree (R285). -/
def treeDie (t : Nat) : Nat := bits t 19 1

/-- TREEBASE of a die. -/
def State.treeBase (s : State) (d : Nat) : Nat :=
  bits (if d = 0 then s.csr.treebase0 else s.csr.treebase1).toNat 13 39 * 8192

/-- Address of a tree's record (R286). -/
def State.treeAddr (s : State) (t : Nat) : Nat := s.treeBase (treeDie t) + 8192 * (t % 2 ^ 19)

/-- Header of a tree. -/
def State.treeHdr (s : State) (t : Nat) : Nat := s.peekLE (s.treeAddr t) 64

def State.setHdr (s : State) (t v : Nat) : State := s.deviceStore 0 (s.treeAddr t) 64 v

/-- Node record of a slot (R287). -/
def State.nodeRec (s : State) (t n : Nat) : Nat := s.peekLE (s.treeAddr t + 0x1000 + 64 * n) 64

def State.setNode (s : State) (t n v : Nat) : State := s.deviceStore 0 (s.treeAddr t + 0x1000 + 64 * n) 64 v

def thState (h : Nat) : Nat := bits h 0 4
def thType (h : Nat) : Nat := bits h 4 3
/-- Positions of a page, T (R286). -/
def thT (h : Nat) : Nat := 2 ^ bits h 8 4
def thD (h : Nat) : Nat := 16 * bits h 12 6
def thStreams (h : Nat) : Nat := bits h 18 12 + 1
def thNC (h : Nat) : Nat := bits h 30 6 + 1
def thTC (h : Nat) : Nat := bits h 40 24
def thLen (h : Nat) : Nat := bits h 64 24
def thLive (h : Nat) : Nat := bits h 96 64
def thHash (h : Nat) : Nat := bits h 160 64
def thModel (h : Nat) : Nat := bits h 224 64
def thTrunkMap (h : Nat) : Nat := bits h 288 52
def thNodeMap (h : Nat) : Nat := bits h 352 52
def thAsid (h : Nat) : Nat := bits h 416 16
def thTag (h : Nat) : Nat := bits h 432 16
def thRotary (h : Nat) : Nat := bits h 448 52

def ndState (n : Nat) : Nat := bits n 0 2
def ndGen (n : Nat) : Nat := bits n 2 10
def ndParent (n : Nat) : Nat := bits n 12 6
def ndTrunk (n : Nat) : Bool := bits n 18 1 = 1
def ndChildren (n : Nat) : Nat := bits n 20 7
def ndStart (n : Nat) : Nat := bits n 32 24
def ndLen (n : Nat) : Nat := bits n 64 24
def ndAncestry (n : Nat) : Nat := bits n 96 64
def ndHash (n : Nat) : Nat := bits n 160 64
def ndEnd (n : Nat) : Nat := ndStart n + ndLen n

/-- Live slots of a header, ascending. -/
def liveSlots (h : Nat) : List Nat := (List.range 64).filter fun n => bits (thLive h) n 1 = 1

/-- A node word (R287): none for the trunk, or slot and generation. -/
def nodeWord (w : Nat) : Option (Nat × Nat) := if bits w 16 1 = 1 then none else some (bits w 0 6, bits w 6 10)

/-- The node word names a live node (R287). -/
def State.nodeLive (s : State) (t slot gen : Nat) : Bool :=
  let n := s.nodeRec t slot
  ndState n = 1 && ndGen n = gen

/-! ### Pools and page sets (R288, R289, R293, R294) -/

def State.poolCsr (s : State) (d : Nat) : Nat := (if d = 0 then s.csr.kvpool0 else s.csr.kvpool1).toNat

/-- Pool area of a die; 0 when disabled (R285). -/
def State.poolBase (s : State) (d : Nat) : Nat :=
  if 12 < bits (s.poolCsr d) 0 4 then 0 else bits (s.poolCsr d) 16 36 * 65536

/-- Frames of a page set, SS. -/
def State.setSize (s : State) (d : Nat) : Nat := 2 ^ bits (s.poolCsr d) 0 4

/-- Address of the descriptor of the set whose first frame is `f` (R289). -/
def State.setDesc (s : State) (d f : Nat) : Nat := s.poolBase d + 64 + 8 * ((f - (s.die d).poolF0) / s.setSize d)

/-- Start of the free stack (R289). -/
def State.stackBase (s : State) (d : Nat) : Nat := ceilDiv (s.poolBase d + 64 + 8 * (s.die d).poolN) 64 * 64

/-- Sets on the free stack. -/
def State.freeSets (s : State) (d : Nat) : Nat := s.peekLE (s.poolBase d + 8) 4

/-- Pop a set: its first frame, HELD with count 1 (R294). -/
def State.popSet (s : State) (d : Nat) : State × Nat :=
  let n := s.freeSets d - 1
  let k := s.peekLE (s.stackBase d + 4 * n) 4
  let f := (s.die d).poolF0 + s.setSize d * k
  ((s.deviceStore 0 (s.poolBase d + 8) 4 n).deviceStore 0 (s.setDesc d f) 8 (packFields [(0, 16, 1), (16, 2, 1)]), f)

/-- Push a set that has become FREE (R293). -/
def State.pushSet (s : State) (d f : Nat) : State :=
  let n := s.freeSets d
  let s1 := s.deviceStore 0 (s.stackBase d + 4 * n) 4 ((f - (s.die d).poolF0) / s.setSize d)
  (s1.deviceStore 0 (s.poolBase d + 8) 4 (n + 1)).deviceStore 0 (s.setDesc d f) 8 0

def sdCount (x : Nat) : Nat := bits x 0 16
def sdState (x : Nat) : Nat := bits x 16 2
def sdPins (x : Nat) : Nat := bits x 24 16

def State.setWord (s : State) (d f : Nat) : Nat := s.peekLE (s.setDesc d f) 8

/-- Add a reference to a set (R293). -/
def State.addRef (s : State) (d f : Nat) : State :=
  let x := s.setWord d f
  s.deviceStore 0 (s.setDesc d f) 8 (setBits x 0 16 (sdCount x + 1))

/-- Drop a reference; the last frees the set or leaves it draining (R293). -/
def State.dropRef (s : State) (d f : Nat) : State :=
  let x := s.setWord d f
  let x1 := setBits x 0 16 (sdCount x - 1)
  if sdState x = 1 && sdCount x ≤ 1 then
    if sdPins x = 0 then s.pushSet d f else s.deviceStore 0 (s.setDesc d f) 8 (setBits x1 16 2 2)
  else s.deviceStore 0 (s.setDesc d f) 8 x1

/-- Drop a pin; a draining set whose last pin drops is freed (R293, R316). -/
def State.dropPin (s : State) (d f : Nat) : State :=
  let x := s.setWord d f
  if sdState x = 2 && sdPins x ≤ 1 then s.pushSet d f else s.deviceStore 0 (s.setDesc d f) 8 (setBits x 24 16 (sdPins x - 1))

def State.addPin (s : State) (d f : Nat) : State :=
  let x := s.setWord d f
  s.deviceStore 0 (s.setDesc d f) 8 (setBits x 24 16 (sdPins x + 1))

/-! ### Map entries (R290) -/

/-- The trunk, or a node's slot. -/
abbrev Place := Option Nat

/-- First page index of a place's map. -/
def State.firstPage (s : State) (t : Nat) (p : Place) : Nat :=
  match p with
  | none => 0
  | some n => ndStart (s.nodeRec t n) / thT (s.treeHdr t)

/-- Page indices that a place's map holds. -/
def State.mapRoom (s : State) (t : Nat) (p : Place) : Nat :=
  match p with
  | none => thTC (s.treeHdr t)
  | some _ => thNC (s.treeHdr t)

/-- Address of the map entry of page index `j` (R290). -/
def State.entryAddr (s : State) (t : Nat) (p : Place) (j : Nat) : Nat :=
  let h := s.treeHdr t
  match p with
  | none => thTrunkMap h + 16 * j
  | some n => thNodeMap h + 16 * (thNC h * n + (j - s.firstPage t p))

def State.mapEntry (s : State) (t : Nat) (p : Place) (j : Nat) : Nat := s.peekLE (s.entryAddr t p j) 16

def State.setEntry (s : State) (t : Nat) (p : Place) (j v : Nat) : State := s.deviceStore 0 (s.entryAddr t p j) 16 v

def meSet (e : Nat) : Nat := bits e 0 24
def meV (e : Nat) : Bool := bits e 24 1 = 1
def meF (e : Nat) : Bool := bits e 25 1 = 1
def meO (e : Nat) : Bool := bits e 26 1 = 1

/-- A map entry from its fields. -/
def mkEntry (set : Nat) (full own : Bool) (hash : Nat) : Nat :=
  packFields [(0, 24, set), (24, 1, 1), (25, 1, if full then 1 else 0), (26, 1, if own then 1 else 0), (64, 64, hash)]

def State.placeEnd (s : State) (t : Nat) (p : Place) : Nat :=
  match p with
  | none => thLen (s.treeHdr t)
  | some n => ndEnd (s.nodeRec t n)

def State.placeHash (s : State) (t : Nat) (p : Place) : Nat :=
  match p with
  | none => thHash (s.treeHdr t)
  | some n => ndHash (s.nodeRec t n)

/-- Set length and hash of a place. DESIGN CHOICE (log 118): an end of exactly 2^24, which R304 and R307 admit and the fields of 24 bits
cannot hold, is kept modulo 2^24, here and in the value of a result. -/
def State.setEnd (s : State) (t : Nat) (p : Place) (len hash : Nat) : State :=
  match p with
  | none => s.setHdr t (setBits (setBits (s.treeHdr t) 64 24 len) 160 64 hash)
  | some n => s.setNode t n (setBits (setBits (s.nodeRec t n) 64 24 len) 160 64 hash)

/-- The trunk or node has live children (R292). -/
def State.hasChild (s : State) (t : Nat) (p : Place) : Bool :=
  match p with
  | none => (liveSlots (s.treeHdr t)).any fun n => ndTrunk (s.nodeRec t n)
  | some n => ndChildren (s.nodeRec t n) ≠ 0

/-! ### The prefix hash (R295) -/

/-- FNV-1a over bytes (R295). -/
def fnv (h : Nat) : List Byte → Nat
  | [] => h
  | b :: t => fnv (Nat.xor h b.toNat * 0x100000001B3 % 2 ^ 64) t

def fnvToken (h token : Nat) : Nat := fnv h (leBytes token 4)

/-- Hash of a model id: the start of a tree's hash (R291, R295). -/
def fnvModel (m : Nat) : Nat := fnv 0xCBF29CE484222325 (leBytes m 8)

/-! ### The prefix table (R297, R298) -/

/-- Table of a die: its address and log2 of its buckets; none when disabled (R285). -/
def State.prefixTable (s : State) (d : Nat) : Option (Nat × Nat) :=
  let v := (if d = 0 then s.csr.pfxtab0 else s.csr.pfxtab1).toNat
  if bits v 7 45 = 0 || 24 < bits v 0 6 then none else some (bits v 7 45 * 128, bits v 0 6)

/-- Addresses of the entries of a hash's bucket (R297). -/
def bucket (t : Nat × Nat) (h : Nat) : List Nat := (List.range 4).map fun i => t.1 + 128 * (h % 2 ^ t.2) + 32 * i

def pxV (e : Nat) : Bool := bits e 152 1 = 1
def pxSet (e : Nat) : Nat := bits e 128 24

/-- An entry matches a hash, page index and domain tag (R297). -/
def pxMatches (e h j tag : Nat) : Bool := pxV e && bits e 0 64 = h && bits e 64 24 = j && bits e 96 16 = tag

/-- The entry of a die's table that matches a page (R297). -/
def State.prefixFind (s : State) (d h j tag : Nat) : Option Nat :=
  match s.prefixTable d with
  | none => none
  | some t => ((bucket t h).find? fun a => pxMatches (s.peekLE a 32) h j tag).map fun a => s.peekLE a 32

/-- Offer a full trunk page to the table (R293, R298). -/
def State.prefixOffer (s : State) (d h j tag set : Nat) : State :=
  match s.prefixTable d with
  | none => s
  | some t =>
    if (s.prefixFind d h j tag).isSome || sdCount (s.setWord d set) = 65535 then s
    else
      let as := bucket t h
      let lowest := as.foldl (fun (b : Nat) a => if bits (s.peekLE a 32) 224 32 < bits (s.peekLE b 32) 224 32 then a else b)
        (as.headD 0)
      let seq := (s.die d).pfxSeq
      let entry := packFields [(0, 64, h), (64, 24, j), (96, 16, tag), (128, 24, set), (152, 1, 1), (224, 32, seq)]
      let a := (as.find? fun a => !pxV (s.peekLE a 32)).getD lowest
      let s1 := if pxV (s.peekLE a 32) then s.dropRef d (pxSet (s.peekLE a 32)) else s
      ((s1.deviceStore 0 a 32 entry).addRef d set).onDie d fun x => { x with pfxSeq := (seq + 1) % 2 ^ 32 }

/-! ### Opening a tree (R291, R301) -/

/-- A context owns a tree of an enabled table on a die in service (R285, R301, R431). -/
def State.ownsTree (s : State) (t ctx : Nat) : Bool :=
  s.treeBase (treeDie t) ≠ 0 && !(s.die (treeDie t)).lost && thAsid (s.treeHdr t) = s.asidOf ctx

/-- A header that R288 and R286 allow, with its pool enabled (R291). -/
def State.hdrOk (s : State) (t : Nat) : Bool :=
  let h := s.treeHdr t
  let d := treeDie t
  let e := elemBytes (thType h)
  (thType h = 2 || thType h = 3 || thType h = 5 || thType h = 6) && bits h 8 4 ≤ 10 && 1 ≤ bits h 12 6 && bits h 12 6 ≤ 16 &&
    thTC h ≠ 0 && thTrunkMap h % 64 = 0 && thNodeMap h % 64 = 0 && thRotary h % 64 = 0 && s.poolBase d ≠ 0 &&
    thT h * thD h * e ≤ 32768 && thStreams h ≤ s.setSize d

/-- The bytes of a range of physical memory become 0. -/
def State.wipe (s : State) (a n : Nat) : State := s.setRange a n (s.mem.filter fun c => !(a ≤ c.1 && c.1 < a + n))

/-- Clear `n` bytes of local memory from the start of a line: a store to each line at its home (R104, R117). -/
def State.clearRange (s : State) (a n : Nat) : State :=
  ((List.range (ceilDiv n 64)).foldl (fun s i => (homeStamp s (lineOf (a + 64 * i)) 0).1) s).wipe a n

/-- Initialise a tree in state NEW whose header is valid (R291). -/
def State.initTree (s : State) (t : Nat) : State :=
  let h := s.treeHdr t
  let s1 := (List.range 64).foldl (fun s n => s.setNode t n (packFields [(2, 10, ndGen (s.nodeRec t n))])) s
  let s2 := (s1.clearRange (thTrunkMap h) (16 * thTC h)).clearRange (thNodeMap h) (16 * 64 * thNC h)
  s2.setHdr t (setBits (setBits (setBits (setBits h 0 4 2) 64 24 0) 96 64 0) 160 64 (fnvModel (thModel h)))

/-- A tree that a TREE operation of its owner reaches: initialised if it was NEW; the result tells whether it is ACTIVE. -/
def State.openTree (s : State) (t : Nat) : State × Bool :=
  let st := thState (s.treeHdr t)
  if st = 1 && s.hdrOk t then (s.initTree t, true) else (s, decide (st = 2))

/-! ### Marks of cancellation (R317 to R319) -/

/-- Mark every group and engine command whose tag has been pruned (R317); those of saved teams too. -/
def State.doom (s : State) (p : Tag → Bool) : State :=
  let hit (t : Option Tag) : Bool := (t.map p).getD false
  let group (g : Group) : Group := if hit g.tag then { g with doomed := true } else g
  let cmd (c : Cmd) : Cmd := if hit c.tag then { c with doomed := true } else c
  let saved (v : Saved) : Saved := { v with groups := v.groups.map (fun x => (x.1, group x.2)), cmds := v.cmds.map fun x => (x.1, cmd x.2) }
  { s with
    groups := s.groups.map fun x => (x.1, group x.2)
    cmds := s.cmds.map fun x => (x.1, cmd x.2)
    saved := s.saved.map fun x => (x.1, saved x.2) }

/-- The tag of a slot and generation of a tree. -/
def tagIs (t slot gen : Nat) (x : Tag) : Bool := x.tree = t && !x.trunk && x.slot = slot && x.gen = gen

/-! ### The operations (R303 to R309): the state, a status of R302 and a value -/

/-- FORK (R303). -/
def treeFork (s : State) (t : Nat) (p : Place) : State × Nat × Nat :=
  let h := s.treeHdr t
  let d := treeDie t
  let e := s.placeEnd t p
  match (List.range 64).find? fun n => bits (thLive h) n 1 = 0 with
  | none => (s, 2, 0)
  | some slot =>
    let inherits := e % thT h ≠ 0
    let old := s.mapEntry t p ((e - 1) / thT h)
    if inherits && sdCount (s.setWord d (meSet old)) = 65535 then (s, 8, 0)
    else
      let gen := (ndGen (s.nodeRec t slot) + 1) % 1024
      let anc := (match p with
        | none => 0
        | some n => ndAncestry (s.nodeRec t n)) ||| 2 ^ slot
      let rec1 := packFields
        [(0, 2, 1), (2, 10, gen), (12, 6, p.getD 0), (18, 1, if p.isNone then 1 else 0), (32, 24, e), (96, 64, anc),
         (160, 64, s.placeHash t p)]
      let s1 := (s.setNode t slot rec1).clearRange (thNodeMap h + 16 * thNC h * slot) (16 * thNC h)
      let s2 := if inherits then (s1.setEntry t (some slot) (e / thT h) (mkEntry (meSet old) false false 0)).addRef d (meSet old)
        else s1
      let s3 := match p with
        | none => s2
        | some n => s2.setNode t n (setBits (s2.nodeRec t n) 20 7 (ndChildren (s2.nodeRec t n) + 1))
      (s3.setHdr t (setBits (s3.treeHdr t) 96 64 (thLive h ||| 2 ^ slot)), 0, slot + 64 * gen)

/-- Remove a live node: PRUNED, out of the live mask, its references dropped, its tag pruned (R306, R317). -/
def State.killNode (s : State) (t n : Nat) : State :=
  let h := s.treeHdr t
  let j0 := s.firstPage t (some n)
  let s1 := (List.range (thNC h)).foldl (fun s k =>
    let e := s.mapEntry t (some n) (j0 + k)
    if meV e then (s.setEntry t (some n) (j0 + k) 0).dropRef (treeDie t) (meSet e) else s) s
  let s2 := s1.setNode t n (setBits (s1.nodeRec t n) 0 2 3)
  (s2.setHdr t (setBits (s2.treeHdr t) (96 + n) 1 0)).doom (tagIs t n (ndGen (s.nodeRec t n)))

/-- Every slot of a tree that is released is FREE and keeps its generation (R291, R435). -/
def State.freeSlots (s : State) (t : Nat) : State :=
  (List.range 64).foldl (fun s n => s.setNode t n (setBits (s.nodeRec t n) 0 2 0)) s

/-- PRUNE of a live node or, for the trunk, release of the tree (R306). -/
def treePrune (s : State) (t : Nat) (p : Place) : State × Nat × Nat :=
  let h := s.treeHdr t
  match p with
  | some n =>
    let sub := (liveSlots h).filter fun m => bits (ndAncestry (s.nodeRec t m)) n 1 = 1
    let r := s.nodeRec t n
    let s1 := if ndTrunk r then s
      else
        let q := s.nodeRec t (ndParent r)
        s.setNode t (ndParent r) (setBits q 20 7 (ndChildren q - 1))
    (sub.foldl (fun s m => s.killNode t m) s1, 0, sub.length)
  | none =>
    let s1 := (liveSlots h).foldl (fun s m => s.killNode t m) s
    let s2 := (List.range (min (thTC h) (ceilDiv (thLen h) (thT h)))).foldl (fun s j =>
      let e := s.mapEntry t none j
      if meV e then (s.setEntry t none j 0).dropRef (treeDie t) (meSet e) else s) s1
    ((s2.freeSlots t).setHdr t (setBits ((s2.freeSlots t).treeHdr t) 0 4 0) |>.doom fun x => x.tree = t, 0, (liveSlots h).length)

/-- The slots from the trunk's child down to a node (R305). -/
def State.pathTo (s : State) (t : Nat) : Nat → Nat → List Nat
  | 0, n => [n]
  | f + 1, n => if ndTrunk (s.nodeRec t n) then [n] else s.pathTo t f (ndParent (s.nodeRec t n)) ++ [n]

/-- Fold one node of the path into the trunk (R305). -/
def State.foldNode (s : State) (t n : Nat) : State :=
  let h := s.treeHdr t
  let d := treeDie t
  let j0 := s.firstPage t (some n)
  let s1 := (List.range (thNC h)).foldl (fun s k =>
    let e := s.mapEntry t (some n) (j0 + k)
    if !meV e then s
    else
      let y := s.mapEntry t none (j0 + k)
      let s0 := s.setEntry t (some n) (j0 + k) 0
      if meV y && !meO e then (s0.setEntry t none (j0 + k) (setBits y 26 1 1)).dropRef d (meSet e)
      else
        let s2 := s0.setEntry t none (j0 + k) (setBits e 26 1 1)
        if meV y then s2.dropRef d (meSet y) else s2) s
  let s2 := s1.setNode t n (setBits (s1.nodeRec t n) 0 2 2)
  s2.setHdr t (setBits (s2.treeHdr t) (96 + n) 1 0)

/-- COMMIT (R305). -/
def treeCommit (s : State) (t : Nat) (p : Place) : State × Nat × Nat :=
  let h := s.treeHdr t
  match p with
  | none => (s, 0, thLen h)
  | some c =>
    let r := s.nodeRec t c
    let e := ndEnd r
    if e ≠ 0 && thTC h ≤ (e - 1) / thT h then (s, 4, 0)
    else
      let path := s.pathTo t 64 c
      let mask := path.foldl (fun m n => m + 2 ^ n) 0
      let s1 := path.foldl (fun s n => s.foldNode t n) s
      let s2 := s1.setEnd t none e (ndHash r)
      let s3 := ((liveSlots (s2.treeHdr t)).filter fun m => bits (ndAncestry (s2.nodeRec t m)) c 1 = 0).foldl
        (fun s m => s.killNode t m) s2
      let s4 := (liveSlots (s3.treeHdr t)).foldl (fun s m =>
        let q := s.nodeRec t m
        let q1 := setBits q 96 64 (Nat.land (ndAncestry q) (2 ^ 64 - 1 - mask))
        s.setNode t m (if !ndTrunk q && ndParent q = c then setBits q1 12 7 64 else q1)) s3
      let s5 := (List.range (e / thT h)).foldl (fun s j =>
        let x := s.mapEntry t none j
        if thLen h < (j + 1) * thT h && meF x then
          s.prefixOffer (treeDie t) (bits x 64 64) j (thTag h) (meSet x) else s) s4
      (s5, 0, e)

/-- Copy `n` bytes of physical memory. -/
def State.copyPhys (s : State) (src dst n : Nat) : State :=
  s.deviceBytes 0 dst ((List.range n).map fun i => s.peek (src + i))

/-- R296: the stream frames of a new set take the inherited positions below the node's start. -/
def State.copyInherited (s : State) (h start old new : Nat) : State :=
  let n := start % thT h * thD h * elemBytes (thType h)
  (List.range (thStreams h)).foldl (fun s i =>
    (s.copyPhys ((old + i) * 65536) ((new + i) * 65536) n).copyPhys ((old + i) * 65536 + 32768) ((new + i) * 65536 + 32768) n) s

/-- Continue a place's hash over token ids, marking each page whose last position is held (R304). -/
def appendTokens (t T : Nat) (p : Place) : List Nat → Nat → Nat → State → State × Nat
  | [], _, h, s => (s, h)
  | x :: rest, pos, h, s =>
    let h1 := fnvToken h x
    let s1 := if (pos + 1) % T = 0 then
        let e := s.mapEntry t p (pos / T)
        s.setEntry t p (pos / T) (setBits (setBits e 25 1 1) 64 64 h1)
      else s
    appendTokens t T p rest (pos + 1) h1 s1

/-- APPEND of token ids (R296, R304); status 5 is POSRANGE. -/
def treeAppend (s : State) (t : Nat) (p : Place) (tokens : List Nat) : State × Nat × Nat :=
  let h := s.treeHdr t
  let d := treeDie t
  let T := thT h
  let c := tokens.length
  let e := s.placeEnd t p
  let j0 := e / T
  let j1 := (e + c - 1) / T
  if s.hasChild t p then (s, 6, 0)
  else if 2 ^ 24 < e + c then (s, 5, 0)
  else if s.firstPage t p + s.mapRoom t p ≤ j1 then (s, 4, 0)
  else
    let pages := (List.range (j1 + 1 - j0)).map (j0 + ·)
    let fresh := pages.filter fun j => !meV (s.mapEntry t p j)
    let x := s.mapEntry t p j0
    let cow := p.isSome && j0 = s.firstPage t p && meV x && !meO x
    let need := fresh.length + if cow then 1 else 0
    if s.freeSets d < need then (s, 3, 0)
    else
      let s1 := if cow then
          let w := s.popSet d
          ((w.1.copyInherited h (ndStart (s.nodeRec t (p.getD 0))) (meSet x) w.2).setEntry t p j0 (mkEntry w.2 false true 0)).dropRef
            d (meSet x)
        else s
      let s2 := fresh.foldl (fun s j => let w := s.popSet d; w.1.setEntry t p j (mkEntry w.2 false true 0)) s1
      let r := appendTokens t T p tokens e (s.placeHash t p) s2
      let len := match p with
        | none => e + c
        | some n => ndLen (s.nodeRec t n) + c
      (r.1.setEnd t p len r.2, 0, e + c)

/-- One page of ADOPT after another; the positions adopted (R293, R307, R433). -/
def adoptPages (t : Nat) : Nat → List Nat → State → State × Nat
  | 0, _, s => (s, 0)
  | f + 1, ids, s =>
    let h := s.treeHdr t
    let T := thT h
    let j := thLen h / T
    if ids.length < T || thTC h ≤ j || 2 ^ 24 < thLen h + T then (s, 0)
    else
      let hash := (ids.take T).foldl fnvToken (thHash h)
      match s.prefixFind (treeDie t) hash j (thTag h) with
      | none => (s, 0)
      | some e =>
        if sdCount (s.setWord (treeDie t) (pxSet e)) = 65535 then (s, 0)
        else
          let s1 := (s.setEntry t none j (mkEntry (pxSet e) true false hash)).addRef (treeDie t) (pxSet e)
          let r := adoptPages t f (ids.drop T) (s1.setEnd t none (thLen h + T) hash)
          (r.1, r.2 + T)

/-- ADOPT (R307). -/
def treeAdopt (s : State) (t : Nat) (ids : List Nat) : State × Nat × Nat :=
  let h := s.treeHdr t
  if thLive h ≠ 0 || thLen h % thT h ≠ 0 then (s, 6, 0)
  else
    let r := adoptPages t (ids.length / thT h) ids s
    (r.1, 0, r.2)

/-! ### TREE at the Abacus (R301, R302, R308, R309, R433, R436) -/

/-- The operand words are invalid (R301, R304, R307 to R309). -/
def treeInvalid (t : Team) (c : Cmd) : Bool :=
  let w2 := c.word 2
  let w3 := c.word 3
  bits (c.word 0) 20 12 ≠ 0 || bits (c.word 1) 17 15 ≠ 0 ||
    (if c.m = 3 || c.m = 4 then
       bits w2 17 15 ≠ 0 || w2 = 0 || 65536 < w2 || w3 % 4 ≠ 0 || t.scratchSize < w3 + 4 * w2 ||
         (c.m = 4 && (nodeWord (c.word 1)).isSome)
     else if c.m = 5 then bits w2 31 1 ≠ 0 || 64 < bits w2 24 7
     else if c.m = 6 then w2 % 64 ≠ 0 || t.scratchSize < w2 + 64
     else false)

/-- Token ids of APPEND and ADOPT, as the tile engine reads them: those that stood at issue, or that a later write to them has put
there (R301). -/
def Cmd.tokenIds (c : Cmd) : List Nat := (List.range (c.word 2)).map fun i => ofBytes ((c.item.drop (4 * i)).take 4)

/-- Count a NOPAGE of a die (R436). -/
def State.countNopage (s : State) (d : Nat) : State :=
  let up (n : Nat) := min (n + 1) (2 ^ 32 - 1)
  if d = 0 then { s with csr := { s.csr with nopage0 := up s.csr.nopage0 } }
  else { s with csr := { s.csr with nopage1 := up s.csr.nopage1 } }

/-- QCTX: the group's query context and node tag, and the context of the KVBINDs that the group has issued after it; a pruned node
word has the group cancelled (R308, R311, R433). -/
def treeQctx (s : State) (c : Cmd) (t : Nat) (live : Bool) : State × Nat × Nat :=
  let w := c.word 1
  let base := bits (c.word 2) 0 24
  let rows := bits (c.word 2) 24 7
  if rows ≠ 0 && 2 ^ 24 < base + rows then (s, 5, 0)
  else
    let tag : Tag := match nodeWord w with
      | none => ⟨t, true, 0, 0⟩
      | some (n, g) => ⟨t, false, n, g⟩
    let q : QueryCtx := ⟨t, w % 2 ^ 17, base, rows⟩
    let later (x : Nat × Cmd) : Nat × Cmd :=
      if c.num < x.1 && x.2.grp = c.grp && x.2.team = c.team && x.2.op = 0xD9 then (x.1, { x.2 with qctx := some q }) else x
    ({ s.onOwn c.grp c.team fun g => { g with qctx := some q, tag := some tag, doomed := !live } with cmds := s.cmds.map later },
      if live then 0 else 1, 0)

/-- QUERY: a copy of the header or of a node record into scratchpad (R309). -/
def treeQuery (s : State) (c : Cmd) (t : Nat) (live : Bool) : State × Nat × Nat :=
  let v := match nodeWord (c.word 1) with
    | none => s.treeHdr t
    | some (n, _) => s.nodeRec t n
  let s1 := match s.team? c.team with
    | none => s
    | some tm => s.raceTiles (s.spadPutLE c.team tm c.ctx (c.word 2) 64 v) tm.core none
  (s1, if live then 0 else 1, (liveSlots (s.treeHdr t)).length)

/-- The result of a TREE on an active tree: state, status, value. -/
def treeOp (s : State) (c : Cmd) (t : Nat) : State × Nat × Nat :=
  let p : Place := (nodeWord (c.word 1)).map (·.1)
  let live := match nodeWord (c.word 1) with
    | none => true
    | some (n, g) => s.nodeLive t n g
  if c.m = 5 then treeQctx s c t live
  else if c.m = 6 then treeQuery s c t live
  else if !live then (s, 1, 0)
  else if c.m = 0 then treeFork s t p
  else if c.m = 1 then treePrune s t p
  else if c.m = 2 then treeCommit s t p
  else if c.m = 3 then treeAppend s t p c.tokenIds
  else treeAdopt s t c.tokenIds

/-- End that an operation refused for POSRANGE would have reached (R433). -/
def State.posReach (s : State) (c : Cmd) (t : Nat) : Nat :=
  if c.m = 5 then bits (c.word 2) 0 24 + bits (c.word 2) 24 7
  else s.placeEnd t ((nodeWord (c.word 1)).map (·.1)) + c.word 2

/-! ### The lines that an operation reads (R86, R428) -/

/-- Address of a node record. -/
def State.nodeAddr (s : State) (t n : Nat) : Nat := s.treeAddr t + 0x1000 + 64 * n

/-- The page indices that a place's map holds. -/
def State.mapPages (s : State) (t : Nat) (p : Place) : List Nat := (List.range (s.mapRoom t p)).map (s.firstPage t p + ·)

/-- The map entries of some pages of a place, and the descriptors of the sets that they name. -/
def State.entryReads (s : State) (t : Nat) (p : Place) (js : List Nat) : List Nat :=
  js.flatMap fun j => s.entryAddr t p j ::
    if meV (s.mapEntry t p j) then [s.setDesc (treeDie t) (meSet (s.mapEntry t p j))] else []

/-- The pool's count of free sets, and the uppermost `n` entries of its free stack with the descriptors of their sets (R294). -/
def State.poolReads (s : State) (d n : Nat) : List Nat :=
  (s.poolBase d + 8) :: (List.range (min n (s.freeSets d))).flatMap fun i =>
    let a := s.stackBase d + 4 * (s.freeSets d - 1 - i)
    [a, s.poolBase d + 64 + 8 * s.peekLE a 4]

/-- The bucket of a hash in a die's prefix table, with the descriptors of the sets that it names (R297). -/
def State.bucketReads (s : State) (d h : Nat) : List Nat :=
  ((s.prefixTable d).map fun t => (bucket t h).flatMap fun a =>
    a :: if pxV (s.peekLE a 32) then [s.setDesc d (pxSet (s.peekLE a 32))] else []).getD []

/-- What ADOPT reads for one page after another (R307). -/
def State.adoptReads (s : State) (t : Nat) : Nat → List Nat → Nat → Nat → List Nat
  | 0, _, _, _ => []
  | f + 1, ids, j, h =>
    let T := thT (s.treeHdr t)
    if ids.length < T then []
    else
      let h1 := (ids.take T).foldl fnvToken h
      let more := (s.prefixFind (treeDie t) h1 j (thTag (s.treeHdr t))).isSome
      s.entryReads t none [j] ++ s.bucketReads (treeDie t) h1 ++ if more then s.adoptReads t f (ids.drop T) (j + 1) h1 else []

/-- Every line of the two streams of a page set that a copy-on-write of `n` bytes reads and writes (R296). -/
def copyReads (h old new n : Nat) : List Nat :=
  (List.range (thStreams h)).flatMap fun i => [old, new].flatMap fun f => [0, 32768].flatMap fun o =>
    (List.range (ceilDiv n 64)).map fun l => (f + i) * 65536 + o + 64 * l

/-- The lines that a TREE operation on an active tree of its owner reads beside the header, by an address in each. -/
def State.treeReads (s : State) (c : Cmd) (t : Nat) : List Nat :=
  let h := s.treeHdr t
  let d := treeDie t
  let p : Place := (nodeWord (c.word 1)).map (·.1)
  let own := (p.map fun n => [s.nodeAddr t n]).getD []
  let recs (ns : List Nat) : List Nat := ns.map (s.nodeAddr t)
  let maps (ns : List Nat) : List Nat := ns.flatMap fun n => s.entryReads t (some n) (s.mapPages t (some n))
  let live := liveSlots h
  let gone := (nodeWord (c.word 1)).any fun n => !s.nodeLive t n.1 n.2
  own ++
    if c.m = 5 || c.m = 6 || gone then []
    else if c.m = 0 then
      recs ((List.range 64).filter fun n => bits (thLive h) n 1 = 0).head?.toList ++
        if s.placeEnd t p % thT h = 0 then [] else s.entryReads t p [(s.placeEnd t p - 1) / thT h]
    else if c.m = 1 then
      recs live ++ s.poolReads d 0 ++ (match p with
        | some n => maps (live.filter fun m => bits (ndAncestry (s.nodeRec t m)) n 1 = 1)
        | none => recs (List.range 64) ++ maps live ++ s.entryReads t none (List.range (min (thTC h) (ceilDiv (thLen h) (thT h)))))
    else if c.m = 2 then
      (match p with
      | none => []
      | some n =>
        let js := s.mapPages t (some n)
        recs live ++ s.poolReads d 0 ++ maps live ++ (s.pathTo t 64 n).flatMap (fun m => s.entryReads t none (s.mapPages t (some m))) ++
          js.flatMap fun j => let e := s.mapEntry t (some n) j; if meV e && meF e then s.bucketReads d (bits e 64 64) else [])
    else if c.m = 3 then
      let e := s.placeEnd t p
      let room := e + c.word 2 ≤ 2 ^ 24 && (e + c.word 2 - 1) / thT h < s.firstPage t p + s.mapRoom t p
      let js := if room then (List.range ((e + c.word 2 - 1) / thT h + 1 - e / thT h)).map (e / thT h + ·) else []
      let x := s.mapEntry t p (e / thT h)
      let cow := room && p.isSome && e / thT h = s.firstPage t p && meV x && !meO x
      let need := (js.filter fun j => !meV (s.mapEntry t p j)).length + if cow then 1 else 0
      (if p.isNone then recs live else []) ++ s.entryReads t p js ++ s.poolReads d need ++
        (match p with
        | some n => if cow then copyReads h (meSet x) (s.popSet d).2 (ndStart (s.nodeRec t n) % thT h * thD h * elemBytes (thType h)) else []
        | none => [])
    else s.adoptReads t (c.tokenIds.length / thT h) c.tokenIds (thLen h / thT h) (thHash h)

/-- The first line that the Abacus reads for a TREE or KVBIND on a tree of its owner and that cannot be read at its home: the header,
and beside it the lines `fresh` of a tree in state NEW and `more` of an active one (R86, R427, R428, R431; log 105). -/
def State.abacusFault (s : State) (t ctx : Nat) (fresh more : List Nat) : Option (Nat × Xlat) :=
  if s.treeBase (treeDie t) = 0 || (s.die (treeDie t)).lost then none
  else match s.frameFault false [s.treeAddr t] with
    | some r => some r
    | none =>
      if !s.ownsTree t ctx then none
      else if thState (s.treeHdr t) = 1 && s.hdrOk t then s.frameFault false fresh
      else if thState (s.treeHdr t) = 2 then s.frameFault false more else none

/-- A TREE or KVBIND waits at its Abacus, out of the tile queue (R316, R428). -/
def State.atAbacusWait (s : State) (id : Nat) : State :=
  { s with cmds := Tab.alter s.cmds id fun c => { c with started := true } }

/-- TREE is applied at the home Abacus and completes: the write of s(h) acquires (R301, R302). Where a line cannot be read the operation
waits in its fix-up list and has done nothing (R428). -/
def State.applyTree (s : State) (id : Nat) (c : Cmd) : State :=
  let t := c.word 0 % 2 ^ 20
  let fin (s : State) (status value : Nat) : State :=
    (s.finishCmd id (some (BitVec.ofNat 32 (status + 256 * value)))).acquire c.core
  let bad := treeInvalid ((s.team? c.team).getD noTeam) c
  match s.abacusFault t c.ctx (if bad then [] else (List.range 64).map (s.nodeAddr t)) (if bad then [] else s.treeReads c t) with
  | some (pa, x) => ((s.atAbacusWait id).skipSegment id 0 1 pa false x).getD s
  | none =>
    if !s.ownsTree t c.ctx then fin s 7 0
    else if bad then s.invalidCmd id 7 (some 9)
    else match s.openTree t with
      | (s1, false) => fin s1 7 0
      | (s1, true) =>
        match treeOp s1 c t with
        | (s2, st, v) =>
          let s3 := if st = 3 then s2.countNopage (treeDie t) else s2
          let s4 := fin s3 st v
          if st = 5 then s4.chargeCmd c 0x0501 0 (t + 2 ^ 32 * c.word 1) (s1.posReach c t) none else s4

/-! ### KVBIND (R311 to R316) -/

/-- Operand words of KVBIND are invalid (R311). -/
def kvInvalid (c : Cmd) : Bool :=
  bits (c.word 0) 12 20 ≠ 0 || bits (c.word 1) 24 8 ≠ 0 || bits (c.word 2) 25 7 ≠ 0 || c.word 2 = 0 ||
    2 ^ 24 < c.word 1 + c.word 2

/-- The set that holds a position of a place. -/
def State.setAt (s : State) (t : Nat) (p : Place) (pos : Nat) : Nat :=
  meSet (s.mapEntry t p (pos / thT (s.treeHdr t)))

/-- Positions of a place within a range, ascending. -/
def placeRange (lo hi first stop : Nat) : List Nat :=
  let a := max lo first
  (List.range (min hi stop - a)).map (a + ·)

/-- Keys of a place in a range as (position, slot or 64, set) (R312). -/
def State.placeKeys (s : State) (t : Nat) (p : Place) (first stop : Nat) : List (Nat × Nat × Nat) :=
  let r : Nat × Nat := match p with
    | none => (0, thLen (s.treeHdr t))
    | some n => (ndStart (s.nodeRec t n), ndEnd (s.nodeRec t n))
  (placeRange r.1 r.2 first stop).map fun q => (q, p.getD 64, s.setAt t p q)

/-- The key list of a binding (R312, R314). -/
def State.bindKeys (s : State) (t m : Nat) (p : Place) (first count : Nat) : List (Nat × Nat × Nat) :=
  let stop := first + count
  if m = 2 || m = 3 then
    s.placeKeys t none first stop ++ (liveSlots (s.treeHdr t)).flatMap fun n => s.placeKeys t (some n) first stop
  else if m = 4 || m = 5 then s.placeKeys t p first stop
  else
    s.placeKeys t none first stop ++ (match p with
      | none => []
      | some n => (s.pathTo t 64 n).flatMap fun n => s.placeKeys t (some n) first stop)

/-- The positions of a key list whose map entry does not own its set, as an adopted page's does not (R292; log 108). -/
def State.shutKeys (s : State) (t : Nat) (p : Place) (ks : List (Nat × Nat × Nat)) : List Nat :=
  (ks.filter fun x => !meO (s.mapEntry t p (x.1 / thT (s.treeHdr t)))).map (·.1)

/-- The sets that a key list names, once each. -/
def keySets (ks : List (Nat × Nat × Nat)) : List Nat := (ks.map fun x => x.2.2).eraseDups

/-- Refusal of a KVBIND that has a query context, the first that holds (R315). DESIGN CHOICE (log 119): a tree that the context does
not own, which R315 does not speak of, is refused with 0x23 before any other cause, and h + 1 keeps its binding. -/
def State.kvRefusal (s : State) (c : Cmd) (q : QueryCtx) : Option Nat :=
  let t := q.tree
  let h := s.treeHdr t
  let own := s.ownsTree t c.ctx
  let p := nodeWord q.node
  let live := match p with
    | none => true
    | some (n, g) => s.nodeLive t n g
  let lo := match p with
    | none => 0
    | some (n, _) => ndStart (s.nodeRec t n)
  let hi := s.placeEnd t (p.map (·.1))
  if own && (c.m = 1 || c.m = 3) && elemBytes (thType h) = 2 && c.h = 31 then some 0x25
  else if !own || thState h ≠ 2 || thStreams h ≤ c.word 0 then some 0x23
  else if !live then some 0x22
  else if 4 ≤ c.m && (c.word 1 < lo || hi < c.word 1 + c.word 2) then some 0x24
  else none

/-- The lines that a KVBIND reads beside the header: node records, map entries and set descriptors (R312, R316). -/
def State.kvReads (s : State) (c : Cmd) (q : QueryCtx) : List Nat :=
  let t := q.tree
  let p : Place := (nodeWord q.node).map (·.1)
  let stop := c.word 1 + c.word 2
  let place (p : Place) : List Nat :=
    let r : Nat × Nat := match p with
      | none => (0, thLen (s.treeHdr t))
      | some n => (ndStart (s.nodeRec t n), ndEnd (s.nodeRec t n))
    (p.map fun n => [s.nodeAddr t n]).getD [] ++
      s.entryReads t p ((placeRange r.1 r.2 (c.word 1) stop).map (· / thT (s.treeHdr t))).eraseDups
  (p.map fun n => [s.nodeAddr t n]).getD [] ++
    if c.m = 2 || c.m = 3 then place none ++ (liveSlots (s.treeHdr t)).flatMap fun n => place (some n)
    else if 4 ≤ c.m then place p
    else place none ++ (p.map fun n => (s.pathTo t 64 n).flatMap fun n => place (some n)).getD []

/-- KVBIND is applied; it waits at the Abacus while a pin does not fit, or for a line that cannot be read (R311, R315, R316, R428). -/
def State.applyKvbind (s : State) (id : Nat) (c : Cmd) : State :=
  if kvInvalid c then s.invalidCmd id 7 none
  else match c.qctx with
    | none => (s.setHandle c.team c.h (.unbound 0x21)).finishCmd id none
    | some q =>
      let t := q.tree
      let h := s.treeHdr t
      let d := treeDie t
      let pair := (c.m = 1 || c.m = 3) && elemBytes (thType h) = 2
      match s.abacusFault t c.ctx [] (s.kvReads c q) with
      | some (pa, x) => ((s.atAbacusWait id).skipSegment id 0 1 pa false x).getD s
      | none =>
      match s.kvRefusal c q with
      | some code =>
        let s1 := s.setHandle c.team c.h (.unbound code)
        let s2 := if pair && code ≠ 0x25 && s.ownsTree t c.ctx then s1.setHandle c.team (c.h + 1) (.unbound code) else s1
        s2.finishCmd id none
      | none =>
        let p := nodeWord q.node
        let keys := s.bindKeys t c.m (p.map (·.1)) (c.word 1) (c.word 2)
        let sets := keySets keys
        if sets.any fun f => sdPins (s.setWord d f) = 65535 then s.atAbacusWait id
        else
          let n := s.idCtr
          let bd : Binding :=
            { tree := t, stream := c.word 0, first := c.word 1, count := c.word 2, dim := thD h, tokens := thT h,
              type := thType h, rotary := thRotary h,
              ancestry := (match p with
                | none => 0
                | some (m, _) => ndAncestry (s.nodeRec t m)),
              keys := keys, shut := if 4 ≤ c.m then s.shutKeys t (p.map (·.1)) keys else [], pins := sets, team := c.team,
              grid := ((s.team? c.team).map (·.grid)).getD 0 }
          let s1 := sets.foldl (fun s f => s.addPin d f) { s with idCtr := n + 1, bindings := Tab.put s.bindings n bd }
          let v (half : Nat) : Handle :=
            if 4 ≤ c.m then .kvWrite n c.m (thType h) 0 else .kvRead n c.m (thType h) 0 half
          let s2 := s1.setHandle c.team c.h (v 0)
          let s3 := if pair then s2.setHandle c.team (c.h + 1) (v 1) else s2
          s3.finishCmd id none

/-- A binding is still named: by a handle of a team, by a command or by a posted entry (R316). -/
def State.bindingNamed (s : State) (b : Nat) : Bool :=
  let team (t : Team) : Bool := t.handles.any fun x => x.2.binding = some b
  s.teams.any (fun x => team x.2) || s.saved.any (fun x => team x.2.team) ||
    s.cmds.any (fun x => x.2.handle.binding = some b) ||
    s.quads.any fun q => q.2.board.any fun e => e.2.src.any fun h => h.binding = some b

/-- BINDING_END: nothing names the binding, and its pins drop (R293, R316). -/
def execBindingEnd (s : State) : Host.Outcome State Fault Refusal :=
  onEvent s fun
    | .bindingEnd b =>
      match Tab.find s.bindings b with
      | none => none
      | some bd =>
        if s.bindingNamed b then none
        else
          let s1 := { s with bindings := Tab.del s.bindings b }
          some (bd.pins.foldl (fun s f => s.dropPin (treeDie bd.tree) f) s1)
    | _ => none

/-! ### Issue -/

/-- Issue of APPEND and ADOPT: the token ids in scratchpad as the group's own earlier stores leave them (R96, R301). -/
def tokenCmd (i : Instr) (m : Nat) (f : FmtG) (s : State) : Host.Outcome State Fault Refusal :=
  cmdIssue i ⟨0xD8, m, f, 4, false⟩ s [] (fun _ => none)
    (fun g _ c =>
      let byte (j : Nat) : Byte := s.spadSeen c.grp (s.teamFor g) c.ctx (c.word 3 + j)
      { c with item := (List.range (4 * min (c.word 2) 65536)).map byte })
    fun s _ => s

/-- TREE.FORK (R303). -/
def execTreeFork (f : FmtG) (s : State) : Host.Outcome State Fault Refusal := plainCmd (.treeFork f) 0xD8 0 f 4 false s
/-- TREE.PRUNE (R306). -/
def execTreePrune (f : FmtG) (s : State) : Host.Outcome State Fault Refusal := plainCmd (.treePrune f) 0xD8 1 f 4 false s
/-- TREE.COMMIT (R305). -/
def execTreeCommit (f : FmtG) (s : State) : Host.Outcome State Fault Refusal := plainCmd (.treeCommit f) 0xD8 2 f 4 false s
/-- TREE.APPEND (R304). -/
def execTreeAppend (f : FmtG) (s : State) : Host.Outcome State Fault Refusal := tokenCmd (.treeAppend f) 3 f s
/-- TREE.ADOPT (R307). -/
def execTreeAdopt (f : FmtG) (s : State) : Host.Outcome State Fault Refusal := tokenCmd (.treeAdopt f) 4 f s
/-- TREE.QCTX (R308). -/
def execTreeQctx (f : FmtG) (s : State) : Host.Outcome State Fault Refusal := plainCmd (.treeQctx f) 0xD8 5 f 4 false s
/-- TREE.QUERY (R309). -/
def execTreeQuery (f : FmtG) (s : State) : Host.Outcome State Fault Refusal := plainCmd (.treeQuery f) 0xD8 6 f 4 false s

/-- KVBIND enters the tile queue; it names its handle (R254, R311). -/
def kvIssue (i : Instr) (m : Nat) (f : FmtG) (s : State) : Host.Outcome State Fault Refusal :=
  cmdIssue i ⟨0xD9, m, f, 3, false⟩ s [f.h.toNat] (fun _ => none) (fun _ _ c => c) fun s _ => s

/-- KVBIND.KP (R311). -/
def execKvbindKp (f : FmtG) (s : State) : Host.Outcome State Fault Refusal := kvIssue (.kvbindKp f) 0 f s
/-- KVBIND.VP (R311). -/
def execKvbindVp (f : FmtG) (s : State) : Host.Outcome State Fault Refusal := kvIssue (.kvbindVp f) 1 f s
/-- KVBIND.KT (R311). -/
def execKvbindKt (f : FmtG) (s : State) : Host.Outcome State Fault Refusal := kvIssue (.kvbindKt f) 2 f s
/-- KVBIND.VT (R311). -/
def execKvbindVt (f : FmtG) (s : State) : Host.Outcome State Fault Refusal := kvIssue (.kvbindVt f) 3 f s
/-- KVBIND.WK (R314). -/
def execKvbindWk (f : FmtG) (s : State) : Host.Outcome State Fault Refusal := kvIssue (.kvbindWk f) 4 f s
/-- KVBIND.WV (R314). -/
def execKvbindWv (f : FmtG) (s : State) : Host.Outcome State Fault Refusal := kvIssue (.kvbindWv f) 5 f s

end Sys2Proof.Machine
end

