-- ==== Sys2Proof/Machine/Start.lean ====
section
/-! DEFINITION. How engines take commands from a core's queues, resolve their guards, stop the commands and groups of a
pruned tag, and replay fix-up lists (R254, R255, R318, R319, R422). -/

namespace Sys2Proof.Machine

/-- Remove the head of a queue of a core (R254). -/
def State.popQueue (s : State) (c : Nat) (uncore : Bool) : State :=
  s.onCore c fun q => if uncore then { q with uncoreQ := q.uncoreQ.tail } else { q with tileQ := q.tileQ.tail }

/-- A command that acts on memory or releases waits for its group's earlier accesses (R100, R117, R269, R272, R301;
log 22). -/
def Cmd.waitsForStores (c : Cmd) : Bool :=
  (c.op = 0xD0 && c.m = 1) || c.op = 0xD1 || c.op = 0xD2 || c.op = 0xD4 || c.op = 0xD7 || c.op = 0xD8 || c.op = 0xDA || c.op = 0xDB

/-- The die whose Abacus a TREE or KVBIND reaches (R310, R311). -/
def Cmd.abacus (c : Cmd) : Option Nat :=
  if c.op = 0xD8 then some (treeDie (c.word 0 % 2 ^ 20)) else if c.op = 0xD9 then c.qctx.map fun q => treeDie q.tree else none

/-- A command of a higher COREID has reached the Abacus in this cycle: commands that arrive in one cycle are taken in ascending
COREID (R310). -/
def State.abacusPassed (s : State) (c : Cmd) : Bool :=
  c.abacus.any fun d => (s.die d).abacus.1 = s.cycles d && c.core < (s.die d).abacus.2

/-- Note the arrival of a command at its Abacus (R310). -/
def State.atAbacus (s : State) (c : Cmd) : State :=
  match c.abacus with
  | none => s
  | some d => s.onDie d fun x => { x with abacus := (s.cycles d, c.core) }

/-- An engine starts a command: it takes effect, or is under way; none while it cannot start. One with a pruned tag is dropped, but a
KVBIND may still reach its Abacus, which refuses it (R319, R320). -/
def State.startCmd (s0 : State) (id : Nat) (c : Cmd) : Option State :=
  let s := s0.atAbacus c
  if c.doomed && c.op ≠ 0xD9 then some (s0.finishCmd id none)
  else if s0.abacusPassed c then none
  else if s.spadEarlier c.grp id || (c.waitsForStores && !s.earlierDone c.grp id) then none
  else
    if c.op = 0xDA && !s.samplerRoom (dieOfCore c.core) then none
    else
      let s1 :=
        if c.op = 0xD0 then s.applyHbind id c
        else if c.op = 0xD1 || c.op = 0xD2 then s.startCopy id c
        else if c.op = 0xD3 || c.op = 0xD4 || c.op = 0xD5 then s.applyXbar id c
        else if c.op = 0xD6 || c.op = 0xD7 then s.applyQueueCmd id c
        else if c.op = 0xD8 then s.applyTree id c
        else if c.op = 0xD9 then s.applyKvbind id c
        else if c.op = 0xDA then s.applySample id c
        else s.applyColl id c
      some s1

/-- A command is still there and has not started: a freeze or a pin has held its first access. -/
def State.unstarted (s : State) (id : Nat) : Bool := (Tab.find s.cmds id).any fun c => !c.started

/-- ENGINE_COMMAND_START: the head of a queue starts and frees its entry (R254). -/
def execEngineCommandStart (s : State) : Host.Outcome State Fault Refusal :=
  onEvent s fun
    | .engineCommandStart c uncore =>
      match ((s.core c).queue uncore).head? with
      | none => none
      | some id =>
        match Tab.find s.cmds id with
        | none => some (s.popQueue c uncore)
        | some x => if x.guard.isSome then none else (s.startCmd id x).map fun s1 => if s1.unstarted id then s1 else s1.popQueue c uncore
    | _ => none

/-- GUARD_RESOLVE: the head's guard predicate has been written; the command may start, or is discarded (R255). -/
def execGuardResolve (s : State) : Host.Outcome State Fault Refusal :=
  onEvent s fun
    | .guardResolve c uncore =>
      match ((s.core c).queue uncore).head? with
      | none => none
      | some id =>
        match Tab.find s.cmds id with
        | none => none
        | some x =>
          match x.guard with
          | none => none
          | some (p, v) =>
            let busy := match s.group? x.grp with
              | none => false
              | some g => match Tab.find g.predBusy p with
                | none => false
                | some t => decide (s.cycles (dieOfCore x.core) < t)
            if busy then none
            else if v then some { s with cmds := Tab.alter s.cmds id fun y => { y with guard := none } }
            else some ((s.finishCmd id none).popQueue c uncore)
    | _ => none

/-! ### Cancellation (R318, R319) -/

/-- A copy stands at a segment boundary: every tile is whole or untouched (R257). -/
def Cmd.atBoundary (c : Cmd) (j : Job) : Bool :=
  (List.range j.tiles).all fun t =>
    let n := ((List.range j.sectors).filter fun i => c.done.contains (sectorNo t i)).length
    n = 0 || n = j.sectors

/-- A started command may be stopped: a copy at a boundary, a COLL whose contribution has not been taken, a queue command
or an XBAR.WAIT that waits; never a SAMPLE (R319, R334, R440). -/
def State.mayStop (s : State) (id : Nat) (c : Cmd) : Bool :=
  if c.op = 0xDA then !c.started
  else if c.op = 0xD1 || c.op = 0xD2 then !c.started || c.atBoundary (s.job c)
  else if c.op = 0xDB then
    c.block.length = 2 && !(s.colls.any fun x => x.2.ranks.any fun a => a.cmd = some id && a.data.isSome)
  else true

/-- Take a command out of every place where it waits. -/
def State.withdrawCmd (s : State) (id : Nat) : State :=
  let core (q : Core) : Core := { q with tileQ := q.tileQ.filter (· ≠ id), uncoreQ := q.uncoreQ.filter (· ≠ id) }
  let queue (d : ItemQueue) : ItemQueue :=
    { d with waitEnq := d.waitEnq.filter (· ≠ id), waitDeq := d.waitDeq.filter (· ≠ id) }
  let coll (i : Coll) : Coll := { i with ranks := i.ranks.filter fun a => a.cmd ≠ some id }
  { s with
    cores := s.cores.map fun x => (x.1, core x.2)
    itemQueues := s.itemQueues.map fun x => (x.1, queue x.2)
    colls := (s.colls.map fun x => (x.1, coll x.2)).filter fun x => x.2.ranks ≠ [] || x.2.ended.isSome
    sampling := s.sampling.filter (· ≠ id) }

/-- A group that a command blocks is no longer blocked. -/
def State.releaseBlock (s : State) (c : Cmd) (id : Nat) : State :=
  s.onOwn c.grp c.team fun g =>
    match g.block with
    | .qdeq n => if n = id then { g with block := .none } else g
    | .xbar _ _ => if c.op = 0xD5 && c.started then { g with block := .none } else g
    | _ => g

/-- CANCELLED_COMMAND_STOP: completes for la and c, writes no s(h), drops its fix-up list (R319, R422). -/
def execCancelledCommandStop (s : State) : Host.Outcome State Fault Refusal :=
  onEvent s fun
    | .cancelledCommandStop id =>
      match Tab.find s.cmds id with
      | none => none
      | some c =>
        if c.doomed && s.mayStop id c then
          some (((s.withdrawCmd id).releaseBlock c id).finishCmd id none)
        else none
    | _ => none

/-- GROUP_CANCEL: a group with a pruned tag ends (R317, R319). -/
def execGroupCancel (s : State) : Host.Outcome State Fault Refusal :=
  onEvent s fun
    | .groupCancel k =>
      match s.group? k with
      | none => none
      | some g => if g.doomed && !(g.exited && g.cancelled) && !g.privileged then some (s.cancelGroup k) else none
    | _ => none

/-! ### ERET of a running group (R417, R422) -/

/-- A started command goes on where an access has held it (R88, R113, R422). -/
def State.goOnCmd (s : State) (id : Nat) : State :=
  match Tab.find s.cmds id with
  | none => s
  | some c =>
    if !c.started || c.skipped ≠ [] then s
    else if c.op = 0xD0 then s.applyHbind id c
    else if c.op = 0xD5 then s.retryWait id c
    else if c.op = 0xD6 || c.op = 0xD7 then s.pump (c.word 0 % 4096)
    else if c.op = 0xD8 then s.applyTree id c
    else if c.op = 0xD9 then s.applyKvbind id c
    else if c.op = 0xDA then s.pumpSets
    else if c.op = 0xDB then s.goOnColl id c
    else s

/-- Replay the fix-up list of one command, in ascending segment order; a command of one segment goes on from it (R422). -/
def State.replayCmd (s : State) (id : Nat) : State :=
  match Tab.find s.cmds id with
  | none => s
  | some c =>
    if c.skipped = [] then s
    else if c.op = 0xD1 || c.op = 0xD2 then (sortOn (fun g => g) c.skipped).foldl (fun s g => s.replaySegment id g) s
    else ({ s with cmds := Tab.alter s.cmds id fun c => { c with skipped := [] } }).goOnCmd id

/-- Replay what a running group has waiting: its operand-log entries, the fix-up lists of its commands, and the copies of
its posted entries (R417, R422). -/
def State.replayGroup (s : State) (k : Nat) : State :=
  let s1 := s.replayLog k
  let ids := (s1.cmds.filter fun x => x.2.grp = k).map (·.1)
  (ids.foldl (fun s id => s.replayCmd id) s1).replayFetches k

/-- A group has an operand-log entry or a fix-up list that waits for a handler (R282, R413, R421). -/
def State.groupWaits (s : State) (k : Nat) : Bool :=
  s.hasLog k || s.cmds.any (fun x => x.2.grp = k && x.2.skipped ≠ []) ||
    s.quads.any fun q => q.2.board.any fun e => e.2.grp = k && e.2.held

end Sys2Proof.Machine
end

