-- ==== Sys2Proof/Machine/Csr.lean ====
section
/-! DEFINITION. Control and status registers: what each number reads and does on a write, page migration, the collapse of
read-duplicated blocks, and the events of their writes (R69 to R71, R87, R88, R141, R278, R279, R285, R289, R333, R338,
R339, R363, R370, R391, R394, R396, R419, R420, R436, R453). -/

namespace Sys2Proof.Machine

/-! ### Page migration (R87, R88, R279, R420) -/

/-- Move a range of memory that the device holds: the cells of the destination become those of the source. -/
def State.copyRange (s : State) (src dst n : Nat) : State :=
  let moved := s.mem.filter fun c => src ≤ c.1 && c.1 < src + n
  let rest := s.mem.filter fun c => !(dst ≤ c.1 && c.1 < dst + n)
  s.setRange dst n (moved.foldl (fun m c => memWrite m (dst + (c.1 - src)) c.2) rest)

/-- Copy a line, a store at the home of its destination; a line whose bytes the device does not hold is copied with them free (R88,
R104; log 15). -/
def State.copyLine (s : State) (src dst : Nat) : State :=
  if s.unheld src || (s.remoteDev src).isSome then s.deviceStore 0 dst 64 (s.peekLE src 64)
  else if s.storedAway dst then s
  else ((homeStamp s (lineOf (s.norm dst)) 0).1).copyRange src dst 64

/-- A move cannot read a line of the old frame at its home: an I/O die record of the fault that the line raises, and the bytes of its
copy are free (R86, R390, R428; DESIGN CHOICE, log 115). -/
def State.copyBroken (s : State) (x va dst : Nat) (f : Nat × Nat × Nat) : State :=
  let bytes := (List.range 64).map fun i => Config.freeByte s.freeCtr (dst + i)
  (s.ioFault x va (.broken f.1 f.2.1 f.2.2) false).1.deviceStore 0 dst 64 (ofBytes bytes)

/-- Copy lines of a move from the old frame to the new, performed at their homes (R88). -/
def State.copyLines (s : State) (m : Move2) (lines : List Nat) : State :=
  lines.foldl (fun s l =>
    let o := l * 64 - m.old
    match s.lineFault (l * 64) false false with
    | some f => s.copyBroken m.ctx (m.va + o) (m.new + o) f
    | none => s.copyLine (l * 64) (m.new + o)) s

/-- Every line of the old frame of a move. -/
def Move2.lines (m : Move2) : List Nat := (List.range (m.size / 64)).map fun i => m.old / 64 + i

/-- Show a status and a count of rounds in a context's MIGCTL (R279). -/
def State.migShow (s : State) (x status rounds : Nat) : State :=
  s.onContext x fun c => { c with migstatus := status, migrounds := rounds }

/-- Start or refuse a move of the page at MIGVA to MIGFRAME; ignored while one runs (R87, R88, R279; log 32). DESIGN CHOICE (log 115):
the die on which a move is in progress, of which 16 are allowed, is the home die of the old frame, and a refused move shows 0 rounds. -/
def State.startMove (s : State) (x : Nat) : State :=
  let c := s.context x
  let va := c.migva.toNat % 2 ^ 57
  if c.migstatus = 1 then s
  else match walkFrom s none 0 x va with
    | (s, .leaf _ pte level) =>
      let size := if level = 0 && bits pte 5 1 = 1 then 2 ^ 16 else leafSize level
      let old := s.norm (bits pte 12 40 * 4096 / size * size)
      let new := s.norm c.migframe.toNat
      let die := s.homeDie old
      if level = 2 || bits pte 61 2 = 1 || 16 ≤ (s.moves.filter fun m => m.2.die = die).length || new % size ≠ 0 || !physOk new then
        s.migShow x 3 0
      else
        let m : Move2 := ⟨die, x, va / size * size, size, old, new, 1, [], false⟩
        let s1 := s.copyLines m m.lines
        ({ s1 with idCtr := s1.idCtr + 1, moves := Tab.put s1.moves s1.idCtr m }).migShow x 1 1
    | _ => s.migShow x 3 0

/-- End of a round with more than 256 lines marked: the next round takes the bitmap and recopies its lines, or the move ends
without converging, its new frame undefined (R88, R420; log 14). -/
def State.nextRound (s : State) (n : Nat) (m : Move2) : State :=
  if 8 ≤ m.round then
    let s1 := { s with moves := Tab.del s.moves n }
    let mess := (List.range m.size).foldl (fun t i => memWrite t (m.new + i) (Config.freeByte s.freeCtr i)) s1.mem
    let s2 := (s1.setRange m.new m.size mess).migShow m.ctx 4 8
    let c := s.context m.ctx
    (s2.report (ioSource m.ctx) ⟨0x0207, 3, 0xFFFFFFFF, 0, c.migva.toNat, m.marked.length, c.migframe.toNat⟩).1
  else
    let s1 := { s with moves := Tab.put s.moves n { m with round := m.round + 1, marked := [] } }
    (s1.copyLines m m.marked).migShow m.ctx 1 (m.round + 1)

/-- The level-0 or level-1 entries of a page with their new frame (R65, R88). -/
def State.retarget (s : State) (m : Move2) : State :=
  match walkFrom s none 0 m.ctx m.va with
  | (s, .leaf ea pte level) =>
    let one (s : State) (a : Nat) : State :=
      let p := s.peekLE a 8
      s.deviceStore 0 a 8 (setBits p 12 40 ((m.new + bits p 12 40 * 4096 % m.size) / 4096))
    if level = 0 && bits pte 5 1 = 1 then (List.range 16).foldl (fun s i => one s (ea / 128 * 128 + 8 * i)) s else one s ea
  | _ => s

/-- Accesses to the old frame of a move that have been translated and not performed, or tiles that copies are moving through it. -/
def State.moveBusy (s : State) (m : Move2) : Bool :=
  let inOld (p : Nat) : Bool := m.old ≤ s.norm p && s.norm p < m.old + m.size
  s.accesses.any (fun a => a.2.status ≠ .held && inOld a.2.pa) || s.cmds.any fun c => c.2.maps.any fun t => t.2.any fun p => inOld p.2

/-- The freeze of a move: it holds the page at translation; once no access to the old frame is under way the last lines are
copied, the entry rewritten and the TLBs emptied of the page, and the held accesses go on in the order in which they were held
(R88, R432). -/
def State.freezeMove (s : State) (n : Nat) (m : Move2) : Option State :=
  if !m.frozen then some { s with moves := Tab.put s.moves n { m with frozen := true } }
  else if s.moveBusy m then none
  else
    let s1 := { s.copyLines m m.marked with moves := Tab.del s.moves n }
    some ((((s1.retarget m).dropTlbs 0 (s.asidOf m.ctx) m.va).migShow m.ctx 2 m.round).thaw.retryCharges)

/-! ### Read-duplicate collapse (R453) -/

/-- A write of RDCOLL stores the frame; GO is ignored while a collapse runs, and refused when the frame is not local or a line is not in
state RD (R453). -/
def State.startCollapse (s : State) (v : Nat) : State :=
  let frame := bits v 16 36 * 65536
  let s1 := { s with csr := { s.csr with rdframe := BitVec.ofNat 64 frame } }
  if v % 2 = 0 || s.csr.rdstatus = 1 then s1
  else
    let ok := frame < 2 ^ 40 && (List.range 1024).all fun i =>
      (Tab.get s.lineMeta (frame / 64 + i) (0 : BitVec 16)).toNat % 8 = 5
    { s1 with csr := { s1.csr with rdstatus := if ok then 1 else 3, rdblock := frame } }

/-- The rewrite: state I, owner 0, bucket 0 for the 1,024 lines (R453). -/
def State.endCollapse (s : State) : Option State :=
  if s.csr.rdstatus ≠ 1 then none
  else
    let s1 := (List.range 1024).foldl (fun s i => s.setMeta (s.csr.rdblock / 64 + i) 0) s
    some { s1 with csr := { s1.csr with rdstatus := 2 } }

/-! ### Charging by a handler (R396) -/

/-- A write of CHARGE by the management core of a sector (R396, R397; log 33). -/
def State.writeCharge (s : State) (n v : Nat) : State :=
  let k := (s.manager n).winsel
  let code := bits v 0 16
  match s.group? k, s.teamOf k with
  | some g, some t =>
    if t.slot.isNone || !codeListed code then s
    else if bits v 16 1 = 1 then
      let z : Nat × Nat := match g.suspension with
        | some z => (z.pc.toNat, z.mask.toNat)
        | none => (0xFFFFFFFF, 0)
      s.charge k ⟨code, 2, z.1, z.2, 0, 0, 0⟩
    else s.chargeRequest (s.ctxOf k) t.reqRec code
  | _, _ => s

/-! ### Trees' registers (R285, R289) -/

/-- A tree of a die is ACTIVE: some header of its table shows state 2 (R285). -/
def State.treesActive (s : State) (d : Nat) : Bool :=
  let b := s.treeBase d
  b ≠ 0 && s.mem.any fun c => b ≤ c.1 && c.1 < b + 2 ^ 32 && (c.1 - b) % 8192 = 0 && c.2.toNat % 16 = 2

/-- A write of KVPOOL: the Abacus reads the pool header (R285, R289). -/
def State.writePool (s : State) (d v : Nat) : State :=
  if s.treesActive d then s
  else
    let w : DWord := BitVec.ofNat 64 (bits v 16 36 * 65536 + bits v 0 4)
    let s1 := { s with csr := if d = 0 then { s.csr with kvpool0 := w } else { s.csr with kvpool1 := w } }
    let h := s1.peekLE (s1.poolBase d) 8
    if s1.poolBase d = 0 then s1 else s1.onDie d fun x => { x with poolN := bits h 0 32, poolF0 := bits h 32 24 }

/-! ### Context registers (R69, R278, R391) -/

/-- What a context CSR reads. -/
def ctxRead (c : Context) (n : Nat) : Nat :=
  if n = 0x00 then c.ptbase.toNat
  else if n = 0x01 then c.asid
  else if n = 0x02 then c.codebase.toNat
  else if n = 0x03 then c.nbv
  else if n = 0x08 then c.migva.toNat
  else if n = 0x09 then c.migframe.toNat
  else if n = 0x0A then c.migstatus * 2 + c.migrounds * 16
  else if n = 0x18 then c.frbase.toNat
  else if n = 0x19 then c.frsize
  else if n = 0x1A then c.frhead
  else if n = 0x1B then c.frtail
  else if n = 0x1C then c.frlost
  else if 0x40 ≤ n && n < 0x80 then (Tab.get c.rgnlo (n - 0x40) 0).toNat + 2 ^ 64 * (Tab.get c.rgnhi (n - 0x40) 0).toNat
  else 0

/-- Numbers of the context CSRs. -/
def ctxNumbers : List Nat :=
  [0x00, 0x01, 0x02, 0x03, 0x08, 0x09, 0x0A, 0x18, 0x19, 0x1A, 0x1B, 0x1C] ++ (List.range 64).map (0x40 + ·)

/-- Give a region half its value; the all-zero value is not listed. -/
def putRegion (t : Tab DWord) (i : Nat) (v : DWord) : Tab DWord := if v = 0 then Tab.del t i else Tab.put t i v

/-- The plain write of a context CSR: its fields stored, reserved bits zero (R6, R69, R71, R141). -/
def ctxWrite (c : Context) (n v : Nat) : Context :=
  let field (lo len : Nat) : DWord := BitVec.ofNat 64 (bits v lo len * 2 ^ lo)
  if n = 0x00 then { c with ptbase := field 12 40 }
  else if n = 0x01 then { c with asid := bits v 0 16 }
  else if n = 0x02 then { c with codebase := field 16 41 }
  else if n = 0x03 then (if bits v 0 2 = 1 || bits v 0 2 = 2 then { c with nbv := bits v 0 2 } else c)
  else if n = 0x08 then { c with migva := field 0 57 }
  else if n = 0x09 then { c with migframe := field 12 40 }
  else if n = 0x18 then { c with frbase := field 12 40 }
  else if n = 0x19 then { c with frsize := bits v 0 5 }
  else if n = 0x1A then { c with frhead := bits v 0 32 }
  else if n = 0x1B then { c with frtail := bits v 0 32 }
  else if n = 0x1C then { c with frlost := bits v 0 32 }
  else if 0x40 ≤ n && n < 0x80 then
    let lo : DWord := BitVec.ofNat 64 (packFields [(0, 1, bits v 0 1), (4, 4, bits v 4 4), (8, 1, bits v 8 1), (24, 36, bits v 24 36)])
    { c with rgnlo := putRegion c.rgnlo (n - 0x40) lo, rgnhi := putRegion c.rgnhi (n - 0x40) (BitVec.ofNat 64 (bits v 64 36)) }
  else c

/-- A write of a context CSR by CSRWR, with what R279 and R391 add. -/
def State.writeCtx (s : State) (x n v : Nat) : State :=
  if n = 0x0A then (if v % 2 = 1 then s.startMove x else s)
  else if n = 0x19 then s.onContext x fun c => { ctxWrite c n v with frhead := 0 }
  else if n = 0x1A then s
  else if n = 0x1C then s.onContext x fun c => { c with frlost := 0 }
  else s.onContext x fun c => ctxWrite c n v

/-! ### Device registers (R278) -/

/-- What a device CSR, or a register of management core `n`, reads. -/
def State.deviceRead (s : State) (n num : Nat) : Nat :=
  let c := s.csr
  let m := s.manager n
  if num = 0x0C then c.mptbase.toNat
  else if num = 0x10 then m.winsel
  else if num = 0x11 then c.mcentry.toNat
  else if num = 0x12 then c.fabid.toNat
  else if num = 0x14 then c.mcbase.toNat
  else if num = 0x15 then c.mclost
  else if num = 0x16 then c.specdrop0 + 2 ^ 32 * c.specdrop1
  else if num = 0x17 then c.nopage0 + 2 ^ 32 * c.nopage1
  else if num = 0x20 then c.tlim1
  else if num = 0x21 then c.tlim2
  else if num = 0x22 then c.tlim3
  else if num = 0x23 then c.pdelay * 256 + (if c.cxl then 2 else 0) + (if c.en then 1 else 0)
  else if num = 0x24 then c.ressel
  else if num = 0x25 then (Tab.get c.resacl c.ressel 0).toNat
  else if num = 0x26 then c.savebase.toNat
  else if num = 0x27 then c.savesize
  else if num = 0x28 then c.treebase0.toNat
  else if num = 0x29 then c.treebase1.toNat
  else if num = 0x2A then c.kvpool0.toNat
  else if num = 0x2B then c.kvpool1.toNat
  else if num = 0x2C then c.pfxtab0.toNat
  else if num = 0x2D then c.pfxtab1.toNat
  else if num = 0x2E then c.smptmo
  else if num = 0x2F then s.die0.band + 256 * s.die1.band
  else if num = 0x30 then c.qtbase.toNat
  else if num = 0x32 then c.rdframe.toNat + 2 * c.rdstatus
  else if num = 0x3F then m.ctxsel
  else 0

/-- SCHEDCTL: pdelay, and EN once FWSTAT reads RUNNING (R339). -/
def State.writeSched (s : State) (v : Nat) : State :=
  { s with csr := { s.csr with
      pdelay := bits v 8 24
      en := if s.ctl.fwstat = 3 then bits v 0 1 = 1 else s.csr.en } }

/-- Stamps of the teams of a core that use a region (R349). -/
def State.regionUsers (s : State) (c : Nat) (r : Region) : List Nat :=
  (s.teams.filter fun x => x.2.core = c && s.usesRegion x.2 r).map (·.2.stamp)

/-- Write RESACL of a key. A write of 0 frees the regions of the key where no team uses them; elsewhere they stay for the teams that
use them, until those have left (R349, R362). -/
def State.writeResacl (s : State) (key : Nat) (v : DWord) : State :=
  let put (s : State) : State := { s with csr := { s.csr with resacl := putRegion s.csr.resacl key v } }
  let keep (c : Nat) (r : Region) : Region :=
    if r.key = key then { r with cleared := true, users := s.regionUsers c r } else r
  if v ≠ 0 then put s
  else
    let s1 := put { s with cores := s.cores.map fun x => (x.1, { x.2 with regions := x.2.regions.map (keep x.1) }) }
    (s1.cores.map (·.1)).foldl (fun s c => s.freeRegions c) s1

/-- A write of a device CSR, or of a register of management core `n`. -/
def State.deviceWrite (s : State) (n num v : Nat) : State :=
  let c := s.csr
  let field (lo len : Nat) : DWord := BitVec.ofNat 64 (bits v lo len * 2 ^ lo)
  let put (c : DeviceCsrs) : State := { s with csr := c }
  if num = 0x0C then put { c with mptbase := field 12 40 }
  else if num = 0x10 then s.onManager n fun m => { m with winsel := bits v 0 17 }
  else if num = 0x11 then put { c with mcentry := BitVec.ofNat 32 v }
  else if num = 0x12 then put { c with fabid := field 0 24 }
  else if num = 0x13 then s.writeCharge n v
  else if num = 0x14 then put { c with mcbase := field 16 41 }
  else if num = 0x15 then put { c with mclost := 0 }
  else if num = 0x16 then put { c with specdrop0 := 0, specdrop1 := 0 }
  else if num = 0x17 then put { c with nopage0 := 0, nopage1 := 0 }
  else if num = 0x20 then put { c with tlim1 := bits v 0 48 }
  else if num = 0x21 then put { c with tlim2 := bits v 0 48 }
  else if num = 0x22 then put { c with tlim3 := bits v 0 48 }
  else if num = 0x23 then s.writeSched v
  else if num = 0x24 then put { c with ressel := bits v 0 8 }
  else if num = 0x25 then (if c.ressel = 0 then s else
    s.writeResacl c.ressel (BitVec.ofNat 64 v))
  else if num = 0x26 then put { c with savebase := field 16 36 }
  else if num = 0x27 then put { c with savesize := bits v 0 32 }
  else if num = 0x28 then (if s.treesActive 0 then s else put { c with treebase0 := field 13 39 })
  else if num = 0x29 then (if s.treesActive 1 then s else put { c with treebase1 := field 13 39 })
  else if num = 0x2A then s.writePool 0 v
  else if num = 0x2B then s.writePool 1 v
  else if num = 0x2C then
    (if s.treesActive 0 then s else put { c with pfxtab0 := BitVec.ofNat 64 (bits v 7 45 * 128 + bits v 0 6) })
  else if num = 0x2D then
    (if s.treesActive 1 then s else put { c with pfxtab1 := BitVec.ofNat 64 (bits v 7 45 * 128 + bits v 0 6) })
  else if num = 0x2E then put { c with smptmo := bits v 0 32 }
  else if num = 0x30 then put { c with qtbase := field 5 52 }
  else if num = 0x31 then s.qsync (v % 4096)
  else if num = 0x32 then s.startCollapse v
  else if num = 0x3F then s.onManager n fun m => { m with ctxsel := bits v 0 6 }
  else s

/-- A CSR of either kind (R278). -/
def isCtxCsr (num : Nat) : Bool := ctxNumbers.contains num

/-- CSRRD's value on management core `n` (R278). -/
def State.csrValue (s : State) (n num : Nat) : Nat :=
  if isCtxCsr num then ctxRead (s.context (s.manager n).ctxsel) num else s.deviceRead n num

/-- CSRWR on management core `n` (R278). -/
def State.csrStore (s : State) (n num v : Nat) : State :=
  if isCtxCsr num then s.writeCtx (s.manager n).ctxsel num v else s.deviceWrite n num v

/-! ### The events of register writes and of the units behind them -/

/-- CHARGE_WRITE (R396). -/
def execChargeWrite (s : State) : Host.Outcome State Fault Refusal :=
  onEvent s fun
    | .chargeWrite n v => some (s.deviceWrite n 0x13 v.toNat)
    | _ => none

/-- MIGRATION_GO (R279). -/
def execMigrationGo (s : State) : Host.Outcome State Fault Refusal :=
  onEvent s fun
    | .migrationGo x v => some (s.writeCtx x 0x0A v.toNat)
    | _ => none

/-- MIGRATION_ROUND (R88, R420). -/
def execMigrationRound (s : State) : Host.Outcome State Fault Refusal :=
  onEvent s fun
    | .migrationRound n =>
      match Tab.find s.moves n with
      | none => none
      | some m => if m.frozen || m.marked.length ≤ 256 then none else some (s.nextRound n m)
    | _ => none

/-- MIGRATION_FREEZE (R88). -/
def execMigrationFreeze (s : State) : Host.Outcome State Fault Refusal :=
  onEvent s fun
    | .migrationFreeze n =>
      match Tab.find s.moves n with
      | none => none
      | some m => if !m.frozen && 256 < m.marked.length then none else s.freezeMove n m
    | _ => none

/-- RDCOLL_GO (R453). -/
def execRdcollGo (s : State) : Host.Outcome State Fault Refusal :=
  onEvent s fun
    | .rdcollGo v => some (s.startCollapse v.toNat)
    | _ => none

/-- RDCOLL_DONE (R453). -/
def execRdcollDone (s : State) : Host.Outcome State Fault Refusal :=
  onEvent s fun
    | .rdcollDone => s.endCollapse
    | _ => none

/-- KVPOOL_WRITE (R289). -/
def execKvpoolWrite (s : State) : Host.Outcome State Fault Refusal :=
  onEvent s fun
    | .kvpoolWrite d v => some (s.writePool d v.toNat)
    | _ => none

/-- FRSIZE_WRITE (R391). -/
def execFrsizeWrite (s : State) : Host.Outcome State Fault Refusal :=
  onEvent s fun
    | .frsizeWrite x v => some (s.writeCtx x 0x19 v.toNat)
    | _ => none

/-- FRLOST_CLEAR (R391). -/
def execFrlostClear (s : State) : Host.Outcome State Fault Refusal :=
  onEvent s fun
    | .frlostClear x => some (s.writeCtx x 0x1C 0)
    | _ => none

/-- MCLOST_CLEAR (R394). -/
def execMclostClear (s : State) : Host.Outcome State Fault Refusal :=
  onEvent s fun
    | .mclostClear => some (s.deviceWrite 0 0x15 0)
    | _ => none

/-- SPECDROP_CLEAR (R419). -/
def execSpecdropClear (s : State) : Host.Outcome State Fault Refusal :=
  onEvent s fun
    | .specdropClear => some (s.deviceWrite 0 0x16 0)
    | _ => none

/-- NOPAGECNT_CLEAR (R436). -/
def execNopagecntClear (s : State) : Host.Outcome State Fault Refusal :=
  onEvent s fun
    | .nopagecntClear => some (s.deviceWrite 0 0x17 0)
    | _ => none

/-- MPTBASE_WRITE (R393): with a nonzero value the waiting records can be delivered. -/
def execMptbaseWrite (s : State) : Host.Outcome State Fault Refusal :=
  onEvent s fun
    | .mptbaseWrite v => some (s.deviceWrite 0 0x0C v.toNat)
    | _ => none

/-- SCHEDCTL_WRITE (R339). -/
def execSchedctlWrite (s : State) : Host.Outcome State Fault Refusal :=
  onEvent s fun
    | .schedctlWrite v => some (s.writeSched v.toNat)
    | _ => none

/-- CSR_WRITE: a write of a CSR by the management core of a sector (R278). -/
def execCsrWrite (s : State) : Host.Outcome State Fault Refusal :=
  onEvent s fun
    | .csrWrite n num v => some (s.csrStore n num v.toNat)
    | _ => none

end Sys2Proof.Machine
end

