-- ==== Sys2Proof/Machine/Sys.lean ====
section
/-! DEFINITION. Format SYS: CSRRD, CSRWR, ERET, TLBINV, WINRD, WINWR, CTXSAVE, CTXLOAD and HALT, and the delivery of
records to the management cores (R277 to R283, R393 to R395, R398, R415). -/

namespace Sys2Proof.Machine

/-- Sector of the privileged group that issues. -/
def State.sector (s : State) : Nat := s.cur.grp - 0x20000

/-! ### CSRRD and CSRWR (R278) -/

/-- CSRRD: d ← CSR (R277, R278). -/
def execCsrrd (f : FmtSys) (s : State) : Host.Outcome State Fault Refusal :=
  issue (.csrrd f) s fun s g m =>
    if m = 0 then .ok s
    else s.withGroup (g.setVN f.d.toNat 0 (csrWidth f.a.toNat) (s.csrValue s.sector f.a.toNat))

/-- CSRWR: CSR ← d (R277, R278). -/
def execCsrwr (f : FmtSys) (s : State) : Host.Outcome State Fault Refusal :=
  issue (.csrwr f) s fun s g m =>
    if m = 0 then .ok s
    else .ok (s.csrStore s.sector f.a.toNat (g.regN f.d.toNat 0 (csrWidth f.a.toNat)))

/-! ### ERET and HALT (R393, R395, R398) -/

/-- WINSEL of the core names a group in its own sector (R281). -/
def State.windowKey (s : State) (n : Nat) : Option (Nat × Group) :=
  let k := (s.manager n).winsel
  if sectorOfCore (keyCore k) = n then (s.group? k).map fun g => (k, g) else none

/-- What ERET does to the group that WINSEL names: resume it when it is suspended, replay what it has waiting, and retry the
fetches that its lanes wait for (R282, R395, R417, R418, R422, R424, R427). -/
def State.eretGroup (s : State) (n : Nat) : State :=
  match s.windowKey n with
  | none => s
  | some (k, g) =>
    let s1 :=
      if g.suspension.isSome then s.resume k
      else if g.fetchWait = [] then s
      else s.onGroup k fun g => { g with fetchWait := [] }
    if s1.groupWaits k then s1.replayGroup k else s1

/-- The handling of a record ends at ERET or HALT: the record during whose handling the handler has faulted will be
delivered again, otherwise it is done with (R398). -/
def Manage.handled (m : Manage) : Manage :=
  if m.inFault then { m with inFault := false, handling := none } else { m with handling := none, again := none }

/-- ERET (R277, R393, R395). -/
def execEret (f : FmtSys) (s : State) : Host.Outcome State Fault Refusal :=
  issue (.eret f) s fun s _ m =>
    if m = 0 then .ok s
    else .ok ((s.eretGroup s.sector).onManager s.sector fun m => { m.handled with open_ := true })

/-- HALT: the privileged group issues nothing until the next record is delivered (R277, R393). -/
def execHalt (f : FmtSys) (s : State) : Host.Outcome State Fault Refusal :=
  issue (.halt f) s fun s _ m =>
    if m = 0 then .ok s
    else .ok (s.onManager s.sector fun m => { m.handled with open_ := true, halted := true })

/-- Deliver a record: v0 to v15, WINSEL and the entry PC (R393, R394, R398). -/
def State.deliver1 (s : State) (n : Nat) : Option State :=
  let m := s.manager n
  if !((m.halted || m.open_) && s.canDeliver n) then none
  else
    let r := match m.again with
      | some a => a
      | none => m.queue.headD ⟨0, true, none⟩
    let q := if m.again.isSome then m.queue else m.queue.tail
    let s1 := s.onManager n fun m =>
      { m with
        winsel := recWinsel r
        queue := q ++ m.waiting.take (64 - q.length)
        waiting := m.waiting.drop (64 - q.length)
        halted := false
        open_ := false
        handling := some r }
    let s2 := s1.onGroup (recKey r.record) fun g =>
      { g with suspension := g.suspension.map fun z => if z.record = r.record then { z with delivered := true } else z }
    some (s2.startHandler n r.record)

/-- RECORD_DELIVERY (R393). -/
def execRecordDelivery (s : State) : Host.Outcome State Fault Refusal :=
  onEvent s fun
    | .recordDelivery n => s.deliver1 n
    | _ => none

/-! ### TLBINV (R280) -/

/-- An access that was translated and is not performed, or a tile that a copy is moving, lies in what a TLBINV removes; within 1 GiB
of the address for scope 0 (R280, R284; log 34). -/
def State.inflight (s : State) (scope asid va : Nat) : Bool :=
  let hit (space va' : Nat) : Bool := 2 ≤ scope || (s.asidOf space = asid && (scope = 1 || va' / 2 ^ 30 = va / 2 ^ 30))
  s.accesses.any (fun a => a.2.status ≠ .held && hit (s.spaceOf a.2.grp) a.2.va) ||
    s.cmds.any fun c => c.2.maps.any fun m => m.2.any fun p => hit c.2.ctx (p.1 * 4096)

/-- TLBINV: waits for the accesses that removed entries have translated, then drops the entries (R280; log 34). -/
def execTlbinv (f : FmtSys) (s : State) : Host.Outcome State Fault Refusal :=
  issue (.tlbinv f) s fun s g m =>
    if m = 0 then .ok s
    else
      let v := (g.reg f.d.toNat 0).toNat
      let va := g.regN f.a.toNat 0 2
      if s.inflight (bits v 16 2) (bits v 0 16) va then .hold
      else .ok (s.dropTlbs (bits v 16 2) (bits v 0 16) va)

/-! ### The window (R281, R282, R415) -/

/-- Word 7 of a log entry, by lane (R415). -/
def logWord7 (e : LogEntry) (lane : Nat) : Word :=
  if lane = 0 then e.word
  else if lane = 1 then e.pc
  else if lane = 2 then BitVec.ofNat 32 (keyPlace e.grp + if e.replaying then 32 else 16)
  else if lane = 3 then BitVec.ofNat 32 e.seq else 0

/-- A datum of an operand-log entry (R415). -/
def State.logDatum (s : State) (k i lane w : Nat) : Word :=
  match Tab.find (s.part (partOf k)).log i with
  | none => 0
  | some e => if w = 7 then logWord7 e lane else (((Tab.get e.lanes lane [])[w]?).getD 0)

/-- A guard slot as the window shows it (R281). -/
def guardWord : Option Guard → Word
  | none => 0
  | some q => BitVec.ofNat 32 (1 + (if q.inverted then 2 else 0) + 4 * q.pred)

/-- A datum of a group (R281). -/
def State.windowRead (s : State) (k : Nat) (g : Group) (a : Nat) : Word :=
  let space := bits a 28 4
  let i := bits a 20 8
  let lane := bits a 15 5
  if space = 0 then (if i < 96 then g.vreg i lane else 0)
  else if space = 1 then (if i < 32 then g.ureg i else 0)
  else if space = 2 then
    (if i < 3 then maskOf ((List.range 32).filter fun b => g.pred (32 * i + b) lane) else 0)
  else if space = 3 then (if i = 0 then (g.pcs[lane]?).getD exitedPc else 0)
  else if space = 4 then (if 1 ≤ i && i ≤ 7 then guardWord (Tab.find g.guards i) else 0)
  else if space = 5 then (if i = 0 then BitVec.ofNat 32 (packFields [(0, 4, g.c1), (4, 4, g.c2), (8, 4, g.c3), (16, 3, g.pri)]) else 0)
  else if space = 6 then (if i < 64 then s.logDatum k i lane (bits a 12 3) else 0)
  else 0

/-- Write a predicate word of a lane (R281). -/
def Group.setPredWord (g : Group) (i lane : Nat) (v : Word) : Group :=
  (List.range 32).foldl (fun g b =>
    g.setPred (32 * i + b) (BitVec.ofNat 32 (2 ^ lane)) (if v.getLsbD b then BitVec.allOnes 32 else 0)) g

/-- Write a datum of a group; word 7 of a log entry and lanes that an entry does not hold ignore writes (R281, R282,
R415; log 35). -/
def State.windowWrite (s : State) (k : Nat) (a : Nat) (v : Word) : State :=
  let space := bits a 28 4
  let i := bits a 20 8
  let lane := bits a 15 5
  let w := bits a 12 3
  if space = 0 then (if i < 96 then s.onGroup k fun g => g.setV i lane v else s)
  else if space = 1 then (if i < 32 then s.onGroup k fun g => g.setU i v else s)
  else if space = 2 then (if i < 3 then s.onGroup k fun g => g.setPredWord i lane v else s)
  else if space = 3 then (if i = 0 then s.onGroup k fun g => g.setPcs (BitVec.ofNat 32 (2 ^ lane)) fun _ => v else s)
  else if space = 4 then
    (if 1 ≤ i && i ≤ 7 then
      s.onGroup k fun g =>
        if bits v.toNat 0 1 = 0 then { g with guards := Tab.del g.guards i }
        else if 96 ≤ bits v.toNat 2 7 then g
        else { g with guards := Tab.put g.guards i ⟨bits v.toNat 2 7, bits v.toNat 1 1 = 1⟩ }
     else s)
  else if space = 5 then
    (if i = 0 then s.onGroup k fun g =>
      { g with c1 := bits v.toNat 0 4, c2 := bits v.toNat 4 4, c3 := bits v.toNat 8 4, pri := bits v.toNat 16 3 } else s)
  else if space = 6 && i < 64 && w < 7 then
    s.onPart (partOf k) fun q =>
      { q with log := Tab.alter q.log i fun e =>
        { e with lanes := Tab.alter e.lanes lane fun ws => ws.set w (if w = 6 then v &&& 7 else v) } }
  else s

/-- The window reaches a space of the group that WINSEL names (R282, R394). -/
def State.windowOpen (s : State) (k : Nat) (g : Group) (a : Nat) : Bool :=
  g.suspension.isSome || (bits a 28 4 = 6 && s.groupWaits k)

/-- WINRD (R282). -/
def execWinrd (f : FmtSys) (s : State) : Host.Outcome State Fault Refusal :=
  issue (.winrd f) s fun s g m =>
    if m = 0 then .ok s
    else
      let a := (g.reg f.a.toNat 0).toNat
      let v := match s.windowKey s.sector with
        | some (k, q) => if s.windowOpen k q a then s.windowRead k q a else 0xFFFFFFFF
        | none => 0xFFFFFFFF
      s.withGroup (g.setV f.d.toNat 0 v)

/-- WINWR (R282). -/
def execWinwr (f : FmtSys) (s : State) : Host.Outcome State Fault Refusal :=
  issue (.winwr f) s fun s g m =>
    if m = 0 then .ok s
    else
      let a := (g.reg f.a.toNat 0).toNat
      .ok (match s.windowKey s.sector with
        | some (k, q) => if s.windowOpen k q a then s.windowWrite k a (g.reg f.d.toNat 0) else s
        | none => s)

/-! ### CTXSAVE and CTXLOAD (R283) -/

/-- The bytes of the save area: CSR n at byte 16n (R283). -/
def saveImage (c : Context) : List (Nat × Nat) := ctxNumbers.map fun n => (16 * n, ctxRead c n)

/-- A context from its save area: every context CSR but MIGCTL (R283). -/
def loadImage (c : Context) (rd : Nat → Nat) : Context :=
  ctxNumbers.foldl (fun c n => if n = 0x0A then c else ctxWrite c n (rd (16 * n))) c

/-- The save area that an address names (R283). -/
def saveArea (a : Nat) : Nat := a / 2048 * 2048

/-- A CTXSAVE or CTXLOAD reaches its area through the management space; a fault, of its translation or at a home, is
the handler's (R63, R86, R398, R427; log 36). -/
def areaIssue (s : State) (a : Nat) (acc : AccessKind) (go : State → Nat → State) : Eff :=
  let k := s.cur.grp
  if !canonical a then .trap 0x0204 1 a 1 (if acc = .store then 1 else 0)
  else match translate s (keyCore k) mgmtSpace (saveArea a) acc with
    | (s1, .ok e) =>
      match (s1.spanFault (e.phys (saveArea a)) 2048 (acc = .store)).filter fun f => !(acc = .store && f.1 = 0x0401) with
      | some (code, i0, i1) => .trap code 1 a i0 i1
      | none => .ok (go s1 (e.phys (saveArea a)))
    | (_, .fault code level) => .trap code 1 a 1 ((if acc = .store then 1 else 0) + 16 * level)
    | (_, .broken code i0 i1) => .trap code 1 a i0 i1
    | (_, .held) => .hold

/-- CTXSAVE (R283). -/
def execCtxsave (f : FmtSys) (s : State) : Host.Outcome State Fault Refusal :=
  issue (.ctxsave f) s fun s g m =>
    if m = 0 then .ok s
    else
      let x := (g.reg f.d.toNat 0).toNat % 64
      areaIssue s (g.regN f.a.toNat 0 2) .store fun s1 pa =>
        (saveImage (s1.context x)).foldl (fun s r => s.engineStore (keyCore s.cur.grp) (pa + r.1) 16 r.2) s1

/-- CTXLOAD (R69, R283). -/
def execCtxload (f : FmtSys) (s : State) : Host.Outcome State Fault Refusal :=
  issue (.ctxload f) s fun s g m =>
    if m = 0 then .ok s
    else
      let x := (g.reg f.d.toNat 0).toNat % 64
      areaIssue s (g.regN f.a.toNat 0 2) .load fun s1 pa =>
        s1.onContext x fun c => loadImage c fun n => s1.peekLE (pa + n) 16

end Sys2Proof.Machine
end

