-- ==== Sys2Proof/Machine/Coherence.lean ====
section
/-! DEFINITION. The order in which posted accesses are performed, the homes that serve them, leases and logical time, pins,
ownership across devices, and the faults of accesses (R94 to R115, R424 to R428, R431, R459). -/

namespace Sys2Proof.Machine

/-! ### The order of a group's accesses (R94 to R98, R105) -/

/-- Access `x` comes before access `a` of number `id` in program order (R95). -/
def before (id : Nat) (a : Access) (x : Nat × Access) : Bool :=
  x.2.grp = a.grp && (x.2.op < a.op || (x.2.op = a.op && x.1 < id))

/-- An earlier access that must be performed first: of the same instruction, ordinary before ordinary, of the same
location (under whichever address), an acquire, or any for a release (R94, R96 to R98). -/
def State.mustPrecede (s : State) (a x : Access) : Bool :=
  x.op = a.op || (!a.rlx && !x.rlx) || overlaps a.va a.size x.va x.size ||
    overlaps (s.norm a.pa) a.size (s.norm x.pa) x.size || x.acq || a.rel

/-! ### Accesses after a FENCE in progress (R99, R224) -/

/-- Group `j` is another agent of the instance of a FENCE's domain around group `k` (R92). -/
def State.sharesFence (s : State) (k : Nat) (f : Fence) (j : Nat) : Bool := j ≠ k && s.inFence k f (s.agentOf j)

/-- An access waits for a FENCE of its group that orders it. With respect to agents outside a FENCE's TEAM or DIE instance it
is not ordered, so it may go early when no other agent of the instance has an access to its line outstanding (R99, R379;
log 22). -/
def State.fenceWaits (s : State) (a : Access) : Bool :=
  let others (f : Fence) : Bool :=
    s.accesses.any fun x => lineOf (s.norm x.2.pa) = lineOf (s.norm a.pa) && s.sharesFence a.grp f x.2.grp
  (s.group? a.grp).any fun g => g.fences.any fun y => y.1 < a.op && y.2.orders a.kind && (2 ≤ y.2.dom || others y.2)

/-- Another agent of a FENCE's instance does not reach a line on which an access has gone early before the FENCE completes
(R99). -/
def State.veiled (s : State) (a : Access) : Bool := s.veils (s.agentOf a.grp) a.grp a.pa

/-- An access goes before a FENCE of its group in progress that orders it: the FENCE notes its line. -/
def State.noteEarly (s : State) (a : Access) : State :=
  let late (y : Nat × Fence) : Bool := y.1 < a.op && y.2.orders a.kind
  let note (y : Nat × Fence) : Nat × Fence :=
    if late y then (y.1, { y.2 with early := lineOf (s.norm a.pa) :: y.2.early }) else y
  if (s.group? a.grp).any fun g => g.fences.any late then
    s.onGroup a.grp fun g => { g with fences := g.fences.map note }
  else s

/-- Nothing that must precede an access is outstanding, in flight or in the operand log (R414), and no FENCE in progress orders
it after what is (R224). -/
def State.mayPerform (s : State) (id : Nat) (a : Access) : Bool :=
  !(s.accesses.any fun x => before id a x && s.mustPrecede a x.2) && !s.fenceWaits a && !s.veiled a &&
    !(s.logOf a.grp).any fun x =>
      x.2.op < a.op &&
        (!a.rlx || a.rel || wordOp x.2.word = 0xAC || wordOp x.2.word = 0xAD || s.logCovers a.grp a.va a.size)

/-! ### What a home answers -/

/-- The 512 bits of a line as it stands. -/
def State.lineData (s : State) (line : Nat) : Nat := s.peekLE (line * 64) 64

/-- Bytes of an access within a line's data. -/
def lineField (data off size : Nat) : Nat := bits data (8 * off) (8 * size)

/-- The stores of an instruction to a line, with those performed before, cover all its bytes (R459). -/
def State.repairs (s : State) (a : Access) : Bool :=
  let line := lineOf (s.norm a.pa)
  let done := ((Tab.find s.badLines line).map (·.done (storeOf a.op))).getD 0
  a.kind = .store &&
    (s.accesses.foldl (fun m x =>
      if x.2.op = a.op && lineOf (s.norm x.2.pa) = line then Nat.lor m (byteMask (s.norm x.2.pa % 64) x.2.size) else m) done) =
      2 ^ 64 - 1

/-- The fault that an access meets at its home: code, info 0, info 1; for a write of a read-duplicate copy the lane, the kind and the
leaf's level of its record (R89, R110, R416, R425, R427, R428, R431, R459). -/
def State.homeFault (s : State) (a : Access) : Option (Nat × Nat × Nat) :=
  (s.lineFault a.pa (a.kind ≠ .load) (s.repairs a)).map fun f =>
    if f.1 = 0x0205 then (f.1, (maskOf [a.lane]).toNat, kindCode a.kind + 16 * a.level) else f

/-! ### Pins (R113, R114) -/

/-- The pin that refuses an access to a control-class line (R113). -/
def State.refusing (s : State) (a : Access) : Option Pin := if a.control then s.pinAgainst (s.agentOf a.grp) a.pa else none

/-- The first access to a control-class line pins it (R113). -/
def State.pinLine (s : State) (a : Access) : State := if a.control then s.pinBy (s.agentOf a.grp) a.dom a.pa else s

/-! ### Serving an access -/

/-- Set where an access stands. -/
def State.setStatus (s : State) (id : Nat) (v : AccStatus) : State :=
  { s with accesses := Tab.alter s.accesses id fun a => { a with status := v } }

/-- What a reply carries beside the times: an atomic's old value below the line's data. -/
def packReply (old data : Nat) : Nat := old % 2 ^ 128 + 2 ^ 128 * data

/-- A load at its home for requester time `T`: data and times of the reply; `lease` bounds what the core's own copy receives (R103,
R106, R110). Another device answers for a line that it holds, with bytes that are free here. -/
def State.serveLoad (s : State) (id : Nat) (a : Access) (T : Nat) (lease : Option Nat) : State :=
  let pa := s.norm a.pa
  let line := lineOf pa
  let give (s : State) (w r : Nat) : State := s.setStatus id (.replied line w r (min r (lease.getD r)) (packReply 0 (s.lineData line)))
  if ((s.remoteDev pa).isSome && !s.owns pa) || (s.isLocal pa && s.ownedAway line) then
    give s (s.awayLease pa T).1 (s.awayLease pa T).2
  else match homeRenew s line T with
    | (s1, w, r) => give s1 w r

/-- The new value of a store or atomic (R215, R221). -/
def Access.newValue (a : Access) (old : Nat) : Option Nat :=
  if a.kind = .atomic then atomNew a.code old a.data a.cmp else some a.data

/-- A store or atomic at its home for writer time `T`; another device performs it in its own times where it owns the line, or is its
home behind a link without coherence (R104, R110, R112, R373). -/
def State.serveStore (s : State) (id : Nat) (a : Access) (T : Nat) : State :=
  let pa := s.norm a.pa
  let line := lineOf pa
  let off := pa % 64
  if s.actsAway pa then
    let data := s.lineData line
    let old := lineField data off a.size
    let w := max T (s.awayLeaseEnd line + 1)
    (s.raiseAway w).setStatus id (.replied line w w w (packReply old (setBits data (8 * off) (8 * a.size) ((a.newValue old).getD old))))
  else
    let noted := if a.rel then (s.noteUse a).releaseUses (s.agentOf a.grp) a.dom else s.noteUse a
    match homeStamp noted line T with
    | (s0, w) =>
      let s1 := s0.pinLine a
      let old := s1.peekLE pa a.size
      let s2 := match a.newValue old with
        | some v => s1.poke pa a.size v
        | none => s1
      let s3 := s2.repairBytes (storeOf a.op) pa a.size
      s3.setStatus id (.replied line w w w (packReply old (s3.lineData line)))

/-- Take an access out of the table and complete its lane (R216). -/
def State.dropAccess (s : State) (id : Nat) (a : Access) : State :=
  ({ s with accesses := Tab.del s.accesses id }).laneServed a.grp a.op a.lane

/-- A store on a dead route fails at once: it performs nothing, writes its record, and FENCE will show it (R425, R426). -/
def State.failOnRoute (s : State) (id : Nat) (a : Access) (port : Nat) : State :=
  let pc := ((Tab.find s.ops a.op).map (·.pc)).getD 0
  let r : Report := ⟨0x0401, 3, pc.toNat, (maskOf [a.lane]).toNat, a.va, port, 0⟩
  (((s.report (s.sourceOf a.grp) r).1).failStore a.grp 1).dropAccess id a

/-- The group that issued an access has been cancelled: the access is performed or dropped, and no record is written (R318,
R319). -/
def State.ofCancelled (s : State) (a : Access) : Bool := ((s.group? a.grp).map (·.cancelled)).getD false

/-- An access meets its home: a fault, a refusal by a pin, or the service `go`. `since` is the cycle since which a pin has
refused it. -/
def State.meetHome (s : State) (id : Nat) (a : Access) (since : Option Nat) (go : State → State) : Option State :=
  match s.homeFault a with
  | some (code, i0, i1) =>
    if s.ofCancelled a then some (s.dropAccess id a)
    else if code = 0x0401 && a.kind = .store then some (s.failOnRoute id a i0)
    else if !s.canHold a then none
    else some (s.accessFault id code i0 i1)
  | none =>
    if s.isLocal (s.norm a.pa) && (s.die (s.homeDie a.pa)).resetting then none
    else match s.refusing a with
    | some _ => some (s.setStatus id (.refused (since.getD (s.cycles (dieOfCore (keyCore a.grp))))))
    | none => some (go ((s.noteEarly a).pinLine a))

/-- Logical time of a group's core. -/
def State.ltOf (s : State) (k : Nat) : Nat := (s.core (keyCore k)).lt

/-- Writer time of a store or atomic: its core's logical time, for a relaxed one as it was at issue (R104, R378). -/
def State.writerTime (s : State) (a : Access) : Nat := if a.rlx then a.lt else s.ltOf a.grp

/-- An access's home lies on the other die, so a load reaches it through the issuing die's L2 (R106). -/
def State.crossDie (s : State) (a : Access) : Bool :=
  s.isLocal (s.norm a.pa) && s.homeDie a.pa ≠ dieOfCore (keyCore a.grp)

/-- HOME_RENEWAL (R103, R106). -/
def execHomeRenewal (s : State) : Host.Outcome State Fault Refusal :=
  onEvent s fun
    | .homeRenewal id =>
      match Tab.find s.accesses id with
      | none => none
      | some a =>
        if a.kind ≠ .load || !s.mayPerform id a then none
        else match a.status with
          | .waiting => if s.crossDie a then none else s.meetHome id a none fun s => s.serveLoad id a (s.ltOf a.grp) none
          | .forwarded T => s.meetHome id a none fun s => s.serveLoad id a T (some (T - 16))
          | _ => none
    | _ => none

/-- HOME_WRITE (R104). -/
def execHomeWrite (s : State) : Host.Outcome State Fault Refusal :=
  onEvent s fun
    | .homeWrite id =>
      match Tab.find s.accesses id with
      | none => none
      | some a =>
        if a.kind = .load || !s.mayPerform id a || a.status ≠ .waiting then none
        else s.meetHome id a none fun s => s.serveStore id a (s.writerTime a)
    | _ => none

/-- The copies' leases serve an access that no pin refuses (R106, R113). -/
def State.leaseServes (s : State) (a : Access) (c : CopyLine) : Bool := s.ltOf a.grp ≤ c.rts && (s.refusing a).isNone

/-- REMOTE_L2_RENEWAL: the issuing die's copy grants a lease, or the request goes on with T + 24 (R106). -/
def execRemoteL2Renewal (s : State) : Host.Outcome State Fault Refusal :=
  onEvent s fun
    | .remoteL2Renewal id =>
      match Tab.find s.accesses id with
      | none => none
      | some a =>
        let T := s.ltOf a.grp
        let line := lineOf (s.norm a.pa)
        if a.kind ≠ .load || a.status ≠ .waiting || !s.crossDie a || !s.mayPerform id a then none
        else match (Tab.find (s.die (dieOfCore (keyCore a.grp))).copies line).filter (s.leaseServes a) with
          | some c => some ((s.noteEarly a).setStatus id (.replied line c.wts c.rts (min c.rts (T + 8)) (packReply 0 c.data)))
          | none => some (s.setStatus id (.forwarded (T + 24)))
    | _ => none

/-! ### Replies (R102, R104, R105) -/

/-- A load or atomic writes its registers and completes in its lane (R215, R216, R221). -/
def State.laneResult (s : State) (id : Nat) (a : Access) (v : Nat) : State :=
  (s.writeResult a.grp a.lane a.reg a.dead (memResultWords a.code) v).dropAccess id a

/-- Raise a core's logical time (R102, R104). -/
def State.raiseLt (s : State) (k t : Nat) : State := s.onCore (keyCore k) fun c => { c with lt := max c.lt t }

/-- Enter a copy of a line among copies unless a newer one is held; beyond a capacity of `cap` lines one of the others leaves
(R18, R102, R106; log 102). -/
def fillCopies (n cap : Nat) (cs : Tab CopyLine) (line : Nat) (c : CopyLine) : Tab CopyLine :=
  match Tab.find cs line with
  | some old => if c.wts < old.wts || (c.wts = old.wts && c.rts ≤ old.rts) then cs else Tab.put cs line c
  | none =>
    let kept := if cap ≤ cs.length then Tab.del cs (((cs[Config.freePick n % cs.length]?).map (·.1)).getD 0) else cs
    Tab.put kept line c

/-- Fill a core's L1 of 128 KiB (R17, R102). -/
def State.fillL1 (s : State) (k line wts rts data : Nat) : State :=
  s.onCore (keyCore k) fun c => { c with l1 := fillCopies s.freeCtr 2048 c.l1 line ⟨wts, rts, data⟩ }

/-- A copy of a line takes the data and times of a store's reply, unless a later store's have come before (R104). -/
def renewCopy (cs : Tab CopyLine) (line : Nat) (c : CopyLine) : Tab CopyLine :=
  match Tab.find cs line with
  | some old => if c.wts < old.wts then cs else Tab.put cs line c
  | none => cs

/-- Fill the issuing die's L2 with a copy of a line homed on the other die; its lines of both kinds share its room (R17, R106). -/
def State.fillCopy (s : State) (a : Access) (line wts rts data : Nat) : State :=
  let d := dieOfCore (keyCore a.grp)
  if s.crossDie a then
    let s1 := if (Tab.find (s.die d).copies line).isSome then s else s.makeRoom d
    s1.onDie d fun d => { d with copies := fillCopies s.freeCtr 4194304 d.copies line ⟨wts, rts, data⟩ }
  else s

/-- A load takes its value from a copy on a hit (R102, R105), or races (R112). -/
def State.loadHit (s : State) (id : Nat) (a : Access) (c : CopyLine) : State :=
  ((s.noteUse a).raiseLt a.grp c.wts).laneResult id a (loadValue a.code (s.loadField a c.data))

/-- The L1 copy on which a load hits: its lease has not ended, and no pin refuses the group (R102, R113). -/
def State.l1Hit (s : State) (a : Access) : Option CopyLine :=
  (Tab.find (s.core (keyCore a.grp)).l1 (lineOf (s.norm a.pa))).filter (s.leaseServes a)

/-- The link to a line's home carries no coherent traffic: a load over it is given no lease, and no copy of the line is kept (R373). -/
def State.incoherent (s : State) (line : Nat) : Bool :=
  !s.owns (line * 64) && (s.remoteDev (line * 64)).any fun d => !s.linkedTo d

/-- A reply reaches its core: a load fills L1 with the lease that it is given and takes its value, or renews when its core's time has
passed a lease of this device since; a store or atomic raises the time and updates the copies (R102, R104, R106). -/
def State.reply (s : State) (id : Nat) (a : Access) (line wts rts lease v : Nat) : State :=
  let data := v / 2 ^ 128
  let c := keyCore a.grp
  if a.kind = .load then
    let s1 := if s.incoherent line then s else (s.fillCopy a line wts rts data).fillL1 a.grp line wts lease data
    if s.ltOf a.grp ≤ lease || s.unheld (line * 64) then s1.loadHit id a ⟨wts, lease, data⟩ else s1.setStatus id .waiting
  else
    let s1 := s.raiseLt a.grp wts
    let s2 := s1.onCore c fun q => { q with l1 := renewCopy q.l1 line ⟨wts, lease, data⟩ }
    let s3 := s2.onDie (dieOfCore c) fun d => { d with copies := renewCopy d.copies line ⟨wts, rts, data⟩ }
    if a.kind = .atomic then s3.laneResult id a (v % 2 ^ 128) else s3.dropAccess id a

/-- MEMORY_REPLY: a reply, a load that hits in L1 (R102), or an access whose freeze has ended and that waits for room in the operand
log to be translated again (R88). -/
def execMemoryReply (s : State) : Host.Outcome State Fault Refusal :=
  onEvent s fun
    | .memoryReply id =>
      match Tab.find s.accesses id with
      | none => none
      | some a =>
        match a.status with
        | .replied line w r l v => some (s.reply id a line w r l v)
        | .held => if s.frozenAt (s.asidOf (s.spaceOf a.grp)) a.va || !s.canHold a then none else some (s.thawAccess id)
        | .waiting =>
          if a.kind ≠ .load || !s.mayPerform id a then none else (s.l1Hit a).map fun c => (s.noteEarly a).loadHit id a c
        | _ => none
    | _ => none

/-! ### Refused accesses (R113, R115, R424) -/

/-- PIN_RETRY: the access is repeated at its home (R113). -/
def execPinRetry (s : State) : Host.Outcome State Fault Refusal :=
  onEvent s fun
    | .pinRetry id =>
      match Tab.find s.accesses id with
      | none => none
      | some a =>
        match a.status with
        | .refused c =>
          let T := s.ltOf a.grp
          s.meetHome id a (some c) fun s =>
            if a.kind ≠ .load then s.serveStore id a (s.writerTime a)
            else if s.crossDie a then s.serveLoad id a (T + 24) (some (T + 8)) else s.serveLoad id a T none
        | _ => none
    | _ => none

/-- DOMAIN_VIOLATION: still refused after 65,536 cycles (R115, R424); an access of a cancelled group is dropped (R318). -/
def execDomainViolation (s : State) : Host.Outcome State Fault Refusal :=
  onEvent s fun
    | .domainViolation id =>
      match Tab.find s.accesses id with
      | none => none
      | some a =>
        match a.status, s.refusing a with
        | .refused c, some p =>
          if s.ofCancelled a then some (s.dropAccess id a)
          else if s.cycles (dieOfCore (keyCore a.grp)) < c + 65536 || !s.canHold a then none
          else some (s.accessFault id 0x0402 (s.pinInfo p) (keyCore a.grp % 2048))
        | _, _ => none
    | _ => none

/-! ### Eviction and logical time (R107, R108) -/

/-- L2_EVICTION (R107, R110, R113). -/
def execL2Eviction (s : State) : Host.Outcome State Fault Refusal :=
  onEvent s fun
    | .l2Eviction line => if (Tab.find s.home line).isSome then some (s.evictHome line) else none
    | _ => none

/-- LT_TICK: every core's logical time rises by 1 every 1,024 cycles (R108). -/
def execLtTick (s : State) : Host.Outcome State Fault Refusal :=
  onEvent s fun
    | .ltTick d =>
      if s.cycles d < 1024 * ((s.die d).ltTicks + 1) then none
      else
        let s1 := s.onDie d fun x => { x with ltTicks := x.ltTicks + 1, ltBase := x.ltBase + 1 }
        let up (x : Nat × Core) : Nat × Core := if dieOfCore x.1 = d then (x.1, { x.2 with lt := x.2.lt + 1 }) else x
        some { s1 with cores := s1.cores.map up }
    | _ => none

/-- Some logical time has reached 2^47 (R108). -/
def State.mustRebase (s : State) : Bool :=
  let top (n : Nat) : Bool := 2 ^ 47 ≤ n
  let die (d : Die) : Bool := top d.mft || top d.ltBase || d.copies.any fun c => top c.2.wts || top c.2.rts
  die s.die0 || die s.die1 || s.home.any (fun h => top h.2.wts || top h.2.rts) ||
    s.cores.any fun c => top c.2.lt || c.2.l1.any fun l => top l.2.wts || top l.2.rts

/-- Subtract 2^46 from every logical time of the device and invert the epoch; no other device has been heard under it yet
(R108). -/
def State.rebase (s : State) : State :=
  let sub (n : Nat) : Nat := n - 2 ^ 46
  let copy (x : Nat × CopyLine) : Nat × CopyLine := (x.1, { x.2 with wts := sub x.2.wts, rts := sub x.2.rts })
  let die (d : Die) : Die :=
    { d with mft := sub d.mft, mirror := sub d.mirror, ltBase := sub d.ltBase, copies := d.copies.map copy }
  let core (c : Core) : Core := { c with lt := sub c.lt, l1 := c.l1.map copy }
  let acc (a : Access) : Access :=
    match a.status with
    | .forwarded T => { a with status := .forwarded (sub T), lt := sub a.lt }
    | .replied l w r e v => { a with status := .replied l (sub w) (sub r) (sub e) v, lt := sub a.lt }
    | _ => { a with lt := sub a.lt }
  { s with
    epoch := !s.epoch
    behind := List.range 256
    awayFloor := sub s.awayFloor
    die0 := die s.die0
    die1 := die s.die1
    cores := s.cores.map fun x => (x.1, core x.2)
    home := s.home.map fun x => (x.1, { x.2 with wts := sub x.2.wts, rts := sub x.2.rts })
    accesses := s.accesses.map fun x => (x.1, acc x.2) }

/-- REBASE: this device reaches the limit (R108). -/
def execRebase (s : State) : Host.Outcome State Fault Refusal :=
  onEvent s fun
    | .rebase => if s.mustRebase then some s.rebase else none
    | _ => none

/-- REBASE_SIGNAL: another device of the FAB instance has signalled (R108). -/
def execRebaseSignal (s : State) : Host.Outcome State Fault Refusal :=
  onEvent s fun
    | .rebaseSignal => some s.rebase
    | _ => none

/-! ### Requests of other devices (R108, R110, R111, R427) -/

/-- A time received from device `d` with its epoch bit: of the epoch before, 2^46 is subtracted, and a result below 0 is 0; of the
epoch after, it is held (none). With the bits unequal, a device that has not been heard since the last rebase is in the epoch before,
and one that has is in the epoch after (R108; log 37). -/
def State.receiveTime (s : State) (d time : Nat) (epoch : Bool) : Option Nat :=
  if epoch = s.epoch then some time else if s.behind.contains d then some (time - 2 ^ 46) else none

/-- A device has been heard under the present epoch (R108). -/
def State.heard (s : State) (d : Nat) (epoch : Bool) : State :=
  if epoch = s.epoch then { s with behind := s.behind.filter (· ≠ d) } else s

/-- Grant a remote lease at the home: the bucket rises to cover it (R111). -/
def State.grantBucket (s : State) (line T : Nat) : Nat :=
  let mft := (s.die (s.homeDie (line * 64))).mft
  min 31 (ceilDiv (max (T + 32) (s.leaseEnd line) - mft) 64)

/-- Metadata of a line from its fields (R86). -/
def mkMeta (state owner bucket : Nat) : BitVec 16 := BitVec.ofNat 16 (packFields [(0, 3, state), (3, 8, owner), (11, 5, bucket)])

/-- Bucket field of a line. -/
def State.lineBucket (s : State) (line : Nat) : Nat := bits (Tab.get s.lineMeta line (0 : BitVec 16)).toNat 11 5

/-- An agent of another device (R91, R92, R370). -/
def State.farAgent (s : State) (d : Nat) : Agent := ⟨mgmtSpace, none, 2 ^ 19 + 1 + d, 0x7FF, if s.inFab d then 4 + d else 260 + d⟩

/-- A request of another device meets the pin of a line that this device's L2 holds; `control` is the domain of a line that is of
control class for its agent. None when it is refused: that device repeats it (R113). -/
def State.farMeet (s : State) (d line : Nat) (control : Option Nat) : Option State :=
  match control with
  | none => some s
  | some dom =>
    let ag := s.farAgent d
    if (s.pinAgainst ag (line * 64)).isSome then none else some (s.pinBy ag dom (line * 64))

/-- FABRIC_READ: a read by device `d` at this home (R110, R111, R113). -/
def execFabricRead (s : State) : Host.Outcome State Fault Refusal :=
  onEvent s fun
    | .fabricRead d line time epoch control =>
      match s.receiveTime d time epoch with
      | none => none
      | some T =>
        let s := s.heard d epoch
        if !s.isLocal (line * 64) || !s.linkedTo d then none
        else
          let b := s.grantBucket line T
          let o := s.lineOwner line
          match s.lineState line with
          | 0 | 1 => (s.farMeet d line control).map fun s => (s.setHome line (s.homeLine line)).setMeta line (mkMeta 1 0 b)
          | 2 | 3 => if o = d then none else some (s.setMeta line (mkMeta 4 o b))
          | 4 => if o = d then none else some (s.setMeta line (mkMeta 4 o b))
          | _ => none
    | _ => none

/-- FABRIC_WRITE: a write or atomic by device `d`, which becomes the owner (R110, R112, R113). DESIGN CHOICE (log 110): R110 names no lease bucket
for a line in M, and the bucket is 0. -/
def execFabricWrite (s : State) : Host.Outcome State Fault Refusal :=
  onEvent s fun
    | .fabricWrite d line time epoch control =>
      match s.receiveTime d time epoch with
      | none => none
      | some T =>
        let s := s.heard d epoch
        if !s.isLocal (line * 64) || !s.linkedTo d then none
        else match s.lineState line with
          | 0 | 1 => (s.farMeet d line control).map fun s =>
            let s1 := if control.isNone then s.noteSpan (s.farAgent d) 3 (line * 64) 64 true else s
            ((homeStamp s1 line T).1).setMeta line (mkMeta 3 d 0)
          | 2 | 3 | 4 => if s.lineOwner line = d then none else some (s.setMeta line (mkMeta 3 d 0))
          | _ => none
    | _ => none

/-- OWNER_FORWARD: a request over a coherent link for a line that this device owns: a read is served and the line kept; a write takes
the line away (R110, R113, R373). -/
def execOwnerForward (s : State) : Host.Outcome State Fault Refusal :=
  onEvent s fun
    | .ownerForward d line time write epoch control =>
      match s.receiveTime d time epoch with
      | none => none
      | some T =>
        let s := s.heard d epoch
        if (s.remoteDev (line * 64)).isNone || !s.owns (line * 64) || !s.linkedTo d then none
        else (s.farMeet d line control).map fun s =>
          if write then
            (({ s with home := Tab.del s.home line }).dropLine line).raiseAway (s.homeLine line).rts
          else (homeRenew s line T).1
    | _ => none

/-- OWNER_WRITEBACK: an owner writes a line back to this home over a coherent link (R110, R373). -/
def execOwnerWriteback (s : State) : Host.Outcome State Fault Refusal :=
  onEvent s fun
    | .ownerWriteback d line data time epoch =>
      match s.receiveTime d time epoch with
      | none => none
      | some wts =>
        if !s.isLocal (line * 64) || !s.ownedAway line || s.lineOwner line ≠ d || !s.linkedTo d then none
        else
          let h := s.homeLine line
          let s1 := (s.heard d epoch).setHome line { h with wts := max h.wts wts, rts := max h.rts wts, dirty := true }
          let s2 := s1.poke (line * 64) 64 data.toNat
          some (s2.setMeta line (if s.lineState line = 4 then mkMeta 1 0 (s.lineBucket line) else 0))
    | _ => none

/-- LINE_RECLAIM: the fabric manager resets a line to state I, its write time above MFT + 1,984 (R427). -/
def execLineReclaim (s : State) : Host.Outcome State Fault Refusal :=
  onEvent s fun
    | .lineReclaim line =>
      if !s.isLocal (line * 64) then none
      else
        let h := s.homeLine line
        let w := max (h.rts + 1) ((s.die (s.homeDie (line * 64))).mft + 1985)
        some ((s.setMeta line 0).setHome line { h with wts := w, rts := w })
    | _ => none

/-- DEVICE_DEAD_DECLARED: the device's owned lines are lost, and collectives with a rank there end with status 4 (R276,
R427). -/
def execDeviceDeadDeclared (s : State) : Host.Outcome State Fault Refusal :=
  onEvent s fun
    | .deviceDeadDeclared d =>
      some (({ s with deadDevices := d :: s.deadDevices.filter (· ≠ d) }).loseRanks (· = d))
    | _ => none

end Sys2Proof.Machine
end

