-- ==== Sys2Proof/Machine/Control.lean ====
section
/-! DEFINITION. Control instructions (0x90 to 0x9D; R199 to R214). -/

namespace Sys2Proof.Machine

/-! ### Branches (R203 to R206) -/

/-- The lanes that branch into a block. -/
def lanesTo (ts : List (Nat × Nat)) (blk : Nat) : Word := maskOf ((ts.filter fun x => x.2 / 64 = blk / 64).map (·.1))

/-- Lanes with their targets branch; the other active lanes advance. A target that fails stops every active lane at the
word, and one whose block cannot be fetched holds the word there until a handler has repaired the fetch, so that nothing is done
before the header has been checked (R148, R203, R404, R418; log 21). -/
def branch (s : State) (ts : List (Nat × Nat)) (link : State → State) : Eff :=
  let k := s.cur.grp
  if (s.group? k).any fun g => ts.any fun x => g.fetchWait.contains (x.2 / 64 * 64) then .hold
  else match checkTargets s k ts with
  | (_, some (_, .bad code i0 i1)) => .trap code s.cur.active.toNat 0 i0 i1
  | (_, some (H, .noFetch x)) => .stall fun s => (checkTargets s k ts).1.fetchFails k H (lanesTo ts H) x
  | (s1, _) =>
    let s2 := ts.foldl (fun s x => s.onGroup k fun g => g.land (BitVec.ofNat 32 (2 ^ x.1)) x.2) (link s1)
    .jump (s2.advance s.cur (s.cur.active &&& ~~~ maskOf (ts.map (·.1))))

/-- Target of a format E branch: w(o + 4 × sext(off21, 32)) (R203). -/
def branchTarget (pc : Word) (o : BitVec 21) : Nat := (pc + 4 * o.signExtend 32).toNat

/-- BRA (R203). -/
def execBra (f : FmtE) (s : State) : Host.Outcome State Fault Refusal :=
  issue (.bra f) s fun s _ m => branch s ((lanesOf m).map fun l => (l, branchTarget s.cur.pc f.o)) id

/-- BRX: each lane takes its own target from a (R203, R204). -/
def execBrx (f : FmtA) (s : State) : Host.Outcome State Fault Refusal :=
  issue (.brx f) s fun s g m => branch s ((lanesOf m).map fun l => (l, (g.reg f.a.toNat l).toNat)) id

/-- CALL: v95 ← w(o + 4) in participating lanes (R203, R205). -/
def execCall (f : FmtE) (s : State) : Host.Outcome State Fault Refusal :=
  issue (.call f) s fun s _ m =>
    branch s ((lanesOf m).map fun l => (l, branchTarget s.cur.pc f.o)) fun s' =>
      s'.onGroup s.cur.grp fun g => g.setRow m 95 fun _ => s.cur.pc + 4

/-- RET: the target is a (R203). -/
def execRet (f : FmtA) (s : State) : Host.Outcome State Fault Refusal :=
  issue (.ret f) s fun s g m => branch s ((lanesOf m).map fun l => (l, (g.reg f.a.toNat l).toNat)) id

/-! ### Ending lanes and turns (R207) -/

/-- EXIT: each participating lane's PC becomes 0xFFFF_FFFF (R207, R208). -/
def execExit (f : FmtA) (s : State) : Host.Outcome State Fault Refusal :=
  issue (.exit f) s fun s _ m =>
    let s1 := s.onGroup s.cur.grp fun g => g.setPcs m fun _ => exitedPc
    .jump (s1.advance s.cur (s.cur.active &&& ~~~ m))

/-- A control instruction that acts once, when the guard admits the lowest active lane (R201). -/
def once (i : Instr) (s : State) (f : State → Group → Nat → Eff) : Host.Outcome State Fault Refusal :=
  issue i s fun s g m =>
    let l := lowestLane s.cur.active
    if m.getLsbD l then f s g l else .ok s

/-- YIELD: the turn ends after this word (R207). -/
def execYield (f : FmtA) (s : State) : Host.Outcome State Fault Refusal :=
  once (.yield f) s fun s _ _ => .ok (s.endTurn s.cur.grp)

/-- SETPRI: the group's priority becomes imm7 (R46, R207). -/
def execSetpri (f : FmtB) (s : State) : Host.Outcome State Fault Refusal :=
  once (.setpri f) s fun s g _ => s.withGroup { g with pri := f.i.toNat }

/-- SLEEP: the turn ends and the group is not ready for min(a, 1,048,576) cycles; 0 acts as YIELD (R207). -/
def execSleep (f : FmtA) (s : State) : Host.Outcome State Fault Refusal :=
  once (.sleep f) s fun s g l =>
    let n := min (g.reg f.a.toNat l).toNat 1048576
    let now := s.cycles (dieOfCore (keyCore s.cur.grp))
    if n = 0 then .ok (s.endTurn s.cur.grp)
    else .ok ((s.setGroup s.cur.grp { g with block := .sleep (now + n) }).endTurn s.cur.grp)

/-! ### Child grids (R49 to R53, R209, R210) -/

/-- Every earlier store and atomic of the group has been performed: the release of R51 (R209). -/
def State.storesDone (s : State) (k op : Nat) : Bool :=
  let writes (x : AccessKind) : Bool := x = .store || x = .atomic
  !(s.accesses.any fun x => x.2.grp = k && x.2.op < op && writes x.2.kind) &&
    !(s.logOf k).any fun x => x.2.op < op && writes (memKind (wordOp x.2.word))

/-- The leader's LAUNCH of number `op` receives its answer in lane `x.lane`: 1, 2, 4 or 0. A fault of the record's translation or
of its line is a lane page fault, or another fault, of the leader (R49, R209, R412 to R416). None while it cannot be answered:
the operand log is full, or the record's page is frozen. -/
def State.answerLaunch (s : State) (k op : Nat) (x : Launching) : Option State :=
  let one := maskOf [x.lane]
  let give (s : State) (c : Nat) : State := s.onGroup k fun g => g.setRow one x.d fun _ => BitVec.ofNat 32 c
  match launchEarly s k x.va with
  | some c => some (give s c)
  | none =>
    match heldRead s k x.va 256 .load with
    | (s1, .ok v) => let r := launchChild s1 k x.va v; some (give r.1 r.2)
    | (_, .error .held) => none
    | (s1, .error f) =>
      if (s.freeEntry (partOf k)).isNone then none
      else
        let s2 := { s1 with
          idCtr := max s1.idCtr (op + 1)
          groups := Tab.alter s1.groups k fun g => g.markBusy op x.d 1
          ops := Tab.put s1.ops op ⟨k, 0, one, x.word, x.pc⟩ }
        let e := s2.logEnter k op x.word x.pc [(x.lane, logWords 0 0 x.va 0x97 f.isFault)]
        some (e.1.xlatReport k e.2 f 0 x.pc one.toNat one.toNat x.va)

/-- A LAUNCH in progress is answered once the group's earlier stores and atomics have been performed (R209). -/
def State.launchDone (s : State) (k op : Nat) : State :=
  match (s.group? k).bind fun g => Tab.find g.launches op with
  | none => s
  | some x =>
    if !s.storesDone k op then s
    else
      let s1 := s.onGroup k fun g => { g with launches := Tab.del g.launches op, busy := Tab.del g.busy op }
      (s1.answerLaunch k op x).getD s

/-- LAUNCH: lanes other than the leader receive 3. The leader is answered at once when the code is decided before the record is
read or every earlier store and atomic of the group has been performed; otherwise d waits for the answer, and the group issues
past it (R49, R209). -/
def execLaunch (f : FmtA) (s : State) : Host.Outcome State Fault Refusal :=
  issue (.launch f) s fun s g m =>
    let k := s.cur.grp
    let l := lowestLane s.cur.active
    let d := f.d.toNat
    if m = 0 then .ok s
    else if g.gid ≠ 0 || g.privileged || !m.getLsbD l then s.withGroup (g.setRow m d fun _ => 3)
    else
      let va := g.regN f.a.toNat l 2
      let early := (launchEarly s k va).isSome
      if !early && !canonical va then .trap 0x0204 s.cur.active.toNat va (2 ^ l) 0
      else
        let op := s.idCtr
        let x : Launching := ⟨l, va, d, s.cur.word, s.cur.pc⟩
        let s1 := s.setGroup k (g.setRow (m &&& ~~~ (maskOf [l])) d fun _ => 3)
        let later := { s1.onGroup k fun g => { g with launches := Tab.put g.launches op x, busy := Tab.put g.busy op [d] } with
          idCtr := op + 1 }
        .ok (if early || s.storesDone k op then (s1.answerLaunch k op x).getD later else later)

/-- A LAUNCH of a team has issued and not been answered: it waits for stores, or in the operand log (R209). -/
def State.launching (s : State) (t : Nat) : Bool :=
  s.groups.any fun x => !x.2.privileged && x.2.team = t &&
    (x.2.launches ≠ [] || (s.logOf x.1).any fun e => wordOp e.2.word = 0x97)

/-- WAITCH: block until every child grid that the team has launched has retired, those of a LAUNCH not yet answered among them; then
an acquire at PKG (R53, R210). -/
def execWaitch (f : FmtA) (s : State) : Host.Outcome State Fault Refusal :=
  once (.waitch f) s fun s g _ =>
    let out := ((s.team? g.team).map (·.children)).getD [] |>.filter fun n => (s.grid? n).isSome
    if !g.privileged && s.launching g.team then .hold
    else if g.privileged || out = [] then .ok (s.acquire (keyCore s.cur.grp))
    else s.withGroup { g with block := .waitch out }

/-! ### The team barrier (R211 to R213) -/

/-- TBAR.SYNC: arrive in the current phase if the group has not, then block until that phase completes. The arrival
releases the group's accesses, which must have been performed (R212; log 22). -/
def execTbarSync (f : FmtA) (s : State) : Host.Outcome State Fault Refusal :=
  issue (.tbarSync f) s fun s g m =>
    let k := s.cur.grp
    if s.hasLog k then .hold
    else match (if g.privileged || !m.getLsbD (lowestLane s.cur.active) then none else s.team? g.team) with
    | none => .ok s
    | some t =>
      if !s.quiet k then .hold
      else
        let s1 := s.onGroup k fun g => { g with block := .tbar t.phase }
        .ok (if t.arrived.contains k then s1 else s1.tbarArrive k g.team)

/-- TBAR.ARV: arrive and continue; a group that has arrived already blocks until the phase completes and then arrives in
the next (R211). -/
def execTbarArv (f : FmtA) (s : State) : Host.Outcome State Fault Refusal :=
  issue (.tbarArv f) s fun s g m =>
    let k := s.cur.grp
    if s.hasLog k then .hold
    else match (if g.privileged || !m.getLsbD (lowestLane s.cur.active) then none else s.team? g.team) with
    | none => .ok s
    | some t =>
      if !s.quiet k then .hold
      else if t.arrived.contains k then s.withGroup { g with block := .tbarArv t.phase }
      else .ok (s.tbarArrive k g.team)

/-! ### Traps (R214, R410) -/

/-- Suspend the group with the participating lanes standing at the word; the other active lanes advance (R214, R410). -/
def trapNow (s : State) (m : Word) (code info0 : Nat) : Eff :=
  let k := s.cur.grp
  if m = 0 then .ok s
  else
    let s1 := s.advance s.cur (s.cur.active &&& ~~~ m)
    if ((s1.group? k).bind (·.suspension)).isSome then .jump s1
    else .jump (s1.takeFault k ⟨code, 0, s.cur.pc.toNat, m.toNat, 0, info0, 0⟩)

/-- TRAP with its software code (R214). -/
def execTrap (f : FmtC) (s : State) : Host.Outcome State Fault Refusal :=
  issue (.trap f) s fun s _ m => trapNow s m 0x0110 f.i.toNat

/-- BKPT (R214). -/
def execBkpt (f : FmtA) (s : State) : Host.Outcome State Fault Refusal :=
  issue (.bkpt f) s fun s _ m => trapNow s m 0x0111 0

/-! ### Reserved words (R163, R405) -/

/-- A word that no instruction assigns raises the illegal-instruction fault in `issue`'s encoding check, whatever the
guard; the body is never reached. -/
def execReservedOpcode (w : Word) (s : State) : Host.Outcome State Fault Refusal :=
  issue (.reservedOpcode w) s fun s _ _ => .ok s

end Sys2Proof.Machine
end

