-- ==== Sys2Proof/Machine/ControlRegs.lean ====
section
/-! DEFINITION. What the control registers read, and their writes by the owner (R371 to R373, R444, R460, R462 to R468). -/

namespace Sys2Proof.Machine

/-- DEVID (R371). -/
def devId : Nat := 0xB1

/-- A version register: minimum, maximum and the version selected (R373). -/
def versionReg (lo hi sel : Nat) : Nat := lo + 2 ^ 16 * hi + 2 ^ 32 * sel

/-- Minimum and maximum of the version register at an offset (R373). -/
def versionRange (off : Nat) : Nat × Nat :=
  if off = 0x18 then (0x0200, 0x0201) else if off = 0x20 then (0x0100, 0x0200) else (0x0100, 0x0103)

/-- A reset is in progress (R463). -/
def State.resetBusy (s : State) : Bool := s.ctl.resetPending ≠ 0 || s.die0.resetting || s.die1.resetting

/-- The stacks whose spare pseudo-channel serves, alone or with the one that is copied to it; a copy on a die under reset has been
abandoned (R461, R468; log 52). -/
def State.spareServes (s : State) (k : Nat) : Bool :=
  bits s.ctl.sparePchan k 1 = 1 || (s.ctl.copying.contains k && !(s.die (k / 8)).resetting)

/-- SPARESTAT (R462). -/
def State.sparestat (s : State) : Nat :=
  s.ctl.spareQuads + 2 ^ 32 * (List.range 16).foldl (fun n k => if s.spareServes k then n + 2 ^ k else n) 0

/-- What the control register at an offset reads (R371). -/
def State.controlRead (s : State) (off : Nat) : Nat :=
  let c := s.ctl
  if off = 0x0000 then devId
  else if off = 0x0008 then c.owner + 2 ^ 24 * c.epoch
  else if off = 0x0010 then c.denied
  else if off = 0x0018 then versionReg 0x0200 0x0201 c.hifver
  else if off = 0x0020 then versionReg 0x0100 0x0200 c.dlver
  else if off = 0x0028 then versionReg 0x0100 0x0103 c.fwver
  else if off = 0x0030 then c.lrefuse.toNat
  else if off = 0x1008 then (if s.resetBusy then 1 else 0) + (if c.resetFailed then 2 else 0)
  else if off = 0x1010 then c.fwstat + 2 ^ 16 * (Config.imageSecurity c.runningImage % 2 ^ 32)
  else if off = 0x1018 then c.attidx
  else if 0x1020 ≤ off && off < 0x1060 && off % 8 = 0 then
    Tab.get c.cecnt0 ((off - 0x1020) / 8) 0 + 2 ^ 32 * Tab.get c.cecnt1 ((off - 0x1020) / 8) 0
  else if off = 0x1060 then c.uecnt0 + 2 ^ 32 * c.uecnt1
  else if off = 0x1068 then s.sparestat
  else if off = 0x1070 then
    packFields [(0, 8, c.temp0), (8, 8, c.temp1), (16, 8, c.tempIo), (24, 1, if c.withheld = [] then 0 else 1)]
  else if off = 0x2000 then c.mbcmd.toNat
  else if off = 0x2008 then packFields [(0, 1, if c.mbbusy then 1 else 0), (8, 8, c.mbtag), (16, 8, c.mbresult)]
  else if off = 0x2010 then c.mbaddr.toNat
  else if off = 0x2018 then c.mblen
  else 0

/-- Change the control registers. -/
def State.onCtl (s : State) (f : Control → Control) : State := { s with ctl := f s.ctl }

/-- Whether a write by a master changes the owner: the three cases of R372. -/
def changesOwner (owner master v : Nat) : Bool :=
  bits v 4 4 < 4 && bits v 4 4 ≠ owner &&
    ((owner = 0 && bits v 4 4 = master) || owner = master || (master = 3 && bits v 8 1 = 1))

/-- A write of OWNER by a master; the epoch rises at each change (R372). -/
def State.writeOwner (s : State) (master v : Nat) : State :=
  s.onCtl fun c =>
    let note : Control := { c with ownTick := s.ticks 0 + 1, ownMaster := master }
    if changesOwner c.owner master v then { note with owner := bits v 4 4, epoch := (c.epoch + 1) % 2 ^ 16 } else note

/-- No master of a lower number has written OWNER in this tick: the writes of one tick apply in the order 3, 2, 1 (R372). -/
def State.ownerTurn (s : State) (master : Nat) : Bool :=
  !(s.ctl.ownTick = s.ticks 0 + 1 && s.ctl.ownMaster < master)

/-- A write by a master that is not the owner is dropped and counted (R371). -/
def State.asOwner (s : State) (master : Nat) (f : State → State) : State :=
  if s.ctl.owner = master then f s else s.onCtl fun c => { c with denied := min (c.denied + 1) (2 ^ 32 - 1) }

/-- A write of a version register: inside its range, and for HIFVER and FWVER only while SCHEDCTL.EN is 0 (R373). -/
def State.selectVersion (s : State) (off v : Nat) : State :=
  let sel := bits v 32 16
  let r := versionRange off
  if sel < r.1 || r.2 < sel || (off ≠ 0x20 && s.csr.en) then s
  else s.onCtl fun c =>
    if off = 0x18 then { c with hifver := sel } else if off = 0x20 then { c with dlver := sel } else { c with fwver := sel }

/-- Clear an error counter of both dies (R460). -/
def State.clearErrors (s : State) (off : Nat) : State :=
  s.onCtl fun c =>
    if off = 0x1060 then { c with uecnt0 := 0, uecnt1 := 0 }
    else { c with cecnt0 := Tab.del c.cecnt0 ((off - 0x1020) / 8), cecnt1 := Tab.del c.cecnt1 ((off - 0x1020) / 8) }

/-- The offset of a CECNT or of UECNT (R460). -/
def isCounter (off : Nat) : Bool := 0x1020 ≤ off && off ≤ 0x1060 && off % 8 = 0

/-- The resets that a write of RESETCTL requests: not of a die that is lost, which no reset reaches (R431, R463; log 58). -/
def State.resetsAsked (s : State) (v : Nat) : Nat :=
  packFields ((List.range 4).map fun b => (b, 1, if (s.die (b % 2)).lost then 0 else bits v b 1))

/-- The owner's write of a register other than OWNER (R371, R373, R444, R460, R463, R467). -/
def State.ownerStore (s : State) (off v : Nat) : State :=
  if off = 0x0010 then s.onCtl fun c => { c with denied := 0 }
  else if off = 0x0018 || off = 0x0020 || off = 0x0028 then s.selectVersion off v
  else if off = 0x0030 then s.onCtl fun c => { c with lrefuse := 0 }
  else if off = 0x1000 then (if s.resetBusy then s else s.onCtl fun c => { c with resetPending := s.resetsAsked v })
  else if isCounter off then s.clearErrors off
  else if off = 0x2000 then
    (if s.ctl.mbbusy || s.ctl.fwstat ≤ 1 then s
    else s.onCtl fun c => { c with mbcmd := BitVec.ofNat 64 (v % 65536), mbbusy := true, mbout := none })
  else if off = 0x2010 then s.onCtl fun c => { c with mbaddr := BitVec.ofNat 64 v }
  else if off = 0x2018 then s.onCtl fun c => { c with mblen := v % 2 ^ 32 }
  else s

/-- A write of a control register by a master (R371, R372). -/
def State.controlStore (s : State) (master off v : Nat) : State :=
  if off = 0x0008 then s.writeOwner master v else s.asOwner master fun s => s.ownerStore off v

end Sys2Proof.Machine
end

