-- ==== Sys2Proof/Machine/Window.lean ====
section
/-! DEFINITION. What the host does to the device: memory, the launch window, triggers and their copies, refusals, the hold
buffer, snoops and link-up (R116, R339 to R346, R362, R365 to R368, R444, R445). -/

namespace Sys2Proof.Machine

/-! ### Device memory from outside (R116, R366) -/

/-- What a host agent reads at a physical address: the value held at the home, with every store that has reached it; a free value where
the line cannot be read or another device owns it (R110, R116, R428, R431, R459; log 15). In PCIe mode a read of host memory may race
(R112, R368). -/
def State.hostByte (s : State) (a : Nat) : Byte :=
  if (s.lineFault a false false).isSome then Config.freeRemote s.freeCtr a
  else if s.isHost a && !s.csr.cxl then s.agentByte hostAgent 4 a else s.peek a

/-- A pin or a FENCE in progress holds a host agent's access to a line of `n` bytes, which the device repeats (R99, R113). -/
def State.hostHeld (s : State) (a n : Nat) : Bool :=
  (List.range (ceilDiv (a % 64 + n) 64)).any fun i =>
    let pa := a / 64 * 64 + 64 * i
    s.veils hostAgent (2 ^ 20) pa || ((Tab.find s.home (lineOf (s.norm pa))).bind (·.pin)).any fun p => !p.inside hostAgent

/-- A host store of bytes: one store for each line, at its home. A line that another device owns is written there, and a part that
meets a fault at its home stores nothing (R104, R110, R116, R366; log 103). -/
def State.hostStores (s : State) (a : Nat) (bs : List Byte) : State :=
  (lineParts a bs.length).foldl (fun s p =>
    if (s.lineFault p.1 true (p.2 = 64)).isSome then s
    else (s.noteSpan hostAgent 4 p.1 p.2 true).deviceStore 0 p.1 p.2 (ofBytes ((bs.drop (p.1 - a)).take p.2))) s

/-- A host agent stores to host memory directly: through the port for a line that the port holds in CXL mode, else outside the device's
order, so that it races with the device's accesses (R112, R368). -/
def State.hostDirect (s : State) (a : Nat) (bs : List Byte) : State :=
  (lineParts a bs.length).foldl (fun s p =>
    let v := ofBytes ((bs.drop (p.1 - a)).take p.2)
    let noted := s.noteSpan hostAgent 4 p.1 p.2 true
    if s.csr.cxl && (Tab.find s.home (lineOf p.1)).isSome then noted.deviceStore 0 p.1 p.2 v else noted.poke p.1 p.2 v) s

/-! ### The launch window (R340, R341) -/

/-- A byte of the launch window. -/
def State.windowByte (s : State) (o : Nat) : Byte := Tab.get s.window o 0

/-- Store bytes into the launch window; zero bytes are not listed. -/
def putWindow (t : Tab Byte) (o : Nat) : List Byte → Tab Byte
  | [] => t
  | b :: rest => putWindow (if b = 0 then Tab.del t o else Tab.put t o b) (o + 1) rest

/-- The tag of a copy that waits for its parse: its slot, whether the hold buffer was full at its trigger, and the tick of
the trigger (R341, R342). -/
def copyTag (slot : Nat) (full : Bool) (tick : Nat) : Nat := slot + (if full then 4096 else 0) + 8192 * tick

def tagSlot (t : Nat) : Nat := t % 4096
def tagFull (t : Nat) : Bool := t / 4096 % 2 = 1
def tagTick (t : Nat) : Nat := t / 8192

/-- Put a copy after the others, but before those of its tick with a higher slot number (R362). -/
def insertCopy (x : Nat × Nat) : List (Nat × Nat) → List (Nat × Nat)
  | [] => [x]
  | y :: t => if tagTick x.1 = tagTick y.1 && tagSlot x.1 < tagSlot y.1 then x :: y :: t else y :: insertCopy x t

/-- Copies that the hold buffer keeps (R342). -/
def holdSize : Nat := 16384

/-- A write has covered the last eight bytes of a slot: a trigger copies the slot as it stands (R341). -/
def State.trigger (s : State) (slot : Nat) : State :=
  let r := readBytes s.windowByte (256 * slot) 256
  let seq : DWord := BitVec.ofNat 64 (recSeq r)
  if s.csr.en && seq ≠ 0 && Tab.get s.lastTrigger slot 0 ≠ seq then
    { s with
      lastTrigger := Tab.put s.lastTrigger slot seq
      copies := insertCopy (copyTag slot (holdSize ≤ s.hold.length) (s.ticks 0), r) s.copies }
  else s

/-- A host write to the launch window, of at most 64 bytes (R340, R341, R366). -/
def State.windowStore (s : State) (off : Nat) (bs : List Byte) : State :=
  let s1 := { s with window := putWindow s.window off bs }
  let slot := (off + bs.length) / 256 - 1
  if 256 ≤ off + bs.length && off ≤ 256 * slot + 248 then s1.trigger slot else s1

/-- HOST_ACCESS: a host read or write of device memory or the launch window, or a host agent's own access to host memory (R116, R366,
R368). -/
def execHostAccess (s : State) : Host.Outcome State Fault Refusal :=
  onEvent s fun
    | .hostAccess (.readMem a n) =>
      if s.hostHeld a n then none
      else
        let s1 := if s.isHost a && !s.csr.cxl then s.noteSpan hostAgent 4 a n false else s
        some { s1 with hostReply := readBytes s.hostByte a n }
    | .hostAccess (.writeMem a n v) =>
      if s.hostHeld a n then none else some (if 2 ^ 51 ≤ a then s.hostDirect a (leBytes v.toNat n) else s.hostStores a (leBytes v.toNat n))
    | .hostAccess (.readWindow o n) => some { s with hostReply := readBytes s.windowByte o n }
    | .hostAccess (.writeWindow o n v) => some (s.windowStore o (leBytes v.toNat n))
    | .hostAccess (.readControl o) => some { s with hostReply := s.controlRead o }
    | _ => none

/-- LAUNCH_TRIGGER: the host writes a slot's sequence number (R341). -/
def execLaunchTrigger (s : State) : Host.Outcome State Fault Refusal :=
  onEvent s fun
    | .launchTrigger slot seq => some (s.windowStore (256 * slot + 248) (leBytes seq.toNat 8))
    | _ => none

/-- HOST_SNOOP: in CXL mode a snoop of a host line that the port holds is a host load or, for ownership, a host store of
the line (R368). -/
def execHostSnoop (s : State) : Host.Outcome State Fault Refusal :=
  onEvent s fun
    | .hostSnoop line own data =>
      if !s.csr.cxl || line * 64 < 2 ^ 51 || (Tab.find s.home line).isNone || s.hostHeld (line * 64) 64 then none
      else if own then some ((s.noteSpan hostAgent 4 (line * 64) 64 true).deviceStore 0 (line * 64) 64 data.toNat)
      else
        match homeRenew s line 0 with
        | (s1, _, _) => some { s1 with hostReply := s1.peekLE (line * 64) 64 }
    | _ => none

/-- HOST_LINK_UP: the mode that SCHEDCTL reports (R339, R365). -/
def execHostLinkUp (s : State) : Host.Outcome State Fault Refusal :=
  onEvent s fun
    | .hostLinkUp cxl => some { s with csr := { s.csr with cxl := cxl } }
    | _ => none

/-! ### Parsing, refusal and the hold buffer (R342, R444) -/

/-- Store bytes at a virtual address of a space, or report the fault of the store with disposition 3 (R445). -/
def State.storeOrReport (s : State) (x va : Nat) (bs : List Byte) : State :=
  match mapSpan s (ioAgent x) va bs.length .store with
  | (s1, .ok m) => (lineParts va bs.length).foldl (fun s p =>
      s.deviceStore 0 (pagePhys m p.1) p.2 (ofBytes ((bs.drop (p.1 - va)).take p.2))) s1
  | (s1, .error (a, x1)) => (s1.ioFault x a x1 true).1

/-- A refused copy: counted in LREFUSE, with a completion record when it names one and its context is resident (R345,
R444). -/
def State.refuseCopy (s : State) (slot r code : Nat) : State :=
  let n := bits s.ctl.lrefuse.toNat 0 32
  let v := packFields [(0, 32, min (n + 1) (2 ^ 32 - 1)), (32, 12, slot), (48, 16, code)]
  let s1 := { s with ctl := { s.ctl with lrefuse := BitVec.ofNat 64 v } }
  let now := s.ticks 0
  if recCompletion r = 0 || (s.context (recCtx r)).asid = 0 then s1
  else
    s1.storeOrReport (recCtx r) (recCompletion r)
      (leBytes (completionBits (recSeq r) 7 code (missedBy now (recDeadline r)) 0 now (recDeadline r)) 64)

/-- The code for which a copy is refused before it could wait: the checks in code order, the full hold buffer of the
trigger among them (R342, R444). -/
def State.copyRefusal (s : State) (tag r : Nat) : Option Nat :=
  match recordRefusal s r (recCtx r) (some (tagSlot tag)) with
  | some c => if tagFull tag && 9 ≤ c then some 8 else some c
  | none => if tagFull tag then some 8 else none

/-- A launch queue holds 16 pending entries (R342). -/
def State.queueFull (s : State) (q : Nat) : Bool := decide (16 ≤ (Tab.get s.queues q []).length)

/-- A host record enters its queue at depth 0 (R50, R342). -/
def State.acceptHost (s : State) (r : Nat) : State :=
  (s.acceptGrid r ⟨recCtx r, recTier r, none, 0, 0, false, 0, [], none⟩).1

/-- A freeze holds an access to an address of a context (R88). -/
def State.heldAt (s : State) (x va : Nat) : Bool := s.frozenAt (s.asidOf x) va

/-- Parse the oldest copy: refuse it, hold it, or accept it (R342, R444). -/
def State.parseCopy (s : State) : Option State :=
  match s.copies with
  | [] => none
  | (tag, r) :: rest =>
    if s.ticks 0 ≤ tagTick tag || s.spaceFrozen (recCtx r) then none
    else
      let s1 := { s with copies := rest }
      match s.copyRefusal tag r with
      | some c => some (s1.refuseCopy (tagSlot tag) r c)
      | none =>
        if recKind r ≠ 2 && (s.queueFull (recQueue r) || s.hold.any fun h => recQueue h.2 = recQueue r) then
          if holdSize ≤ s.hold.length then some (s1.refuseCopy (tagSlot tag) r 8)
          else some { s1 with hold := s.hold ++ [(tagSlot tag, r)] }
        else some (s1.acceptHost r)

/-- LAUNCH_RECORD_PARSE (R342, R362). -/
def execLaunchRecordParse (s : State) : Host.Outcome State Fault Refusal :=
  onEvent s fun
    | .launchRecordParse => s.parseCopy
    | _ => none

/-- Remove the first element that meets a test. -/
def takeFirst {α : Type} (f : α → Bool) : List α → Option (α × List α)
  | [] => none
  | x :: t => if f x then some (x, t) else (takeFirst f t).map fun y => (y.1, x :: y.2)

/-- HOLD_BUFFER_RELEASE: the oldest held copy whose queue has room enters it (R342). -/
def execHoldBufferRelease (s : State) : Host.Outcome State Fault Refusal :=
  onEvent s fun
    | .holdBufferRelease =>
      match takeFirst (fun h => !s.queueFull (recQueue h.2)) s.hold with
      | none => none
      | some (h, rest) =>
        if s.spaceFrozen (recCtx h.2) then none else some ({ s with hold := rest }.acceptHost h.2)
    | _ => none

end Sys2Proof.Machine
end

