-- ==== Sys2Proof/Machine/Dispatcher.lean ====
section
/-! DEFINITION. The dispatchers: which ready entry is served, on which core its next team is placed, how a placed team
becomes resident, and how groups, teams and grids leave (R32 to R38, R51, R52, R58, R168, R208, R263, R344 to R350, R445). -/

namespace Sys2Proof.Machine

/-! ### Teams still to place (R58, R344, R355) -/

/-- The range of linear team indices that a die dispatches (R344). -/
def Grid.share (g : Grid) (d : Nat) : Nat × Nat :=
  let n := recTeams g.record
  let p := min (recSplit g.record) n
  if d = recFirstDie g.record then (0, p) else (p, n)

/-- Teams of its share that a die has passed. -/
def Grid.next (g : Grid) (d : Nat) : Nat := if d = 0 then g.next0 else g.next1

def Grid.setNext (g : Grid) (d v : Nat) : Grid := if d = 0 then { g with next0 := v } else { g with next1 := v }

/-- Teams per slot of a step grid. -/
def Grid.teamsPerSlot (g : Grid) : Nat := max 1 g.perSlot

/-- The slot that a team of a step grid serves (R58). -/
def Grid.slotOf (g : Grid) (t : Nat) : Option Nat := if g.step then some (t / g.teamsPerSlot) else none

/-- Extent, request id and record address of a slot; an unused slot is empty (R57, R58). -/
def Grid.slotEntry (g : Grid) (n : Nat) : Nat × Nat × Nat := (Tab.find g.slots n).getD (0, 0, 0)

/-- The slot of a team of a step grid is empty (R58). -/
def Grid.emptyTeam (g : Grid) (t : Nat) : Bool := (g.slotOf t).any fun n => (g.slotEntry n).1 = 0

/-- The next team of a die's share that has not been placed; teams of empty slots are passed over (R58, R344). -/
def Grid.nextTeam (g : Grid) (d : Nat) : Option Nat :=
  let r := g.share d
  let t := r.1 + g.next d
  if r.2 ≤ t then none
  else if !g.emptyTeam t then some t
  else match (g.slots.filter fun x => t / g.teamsPerSlot < x.1 && x.2.1 ≠ 0).head? with
    | some x => if x.1 * g.teamsPerSlot < r.2 then some (x.1 * g.teamsPerSlot) else none
    | none => none

/-- What a die places next for a grid: a saved team, or a new one (R355). -/
inductive Work
  | saved (id : Nat) (v : Saved)
  | fresh (t : Nat)
  deriving DecidableEq, Repr

/-- The saved team of a grid on a die with the lowest linear index that is not being restored (R355). -/
def State.savedTeam (s : State) (n d : Nat) : Option (Nat × Saved) :=
  (s.saved.filter fun x => x.2.team.grid = n && x.2.die = d && (s.team? x.1).isNone).foldl
    (fun (b : Option (Nat × Saved)) x =>
      match b with
      | none => some x
      | some y => if x.2.team.tix < y.2.team.tix then some x else b) none

/-- The next work of a grid on a die (R344, R355). -/
def State.nextWork (s : State) (n : Nat) (g : Grid) (d : Nat) : Option Work :=
  match s.savedTeam n d with
  | some (id, v) => some (.saved id v)
  | none => (g.nextTeam d).map .fresh

/-! ### Whether a team fits on a core (R35 to R37, R349, R350) -/

/-- What a team needs of a core; `window` is the RESIDENT window that a saved team has seen. -/
structure Need where
  grid : Nat
  ctx : Nat
  /-- GROUPIDs of the groups that need a place. -/
  groups : List Nat
  regs : Nat
  scratch : Nat
  tiles : Nat
  loader : Bool
  key : Nat
  size : Nat
  window : Option (List Nat)
  /-- The stamp of a saved team. -/
  stamp : Nat
  deriving DecidableEq, Repr

/-- The need of the teams of a grid (R343). -/
def Grid.need (g : Grid) (n : Nat) (window : Option (List Nat)) : Need :=
  { grid := n, ctx := g.ctx, groups := List.range (recGroups g.record), regs := recRegs g.record, scratch := recScratch g.record,
    tiles := recWindow g.record, loader := recKind g.record = 1, key := recResKey g.record, size := recResSize g.record,
    window := window, stamp := 0 }

/-- Teams that hold a core, placed ones among them. -/
def State.coreTeams (s : State) (c : Nat) : List (Nat × Team) := s.teams.filter fun x => x.2.core = c

/-- Group places held on a partition, each with the words of its group: n + 8 (R35). -/
def State.heldPlaces (s : State) (c p : Nat) : List (Nat × Nat) :=
  (s.coreTeams c).flatMap fun x =>
    let n := ((s.grid? x.2.grid).map fun g => recRegs g.record).getD 96 + 8
    (x.2.groups.filter fun k => keyPart k.1 = p).map fun k => (keyPlace k.1, n)

/-- How many of some groups run on partition `p` (R32). -/
def groupsOn (gs : List Nat) (p : Nat) : Nat := (gs.filter fun g => g % 4 = p).length

/-- The RESIDENT window of a core as a team sees it: keys and sizes in order (R74, R350). -/
def State.windowShape (s : State) (c ctx stamp : Nat) : List Nat :=
  (s.residentWindow c ctx stamp).map fun x => x.2.key + 256 * x.2.size

/-- A free block of `W` tiles of a core's accumulator store, aligned to `W` (R36, R37). DESIGN CHOICE (log 121): of several, the
lowest. -/
def State.freeTiles (s : State) (c W : Nat) : Option Nat :=
  if W = 0 then some 0
  else ((List.range (256 / W)).map (· * W)).find? fun b =>
    (s.coreTeams c).all fun x => x.2.winW = 0 || b + W ≤ x.2.winBase || x.2.winBase + x.2.winW ≤ b

/-- Free scratchpad bytes of a core: 2 MiB less allocations and RESIDENT regions (R17, R36, R349). -/
def State.freeScratch (s : State) (c : Nat) : Nat :=
  0x200000 - (s.coreTeams c).foldl (fun n x => n + x.2.scratchSize) 0 - (s.core c).regions.foldl (fun n r => n + r.size) 0

/-- A team with this need fits on a core (R36, R350). -/
def State.fits (s : State) (c : Nat) (q : Need) : Bool :=
  let ts := s.coreTeams c
  let held := (s.core c).regions.any fun r => r.key = q.key
  let more := if q.loader && !held then q.size else 0
  !(s.quad (quadOfCore c)).failed &&
    ts.all (fun x => x.2.preempt.isNone && (s.grid? x.2.grid).any fun g => g.ctx = q.ctx) &&
    (List.range 4).all (fun p =>
      let here := s.heldPlaces c p
      here.length + groupsOn q.groups p ≤ 10 &&
        here.foldl (fun n x => n + x.2) 0 + groupsOn q.groups p * (q.regs + 8) ≤ 1024) &&
    q.scratch + more ≤ s.freeScratch c && (s.freeTiles c q.tiles).isSome &&
    (if q.loader then held || (s.core c).regions.length < 4 else q.key = 0 || (held && s.resAllows q.key q.ctx)) &&
    q.window.all fun w => s.windowShape c q.ctx q.stamp = w

/-- The members of a list at which a measure is least. -/
def leastBy (f : Nat → Nat) (l : List Nat) : List Nat :=
  match l with
  | [] => []
  | a :: t =>
    let m := t.foldl (fun n x => min n (f x)) (f a)
    l.filter fun x => f x = m

/-- The core that the dispatcher of a die chooses (R350). -/
def State.pickCore (s : State) (d : Nat) (q : Need) : Option Nat :=
  let cs := ((List.range 1024).map (1024 * d + ·)).filter fun c => s.fits c q
  let kin (c : Nat) : Nat :=
    if (s.coreTeams c).any fun x => x.2.grid = q.grid then 0 else if s.coreTeams c ≠ [] then 1 else 2
  let busy (c : Nat) : Nat := (s.coreTeams c).foldl (fun n x => n + x.2.groups.length) 0
  let best := leastBy busy (leastBy kin cs)
  match best.find? fun c => (s.die d).placePtr ≤ c % 1024 with
  | some c => some c
  | none => best.head?

/-! ### Placing a team (R36, R37, R349, R350) -/

/-- Keys of the groups of a team on a core, with their GROUPIDs (R32). DESIGN CHOICE (log 121): each takes the lowest free place of its
partition. -/
def State.newKeys (s : State) (c : Nat) : List Nat → List Nat → List (Nat × Nat)
  | _, [] => []
  | seen, g :: gs =>
    let used := (s.heldPlaces c (g % 4)).map (·.1)
    let free := (List.range 10).filter fun n => !used.contains n
    (mkKey c (g % 4) ((free[groupsOn seen (g % 4)]?).getD 0), g) :: s.newKeys c (g :: seen) gs

/-- A loader's first team on a core allocates its region (R349). -/
def State.allocate (s : State) (c : Nat) (q : Need) : State :=
  if q.loader && !((s.core c).regions.any fun r => r.key = q.key) then
    let n := s.idCtr
    let r : Region := ⟨q.key, q.size, n, false, [], []⟩
    { s with idCtr := n + 1 }.onCore c fun x => { x with regions := x.regions ++ [r] }
  else s

/-- The placement pointer moves past the chosen core (R350). -/
def State.passCore (s : State) (c : Nat) : State :=
  s.onDie (dieOfCore c) fun x => { x with placePtr := (c % 1024 + 1) % 1024 }

/-- Place a new team of a grid on a core (R36, R37, R58). -/
def State.placeFresh (s : State) (n d t c : Nat) (g : Grid) : State :=
  let s1 := s.allocate c (g.need n none)
  let id := s1.idCtr
  let slot := g.slotOf t
  let e := g.slotEntry (slot.getD 0)
  let team : Team :=
    { grid := n, tix := t, core := c, place := 0, occ := 0, groups := s.newKeys c [] (List.range (recGroups g.record)), resident := false,
      scratchSize := recScratch g.record, stamp := id, scratch := [], winBase := (s.freeTiles c (recWindow g.record)).getD 0,
      winW := recWindow g.record, acc := [], handles := [], phase := 0, expected := recGroups g.record, arrived := [],
      children := [], slot := slot, reqId := if slot.isSome then e.2.1 else 0,
      reqRec := if slot.isSome then e.2.2 else 0, preempt := none, senders := [], changes := [], ended := false }
  let s2 := { s1 with idCtr := id + 1, teams := Tab.put s1.teams id team }
  let s3 := s2.onGrid n fun g => { g.setNext d (t + 1 - (g.share d).1) with live := g.live + 1 }
  s3.passCore c

/-- Place a saved team on a core; TEAM_RESTORE brings its state back (R355). -/
def State.placeSaved (s : State) (id c : Nat) (v : Saved) : State :=
  let team := { v.team with
    core := c
    groups := s.newKeys c [] (v.team.groups.map (·.2))
    resident := false
    winBase := (s.freeTiles c v.team.winW).getD 0
    preempt := none }
  ({ s with teams := Tab.put s.teams id team }).passCore c

/-- Place some work of a grid on a core. -/
def State.place (s : State) (n d c : Nat) (g : Grid) : Work → State
  | .saved id v => s.placeSaved id c v
  | .fresh t => s.placeFresh n d t c g

/-- The need of some work of a grid. -/
def Work.need (w : Work) (n : Nat) (g : Grid) : Need :=
  match w with
  | .saved _ v => { g.need n (some v.window) with groups := v.team.groups.map (·.2), stamp := v.team.stamp }
  | .fresh _ => g.need n none

/-! ### Parameters (R168, R359, R445) -/

/-- The parameter block of a grid is still to be read. -/
def Grid.needsParams (g : Grid) : Bool := recParams g.record ≠ 0 && (g.params.getD []).length ≤ 2

/-- Words of the parameter block (R168). -/
def Grid.paramWords (g : Grid) : Nat := min (recRegs g.record) 64

/-- Read the parameter block at the first dispatch; a step grid's words 0 and 1 stay the manifest's address (R168, R359).
On a fault nothing of the grid runs: its teams count as passed and its code is the fault's (R445). None while a freeze
holds the read. -/
def State.loadParams (s : State) (n : Nat) (g : Grid) : Option (State × Bool) :=
  if !g.needsParams then some (s, true)
  else
    let a := recParams g.record
    match mapSpan s (ioAgent g.ctx) a (4 * g.paramWords) .load with
    | (s1, .ok m) =>
      let word (i : Nat) : Word := BitVec.ofNat 32 (readBytes (s1.pageByte (ioAgent g.ctx) m) (a + 4 * i) 4)
      let ws := (g.params.getD []) ++ ((List.range g.paramWords).map word).drop (g.params.getD []).length
      some (s1.onGrid n fun g => { g with params := some ws }, true)
    | (_, .error (_, .held)) => none
    | (s1, .error (va, x)) =>
      let f := s1.ioFault g.ctx va x false
      let all (d : Nat) : Nat := (g.share d).2 - (g.share d).1
      some (f.1.onGrid n fun g => { g with code := f.2, next0 := all 0, next1 := all 1 }, false)

/-! ### One decision (R347, R348) -/

/-- TLIM of a tier (R338). -/
def State.tlim (s : State) (tier : Nat) : Nat :=
  if tier = 1 then s.csr.tlim1 else if tier = 2 then s.csr.tlim2 else if tier = 3 then s.csr.tlim3 else 0

/-- A deadline as it is ordered: 0 stands last (R343). -/
def orderDeadline (x : Nat) : Nat := if x = 0 then 2 ^ 48 - 1 else x

/-- Effective tier and key of a ready entry (R348). -/
def State.effective (s : State) (g : Grid) : Nat × Nat :=
  let ready := g.ready.getD (s.ticks 0)
  let lim := s.tlim g.tier
  if g.tier ≠ 0 && lim ≠ 0 && lim < s.ticks 0 - ready then (0, ready + lim) else (g.tier, orderDeadline (recDeadline g.record))

/-- The effective tier at which a grid's placed teams stand: its age promotes it only while it is a ready entry, which it stays
until its last team has been dispatched (R347, R348, R353). -/
def State.etier (s : State) (n : Nat) (g : Grid) : Nat :=
  if (s.nextWork n g 0).isSome || (s.nextWork n g 1).isSome then (s.effective g).1 else g.tier

/-- A ready entry with teams to place on a die. -/
structure Waiting where
  id : Nat
  g : Grid
  work : Work
  deriving DecidableEq, Repr

/-- The ready entries of a die that have teams still to place there (R347, R348). -/
def State.cands (s : State) (d : Nat) : List Waiting :=
  s.grids.filterMap fun x =>
    if x.2.ready.isSome then (s.nextWork x.1 x.2 d).map fun w => ⟨x.1, x.2, w⟩ else none

/-- Lexicographic order of lists of numbers. -/
def lexLt : List Nat → List Nat → Bool
  | a :: s, b :: t => a < b || (a = b && lexLt s t)
  | _, _ => false

/-- Insert by a list of numbers; equals keep their order. -/
def insertCand (f : Waiting → List Nat) (x : Waiting) : List Waiting → List Waiting
  | [] => [x]
  | y :: t => if lexLt (f x) (f y) then x :: y :: t else y :: insertCand f x t

def sortCands (f : Waiting → List Nat) (cs : List Waiting) : List Waiting := cs.foldl (fun l x => insertCand f x l) []

/-- The next tier after `last` in rotation that has a candidate of that record tier (R348). -/
def nextTier (cs : List Waiting) (last : Nat) : Option Nat :=
  [last % 3 + 1, (last + 1) % 3 + 1, (last + 2) % 3 + 1].find? fun k => cs.any fun x => x.g.tier = k

/-- A die's candidates in the order of a decision, with the numbers on which a tie is judged, and the tier that the
rotation serves (R348). -/
def State.decisionOrder (s : State) (d : Nat) : List Waiting × (Waiting → List Nat) × Option Nat :=
  let cs := s.cands d
  let die := s.die d
  let ready (x : Waiting) : Nat := x.g.ready.getD 0
  let turn (x : Waiting) : Nat := (x.g.queue + 4096 - die.ptr) % 4096
  let rot := if (die.decisions + 1) % 32 = 0 then nextTier cs die.last else none
  match rot with
  | some k => (sortCands (fun x => [ready x, turn x]) (cs.filter fun x => x.g.tier = k), fun x => [ready x], some k)
  | none =>
    let tie (x : Waiting) : List Nat := [(s.effective x.g).1, (s.effective x.g).2, ready x]
    (sortCands (fun x => tie x ++ [turn x]) cs, tie, none)

/-- The first candidate that fits on a core, with the core (R348). -/
def State.firstFit (s : State) (d : Nat) : List Waiting → Option (Waiting × Nat)
  | [] => none
  | x :: t =>
    match s.pickCore d (x.work.need x.id x.g) with
    | some c => some (x, c)
    | none => s.firstFit d t

/-- The tick since which an entry of effective tier 0 has gone unplaced restarts on a placement and at any other tier
(R353). -/
def State.restartUnplaced (s : State) (n d : Nat) : State :=
  s.onGrid n fun g => if d = 0 then { g with unplaced0 := s.ticks 0 } else { g with unplaced1 := s.ticks 0 }

/-- One decision of a die's dispatcher (R348). -/
def State.decision (s : State) (d : Nat) : Option State :=
  let die := s.die d
  if die.lost || die.resetting || die.decided = s.ticks d + 1 || s.cands d = [] then none
  else
    let o := s.decisionOrder d
    let s1 := s.onDie d fun x =>
      { x with decisions := x.decisions + 1, decided := s.ticks d + 1, last := o.2.2.getD x.last }
    let s2 := (s.cands d).foldl (fun s x => if (s.effective x.g).1 = 0 then s else s.restartUnplaced x.id d) s1
    match s.firstFit d (o.1.take 8) with
    | none => some s2
    | some (x, c) =>
      match s2.loadParams x.id x.g with
      | none => none
      | some (s3, false) => some s3
      | some (s3, true) =>
        let s4 := (s3.place x.id d c x.g x.work).restartUnplaced x.id d
        let tied := o.1.any fun y => y.id ≠ x.id && o.2.1 y = o.2.1 x
        some (if tied then s4.onDie d fun z => { z with ptr := (x.g.queue + 1) % 4096 } else s4)

/-- DISPATCH_DECISION (R348). -/
def execDispatchDecision (s : State) : Host.Outcome State Fault Refusal :=
  onEvent s fun
    | .dispatchDecision d => s.decision d
    | _ => none

/-! ### A team becomes resident (R38, R51, R77, R263) -/

/-- A team leaves its core: its places, window and scratchpad are free, and its grid has one team less (R32, R208, R349). -/
def State.removeTeam (s : State) (id : Nat) : State :=
  match s.team? id with
  | none => s
  | some t =>
    let s1 := { s with teams := Tab.del s.teams id }
    (s1.onGrid t.grid fun g => { g with live := g.live - 1 }).freeRegions t.core

/-- The team takes the lowest free team place, whose occupancy count rises (R263). -/
def State.takePlace (s : State) (id : Nat) : State :=
  match s.team? id with
  | none => s
  | some t =>
    let used := (s.teams.filter fun x => x.2.core = t.core && x.2.resident).map (·.2.place)
    let n := ((List.range 40).find? fun n => !used.contains n).getD 0
    let key := t.core % 4 * 64 + n
    let count := Tab.get (s.quad (quadOfCore t.core)).occ key 0 + 1
    (s.onQuad (quadOfCore t.core) fun q => { q with occ := Tab.put q.occ key count }).onTeam id fun t =>
      { t with place := n, occ := count % 4096, resident := true }

/-- A group at its start: every lane at the first word after the entry header, parameters in its first registers, and the
rest as R38 gives it. -/
def newGroup (g : Grid) (tid gid stamp : Nat) : Group :=
  { Group.privilegedReset with
    privileged := false
    team := tid
    gid := gid
    regs := recRegs g.record
    stamp := stamp
    pcs := List.replicate 32 (BitVec.ofNat 32 (recEntry g.record + 4))
    arrived := recEntry g.record
    vregs := (List.range (g.params.getD []).length).map fun i => (i, List.replicate 32 (((g.params.getD [])[i]?).getD 0))
    pri := 6 - 2 * g.tier }

/-- Start a group: its entry header is checked before its first turn (R38, R404). -/
def State.startGroup (s : State) (g : Grid) (tid k gid : Nat) : State :=
  let n := s.idCtr
  let s1 := { s with idCtr := n + 1, groups := Tab.put s.groups k (newGroup g tid gid n) }
  s1.arriveSeq k (BitVec.allOnes 32) (recEntry g.record)

/-- A placed team becomes resident; the team of a slot that has been charged since is dropped. A child's team acquires at
PKG (R38, R51, R397). -/
def State.becomeResident (s : State) (id : Nat) : Option State :=
  match s.team? id with
  | none => none
  | some t =>
    match s.grid? t.grid with
    | none => none
    | some g =>
      if t.resident || (Tab.find s.saved id).isSome then none
      else if g.emptyTeam t.tix then some (s.removeTeam id)
      else
        let s1 := t.groups.foldl (fun s k => s.startGroup g id k.1 k.2) (s.takePlace id)
        some (if g.parent.isSome then s1.acquire t.core else s1)

/-- TEAM_RESIDENT (R350). -/
def execTeamResident (s : State) : Host.Outcome State Fault Refusal :=
  onEvent s fun
    | .teamResident id => s.becomeResident id
    | _ => none

/-! ### Leaving (R32, R52, R208) -/

/-- GROUP_PLACE_RELEASE: an exited group whose memory instructions have completed gives up its place (R208). -/
def execGroupPlaceRelease (s : State) : Host.Outcome State Fault Refusal :=
  onEvent s fun
    | .groupPlaceRelease k =>
      match s.group? k with
      | none => none
      | some g =>
        if g.privileged || !g.exited || !s.quiet k then none
        else
          some (({ s with groups := Tab.del s.groups k }).onTeam g.team fun t =>
            { t with groups := t.groups.filter fun x => x.1 ≠ k })
    | _ => none

/-- An engine command or posted entry of a team has not completed (R208, R242). -/
def State.teamBusy (s : State) (id : Nat) : Bool :=
  s.cmds.any (fun x => x.2.team = id) || s.quads.any fun q => q.2.board.any fun e => e.2.team = id

/-- TEAM_LEAVE (R208). -/
def execTeamLeave (s : State) : Host.Outcome State Fault Refusal :=
  onEvent s fun
    | .teamLeave id =>
      match s.team? id with
      | none => none
      | some t => if !t.resident || t.groups ≠ [] || s.teamBusy id then none else some (s.removeTeam id)
    | _ => none

/-- Saved teams of a grid that belong to a lost die, where nothing restores them (R355, R431). -/
def State.strandedTeams (s : State) (n : Nat) : Nat :=
  (s.saved.filter fun x => x.2.team.grid = n && (s.die x.2.die).lost).length

/-- A grid's share on a lost die had teams left (R431). -/
def State.shareLost (s : State) (n : Nat) (g : Grid) : Bool :=
  g.cut ≠ 0 || s.strandedTeams n ≠ 0 || (s.die0.lost && (g.nextTeam 0).isSome) || (s.die1.lost && (g.nextTeam 1).isSome)

/-- Every team of a grid that can run has exited, every child grid has retired, and no binding of its teams that nothing names any
more has yet to drop its pins (R52, R316, R387). -/
def State.gridDone (s : State) (n : Nat) (g : Grid) : Bool :=
  g.ready.isSome && g.live = s.strandedTeams n && (s.die0.lost || (g.nextTeam 0).isNone) &&
    (s.die1.lost || (g.nextTeam 1).isNone) && !s.grids.any (fun x => x.2.parent = some n) &&
    !s.bindings.any fun b => b.2.grid = n && !s.bindingNamed b.1

/-- Groups blocked in WAITCH whose children have all retired become ready, with an acquire at PKG (R53). -/
def State.wakeParents (s : State) : State :=
  let done (g : Group) : Bool :=
    match g.block with
    | .waitch ns => ns.all fun n => (s.grid? n).isNone
    | _ => false
  ((s.groups.filter fun x => done x.2).map (·.1)).foldl (fun s k =>
    (s.onGroup k fun g => { g with block := .none }).acquire (keyCore k)) s

/-- The completion record of a grid (R345, R445). -/
def State.completeGrid (s : State) (g : Grid) (code : Nat) : State :=
  let now := s.ticks 0
  let r := g.record
  s.writeCompletion g.ctx (recCompletion r)
    (completionBits (recSeq r) 2 code (missedBy now (recDeadline r)) g.accepted now (recDeadline r))

/-- Retire a grid: its completion record, its queue's next head, its parent's count, and the batch former that launched it
(R52, R53, R347, R360). -/
def State.retireGrid (s : State) (n : Nat) (g : Grid) : State :=
  let s1 := s.completeGrid g g.code
  let drop (t : Team) : Team := { t with children := t.children.filter (· ≠ n) }
  let saved (v : Saved) : Saved := { v with team := drop v.team }
  let former (f : Former) : Former := if f.grid = some n then { f with grid := none } else f
  let s2 : State := { s1 with
    grids := Tab.del s1.grids n
    queues := Tab.put s1.queues g.queue ((Tab.get s1.queues g.queue []).filter (· ≠ n))
    teams := s1.teams.map fun x => (x.1, drop x.2)
    saved := s1.saved.map fun x => (x.1, saved x.2)
    formers := s1.formers.map fun x => (x.1, former x.2) }
  let s3 := if g.parent.isSome then s2.onContext g.ctx fun c => { c with children := c.children - 1 } else s2
  (s3.readyHead g.queue).wakeParents

/-- GRID_RETIRE (R52); a grid whose share on a lost die had teams left never retires, and its completion is written as
RETIRED with code 0x0405 when the rest has run (R431). -/
def execGridRetire (s : State) : Host.Outcome State Fault Refusal :=
  onEvent s fun
    | .gridRetire n =>
      match s.grid? n with
      | none => none
      | some g =>
        if !s.gridDone n g || g.cut = 2 || s.heldAt g.ctx (recCompletion g.record) then none
        else if s.shareLost n g then some ((s.completeGrid g 0x0405).onGrid n fun g => { g with cut := 2 })
        else some (s.retireGrid n g)
    | _ => none

end Sys2Proof.Machine
end

