-- ==== Sys2Proof/Machine/Former.lean ====
section
/-! DEFINITION. The batch former: request records, retirement, eviction, admission and the step grid with its manifest (R54
to R60, R335, R356 to R361, R437, R442, R443). -/

namespace Sys2Proof.Machine

/-! ### Request records (R54) -/

def rqId (r : Nat) : Nat := bits r 0 64
def rqState (r : Nat) : Nat := bits r 64 8
def rqTier (r : Nat) : Nat := bits r 72 2
def rqFlags (r : Nat) : Nat := bits r 80 8
def rqFault (r : Nat) : Nat := bits r 96 16
def rqDeadline (r : Nat) : Nat := bits r 128 48
def rqTree (r : Nat) : Nat := bits r 192 20
def rqPosition (r : Nat) : Nat := bits r 224 24
def rqMax (r : Nat) : Nat := bits r 256 24
def rqStops (r : Nat) : Nat := min 8 (bits r 288 4)
def rqStop (r i : Nat) : Nat := bits r (320 + 32 * i) 20
def rqChain (r : Nat) : Nat := bits r 576 64
def rqEmitted (r : Nat) : Nat := bits r 704 32
def rqCompletion (r : Nat) : Nat := bits r 768 64
def rqAdmitted (r : Nat) : Nat := bits r 832 64

/-- The reserved fields of a request record as (low bit, length), but for the one that reads as zero to the device (R54). -/
def rqReserved : List (Nat × Nat) :=
  [(752, 16), (292, 28), (280, 8), (248, 8), (212, 12), (176, 16), (112, 16), (82, 14), (74, 6)]

/-- The record at an address of a context; one that cannot be read counts as EMPTY (log 41). -/
def State.request (s : State) (x a : Nat) : Nat :=
  match (readVirt s x a 256).2 with
  | .ok r => r
  | .error _ => 0

/-- Store a field of a record. -/
def State.rqWrite (s : State) (x a byte n v : Nat) : State := (writeVirt s x (a + byte) n v).1

/-- A malformed record (R443). -/
def State.malformed (s : State) (r : Nat) : Bool :=
  7 ≤ rqState r || (rqReserved.any fun f => bits r f.1 f.2 ≠ 0) || rqChain r = 0 || s.treeBase (treeDie (rqTree r)) = 0

/-- The stop condition at the end of a step (R56). -/
def stopMet (r : Nat) (last : Option Nat) : Bool :=
  (rqMax r ≠ 0 && rqMax r ≤ rqEmitted r) || last.any fun t => (List.range (rqStops r)).any fun i => rqStop r i = t

/-! ### The descriptor (R357) -/

def dsTable (d : Nat) : Nat := bits d 0 64
def dsEntries (d : Nat) : Nat := bits d 64 32
def dsManifest (d : Nat) : Nat := bits d 96 64
def dsTemplate (d : Nat) : Nat := bits d 160 64
def dsSlots (d : Nat) : Nat := bits d 224 12 + 1
def dsTokens (d : Nat) : Nat := bits d 240 16 + 1
def dsChunk (d : Nat) : Nat := bits d 256 16 + 1
def dsDraft (d : Nat) : Nat := bits d 272 6 + 1
def dsCheck (d : Nat) : Nat := bits d 280 6 + 1
def dsLow (d : Nat) : Nat := bits d 288 24
def dsHigh (d : Nat) : Nat := bits d 312 24
def dsKeep (d : Nat) : Bool := bits d 336 1 = 1

/-- The cursor of a slot whose prefill has ended (R359). -/
def decoding : Nat := 2 ^ 32

def State.onFormer (s : State) (x : Nat) (f : Former → Former) : State := { s with formers := Tab.alter s.formers x f }

/-! ### Retirement (R56, R358, R442) -/

/-- Release the tree of a request as PRUNE of the trunk does (R306, R358). -/
def State.releaseTree (s : State) (x t : Nat) : State :=
  if s.ownsTree t x && thState (s.treeHdr t) = 2 then (treePrune s t none).1 else s

/-- The batch former forgets a request. -/
def Former.forget (f : Former) (a : Nat) : Former :=
  { f with slots := f.slots.filter (fun z => z.2.1 ≠ a), found := Tab.del f.found a, requeued := Tab.del f.requeued a,
           halves := Tab.del f.halves a }

/-- finish(r, x): state, missed, completion record, tree, slot (R345, R358). -/
def State.finishRequest (s : State) (x a r state status : Nat) (keep : Bool) : State :=
  let now := s.ticks 0
  let miss := missedBy now (rqDeadline r)
  let s1 := s.rqWrite x a 8 1 state
  let s2 := if miss then s1.rqWrite x a 10 1 (setBits (rqFlags r) 0 1 1) else s1
  let s3 := s2.writeCompletion x (rqCompletion r)
    (completionBits (rqId r) status (rqFault r) miss (rqAdmitted r) now (rqDeadline r))
  (if keep then s3 else s3.releaseTree x (rqTree r)).onFormer x fun f => f.forget a

/-- Back to the queue after a lost shard: its half stays, its slot is free (R335, R442). -/
def State.requeue (s : State) (x a half : Nat) : State :=
  let s1 := (s.rqWrite x a 8 1 1).rqWrite x a 12 2 0
  s1.onFormer x fun f =>
    { f with slots := f.slots.filter (fun z => z.2.1 ≠ a), found := Tab.put f.found a (s.ticks 0),
             halves := Tab.put f.halves a half }

/-- Retire one slot at the start of a step (R358, R442). -/
def State.retireSlot (s : State) (x : Nat) (keep : Bool) (z : Nat × Nat × Nat × Nat) : State :=
  let a := z.2.1
  let r := s.request x a
  let last := match Tab.find s.formers x with
    | some f => Tab.find f.emitted a
    | none => none
  if rqState r = 5 then s.finishRequest x a r 6 6 keep
  else if rqFault r = 0x0502 then s.requeue x a z.2.2.2
  else if rqFault r ≠ 0 then s.finishRequest x a r 4 4 keep
  else if stopMet r last then s.finishRequest x a r 3 3 keep
  else s

/-! ### The request table (R55, R359, R443) -/

/-- Addresses of the records of a descriptor's table. -/
def tableAddrs (d : Nat) : List Nat := (List.range (dsEntries d)).map fun i => dsTable d + 256 * i

/-- A malformed record is FAULTED with 0x0504, its missed bit set past its deadline, a completion record and a fault record (R54,
R443). -/
def State.faultRecord (s : State) (x a r : Nat) : State :=
  let miss := missedBy (s.ticks 0) (rqDeadline r)
  let s0 := (s.rqWrite x a 8 1 4).rqWrite x a 12 2 0x0504
  let s1 := if miss then s0.rqWrite x a 10 1 (setBits (rqFlags r) 0 1 1) else s0
  let s2 := s1.writeCompletion x (rqCompletion r)
    (completionBits (rqId r) 4 0x0504 miss (rqAdmitted r) (s.ticks 0) (rqDeadline r))
  let record := setBits (recordBits s2 (ioSource x) ⟨0x0504, 2, 0xFFFFFFFF, 0, a, 0, 0⟩) 256 64 (rqId r)
  (s2.sendRecord (ioSource x) record).1.onFormer x fun f => f.forget a

/-- Look at a record that holds no slot: a cancelled one is retired, a malformed one faulted, and a QUEUED one noted with
the tick at which it was first found (R55, R359, R443; log 42). -/
def State.scanRecord (s : State) (x : Nat) (keep : Bool) (a : Nat) : State :=
  let r := s.request x a
  let held := (Tab.find s.formers x).any fun f => f.slots.any fun z => z.2.1 = a
  if held then s
  else if rqState r = 5 then s.finishRequest x a r 6 6 keep
  else if rqState r = 1 || 7 ≤ rqState r then
    if s.malformed r then s.faultRecord x a r
    else s.onFormer x fun f => if (Tab.find f.found a).isSome then f else { f with found := Tab.put f.found a (s.ticks 0) }
  else s.onFormer x fun f => { f with found := Tab.del f.found a }

/-! ### Eviction (R358, R359, R437) -/

/-- Page sets that a tree references (R359). -/
def State.treeSets (s : State) (t : Nat) : Nat :=
  let h := s.treeHdr t
  if s.treeBase (treeDie t) = 0 || thState h ≠ 2 then 0
  else
    let trunk := (List.range (min (thTC h) (ceilDiv (thLen h) (thT h)))).map fun j => s.mapEntry t none j
    let nodes := (liveSlots h).flatMap fun n => (List.range (thNC h)).map fun k => s.mapEntry t (some n) (s.firstPage t (some n) + k)
    (((trunk ++ nodes).filter meV).map meSet).eraseDups.length

/-- FREE sets of a die; a disabled pool has none. -/
def State.freeCount (s : State) (d : Nat) : Nat := if s.poolBase d = 0 then 0 else s.freeSets d

/-- The order of eviction: lowest tier, latest deadline, most sets, highest request id (R359). -/
def State.evictKey (s : State) (r : Nat) : List Nat :=
  [3 - rqTier r, 2 ^ 48 - orderDeadline (rqDeadline r), 2 ^ 32 - s.treeSets (rqTree r), 2 ^ 64 - rqId r]

/-- What may be evicted: the ACTIVE slots, and a request that was requeued for 0x0502 and waits to be admitted again, while it has its
tree (R437, R449; log 42). -/
def State.evictable (s : State) (x : Nat) (f : Former) : List (Nat × Nat × Nat × Nat) :=
  f.slots ++ f.requeued.filterMap fun y =>
    let r := s.request x y.1
    if f.slots.any (fun z => z.2.1 = y.1) || rqState r ≠ 1 || !s.ownsTree (rqTree r) x || thState (s.treeHdr (rqTree r)) ≠ 2 then none
    else some (0, y.1, 0, Tab.get f.halves y.1 0)

/-- The request whose tree is homed on a die that is evicted first (R359). -/
def State.evictee (s : State) (x d : Nat) (f : Former) : Option (Nat × Nat × Nat × Nat) :=
  (s.evictable x f).foldl (fun (b : Option (Nat × Nat × Nat × Nat)) z =>
    let r := s.request x z.2.1
    if treeDie (rqTree r) ≠ d then b
    else match b with
      | none => some z
      | some y => if lexLt (s.evictKey r) (s.evictKey (s.request x y.2.1)) then some z else b) none

/-- Evict one slot: QUEUED, evicted, its tree released and NEW again (R291, R358). -/
def State.evict (s : State) (x : Nat) (z : Nat × Nat × Nat × Nat) : State :=
  let a := z.2.1
  let r := s.request x a
  let t := rqTree r
  let s1 := (s.rqWrite x a 8 1 1).rqWrite x a 10 1 (setBits (rqFlags r) 1 1 1)
  let s2 := s1.releaseTree x t
  let s3 := if s2.ownsTree t x then s2.setHdr t (setBits (s2.treeHdr t) 0 4 1) else s2
  s3.onFormer x fun f =>
    { f with slots := f.slots.filter (fun y => y.2.1 ≠ a), found := Tab.put f.found a (s.ticks 0),
             halves := Tab.put f.halves a z.2.2.2 }

/-- Evict on a die while its free sets are below LW, at most `n` times; what is left of `n` (R358, R437). -/
def evictDie (x d low : Nat) : Nat → State → State × Nat
  | 0, s => (s, 0)
  | n + 1, s =>
    if low ≤ s.freeCount d then (s, n + 1)
    else match (Tab.find s.formers x).bind fun f => s.evictee x d f with
      | none => (s, n + 1)
      | some z => evictDie x d low n (s.evict x z)

/-! ### Extents and admission (R335, R359) -/

/-- Extent and start position of a slot (R359). -/
def extentOf (d step cursor half r : Nat) : Nat × Nat :=
  if cursor < rqPosition r then (min (dsChunk d) (rqPosition r - cursor), cursor)
  else (if half = step % 2 then dsDraft d else dsCheck d, rqPosition r - 1)

/-- The slots of a step that fit the token budget, in slot order, with extent and start: a slot that would pass it is
skipped (R359; log 43). -/
def fitSlots (s : State) (x d step : Nat) : List (Nat × Nat × Nat × Nat) → Nat → List (Nat × Nat × Nat)
  | [], _ => []
  | (n, a, cur, half) :: rest, left =>
    let e := extentOf d step cur half (s.request x a)
    if e.1 ≤ left then (n, e) :: fitSlots s x d step rest (left - e.1) else fitSlots s x d step rest left

/-- Tokens of the slots that fit. -/
def fitTokens (l : List (Nat × Nat × Nat)) : Nat := l.foldl (fun n x => n + x.2.1) 0

/-- The half of a newly admitted request: its own when it has been admitted before, else the half with fewer slots (R335). -/
def Former.halfFor (f : Former) (a : Nat) : Nat :=
  let count (h : Nat) : Nat := (f.slots.filter fun z => z.2.2.2 = h).length
  Tab.get f.halves a (if count 0 ≤ count 1 then 0 else 1)

/-- The lowest free slot (R359). -/
def Former.freeSlot (f : Former) : Nat :=
  ((List.range (f.slots.length + 1)).find? fun n => (Tab.find f.slots n).isNone).getD 0

/-- The order of admission: effective tier, deadline, request id (R359). -/
def State.admitKey (s : State) (f : Former) (a r : Nat) : List Nat :=
  let lim := s.tlim (rqTier r)
  let wait := s.ticks 0 - Tab.get f.found a (s.ticks 0)
  [if lim ≠ 0 && lim < wait then 0 else rqTier r, orderDeadline (rqDeadline r), rqId r]

/-- Insert by a list of numbers. -/
def insertKey (k : List Nat) (a : Nat) : List (List Nat × Nat) → List (List Nat × Nat)
  | [] => [(k, a)]
  | y :: t => if lexLt k y.1 then (k, a) :: y :: t else y :: insertKey k a t

/-- QUEUED records in admission order. -/
def State.admitOrder (s : State) (x d : Nat) (f : Former) : List Nat :=
  ((tableAddrs d).foldl (fun l a =>
    let r := s.request x a
    if rqState r = 1 && (Tab.find f.found a).isSome then insertKey (s.admitKey f a r) a l else l) []).map (·.2)

/-- Admit one record if it can be, once it has been checked: one that has been evicted in this step may be malformed (R335, R358, R359,
R442, R443). -/
def State.admitSlot (s : State) (x d a : Nat) : State :=
  match Tab.find s.formers x with
  | none => s
  | some f =>
    let r := s.request x a
    if s.malformed r then s.faultRecord x a r
    else
    let half := f.halfFor a
    let e := (extentOf d f.step 0 half r).1
    let left := dsTokens d - fitTokens (fitSlots s x d f.step f.slots (dsTokens d))
    if dsSlots d ≤ f.slots.length || left < e || s.freeCount (treeDie (rqTree r)) < dsHigh d ||
        s.ticks 0 < Tab.get f.requeued a 0 then s
    else
      let s1 := s.rqWrite x a 8 1 2
      let s2 := if rqAdmitted r = 0 then s1.rqWrite x a 104 8 (s.ticks 0) else s1
      s2.onFormer x fun f =>
        { f with slots := Tab.put f.slots f.freeSlot (a, 0, half), found := Tab.del f.found a,
                 requeued := Tab.del f.requeued a, halves := Tab.del f.halves a }

/-! ### The step grid and its manifest (R57, R58, R359, R361) -/

/-- Header of a manifest (R57). -/
def manifestHeader (step total S N : Nat) : Nat := packFields [(0, 16, N), (16, 8, S), (32, 32, total), (64, 64, step)]

/-- Entry of a manifest (R57). -/
def manifestEntry (a offset extent half start : Nat) : Nat :=
  packFields [(0, 64, a), (64, 32, offset), (96, 17, extent), (113, 1, half), (128, 24, start)]

/-- Write the entries of slots from `n` on, with running token offsets (R57); none when a write faults (log 41). The entries from N
on, which R57 calls unused, are not written (DESIGN CHOICE: log 109). -/
def writeEntries (x base : Nat) (f : Former) (fit : Tab (Nat × Nat)) : Nat → Nat → Nat → State → Option State
  | 0, _, _, s => some s
  | m + 1, n, off, s =>
    let z := (Tab.find f.slots n).getD (0, 0, 0)
    let e := (Tab.find fit n).map (·.1)
    let v := ((Tab.find fit n).map fun y => manifestEntry z.1 off y.1 z.2.2 y.2).getD 0
    match writeVirt s x (base + 64 + 32 * n) 32 v with
    | (s1, .ok _) => writeEntries x base f fit m (n + 1) (off + e.getD 0) s1
    | (_, .error _) => none

/-- The record of a step grid: the template with N × S teams, the descriptor record's tier and queue, and the earliest
deadline of its requests (R359). -/
def stepRecord (template teams tier queue deadline : Nat) : Nat :=
  let r := setBits (setBits (setBits template 32 31 teams) 64 16 1) 80 16 1
  setBits (setBits (setBits r 160 2 tier) 164 12 queue) 192 48 deadline

/-- The earliest deadline of the ACTIVE requests, 0 when none has one (R359). -/
def State.stepDeadline (s : State) (x : Nat) (f : Former) : Nat :=
  let m := f.slots.foldl (fun n z => min n (orderDeadline (rqDeadline (s.request x z.2.1)))) (2 ^ 48 - 1)
  if m = 2 ^ 48 - 1 then 0 else m

/-- A prefill cursor after a step of `e` tokens (R359). -/
def State.advanceCursor (s : State) (x : Nat) (fit : Tab (Nat × Nat)) (z : Nat × Nat × Nat × Nat) : Nat × Nat × Nat × Nat :=
  let e := (Tab.get fit z.1 (0, 0)).1
  let pos := rqPosition (s.request x z.2.1)
  let cur := if pos ≤ z.2.2.1 then decoding else if pos ≤ z.2.2.1 + e then decoding else z.2.2.1 + e
  (z.1, z.2.1, cur, z.2.2.2)

/-- Step work that launches no grid: the next step starts 10,000 ticks later (R361). -/
def State.idleFormer (s : State) (x : Nat) : State := s.onFormer x fun f => { f with idleAt := some (s.ticks 0 + 10000) }

/-- Write the manifest and launch the step grid (R57, R58, R359, R361). A template that cannot be read or fails a check of
R343, or a manifest of which a write faults, launches nothing (log 41). -/
def State.launchStep (s : State) (x : Nat) (f : Former) : State :=
  let d := f.desc
  let fit := fitSlots s x d f.step f.slots (dsTokens d)
  let N := (f.slots.getLast?.map fun z => z.1 + 1).getD 0
  if N = 0 then s.idleFormer x
  else match (readVirt s x (dsTemplate d) 256).2 with
    | .error _ => s.idleFormer x
    | .ok template =>
      let S := bits template 152 6 + 1
      let r := stepRecord template (N * S) f.tier f.queue (s.stepDeadline x f)
      match (if (recordRefusal s r x none).isSome || recKind r ≠ 0 then none
          else match writeVirt s x (dsManifest d) 64 (manifestHeader f.step (fitTokens fit) S N) with
            | (s1, .ok _) => writeEntries x (dsManifest d) f fit N 0 0 s1
            | (_, .error _) => none) with
      | none => s.idleFormer x
      | some s2 =>
        let slot (z : Nat × Nat × Nat × Nat) : Nat × Nat × Nat × Nat :=
          (z.1, (Tab.get fit z.1 (0, 0)).1, rqId (s.request x z.2.1), z.2.1)
        let words : List Word := [BitVec.ofNat 32 (dsManifest d), BitVec.ofNat 32 (dsManifest d / 2 ^ 32)]
        let g := s2.acceptGrid r ⟨x, f.tier, none, 0, 0, true, S, f.slots.map slot, some words⟩
        g.1.onFormer x fun f =>
          { f with grid := some g.2, step := f.step + 1, emitted := [], idleAt := none,
                   slots := f.slots.map fun z => s.advanceCursor x fit z }

/-- The work of a model step in its order: retire, evict, admit, launch (R358). -/
def State.formerWork (s : State) (x : Nat) (f : Former) : State :=
  let d := f.desc
  let s1 := f.slots.foldl (fun s z => s.retireSlot x (dsKeep d) z) s
  let s2 := s1.onFormer x fun f => { f with emitted := [] }
  let s3 := (tableAddrs d).foldl (fun s a => s.scanRecord x (dsKeep d) a) s2
  let e0 := evictDie x 0 (dsLow d) 64 s3
  let e1 := evictDie x 1 (dsLow d) e0.2 e0.1
  match Tab.find e1.1.formers x with
  | none => e1.1
  | some f1 =>
    let s4 := (e1.1.admitOrder x d f1).foldl (fun s a => s.admitSlot x d a) e1.1
    match Tab.find s4.formers x with
    | none => s4
    | some f2 => s4.launchStep x f2

/-- A step of a batch former: a pending kind-2 record takes effect first, stopping it or replacing its descriptor (R356). -/
def State.formerStep (s : State) (x : Nat) (f : Former) : State :=
  match f.pending with
  | some none => { s with formers := Tab.del s.formers x }
  | some (some d) =>
    let f1 := { f with desc := d, pending := none }
    { s with formers := Tab.put s.formers x f1 }.formerWork x f1
  | none => s.formerWork x f

/-- BATCH_FORMER_STEP: at its start, and when its step grid has retired; a freeze of a page of its context holds it (R88, R358,
R360). -/
def execBatchFormerStep (s : State) : Host.Outcome State Fault Refusal :=
  onEvent s fun
    | .batchFormerStep x =>
      match Tab.find s.formers x with
      | none => none
      | some f => if f.grid.isSome || f.idleAt.isSome || s.spaceFrozen x then none else some (s.formerStep x f)
    | _ => none

/-- BATCH_FORMER_IDLE_TIMER (R361). -/
def execBatchFormerIdleTimer (s : State) : Host.Outcome State Fault Refusal :=
  onEvent s fun
    | .batchFormerIdleTimer x =>
      match Tab.find s.formers x with
      | none => none
      | some f =>
        match f.idleAt with
        | none => none
        | some t =>
          if f.grid.isSome || s.ticks 0 < t || s.spaceFrozen x then none
          else
            let f1 := { f with idleAt := none }
            some ({ s with formers := Tab.put s.formers x f1 }.formerStep x f1)
    | _ => none

end Sys2Proof.Machine
end

