-- ==== Sys2Proof/Machine/LaneData.lean ====
section
/-! DEFINITION. Compares, predicates and guard slots (0x70 to 0x7F; R192 to R194), shuffles, votes, reductions and
special registers (0x80 to 0x8E; R195 to R198). -/

namespace Sys2Proof.Machine

/-! ### Compares and predicates -/

/-- A lane instruction with a predicate destination (R192). -/
def predOp (i : Instr) (d : BitVec 7) (lat : Nat) (s : State) (rel : Group → Nat → Bool) : Host.Outcome State Fault Refusal :=
  issue i s fun s g m =>
    s.withGroup (g.setRel (s.cycles (dieOfCore (keyCore s.cur.grp))) lat d.toNat m (rel g))

/-- A compare of two words. -/
def cmp2 (i : Instr) (f : FmtA) (s : State) (rel : Word → Word → Bool) : Host.Outcome State Fault Refusal :=
  predOp i f.d 4 s fun g l => rel (g.reg f.a.toNat l) (g.reg f.b.toNat l)

/-- A function of two predicates (R193). -/
def pred2 (i : Instr) (f : FmtA) (s : State) (rel : Bool → Bool → Bool) : Host.Outcome State Fault Refusal :=
  predOp i f.d 4 s fun g l => rel (g.pred f.a.toNat l) (g.pred f.b.toNat l)

/-- p(d) ← a = b (R192). -/
def execIcmpEq (f : FmtA) (s : State) : Host.Outcome State Fault Refusal := cmp2 (.icmpEq f) f s fun a b => a = b
/-- p(d) ← a ≠ b (R192). -/
def execIcmpNe (f : FmtA) (s : State) : Host.Outcome State Fault Refusal := cmp2 (.icmpNe f) f s fun a b => a ≠ b
/-- p(d) ← sv(a) < sv(b) (R192). -/
def execIcmpLtS (f : FmtA) (s : State) : Host.Outcome State Fault Refusal := cmp2 (.icmpLtS f) f s fun a b => a.toInt < b.toInt
/-- p(d) ← sv(a) ≤ sv(b) (R192). -/
def execIcmpLeS (f : FmtA) (s : State) : Host.Outcome State Fault Refusal := cmp2 (.icmpLeS f) f s fun a b => a.toInt ≤ b.toInt
/-- p(d) ← a < b, unsigned (R192). -/
def execIcmpLtU (f : FmtA) (s : State) : Host.Outcome State Fault Refusal := cmp2 (.icmpLtU f) f s fun a b => a.toNat < b.toNat
/-- p(d) ← a ≤ b, unsigned (R192). -/
def execIcmpLeU (f : FmtA) (s : State) : Host.Outcome State Fault Refusal := cmp2 (.icmpLeU f) f s fun a b => a.toNat ≤ b.toNat
/-- FP32 equality (R192). -/
def execFcmpEq (f : FmtA) (s : State) : Host.Outcome State Fault Refusal := cmp2 (.fcmpEq f) f s fcmpEq
/-- Not FP32 equality (R192). -/
def execFcmpNe (f : FmtA) (s : State) : Host.Outcome State Fault Refusal := cmp2 (.fcmpNe f) f s fun a b => !fcmpEq a b
/-- FP32 less than (R192). -/
def execFcmpLt (f : FmtA) (s : State) : Host.Outcome State Fault Refusal := cmp2 (.fcmpLt f) f s fcmpLt
/-- FP32 less than or equal (R192). -/
def execFcmpLe (f : FmtA) (s : State) : Host.Outcome State Fault Refusal := cmp2 (.fcmpLe f) f s fcmpLe
/-- FP32 unordered (R192). -/
def execFcmpUo (f : FmtA) (s : State) : Host.Outcome State Fault Refusal := cmp2 (.fcmpUo f) f s fcmpUo
/-- p(d) ← p(a) AND p(b) (R193). -/
def execPand (f : FmtA) (s : State) : Host.Outcome State Fault Refusal := pred2 (.pand f) f s fun a b => a && b
/-- p(d) ← p(a) OR p(b) (R193). -/
def execPor (f : FmtA) (s : State) : Host.Outcome State Fault Refusal := pred2 (.por f) f s fun a b => a || b
/-- p(d) ← p(a) XOR p(b) (R193). -/
def execPxor (f : FmtA) (s : State) : Host.Outcome State Fault Refusal := pred2 (.pxor f) f s fun a b => a != b
/-- p(d) ← NOT p(a) (R193). -/
def execPnot (f : FmtA) (s : State) : Host.Outcome State Fault Refusal :=
  predOp (.pnot f) f.d 4 s fun g l => !g.pred f.a.toNat l

/-- GSET: bind or unbind a guard slot, once per issue whichever lanes are active (R194). -/
def execGset (f : FmtB) (s : State) : Host.Outcome State Fault Refusal :=
  issue (.gset f) s fun s g _ =>
    let gs :=
      if f.i.toNat / 2 % 2 = 1 then Tab.del g.guards f.d.toNat
      else Tab.put g.guards f.d.toNat ⟨f.a.toNat, f.i.toNat % 2 = 1⟩
    s.withGroup { g with guards := gs }

/-! ### Shuffles (R195) -/

/-- Segment width of imm7[6:5] (R195). -/
def segWidth (i : BitVec 7) : Nat := if i.toNat / 32 = 0 then 32 else if i.toNat / 32 = 1 then 16 else 8

/-- A shuffle: the source register in lane `j` of each participating lane. -/
def shuffle (i : Instr) (d a : BitVec 7) (s : State) (j : Group → Nat → Nat) : Host.Outcome State Fault Refusal :=
  laneOp i d s fun g l => g.reg a.toNat (j g l)

/-- j ← b[4:0] (R195). -/
def execShflIdx (f : FmtA) (s : State) : Host.Outcome State Fault Refusal :=
  shuffle (.shflIdx f) f.d f.a s fun g l => (g.reg f.b.toNat l).toNat % 32
/-- From δ lanes below inside the segment (R195). -/
def execShflUp (f : FmtB) (s : State) : Host.Outcome State Fault Refusal :=
  shuffle (.shflUp f) f.d f.a s fun _ l => if f.i.toNat % 32 ≤ l % segWidth f.i then l - f.i.toNat % 32 else l
/-- From δ lanes above inside the segment (R195). -/
def execShflDn (f : FmtB) (s : State) : Host.Outcome State Fault Refusal :=
  shuffle (.shflDn f) f.d f.a s fun _ l =>
    if l % segWidth f.i + f.i.toNat % 32 < segWidth f.i then l + f.i.toNat % 32 else l
/-- From lane L XOR δ inside the segment (R195). -/
def execShflXor (f : FmtB) (s : State) : Host.Outcome State Fault Refusal :=
  shuffle (.shflXor f) f.d f.a s fun _ l =>
    let j := Nat.xor l (f.i.toNat % 32)
    if j / segWidth f.i = l / segWidth f.i then j else l

/-! ### Votes, MATCH and reductions (R196) -/

/-- An instruction that combines the participating lanes; nothing is written when there is none. -/
def combine (i : Instr) (d : BitVec 7) (s : State) (f : Group → Word → Nat → Word) : Host.Outcome State Fault Refusal :=
  issue i s fun s g m => if m = 0 then .ok s else s.withGroup (g.setRow m d.toNat (f g m))

/-- 1 if p(a) = 1 in every participating lane (R196). -/
def execVoteAll (f : FmtA) (s : State) : Host.Outcome State Fault Refusal :=
  issue (.voteAll f) s fun s g m =>
    s.withGroup (g.setRel (s.cycles (dieOfCore (keyCore s.cur.grp))) 6 f.d.toNat m fun _ =>
      (lanesOf m).all fun l => g.pred f.a.toNat l)
/-- 1 if p(a) = 1 in some participating lane (R196). -/
def execVoteAny (f : FmtA) (s : State) : Host.Outcome State Fault Refusal :=
  issue (.voteAny f) s fun s g m =>
    s.withGroup (g.setRel (s.cycles (dieOfCore (keyCore s.cur.grp))) 6 f.d.toNat m fun _ =>
      (lanesOf m).any fun l => g.pred f.a.toNat l)
/-- Bit k for each participating lane k with p(a) = 1 (R196). -/
def execVoteBal (f : FmtA) (s : State) : Host.Outcome State Fault Refusal :=
  combine (.voteBal f) f.d s fun g m _ => m &&& g.predMask f.a.toNat
/-- Bit k for each participating lane k whose a equals this lane's a (R196). -/
def execMatchLanes (f : FmtA) (s : State) : Host.Outcome State Fault Refusal :=
  combine (.matchLanes f) f.d s fun g m l =>
    maskOf ((lanesOf m).filter fun k => g.reg f.a.toNat k = g.reg f.a.toNat l)
/-- w(Σ a) over the participating lanes (R196). -/
def execReduxAdd (f : FmtA) (s : State) : Host.Outcome State Fault Refusal :=
  combine (.reduxAdd f) f.d s fun g m _ => (lanesOf m).foldl (fun acc l => acc + g.reg f.a.toNat l) 0
/-- The a with the least signed value (R196). -/
def execReduxMinS (f : FmtA) (s : State) : Host.Outcome State Fault Refusal :=
  combine (.reduxMinS f) f.d s fun g m _ =>
    (lanesOf m).foldl (fun acc l => if (g.reg f.a.toNat l).toInt < acc.toInt then g.reg f.a.toNat l else acc) 0x7FFFFFFF
/-- The a with the greatest signed value (R196). -/
def execReduxMaxS (f : FmtA) (s : State) : Host.Outcome State Fault Refusal :=
  combine (.reduxMaxS f) f.d s fun g m _ =>
    (lanesOf m).foldl (fun acc l => if acc.toInt < (g.reg f.a.toNat l).toInt then g.reg f.a.toNat l else acc) 0x80000000

/-! ### Predicates and words, lane masks (R197) -/

/-- d ← Σ p(a + i) × 2^i (R197). -/
def execP2v (f : FmtB) (s : State) : Host.Outcome State Fault Refusal :=
  laneOp (.p2v f) f.d s fun g l => maskOf ((List.range f.i.toNat).filter fun k => g.pred (f.a.toNat + k) l)
/-- p(d + i) ← a[i] (R197). -/
def execV2p (f : FmtB) (s : State) : Host.Outcome State Fault Refusal :=
  issue (.v2p f) s fun s g m =>
    let now := s.cycles (dieOfCore (keyCore s.cur.grp))
    s.withGroup ((List.range f.i.toNat).foldl (fun h k =>
      h.setRel now 6 (f.d.toNat + k) m fun l => (g.reg f.a.toNat l).getLsbD k) g)
/-- The mask of lanes by comparison with L (R197). -/
def execLanemask (f : FmtB) (s : State) : Host.Outcome State Fault Refusal :=
  laneOp (.lanemask f) f.d s fun _ l =>
    let r (k : Nat) : Bool :=
      if f.i.toNat = 0 then k = l else if f.i.toNat = 1 then k < l else if f.i.toNat = 2 then k ≤ l
      else if f.i.toNat = 3 then l < k else l ≤ k
    maskOf ((List.range 32).filter r)

/-! ### Special registers (R198) -/

/-- The banded-latency entries BLT0 to BLT7: minimum in [15:0], maximum in [31:16] (R198, R364). -/
def bltEntry (n : Nat) : Word :=
  (([0x00400030, 0x00480030, 0x00540032, 0x00640034, 0x007C0038, 0x00A0003E, 0x00E60048, 0x01A40058] : List Word)[n]?).getD 0

/-- Position of a team in its grid from its linear index (R34). -/
def teamIndex (gr : Grid) (t axis : Nat) : Nat :=
  let gx := bits gr.record 32 31
  let gy := bits gr.record 64 16
  if axis = 0 then t % gx else if axis = 1 then t / gx % gy else t / (gx * gy)

/-- The value of a special register in a lane (R198). DESIGN CHOICE (log 75): in a privileged group, which has no context, NBV reads
that of context slot 0, and the registers of the team and the grid read 0. -/
def sregValue (s : State) (g : Group) (n l : Nat) : Word :=
  let k := s.cur.grp
  let c := keyCore k
  let d := dieOfCore c
  let t := (s.teamOf k)
  let gr := (s.gridOf k)
  let ofGrid (f : Grid → Nat) : Word := BitVec.ofNat 32 ((gr.map f).getD 0)
  if n = 0 then BitVec.ofNat 32 l
  else if n = 1 then BitVec.ofNat 32 (l / 8)
  else if n = 2 then BitVec.ofNat 32 g.gid
  else if 4 ≤ n && n ≤ 6 then
    match gr, t with
    | some gr, some t => BitVec.ofNat 32 (teamIndex gr t.tix (n - 4))
    | _, _ => 0
  else if 8 ≤ n && n ≤ 10 then ofGrid fun gr => bits gr.record (96 + 10 * (n - 8)) 10 + 1
  else if n = 12 then ofGrid fun gr => bits gr.record 32 31
  else if n = 13 then ofGrid fun gr => bits gr.record 64 16
  else if n = 14 then ofGrid fun gr => bits gr.record 80 16
  else if n = 0x10 then BitVec.ofNat 32 (if c < 2048 then c else 0x7FF)
  else if n = 0x11 then BitVec.ofNat 32 d
  else if n = 0x12 then ofGrid fun gr => gr.depth
  else if n = 0x18 then s.cur.pc
  else if n = 0x19 then s.cur.active
  else if n = 0x1A then BitVec.ofNat 32 g.pri
  else if n = 0x1B then BitVec.ofNat 32 (s.context (s.ctxOf k)).nbv
  else if n = 0x20 then BitVec.ofNat 32 (s.core c).lt
  else if n = 0x21 then BitVec.ofNat 32 (s.ticks d)
  else if n = 0x22 then g.tcounth.getD (BitVec.ofNat 32 (s.ticks d / 2 ^ 32))
  else if n = 0x23 then s.tcoff
  else if 0x28 ≤ n && n ≤ 0x2F then bltEntry (n - 0x28)
  else if n = 0x30 then (match t.bind (·.slot) with | some x => BitVec.ofNat 32 x | none => 0xFFFFFFFF)
  else if n = 0x31 then
    (match t with | some t => (if t.slot.isSome then BitVec.ofNat 32 t.reqId else 0xFFFFFFFF) | none => 0xFFFFFFFF)
  else 0

/-- SREG; TCOUNT captures the high word for the group even when no lane participates (R23, R198). -/
def execSreg (f : FmtC) (s : State) : Host.Outcome State Fault Refusal :=
  issue (.sreg f) s fun s g m =>
    let g1 := g.setRow m f.d.toNat (sregValue s g f.i.toNat)
    let d := dieOfCore (keyCore s.cur.grp)
    s.withGroup (if f.i.toNat = 0x21 then { g1 with tcounth := some (BitVec.ofNat 32 (s.ticks d / 2 ^ 32)) } else g1)

end Sys2Proof.Machine
end

