-- ==== Sys2Proof/Machine/Preempt.lean ====
section
/-! DEFINITION. Pre-emption: the choice of a victim core, the saving of a team, its abandonment, and restoring (R351 to
R355, R448). -/

namespace Sys2Proof.Machine

/-! ### Blocking QDEQs (R273, R352, R355) -/

/-- The blocking QDEQs of a team that have not touched their item. -/
def State.openQdeqs (s : State) (id : Nat) : List (Nat × Cmd) :=
  s.cmds.filter fun x => x.2.team = id && x.2.op = 0xD6 && x.2.m = 0 && x.2.skipped = []

/-- Withdraw the blocking QDEQs of a team; their groups stay blocked (R352). -/
def State.withdrawTeam (s : State) (id : Nat) : State :=
  (s.openQdeqs id).foldl (fun s x =>
    let s1 := s.withdrawCmd x.1
    { s1 with cmds := Tab.alter s1.cmds x.1 fun c => { c with started := false } }) s

/-- Issue a withdrawn QDEQ again (R355, R448). -/
def State.reissue (s : State) (id : Nat) (c : Cmd) : State :=
  let waits := (s.cores.any fun x => x.2.uncoreQ.contains id) ||
    s.itemQueues.any fun x => x.2.waitDeq.contains id
  if waits then s else s.onCore c.core fun q => { q with uncoreQ := q.uncoreQ ++ [id] }

/-! ### Choosing a victim (R353) -/

/-- Ticks without a core after which an entry pre-empts; HIFVER 0x0200 ignores SCHEDCTL.pdelay (R353, R373). -/
def State.pdelay (s : State) : Nat := if s.ctl.hifver = 0x0200 then 20000 else s.csr.pdelay

/-- Bytes of the state of a team that a save area holds, and the units of the save pool that it takes (R354; log 38). -/
def State.saveBytes (s : State) (t : Team) : Nat :=
  let n := ((s.grid? t.grid).map fun g => recRegs g.record).getD 96 + 8
  t.groups.length * n * 128 + t.scratchSize + t.winW * 2048 + 4096

def State.saveUnits (s : State) (t : Team) : Nat := ceilDiv (s.saveBytes t) 65536

/-- Units of the save pool that are taken or promised (R354). -/
def State.unitsUsed (s : State) : Nat :=
  s.saved.foldl (fun n x => n + x.2.units) 0 +
    (s.teams.filter fun x => x.2.preempt.isSome).foldl (fun n x => n + s.saveUnits x.2) 0

/-- The grid of a team. -/
def State.gridOfTeam (s : State) (t : Team) : Option Grid := s.grid? t.grid

/-- A core whose every team may be pre-empted: resident, at an effective tier of 1 or more, and none being pre-empted
(R353). -/
def State.mayPreempt (s : State) (c : Nat) : Bool :=
  let ts := s.coreTeams c
  ts ≠ [] && ts.all fun x =>
    x.2.resident && x.2.preempt.isNone && (s.gridOfTeam x.2).any fun g => 1 ≤ s.etier x.2.grid g

/-- The order of victims: lowest tier, latest deadline, fewest bytes, highest COREID, each core by its most urgent team
(R353; log 39). -/
def State.victimKey (s : State) (c : Nat) : List Nat :=
  let ts := (s.coreTeams c).filterMap fun x => (s.gridOfTeam x.2).map fun g => (x.2, g)
  let tier := ts.foldl (fun n x => min n x.2.tier) 3
  let due := ts.foldl (fun n x => min n (orderDeadline (recDeadline x.2.record))) (2 ^ 48)
  let size := ts.foldl (fun n x => n + s.saveBytes x.1) 0
  [3 - tier, 2 ^ 48 - due, size, 4096 - c]

/-- The victim core of an entry on a die (R353). -/
def State.victim (s : State) (d : Nat) (q : Need) : Option Nat :=
  let free (c : Nat) : State := { s with teams := s.teams.filter fun x => x.2.core ≠ c }
  let cs := ((List.range 1024).map (1024 * d + ·)).filter fun c => s.mayPreempt c && (free c).fits c q
  cs.foldl (fun (b : Option Nat) c =>
    match b with
    | none => some c
    | some e => if lexLt (s.victimKey c) (s.victimKey e) then some c else b) none

/-- A pre-emption that an entry has started is in progress (R353). -/
def State.preemptBusy (s : State) (g : Grid) : Bool :=
  g.preempting.any fun c => (s.coreTeams c).any fun x => x.2.preempt.isSome

/-- Ticks since which an entry has gone unplaced on a die. -/
def Grid.unplaced (g : Grid) (d : Nat) : Nat := if d = 0 then g.unplaced0 else g.unplaced1

/-- An entry at effective tier 0 that has found no core for pdelay ticks pre-empts every team of its victim core, or waits
a further pdelay when the save pool lacks space (R351 to R353). -/
def State.chooseVictim (s : State) (d n : Nat) : Option State :=
  match s.grid? n with
  | none => none
  | some g =>
    match s.nextWork n g d with
    | none => none
    | some w =>
      let q := w.need n g
      if s.csr.savesize = 0 || (s.die d).lost || g.ready.isNone || (s.effective g).1 ≠ 0 || s.preemptBusy g ||
          s.ticks 0 < g.unplaced d + s.pdelay || (s.pickCore d q).isSome then none
      else match s.victim d q with
        | none => none
        | some c =>
          let ts := s.coreTeams c
          let need := ts.foldl (fun n x => n + s.saveUnits x.2) 0
          if s.csr.savesize < s.unitsUsed + need then some (s.restartUnplaced n d)
          else
            let s1 := ts.foldl (fun s x =>
              (s.onTeam x.1 fun t => { t with preempt := some (s.ticks 0) }).withdrawTeam x.1) s
            some (s1.onGrid n fun g => { g with preempting := some c })

/-- PREEMPT_VICTIM_CHOICE (R353). -/
def execPreemptVictimChoice (s : State) : Host.Outcome State Fault Refusal :=
  onEvent s fun
    | .preemptVictimChoice d n => s.chooseVictim d n
    | _ => none

/-! ### Saving (R352, R354) -/

/-- A command that pre-emption does not wait for: a blocking QDEQ that it withdraws, or a started XBAR.WAIT (R352). -/
def Cmd.keeps (c : Cmd) : Bool := (c.op = 0xD6 && c.m = 0 && c.skipped = []) || (c.op = 0xD5 && c.started)

/-- A FENCE or LAUNCH of a group is in progress that waits for no entry of its operand log (R352). -/
def State.unfinished (s : State) (k : Nat) : Bool :=
  !s.hasLog k && (s.group? k).any fun g => !g.fences.isEmpty || !g.launches.isEmpty

/-- The work of a team has drained: no turn, no access, FENCE or LAUNCH under way, no command and no posted entry (R242, R352,
R448). A suspended group does not delay the save (R411). -/
def State.drained (s : State) (id : Nat) (t : Team) : Bool :=
  let ks := t.groups.map (·.1)
  ks.all (fun k => ((s.part (partOf k)).turn.map (·.place)) ≠ some (keyPlace k)) &&
    ks.all (fun k => !s.unfinished k) && !s.accesses.any (fun x => ks.contains x.2.grp) && s.cmds.all (fun x => x.2.team ≠ id || x.2.keeps) &&
    !s.quads.any (fun q => q.2.board.any fun e => e.2.team = id)

/-- Records that wait to be delivered, but for those of the suspensions `rs`, which are saved with their team; records that wait at
their sources take the room (R394, R411; log 40). -/
def Manage.without (rs : List Nat) (m : Manage) : Manage :=
  let all := (m.queue ++ m.waiting).filter fun d => !rs.contains d.record
  { m with queue := all.take 64, waiting := all.drop 64 }

/-- Save a team and free its resources (R352, R354). -/
def State.saveTeam (s0 : State) (id : Nat) (t : Team) : State :=
  let s := s0.withdrawTeam id
  let ks := t.groups.map (·.1)
  let mine (k : Nat) : Bool := ks.contains k
  let logs := ks.flatMap fun k => (s.logOf k).map (·.2)
  let ctx := ((s.gridOfTeam t).map (·.ctx)).getD 0
  let v : Saved :=
    { team := t, groups := s.groups.filter fun x => mine x.1, logs := logs, ops := s.ops.filter fun x => mine x.2.grp,
      cmds := s.cmds.filter fun x => x.2.team = id, units := s.saveUnits t, window := s.windowShape t.core ctx t.stamp,
      die := dieOfCore t.core }
  let part (p : Part) : Part := { p with log := p.log.filter fun x => !mine x.2.grp }
  let held := v.groups.filterMap fun x => x.2.suspension.map (·.record)
  let s1 : State := { s with
    manage := s.manage.map fun x => (x.1, x.2.without held)
    saved := Tab.put s.saved id v
    groups := s.groups.filter fun x => !mine x.1
    parts := s.parts.map fun x => (x.1, part x.2)
    ops := s.ops.filter fun x => !mine x.2.grp
    cmds := s.cmds.filter fun x => x.2.team ≠ id
    teams := Tab.del s.teams id }
  s1.freeRegions t.core

/-- PREEMPT_SAVE: phases 4 and 5 of a team that has not exited (R352). -/
def execPreemptSave (s : State) : Host.Outcome State Fault Refusal :=
  onEvent s fun
    | .preemptSave id =>
      match s.team? id with
      | none => none
      | some t =>
        let live := t.groups.any fun k => (s.group? k.1).any fun g => !g.exited
        if t.preempt.isNone || !live || !s.drained id t then none else some (s.saveTeam id t)
    | _ => none

/-- The teams of a core whose pre-emption is abandoned are granted turns again, and the entry waits a further pdelay
(R448). -/
def State.abandon (s : State) (c : Nat) : State :=
  let ts := (s.coreTeams c).filter fun x => x.2.preempt.isSome
  let s1 := ts.foldl (fun s x =>
    (s.openQdeqs x.1).foldl (fun s q => s.reissue q.1 q.2) (s.onTeam x.1 fun t => { t with preempt := none })) s
  let wait (x : Nat × Grid) : Nat × Grid :=
    if x.2.preempting = some c then
      (x.1, { x.2 with preempting := none, unplaced0 := s.ticks 0, unplaced1 := s.ticks 0 })
    else x
  { s1 with grids := s1.grids.map wait }

/-- PREEMPT_ABANDON: still in phase 3 after 1,000,000 ticks (R448). -/
def execPreemptAbandon (s : State) : Host.Outcome State Fault Refusal :=
  onEvent s fun
    | .preemptAbandon id =>
      match s.team? id with
      | none => none
      | some t =>
        match t.preempt with
        | none => none
        | some at0 => if s.ticks 0 < at0 + 1000000 || s.drained id t then none else some (s.abandon t.core)
    | _ => none

/-! ### Restoring (R355) -/

/-- The key under which a saved group is restored: the place of the same GROUPID. -/
def newKey (old new : List (Nat × Nat)) (k : Nat) : Nat :=
  match old.find? fun x => x.1 = k with
  | none => k
  | some x => ((new.find? fun y => y.2 = x.2).map (·.1)).getD k

/-- Enter a restored operand-log entry into the lowest free index of its partition. -/
def State.restoreLog (s : State) (f : Nat → Nat) (e : LogEntry) : State :=
  let k := f e.grp
  s.onPart (partOf k) fun q =>
    { q with log := Tab.put q.log ((s.freeEntry (partOf k)).getD 0) { e with grp := k } }

/-- Room in the operand logs for the entries of a saved team. -/
def State.logRoom (s : State) (f : Nat → Nat) (v : Saved) : Bool :=
  v.logs.all fun e =>
    let p := partOf (f e.grp)
    (s.part p).log.length + (v.logs.filter fun x => partOf (f x.grp) = p).length ≤ 64

/-- A record of a suspended group that has been restored under key `k`: it names the new place (R390, R411). -/
def recordAt (r k : Nat) : Nat :=
  setBits (setBits (setBits r 105 4 (keyPlace k)) 109 2 (keyPart k)) 111 11 (keyCore k)

/-- The record of a restored suspended group is delivered (again), with WINSEL naming the group's new place (R411; log
40). -/
def State.redeliver (s : State) (k : Nat) : State :=
  match (s.group? k).bind (·.suspension) with
  | none => s
  | some z =>
    let r := recordAt z.record k
    (s.onGroup k fun g => { g with suspension := some { z with record := r, delivered := false } }).enqueueRecord
      ⟨r, false, (s.group? k).map (·.stamp)⟩

/-- A restored group goes on: a replay that a freeze had held is retried, and a group whose lanes have all ended exits. -/
def State.resumed (s : State) (k : Nat) : State := (s.goOn k).exitCheck k

/-- A restored group tests what it waits for again: a blocked fetch is retried and a WAITCH looks at its children (R355). -/
def State.retest (s : State) (id : Nat) : State :=
  match s.team? id with
  | none => s
  | some t =>
    let offs := (s.cmds.filter fun x => x.2.team = id && x.2.op = 0xD5).map fun x => x.2.word 0
    let s1 := offs.foldl (fun s off => s.setBarrier id off (s.barrier ((s.team? id).getD t) off)) s
    (s1.tbarCheck id).wakeParents

/-- Restore a saved team that has been placed (R355). -/
def State.restoreTeam (s : State) (id : Nat) (t : Team) (v : Saved) : State :=
  let f := newKey v.team.groups t.groups
  let group (g : Group) : Group := { g with fetchWait := [] }
  let cmd (c : Cmd) : Cmd := { c with grp := f c.grp, core := t.core }
  let op (o : MemOp) : MemOp := { o with grp := f o.grp }
  let s1 : State := { s with
    saved := Tab.del s.saved id
    groups := v.groups.foldl (fun t x => Tab.put t (f x.1) (group x.2)) s.groups
    ops := v.ops.foldl (fun t x => Tab.put t x.1 (op x.2)) s.ops
    cmds := v.cmds.foldl (fun t x => Tab.put t x.1 (cmd x.2)) s.cmds }
  let s2 := v.logs.foldl (fun s e => s.restoreLog f e) s1
  let s3 := (s2.takePlace id).onTeam id fun t => { t with arrived := t.arrived.map f }
  let s4 := (s3.openQdeqs id).foldl (fun s x => s.reissue x.1 x.2) s3
  let s5 := (v.groups.map fun x => f x.1).foldl (fun s k => s.redeliver k) s4
  ((v.groups.map fun x => f x.1).foldl (fun s k => s.resumed k) s5).retest id

/-- TEAM_RESTORE (R355). -/
def execTeamRestore (s : State) : Host.Outcome State Fault Refusal :=
  onEvent s fun
    | .teamRestore id c =>
      match s.team? id, Tab.find s.saved id with
      | some t, some v =>
        if t.resident || t.core ≠ c || !s.logRoom (newKey v.team.groups t.groups) v then none else some (s.restoreTeam id t v)
      | _, _ => none
    | _ => none

end Sys2Proof.Machine
end

