-- ==== Sys2Proof/Machine/Resets.lean ====
section
/-! DEFINITION. Core and uncore resets, the loss of a die, and package power-on reset (R109, R429 to R431, R447, R461, R463,
R464). -/

namespace Sys2Proof.Machine

/-! ### The end of teams (R429, R431, R447, R458) -/

/-- A key of a team's first place, for the source of a record about the team. -/
def Team.anyKey (t : Team) : Nat := ((t.groups.head?).map (·.1)).getD (mkKey t.core 0 0)

/-- A team is ended by the device: its slot is charged, or with no slot a record of disposition 3 is written. A team whose slot
has just been charged writes no further record (R397, R429, R458). -/
def State.chargeTeam (s : State) (id : Nat) (t : Team) (code info0 info1 : Nat) : State :=
  let k := t.anyKey
  let u : Source := s.sourceFor k (((s.grid? t.grid).map (·.ctx)).getD 0) id
  let r : Report := ⟨code, 2, 0xFFFFFFFF, 0, 0, info0, info1⟩
  match t.slot with
  | none => (s.report u { r with disp := 3 }).1
  | some slot =>
    let s1 := s.chargeRequest u.ctx t.reqRec code
    ((s1.report u r).1).endSlot t.grid slot

/-- End a team without a slot as a cancelled group ends (R319, R458). -/
def State.cancelTeam (s : State) (id : Nat) : State :=
  let stop (c : Cmd) : Cmd := if c.team = id then { c with doomed := true } else c
  let ks := (s.groups.filter fun g => !g.2.privileged && g.2.team = id).map (·.1)
  let s1 := ks.foldl (fun s k => s.cancelGroup k) s
  let s2 : State := { s1 with cmds := s1.cmds.map fun x => (x.1, stop x.2) }
  s2.markEnded [id]

/-- A resident team ends on an error (R458). -/
def State.endTeam (s : State) (id code info0 info1 : Nat) : State :=
  match s.team? id with
  | none => s
  | some t =>
    let s1 := s.chargeTeam id t code info0 info1
    if t.slot.isSome then s1 else s1.cancelTeam id

/-- A saved team ends: its slot is charged or its record written, and it is dropped (R447). -/
def State.endSaved (s : State) (id code info0 info1 : Nat) : State :=
  match Tab.find s.saved id with
  | none => s
  | some v =>
    (s.chargeTeam id v.team code info0 info1).dropSaved fun w => w = v

/-- A command that goes on when its core is reset: the sampler and collective engines keep running; not one that waits in its fix-up
list, which is lost (R334, R429, R440). -/
def State.outlives (s : State) (id : Nat) (c : Cmd) : Bool :=
  c.started && (c.op = 0xDA || c.op = 0xDB) && c.skipped = [] && !s.mayStop id c

/-- Take a team out of the machine with all that it holds on its core; a saved team that is being restored stays saved (R429). -/
def State.killTeam (s : State) (all : Bool) (id : Nat) : State :=
  match s.team? id with
  | none => s
  | some t =>
    let ks := (s.groups.filter fun g => !g.2.privileged && g.2.team = id).map (·.1)
    let gone := (s.cmds.filter fun x => x.2.team = id && (all || !s.outlives x.1 x.2)).map (·.1)
    let part (p : Nat × Part) : Nat × Part :=
      (p.1, { p.2 with
        log := p.2.log.filter fun e => !ks.contains e.2.grp
        second := p.2.second.filter fun z => !ks.contains z.grp
        turn := p.2.turn.filter fun z => !ks.contains (mkKey (p.1 / 4) (p.1 % 4) z.place) })
    let quad (q : Nat × Quad) : Nat × Quad := (q.1, { q.2 with board := q.2.board.filter fun e => e.2.team ≠ id })
    let s1 := gone.foldl (fun s c => s.withdrawCmd c) s
    let s2 : State := { s1 with
      groups := s1.groups.filter fun g => !ks.contains g.1
      accesses := s1.accesses.filter fun a => !ks.contains a.2.grp
      ops := s1.ops.filter fun o => !ks.contains o.2.grp
      parts := s1.parts.map part
      quads := s1.quads.map quad
      cmds := s1.cmds.filter fun c => !gone.contains c.1 }
    if (Tab.find s2.saved id).isSome then ({ s2 with teams := Tab.del s2.teams id }).freeRegions t.core else s2.removeTeam id

/-- A resident team of a lost or reset die is charged, or its record written; not one that has ended already (R397, R429, R431). -/
def State.chargeLost (s : State) (info1 id : Nat) : State :=
  match s.team? id with
  | none => s
  | some t => if t.ended then s else s.chargeTeam id t 0x0405 0 info1

/-- End every team of a die's cores with code 0x0405, and the saved teams `saves` with info 1 = 4: one charge for each slot, one record
for each team without, in ascending COREID, in which the records of one tick enter their ring (R392, R429, R431, R447). -/
def State.endDieTeams (s : State) (d info1 : Nat) (all : Bool) (saves : List Nat) : State :=
  let ids := (s.teams.filter fun x => dieOfCore x.2.core = d).map (·.1)
  let here := ids.filter fun id => (Tab.find s.saved id).isNone
  let core (id : Nat) : Nat := ((s.team? id).map (·.core)).getD 0
  let away (id : Nat) : Nat := ((Tab.find s.saved id).map (·.team.core)).getD 0
  let order := sortOn (·.1) (here.map (fun id => (core id, true, id)) ++ saves.map fun id => (away id, false, id))
  let s1 := order.foldl (fun s x => if x.2.1 then s.chargeLost info1 x.2.2 else s.endSaved x.2.2 0x0405 0 4) s
  (ids.foldl (fun s id => s.killTeam all id) s1).wakeParents

/-! ### Core reset (R109, R429) -/

/-- The cores of a die after a reset: no line in L1, and their logical time the die's MFT (R109). -/
def State.resetCores (s : State) (d : Nat) : State :=
  let mft := (s.die d).mft
  let keep := (List.range 8).foldl (fun s n => s.onCore (2048 + 8 * d + n) id) s
  let core (x : Nat × Core) : Nat × Core :=
    if x.1 < 2048 && dieOfCore x.1 = d then (x.1, { x.2 with l1 := [], lt := mft }) else x
  ({ keep with cores := keep.cores.map core }).onDie d fun x => { x with ltBase := mft }

/-- The management cores of a die after an uncore reset, likewise (R109). -/
def State.resetManagerCores (s : State) (d : Nat) : State :=
  (List.range 8).foldl (fun s n => s.onCore (2048 + 8 * d + n) fun c => { c with l1 := [], lt := (s.die d).mft }) s

/-- A core reset of a die (R109, R429). -/
def State.coreReset (s : State) (d : Nat) : State := (s.endDieTeams d 1 false []).resetCores d

/-- A requested reset may begin: no other runs, and die 0 comes first (R463). -/
def State.resetTurn (s : State) (d : Nat) : Bool :=
  !s.die0.resetting && !s.die1.resetting && !(s.die d).lost && (d = 0 || bits s.ctl.resetPending 0 1 + bits s.ctl.resetPending 2 1 = 0)

/-- Take the bits of a die out of the resets that have been requested. -/
def State.clearPending (s : State) (d : Nat) : State :=
  s.onCtl fun c => { c with resetPending := setBits (setBits c.resetPending d 1 0) (2 + d) 1 0 }

/-- CORE_RESET of RESETCTL (R429, R463); with the uncore bit set as well, the uncore reset includes it. -/
def execCoreReset (s : State) : Host.Outcome State Fault Refusal :=
  onEvent s fun
    | .coreReset d =>
      if bits s.ctl.resetPending d 1 = 0 || bits s.ctl.resetPending (2 + d) 1 = 1 || !s.resetTurn d then none
      else some (((s.coreReset d).clearPending d).onCtl fun c => { c with resetFailed := false })
    | _ => none

/-! ### Uncore reset (R430) -/

/-- A line of local HBM homed on a die. -/
def State.homedOn (s : State) (d line : Nat) : Bool := s.isLocal (line * 64) && s.homeDie (line * 64) = d

/-- Empty a die's L2: the lines of its own HBM go, and the lines of other devices that it held as their owner with their bytes
(R109, R110). -/
def State.dropHome (s : State) (d : Nat) : State :=
  let away (line : Nat) : Bool := (s.remoteDev (line * 64)).isSome && s.homeDie (line * 64) = d
  { s with
    home := s.home.filter fun x => !s.homedOn d x.1 && !away x.1
    badLines := s.badLines.filter fun x => !away x.1
    mem := s.mem.filter fun c => !away (c.1 / 64) }

/-- Modified lines homed on a die are lost; `code` is info 1 of their faults (R430). -/
def State.loseDirty (s : State) (d code : Nat) : State :=
  let bad := s.home.filter fun x => s.homedOn d x.1 && x.2.dirty
  { s with badLines := bad.foldl (fun t x => Tab.put t x.1 ⟨code, 0, 0⟩) s.badLines }

/-- The record from an I/O die source whose handling a reset or a loss cuts short: the one to be delivered again, or the one that is
handled (R393, R394, R398; log 44). -/
def Manage.cutShort (m : Manage) : List Delivery := (m.again <|> m.handling).toList.filter (·.unit)

/-- The management cores of a die at its uncore reset: their groups start halted, as after power-on. The records that wait stay;
one from an I/O die source whose handling is cut short waits again, ahead of the others (R393, R394; log 44). -/
def State.restartManagers (s : State) (d : Nat) : State :=
  let ns := (List.range 8).map (8 * d + ·)
  let ks := ns.map privKey
  let gone := (s.cmds.filter fun x => ks.contains x.2.grp).map (·.1)
  let s1 := gone.foldl (fun s c => s.withdrawCmd c) s
  let s2 : State := { s1 with
    accesses := s1.accesses.filter fun a => !ks.contains a.2.grp
    ops := s1.ops.filter fun o => !ks.contains o.2.grp
    cmds := s1.cmds.filter fun c => !gone.contains c.1 }
  let restart (s : State) (n : Nat) : State :=
    let s1 : State := { s with groups := Tab.put s.groups (privKey n) Group.privilegedReset }
    let m := s1.manager n
    let s2 := s1.onManager n fun m =>
      { m with queue := [], waiting := [], halted := true, open_ := true, handling := none, again := none, inFault := false }
    (m.cutShort ++ m.queue ++ m.waiting).foldl (fun s d => s.enqueueAt n d) s2
  ns.foldl restart s2

/-- An uncore reset begins: it includes the core reset, and writes modified lines back when software has requested it (R393,
R430, R463). -/
def State.uncoreStart (s : State) (d : Nat) (requested : Bool) : State :=
  let s1 := (s.coreReset d).restartManagers d
  let s2 := if requested then s1 else s1.loseDirty d 2
  ((s2.dropHome d).clearPending d).onDie d fun x => { x with resetting := true, failReset := !requested }

/-- UNCORE_RESET: requested through RESETCTL, or caused by a failure (R430, R463). -/
def execUncoreReset (s : State) : Host.Outcome State Fault Refusal :=
  onEvent s fun
    | .uncoreReset d requested =>
      if requested then
        if bits s.ctl.resetPending (2 + d) 1 = 0 || !s.resetTurn d then none else some (s.uncoreStart d true)
      else if (s.die d).resetting || (s.die d).lost then none
      else some (s.uncoreStart d false)
    | _ => none

/-- TCOFF measured: the true offset with an error of at most 2 ticks (R24; log 13). -/
def State.measure (s : State) : State :=
  { s with tcoff := s.die1.tcount.setWidth 32 - s.die0.tcount.setWidth 32 +
      BitVec.ofNat 32 (Config.freeTcoffError s.freeCtr % 5) - 2 }

/-- The end of an uncore reset (R24, R109, R263, R348, R430). -/
def State.uncoreDone (s : State) (d : Nat) : State :=
  let other := 1 - d
  let mft := (s.die d).mirror + 2048
  let s1 := s.onDie other fun x => { x with copies := x.copies.filter fun c => !s.homedOn d c.1 }
  let s2 := (s1.dropHome d).onDie d fun x =>
    { x with mft := mft, mirror := mft, copies := [], ptr := 0, last := 3, resetting := false, failReset := false }
  let quad (q : Nat × Quad) : Nat × Quad := if q.1 / 256 = d then (q.1, { q.2 with occ := [] }) else q
  let s3 : State := { s2 with quads := s2.quads.map quad }
  (((s3.resetCores d).resetManagerCores d).measure).onCtl fun c => { c with resetFailed := false, bondFailed := false }

/-- UNCORE_RESET_COMPLETE (R430). -/
def execUncoreResetComplete (s : State) : Host.Outcome State Fault Refusal :=
  onEvent s fun
    | .uncoreResetComplete d => if (s.die d).resetting then some (s.uncoreDone d) else none
    | _ => none

/-! ### Loss of a die (R393, R431, R447) -/

/-- The records of I/O die sources that the managers of a lost die hold go to the surviving die; its managers stop (R393,
R431). -/
def State.moveRecords (s : State) (d : Nat) : State :=
  let ns := (List.range 8).map (8 * d + ·)
  let held := ns.flatMap fun n =>
    let m := s.manager n
    m.cutShort ++ (m.queue ++ m.waiting).filter (·.unit)
  let stop (s : State) (n : Nat) : State :=
    { s with groups := Tab.del s.groups (privKey n), manage := Tab.del s.manage n }
  held.foldl State.enqueueRecord (ns.foldl stop s)

/-- A resident context's record of the loss (R431). -/
def State.lossRecord (s : State) (x : Nat) : State :=
  (s.report (ioSource x) ⟨0x0405, 3, 0xFFFFFFFF, 0, 0, 0, 3⟩).1

/-- Grids whose share on a die has teams left: not placed, or resident there (R431). -/
def State.cutGrids (s : State) (d : Nat) : State :=
  let live (n : Nat) : Bool := s.teams.any fun t => t.2.grid = n && dieOfCore t.2.core = d
  let cut (x : Nat × Grid) : Nat × Grid := if live x.1 && x.2.cut = 0 then (x.1, { x.2 with cut := 1 }) else x
  { s with grids := s.grids.map cut }

/-- Part of the save area of a team lies in the HBM of a die: of a pool on both dies, a free value says which areas do (R354; log
38). -/
def State.savedOn (s : State) (d id : Nat) : Bool :=
  let lo := s.norm s.csr.savebase.toNat
  let hi := lo + 65536 * s.csr.savesize
  let meets := decide (lo < 2 ^ 39 * (d + 1)) && decide (2 ^ 39 * d < hi)
  let inside := decide (2 ^ 39 * d ≤ lo) && decide (hi ≤ 2 ^ 39 * (d + 1))
  meets && (inside || Config.freeSaveArea id d)

/-- Saved teams whose save area lies in the HBM of a lost die, which end (R447). -/
def State.lostSaves (s : State) (d : Nat) : List Nat := (s.saved.map (·.1)).filter fun id => s.savedOn d id

/-- A compute die is lost (R431). -/
def State.loseDie (s : State) (d : Nat) : State :=
  let failed := (s.die d).resetting
  let s0 := (s.onDie d fun x => { x with lost := true, resetting := false, copies := [] }).clearPending d
  let s1 := if failed then s0.onCtl fun c => { c with resetFailed := true } else s0
  let s2 := (s1.cutGrids d).endDieTeams d 3 true (s1.lostSaves d)
  let xs := (s2.contexts.filter fun x => x.2.asid ≠ 0).map (·.1)
  let s3 := (xs.foldl (fun s x => s.lossRecord x) s2).moveRecords d
  let hit (m : Move2) : Bool := s.homeDie m.old = d || s.homeDie m.new = d
  let stopped := s3.moves.filter fun m => hit m.2
  let s4 : State := { s3 with moves := s3.moves.filter fun m => !hit m.2 }
  let s5 := stopped.foldl (fun s m => s.migShow m.2.ctx 3 m.2.round) s4
  ((s5.onDie (1 - d) fun x => { x with copies := x.copies.filter fun c => !s.homedOn d c.1 }).dropHome d).wakeParents

/-- DIE_LOST (R431). -/
def execDieLost (s : State) : Host.Outcome State Fault Refusal :=
  onEvent s fun
    | .dieLost d => if (s.die d).lost then none else some (s.loseDie d)
    | _ => none

/-! ### Spares (R461) -/

/-- A spare of a sector that is not in use (R461, R462). -/
def State.freeSpare (s : State) (sector : Nat) : Option Nat :=
  (List.range 2).find? fun n => bits s.ctl.spareQuads (2 * sector + n) 1 = 0

/-- A spare takes a failed quad's number: the quad starts afresh, and RESIDENT regions on its cores are gone (R461). -/
def State.substitute (s : State) (q : Nat) : State :=
  match s.freeSpare (q / 32) with
  | none => s
  | some n =>
    let fresh (x : Nat × Core) : Nat × Core :=
      if quadOfCore x.1 = q then (x.1, { x.2 with regions := [], l1 := [], tlb := [] }) else x
    ({ s with
      quads := Tab.put s.quads q { s.quad q with failed := false, spare := some n, tlb := [], ahead := [] }
      cores := s.cores.map fresh }).onCtl fun c => { c with spareQuads := c.spareQuads + 2 ^ (2 * (q / 32) + n) }

/-- The boot ROM accepts an image: verified, and of a security version not below the stored minimum (R465). -/
def State.bootable (s : State) (img : List Byte) : Bool :=
  Config.xmssVerify img && s.ctl.minVersion ≤ Config.imageSecurity img % 2 ^ 32

/-! ### Ports (R369, R425) -/

/-- A port is dead: its routes are dead too, and collectives with a rank behind it end with status 4 (R276, R425). -/
def State.portDies (s : State) (p : Nat) : State :=
  (s.onPort p fun x => { x with dead := true, routeDead := true }).loseRanks fun d => Config.routePort d % 36 = p

/-- A lane of a port fails: it goes on at 3 or 2 lanes, and is dead below (R369, R425). -/
def State.narrow (s : State) (p : Nat) : State :=
  let s1 := s.onPort p fun x => { x with lanes := x.lanes - 1 }
  if (s1.port p).lanes < 2 then s1.portDies p else s1

/-! ### Package power-on reset (R464) -/

/-- Step 2: a unit that fails its built-in self-test is replaced; a link that does narrows, which step 5 finds (R461, R464). -/
def State.replaceFaulty (s : State) : FailUnit → State
  | .quad q => (s.onQuad q fun x => { x with failed := true }).substitute q
  | .pseudoChannel k => if s.spareServes k then s else s.onCtl fun c => { c with sparePchan := c.sparePchan + 2 ^ k }
  | .bondLane => s
  | .linkLane _ => s

/-- Step 5: links train; one with a lane that fails its self-test is narrower (R369, R464). -/
def State.trainLinks (s : State) : State :=
  s.ctl.faulty.foldl (fun s u => match u with
    | .linkLane p => s.narrow p
    | _ => s) { s with ports := [] }

/-- Steps 2 to 6 with a verified image: self-tests, spares, HBM, TCOUNT and TCOFF, links, and FWSTAT RUNNING (R464). -/
def State.boot (s : State) (img : List Byte) : State :=
  let waiting := ((s.quads.filter fun q => q.2.failed).map (·.1)).foldl (fun s q => s.substitute q) s
  let s2 := s.ctl.faulty.foldl (fun s u => s.replaceFaulty u) waiting
  let s4 : State := { s2 with
    mem := s2.mem.filter fun c => 2 ^ 51 ≤ c.1
    lineMeta := []
    home := []
    badLines := []
    races := []
    die0 := { s2.die0 with tcount := 0, windows := 0, copies := [] }
    die1 := { s2.die1 with tcount := 0, windows := 0, copies := [] } }
  s4.measure.trainLinks.onCtl fun c => { c with fwstat := 3, runningImage := img }

/-- Step 1 of package power-on reset: all is as after reset, with FWSTAT VERIFYING, no link trained, and the sensors that still withhold
issue. Kept are host memory, non-volatile storage, failed quads and the spares in use, the mode of the host link, and the model's own
fields (R464 to R466, R468; log 53). -/
def State.bootRom (s : State) (faulty : List FailUnit) : State :=
  let r := State.reset
  let spares := s.quads.filterMap fun q =>
    if q.2.failed || q.2.spare.isSome then some (q.1, { Quad.reset with failed := q.2.failed, spare := q.2.spare }) else none
  { r with
    agenda := s.agenda
    cur := s.cur
    freeCtr := s.freeCtr
    idCtr := s.idCtr
    mem := s.mem.filter fun c => 2 ^ 51 ≤ c.1
    quads := spares
    ports := (List.range 36).map fun p => (p, { Port.reset with up := false, version := 0 })
    csr := { r.csr with cxl := s.csr.cxl }
    ctl := { r.ctl with
      fwstat := 1
      storedImage := s.ctl.storedImage
      minVersion := s.ctl.minVersion
      attidx := s.ctl.attidx
      spareQuads := s.ctl.spareQuads
      sparePchan := (s.ctl.copying.filter fun k => bits s.ctl.sparePchan k 1 = 0).foldl (fun n k => n + 2 ^ k) s.ctl.sparePchan
      faulty := faulty
      temp0 := s.ctl.temp0
      temp1 := s.ctl.temp1
      tempIo := s.ctl.tempIo
      withheld := s.ctl.withheld } }

/-- Package power-on reset: the six steps, or with no valid image the wait for a recovery image after the first; a device whose sensor
still reads 110 °C shuts down again (R464, R465, R468). -/
def State.powerOn (s : State) (faulty : List FailUnit) : State :=
  let s1 := s.bootRom faulty
  let s2 := match s.ctl.storedImage.filter s.bootable with
    | some img => s1.boot img
    | none => s1.onCtl fun c => { c with fwstat := 2 }
  { s2 with powered := s2.ctl.temp0 < 110 && s2.ctl.temp1 < 110 && s2.ctl.tempIo < 110 }

/-- PACKAGE_POWER_ON_RESET (R464). -/
def execPackagePowerOnReset (s : State) : Host.Outcome State Fault Refusal :=
  onEvent s fun
    | .packagePowerOnReset faulty => some (s.powerOn faulty)
    | _ => none

end Sys2Proof.Machine
end

