-- ==== Sys2Proof/Machine/Shake.lean ====
section
/-! DEFINITION. SHAKE256, the hash that R466 names; its algorithm is that of FIPS 202 (PRESUMED: log 16). -/

namespace Sys2Proof.Machine

/-- Lane (x, y) of a state of 25 lanes. -/
def shaLane (a : List DWord) (x y : Nat) : DWord := (a[x % 5 + 5 * (y % 5)]?).getD 0

/-- A state from its lanes. -/
def shaState (f : Nat → Nat → DWord) : List DWord := (List.range 25).map fun i => f (i % 5) (i / 5)

/-- The lanes other than (0, 0) in the order of a walk that goes from (x, y) to (y, 2x + 3y), each with its rotation: the triangular
numbers. -/
def rotations : Tab Nat :=
  ((List.range 24).foldl (fun (w : (Nat × Nat) × Tab Nat) t =>
    ((w.1.2, (2 * w.1.1 + 3 * w.1.2) % 5), (w.1.1 + 5 * w.1.2, (t + 1) * (t + 2) / 2 % 64) :: w.2)) ((1, 0), [])).2

/-- Rotation of lane (x, y). -/
def rotation (x y : Nat) : Nat := Tab.get rotations (x % 5 + 5 * (y % 5)) 0

/-- One step of the feedback register of eight bits that gives the constants of the rounds. -/
def feedback (r : Nat) : Nat := if r < 128 then 2 * r else (2 * r) ^^^ 0x171

/-- A round's constant from the register, and the register after it: seven steps give the bits at places 2^j − 1. -/
def roundConstant (r : Nat) : DWord × Nat :=
  (List.range 7).foldl (fun (c : DWord × Nat) j =>
    (c.1 ^^^ BitVec.ofNat 64 (c.2 % 2 * 2 ^ (2 ^ j - 1)), feedback c.2)) (0, r)

/-- One round of the permutation. -/
def keccakRound (a : List DWord) (rc : DWord) : List DWord :=
  let column (x : Nat) : DWord := (List.range 5).foldl (fun v y => v ^^^ shaLane a x y) 0
  let sums := (List.range 5).map column
  let sum (x : Nat) : DWord := (sums[x % 5]?).getD 0
  let spread (x : Nat) : DWord := sum (x + 4) ^^^ (sum (x + 1)).rotateLeft 1
  let mixed := shaState fun x y => shaLane a x y ^^^ spread x
  let moved := shaState fun x y => (shaLane mixed (x + 3 * y) x).rotateLeft (rotation (x + 3 * y) x)
  shaState fun x y =>
    (shaLane moved x y ^^^ (~~~ shaLane moved (x + 1) y &&& shaLane moved (x + 2) y)) ^^^ (if x = 0 && y = 0 then rc else 0)

/-- The permutation: 24 rounds. -/
def keccak (a : List DWord) : List DWord :=
  ((List.range 24).foldl (fun (c : List DWord × Nat) _ =>
    let k := roundConstant c.2
    (keccakRound c.1 k.1, k.2)) (a, 1)).1

/-- Absorb one block of 136 bytes. -/
def absorb (a : List DWord) (block : List Byte) : List DWord :=
  keccak (shaState fun x y => let i := x + 5 * y
    shaLane a x y ^^^ (if i < 17 then BitVec.ofNat 64 (ofBytes ((block.drop (8 * i)).take 8)) else 0))

/-- A text with its padding to whole blocks. -/
def padText (text : List Byte) : List Byte :=
  let n := 136 - text.length % 136
  text ++ (if n = 1 then [0x9F] else 0x1F :: (List.replicate (n - 2) 0 ++ [0x80]))

/-- The first `n` bytes of the SHAKE256 output of a text, for n up to 136. -/
def shake256 (text : List Byte) (n : Nat) : List Byte :=
  let p := padText text
  let a := (List.range (p.length / 136)).foldl (fun a i => absorb a ((p.drop (136 * i)).take 136)) (List.replicate 25 0)
  (List.range n).map fun i => BitVec.ofNat 8 ((shaLane a (i / 8) (i / 40)).toNat / 256 ^ (i % 8))

end Sys2Proof.Machine
end

