-- ==== Sys2Proof/Machine/Xmss.lean ====
section
/-! DEFINITION. The device's XMSS key of R466 and R467 and its signatures: the construction of RFC 8391 with SHAKE256, n = 32 and a
tree of height 20, under the parameter set XMSS-SHAKE256_20_256 of NIST SP 800-208 that R465 names. The spec gives its name and not
its text (PRESUMED: log 16). -/

namespace Sys2Proof.Machine

/-- A number as big-endian bytes. -/
def beBytes (v n : Nat) : List Byte := (leBytes v n).reverse

/-- A keyed hash: the kind of hash as 32 bytes, its key, then the text. -/
def xmssHash (kind : Nat) (key text : List Byte) : List Byte := shake256 (beBytes kind 32 ++ key ++ text) 32

/-- Where a hash stands in the key: type 0 a chain, 1 the tree over the chains of a leaf, 2 the tree over the leaves; then three words
by type. The key has one layer and one tree. -/
structure XmssPlace where
  type : Nat
  a : Nat
  b : Nat
  c : Nat
  deriving DecidableEq, Repr

/-- The 32 bytes of a place; `use` picks the key or a mask that a hash there takes. -/
def XmssPlace.bytes (p : XmssPlace) (use : Nat) : List Byte := [0, 0, 0, p.type, p.a, p.b, p.c, use].flatMap fun w => beBytes w 4

/-- The public seed of the device's key (R467). -/
def xmssSeed : List Byte := (List.range 32).map Config.xmssSeed

/-- The key (`use` 0) or a mask (1, 2) of the hash at a place. -/
def xmssMask (p : XmssPlace) (use : Nat) : List Byte := xmssHash 3 xmssSeed (p.bytes use)

/-- Exclusive or of byte strings. -/
def xorBytes (x y : List Byte) : List Byte := List.zipWith (· ^^^ ·) x y

/-- Go `n` steps along a chain of a leaf from step `i`. -/
def xmssChain (leaf chain i n : Nat) (x : List Byte) : List Byte :=
  (List.range n).foldl (fun x j =>
    let p : XmssPlace := ⟨0, leaf, chain, i + j⟩
    xmssHash 0 (xmssMask p 0) (xorBytes x (xmssMask p 1))) x

/-- The node over two nodes. -/
def xmssNode (p : XmssPlace) (l r : List Byte) : List Byte :=
  xmssHash 1 (xmssMask p 0) (xorBytes l (xmssMask p 1) ++ xorBytes r (xmssMask p 2))

/-- Pair the nodes of one height of the tree over the chains of a leaf; a last one without partner goes up as it is. -/
def xmssPairs (leaf height i : Nat) : List (List Byte) → List (List Byte)
  | l :: r :: rest => xmssNode ⟨1, leaf, height, i⟩ l r :: xmssPairs leaf height (i + 1) rest
  | rest => rest

/-- The number of chains of a leaf. -/
def xmssChains : Nat := 67

/-- The secret start of a chain. -/
def xmssStart (leaf chain : Nat) : List Byte := (List.range 32).map (Config.xmssSecret leaf chain)

/-- A leaf: the ends of its chains of 15 steps, paired until one node is left. -/
def xmssLeaf (leaf : Nat) : List Byte :=
  let ends := (List.range xmssChains).map fun c => xmssChain leaf c 0 15 (xmssStart leaf c)
  ((List.range 7).foldl (fun ns h => xmssPairs leaf h 0 ns) ends).headD []

/-- A node of the tree, by its height and its index there. -/
def xmssTree : Nat → Nat → List Byte
  | 0, i => xmssLeaf i
  | h + 1, i => xmssNode ⟨2, 0, h, i⟩ (xmssTree h (2 * i)) (xmssTree h (2 * i + 1))

/-- The root of the key. -/
def xmssRoot : List Byte := xmssTree 20 0

/-- The four bits of each chain: the digest from its high nibbles on, then the checksum of 12 bits. -/
def xmssDigits (digest : List Byte) : List Nat :=
  let ds := digest.flatMap fun b => [b.toNat / 16, b.toNat % 16]
  let sum := ds.foldl (fun n d => n + (15 - d)) 0
  ds ++ [sum / 256 % 16, sum / 16 % 16, sum % 16]

/-- The signature of a text with a key index: the index, the randomiser, a node of each chain, and the path to the root; 2,820 bytes
(R466, R467). -/
def xmssSign (i : Nat) (text : List Byte) : List Byte :=
  let r := xmssHash 3 ((List.range 32).map Config.xmssPrfKey) (beBytes i 32)
  let digits := xmssDigits (xmssHash 2 (r ++ xmssRoot ++ beBytes i 32) text)
  beBytes i 4 ++ r ++
    ((List.range xmssChains).flatMap fun c => xmssChain i c 0 ((digits[c]?).getD 0) (xmssStart i c)) ++
    (List.range 20).flatMap fun h => xmssTree h ((i / 2 ^ h) ^^^ 1)

/-- The number of the parameter set XMSS-SHAKE256_20_256 (R465). -/
def xmssOid : Nat := 0x12

/-- The public key: the OID, the root and the public seed; 68 bytes (R467). -/
def xmssPublic : List Byte := beBytes xmssOid 4 ++ xmssRoot ++ xmssSeed

end Sys2Proof.Machine
end

