-- ==== Sys2Proof/Machine/Mailbox.lean ====
section
/-! DEFINITION. The control-page mailbox: firmware images, attestation and key queries (R465 to R467). Verification of
an image, whose layout and key the manual does not give, is an uninterpreted function of Config (log 16). -/

namespace Sys2Proof.Machine

/-- The address under which a host physical address is held (R67). -/
def hostPhys (a : Nat) : Nat := 2 ^ 51 + a

/-- The command buffer is readable: aligned, in host memory, and at least `n` bytes long (R467). -/
def State.bufferOk (s : State) (n : Nat) : Bool :=
  s.ctl.mbaddr.toNat % 64 = 0 && s.ctl.mbaddr.toNat + max n s.ctl.mblen ≤ 2 ^ 51 && n ≤ s.ctl.mblen

/-- `n` bytes of the command buffer from byte `o` (R467). -/
def State.bufferBytes (s : State) (o n : Nat) : List Byte :=
  (List.range n).map fun i => s.peek (hostPhys (s.ctl.mbaddr.toNat + o + i))

/-- A command has its result, and bytes to write at byte `o` of its buffer; MAILBOX_COMPLETE writes both. -/
def State.mailDone (s : State) (o : Nat) (bs : List Byte) (result : Nat) : State :=
  s.onCtl fun c => { c with mbout := some (hostPhys (c.mbaddr.toNat + o), bs, result) }

/-- The minor of FWVER from which a command is accepted; none for a reserved command (R373, R467). -/
def commandMinor (code : Nat) : Option Nat :=
  if code = 1 || code = 2 || code = 3 then some 0
  else if code = 4 then some 1 else if code = 5 then some 2 else if code = 6 then some 3 else none

/-- The security controller runs the command of a code that stands in MBCMD: result 1 when it is not accepted at the selected
version, or in AWAIT-RECOVERY when it is not LOADIMAGE (R467). -/
def mailCommand (s : State) (code : Nat) (run : State → State) : Option State :=
  if !s.ctl.mbbusy || s.ctl.mbout.isSome || s.ctl.mbcmd.toNat % 256 ≠ code then none
  else match commandMinor code with
    | none => none
    | some n =>
      if s.ctl.fwver % 256 < n || (s.ctl.fwstat = 2 && code ≠ 1) then some (s.mailDone 0 [] 1) else some (run s)

/-- Security version of an image (R465). -/
def secVersion (img : List Byte) : Nat := Config.imageSecurity img % 2 ^ 32

/-- LOADIMAGE: the image is verified; from then on storage holds no valid image until the write completes (R465, R467). -/
def State.loadImage (s : State) : State :=
  if s.ctl.mblen = 0 || !s.bufferOk s.ctl.mblen then s.mailDone 0 [] 4
  else
    let img := s.bufferBytes 0 s.ctl.mblen
    if !Config.xmssVerify img then s.mailDone 0 [] 2
    else if secVersion img < s.ctl.minVersion then s.mailDone 0 [] 3
    else (s.mailDone 0 [] 0).onCtl fun c => { c with storedImage := none, newImage := some img }

/-- LOADIMAGE (R467). -/
def execLoadimage (s : State) : Host.Outcome State Fault Refusal :=
  onEvent s fun
    | .loadimage => mailCommand s 1 fun s => s.loadImage
    | _ => none

/-- What a measurement covers: the running image, DEVID, SPARESTAT, the nonce and, for ATTESTCTX, the requester's context
(R466, R467). -/
def State.measured (s : State) (nonce ctx : List Byte) : List Byte :=
  s.ctl.runningImage ++ leBytes devId 8 ++ leBytes s.sparestat 8 ++ nonce ++ ctx

/-- ATTEST and ATTESTCTX: the measurement and its signature with the next index, which is used up first (R466, R467). -/
def State.attestWith (s : State) (least : Nat) (withCtx : Bool) : State :=
  if !s.bufferOk least then s.mailDone 0 [] 4
  else if 2 ^ 20 ≤ s.ctl.attidx then s.mailDone 0 [] 5
  else
    let i := s.ctl.attidx
    let text := s.measured (s.bufferBytes 0 32) (if withCtx then s.bufferBytes 2916 32 else [])
    let hash := shake256 text 64
    (s.mailDone 32 (hash ++ xmssSign i hash) 0).onCtl fun c => { c with attidx := i + 1 }

/-- ATTEST (R466, R467). -/
def execAttest (s : State) : Host.Outcome State Fault Refusal :=
  onEvent s fun
    | .attest => mailCommand s 2 fun s => s.attestWith 2916 false
    | _ => none

/-- GETPUB (R467). -/
def execGetpub (s : State) : Host.Outcome State Fault Refusal :=
  onEvent s fun
    | .getpub => mailCommand s 3 fun s =>
      if !s.bufferOk 68 then s.mailDone 0 [] 4 else s.mailDone 0 xmssPublic 0
    | _ => none

/-- RAISEMIN: the stored minimum rises to the running image's security version (R467). -/
def execRaisemin (s : State) : Host.Outcome State Fault Refusal :=
  onEvent s fun
    | .raisemin => mailCommand s 4 fun s =>
      (s.mailDone 0 [] 0).onCtl fun c => { c with minVersion := max c.minVersion (secVersion c.runningImage) }
    | _ => none

/-- IMAGEINFO: the stored image's versions (R467). -/
def execImageinfo (s : State) : Host.Outcome State Fault Refusal :=
  onEvent s fun
    | .imageinfo => mailCommand s 5 fun s =>
      let img := s.ctl.storedImage.getD []
      if !s.bufferOk 8 then s.mailDone 0 [] 4
      else s.mailDone 0 (leBytes (secVersion img) 4 ++ leBytes (Config.imageVersion img) 4) 0
    | _ => none

/-- ATTESTCTX (R467). -/
def execAttestctx (s : State) : Host.Outcome State Fault Refusal :=
  onEvent s fun
    | .attestctx => mailCommand s 6 fun s => s.attestWith 2948 true
    | _ => none

/-- The verified image is in storage; in AWAIT-RECOVERY the device goes on with step 2 of its power-on reset and runs it (R464, R465,
R467). -/
def State.storeImage (s : State) : State :=
  match s.ctl.newImage with
  | none => s
  | some img =>
    let s1 := s.onCtl fun c => { c with storedImage := some img, newImage := none }
    if s.ctl.fwstat = 2 then s1.boot img else s1

/-- A command completes: its buffer is written and released at HOST, then MBSTAT; a reserved command has result 1 (R467). -/
def State.mailComplete (s : State) : Option State :=
  if !s.ctl.mbbusy then none
  else
    let fin (s : State) (result : Nat) : State :=
      s.storeImage.onCtl fun c => { c with mbbusy := false, mbout := none, mbtag := bits c.mbcmd.toNat 8 8, mbresult := result }
    match s.ctl.mbout with
    | some (a, bs, r) => some (fin (s.deviceBytes 0 a bs) r)
    | none => if (commandMinor (s.ctl.mbcmd.toNat % 256)).isNone then some (fin s 1) else none

/-- MAILBOX_COMPLETE (R467). -/
def execMailboxComplete (s : State) : Host.Outcome State Fault Refusal :=
  onEvent s fun
    | .mailboxComplete => s.mailComplete
    | _ => none

end Sys2Proof.Machine
end

