-- ==== Sys2Proof/Machine/Owner.lean ====
section
/-! DEFINITION. The events of writes to the control registers by the three masters (R371 to R373, R444, R460). -/

namespace Sys2Proof.Machine

/-- OWNER_WRITE (R372). -/
def execOwnerWrite (s : State) : Host.Outcome State Fault Refusal :=
  onEvent s fun
    | .ownerWrite m v => if s.ownerTurn m then some (s.controlStore m 0x0008 v.toNat) else none
    | _ => none

/-- CONTROL_REGISTER_WRITE (R371). -/
def execControlRegisterWrite (s : State) : Host.Outcome State Fault Refusal :=
  onEvent s fun
    | .controlRegisterWrite m off v =>
      if off = 0x0008 && !s.ownerTurn m then none else some (s.controlStore m off v.toNat)
    | _ => none

/-- DENIED_CLEAR (R371). -/
def execDeniedClear (s : State) : Host.Outcome State Fault Refusal :=
  onEvent s fun
    | .deniedClear m => some (s.controlStore m 0x0010 0)
    | _ => none

/-- LREFUSE_CLEAR (R444). -/
def execLrefuseClear (s : State) : Host.Outcome State Fault Refusal :=
  onEvent s fun
    | .lrefuseClear m => some (s.controlStore m 0x0030 0)
    | _ => none

/-- ERROR_COUNTER_CLEAR (R460). -/
def execErrorCounterClear (s : State) : Host.Outcome State Fault Refusal :=
  onEvent s fun
    | .errorCounterClear m off => if isCounter off then some (s.controlStore m off 0) else none
    | _ => none

/-- VERSION_SELECT (R373). -/
def execVersionSelect (s : State) : Host.Outcome State Fault Refusal :=
  onEvent s fun
    | .versionSelect m off v =>
      if off = 0x0018 || off = 0x0020 || off = 0x0028 then some (s.controlStore m off v.toNat) else none
    | _ => none

end Sys2Proof.Machine
end

