-- ==== Sys2Proof/Machine/Platform.lean ====
section
/-! DEFINITION. Temperature, failed structures and their spares, Diron Link ports, and the utilisation of the die-to-die link
(R363, R369, R373, R425, R461, R468). -/

namespace Sys2Proof.Machine

/-! ### Temperature (R468) -/

/-- The hottest reading of a sensor: die 0, die 1 or the I/O die. -/
def Control.setTemp (c : Control) (sensor t : Nat) : Control :=
  if sensor = 0 then { c with temp0 := t } else if sensor = 1 then { c with temp1 := t } else { c with tempIo := t }

/-- THERMAL_THROTTLE: a sensor reaches 95 °C (R468). -/
def execThermalThrottle (s : State) : Host.Outcome State Fault Refusal :=
  onEvent s fun
    | .thermalThrottle n t =>
      if t < 95 || 110 ≤ t then none
      else some (s.onCtl fun c => { c.setTemp n t with withheld := n :: c.withheld.filter (· ≠ n) })
    | _ => none

/-- THERMAL_RELEASE: a sensor falls; below 92 °C it no longer withholds issue (R468). -/
def execThermalRelease (s : State) : Host.Outcome State Fault Refusal :=
  onEvent s fun
    | .thermalRelease n t =>
      if 95 ≤ t then none
      else some (s.onCtl fun c => { c.setTemp n t with withheld := if t < 92 then c.withheld.filter (· ≠ n) else c.withheld })
    | _ => none

/-- THERMAL_SHUTDOWN: at 110 °C the device shuts down (R468). -/
def execThermalShutdown (s : State) : Host.Outcome State Fault Refusal :=
  onEvent s fun
    | .thermalShutdown n t =>
      if t < 110 then none
      else some { s.onCtl fun c => { c.setTemp n t with withheld := n :: c.withheld.filter (· ≠ n) } with powered := false }
    | _ => none

/-! ### Links (R369, R373, R425) -/

/-- LINK_LANE_FAILURE (R369). -/
def execLinkLaneFailure (s : State) : Host.Outcome State Fault Refusal :=
  onEvent s fun
    | .linkLaneFailure p => some (s.narrow p)
    | _ => none

/-- LINK_TRAINING: the highest version that DLVER.selected and the partner's range allow, or the link stays down (R373); none before
step 5 of power-on reset (R464). -/
def execLinkTraining (s : State) : Host.Outcome State Fault Refusal :=
  onEvent s fun
    | .linkTraining p lo hi =>
      if s.ctl.fwstat ≠ 3 then none else
      let v := min s.ctl.dlver hi
      let met := decide (0x0100 ≤ v) && decide (lo ≤ v)
      some (s.onPort p fun x =>
        { x with up := met, version := if met then v else 0, tx := 0, rx := 0, delivered := [], buffer := [], out := [], replays := 0, asked := false,
                 retry := none, dead := x.lanes < 2 })
    | _ => none

/-- One bit of a CRC-32C (R369). -/
def crcBit (c : BitVec 32) : BitVec 32 := if c.getLsbD 0 then (c >>> 1) ^^^ 0x82F63B78 else c >>> 1

/-- CRC-32C of bytes (R369). -/
def crc32c (bs : List Byte) : BitVec 32 :=
  ~~~ (bs.foldl (fun c b => (List.range 8).foldl (fun c _ => crcBit c) (c ^^^ b.setWidth 32)) (BitVec.allOnes 32))

/-- Sequence number of a flit (R369). -/
def flitSeq (flit : BitVec 2048) : Nat := bits flit.toNat 0 16

/-- A flit's CRC is right (R369). -/
def flitOk (flit : BitVec 2048) : Bool := (crc32c (leBytes flit.toNat 252)).toNat = bits flit.toNat 2016 32

/-- A flit arrives at a port: the next in sequence is delivered; one with a bad CRC asks for a replay, and 16 replays that fail
in a row make the port dead (R369, R425). -/
def State.receiveFlit (s : State) (p : Nat) (flit : BitVec 2048) : Option State :=
  let x := s.port p
  if !x.up || x.dead then none
  else if flitOk flit then
    if flitSeq flit = x.rx then
      some (s.onPort p fun x =>
        { x with rx := (x.rx + 1) % 65536, delivered := x.delivered ++ [flit], asked := false, replays := 0 })
    else none
  else if !x.asked then some (s.onPort p fun x => { x with asked := true })
  else
    let s1 := s.onPort p fun x => { x with replays := x.replays + 1 }
    some (if 15 ≤ x.replays then s1.portDies p else s1)

/-- FLIT_RECEIVE (R369). -/
def execFlitReceive (s : State) : Host.Outcome State Fault Refusal :=
  onEvent s fun
    | .flitReceive p flit => s.receiveFlit p flit
    | _ => none

/-- A flit: header with its sequence number, payload and CRC-32C (R369). -/
def mkFlit (seq head : Nat) (payload : BitVec 1952) : BitVec 2048 :=
  let body := packFields [(0, 16, seq), (16, 24, head), (64, 1952, payload.toNat)]
  BitVec.ofNat 2048 (body + 2 ^ 2016 * (crc32c (leBytes body 252)).toNat)

/-- A port sends a flit under the next sequence number and keeps it in its buffer of 256 flits (R369). -/
def State.sendFlit (s : State) (p head : Nat) (payload : BitVec 1952) : State :=
  let x := s.port p
  if !x.up || x.dead then s
  else
    let flit := mkFlit x.tx head payload
    let kept := if 256 ≤ x.buffer.length then x.buffer.tail else x.buffer
    s.onPort p fun x => { x with tx := (x.tx + 1) % 65536, buffer := kept ++ [(x.tx, flit)], out := [flit] }

/-- The partner asks again for a flit: it and those after it are replayed from the buffer in the original order, and a flit that has
failed 16 replays in a row makes the port dead (R369, R425). -/
def State.replayFlit (s : State) (p seq : Nat) : Option State :=
  let x := s.port p
  if !x.up || x.dead then none
  else
    let n := match x.retry with
      | some (q, n) => if q = seq then n + 1 else 1
      | none => 1
    let again := (x.buffer.dropWhile fun b => b.1 ≠ seq).map (·.2)
    let s1 := s.onPort p fun x => { x with retry := some (seq, n), out := again }
    some (if 16 < n then s1.portDies p else s1)

/-- FLIT_REPLAY (R369). -/
def execFlitReplay (s : State) : Host.Outcome State Fault Refusal :=
  onEvent s fun
    | .flitReplay p seq => s.replayFlit p (seq % 65536)
    | _ => none

/-- FABRIC_ROUTE_REPROGRAM: the routes through a dead port are live again elsewhere (R425). -/
def execFabricRouteReprogram (s : State) : Host.Outcome State Fault Refusal :=
  onEvent s fun
    | .fabricRouteReprogram p =>
      if (s.port p).routeDead then some (s.onPort p fun x => { x with routeDead := false }) else none
    | _ => none

/-! ### Failed structures (R461) -/

/-- STRUCTURE_FAILED: firmware declares a unit failed that has had 64 corrected errors at one location within 2^30 ticks. A quad takes
no further team, a pseudo-channel begins to be copied to its stack's spare, a bond lane waits for the next uncore reset, and a link
narrows (R461). -/
def execStructureFailed (s : State) : Host.Outcome State Fault Refusal :=
  onEvent s fun
    | .structureFailed u =>
      if !s.ctl.failing.contains u then none
      else
        let s1 := s.onCtl fun c =>
          { c with failing := c.failing.filter (· ≠ u), corrections := c.corrections.filter fun x => x.1 ≠ u }
        some (match u with
          | .quad q => s1.onQuad q fun x => { x with failed := true }
          | .pseudoChannel k => if s.spareServes k then s1 else s1.onCtl fun c => { c with copying := k :: c.copying }
          | .bondLane => s1.onCtl fun c => { c with bondFailed := true }
          | .linkLane p => s1.narrow p)
    | _ => none

/-- QUAD_SUBSTITUTION: no team is resident, placed or being saved on the failed quad, and its sector has a free spare (R461). -/
def execQuadSubstitution (s : State) : Host.Outcome State Fault Refusal :=
  onEvent s fun
    | .quadSubstitution q =>
      if !(s.quad q).failed || (s.teams.any fun t => quadOfCore t.2.core = q) || (s.freeSpare (q / 32)).isNone then none
      else some (s.substitute q)
    | _ => none

/-- PCHAN_COPY_COMPLETE: the spare serves alone; a copy on a die under reset has been abandoned until after it (R461, R468). -/
def execPchanCopyComplete (s : State) : Host.Outcome State Fault Refusal :=
  onEvent s fun
    | .pchanCopyComplete k =>
      if !s.ctl.copying.contains k || (s.die (k / 8)).resetting then none
      else some (s.onCtl fun c => { c with copying := c.copying.filter (· ≠ k), sparePchan := c.sparePchan + 2 ^ k })
    | _ => none

/-! ### Die-to-die utilisation (R363) -/

/-- UTILISATION_WINDOW: `n` bytes of flits have left a die in the window of 1,024 ticks that ends in this tick. TCOUNT_TICK closes a
window for which no such event has come (R363; log 122). -/
def execUtilisationWindow (s : State) : Host.Outcome State Fault Refusal :=
  onEvent s fun
    | .utilisationWindow d n =>
      let done := s.ticks d / 1024
      if done ≤ (s.die d).windows || s.ticks d % 1024 ≠ 0 then none else some (s.onDie d fun x => x.closeWindow n)
    | _ => none

end Sys2Proof.Machine
end

