-- ==== Sys2Proof/Machine/Dispatch.lean ====
section
/-! DEFINITION. The meaning of every row of the opcode table: one arm per constructor. -/

namespace Sys2Proof.Machine

/-- The effect of one instruction or event. -/
def exec (i : Instr) (s : State) : Host.Outcome State Fault Refusal :=
  match i with
  | .nop f => Sys2Proof.Machine.execNop f s
  | .iadd f => Sys2Proof.Machine.execIadd f s
  | .isub f => Sys2Proof.Machine.execIsub f s
  | .iadd64 f => Sys2Proof.Machine.execIadd64 f s
  | .isub64 f => Sys2Proof.Machine.execIsub64 f s
  | .imul f => Sys2Proof.Machine.execImul f s
  | .imulhiS f => Sys2Proof.Machine.execImulhiS f s
  | .imulhiU f => Sys2Proof.Machine.execImulhiU f s
  | .imad f => Sys2Proof.Machine.execImad f s
  | .imadwS f => Sys2Proof.Machine.execImadwS f s
  | .imadwU f => Sys2Proof.Machine.execImadwU f s
  | .idivS f => Sys2Proof.Machine.execIdivS f s
  | .idivU f => Sys2Proof.Machine.execIdivU f s
  | .iremS f => Sys2Proof.Machine.execIremS f s
  | .iremU f => Sys2Proof.Machine.execIremU f s
  | .iminS f => Sys2Proof.Machine.execIminS f s
  | .iminU f => Sys2Proof.Machine.execIminU f s
  | .imaxS f => Sys2Proof.Machine.execImaxS f s
  | .imaxU f => Sys2Proof.Machine.execImaxU f s
  | .iabs f => Sys2Proof.Machine.execIabs f s
  | .ineg f => Sys2Proof.Machine.execIneg f s
  | .and f => Sys2Proof.Machine.execAnd f s
  | .or f => Sys2Proof.Machine.execOr f s
  | .xor f => Sys2Proof.Machine.execXor f s
  | .andn f => Sys2Proof.Machine.execAndn f s
  | .not f => Sys2Proof.Machine.execNot f s
  | .shl f => Sys2Proof.Machine.execShl f s
  | .shrU f => Sys2Proof.Machine.execShrU f s
  | .shrS f => Sys2Proof.Machine.execShrS f s
  | .rotl f => Sys2Proof.Machine.execRotl f s
  | .shli f => Sys2Proof.Machine.execShli f s
  | .shriU f => Sys2Proof.Machine.execShriU f s
  | .shriS f => Sys2Proof.Machine.execShriS f s
  | .iaddi f => Sys2Proof.Machine.execIaddi f s
  | .movi f => Sys2Proof.Machine.execMovi f s
  | .movhi f => Sys2Proof.Machine.execMovhi f s
  | .ldk f => Sys2Proof.Machine.execLdk f s
  | .mov f => Sys2Proof.Machine.execMov f s
  | .sel f => Sys2Proof.Machine.execSel f s
  | .popc f => Sys2Proof.Machine.execPopc f s
  | .clz f => Sys2Proof.Machine.execClz f s
  | .brev f => Sys2Proof.Machine.execBrev f s
  | .bfeU f => Sys2Proof.Machine.execBfeU f s
  | .bfeS f => Sys2Proof.Machine.execBfeS f s
  | .bfi f => Sys2Proof.Machine.execBfi f s
  | .lea f => Sys2Proof.Machine.execLea f s
  | .idot4Sb f => Sys2Proof.Machine.execIdot4Sb f s
  | .idot4Ub f => Sys2Proof.Machine.execIdot4Ub f s
  | .b3ext f => Sys2Proof.Machine.execB3ext f s
  | .umov f => Sys2Proof.Machine.execUmov f s
  | .umovi f => Sys2Proof.Machine.execUmovi f s
  | .uadd f => Sys2Proof.Machine.execUadd f s
  | .ulea f => Sys2Proof.Machine.execUlea f s
  | .fadd f => Sys2Proof.Machine.execFadd f s
  | .fsub f => Sys2Proof.Machine.execFsub f s
  | .fmul f => Sys2Proof.Machine.execFmul f s
  | .ffma f => Sys2Proof.Machine.execFfma f s
  | .fmin f => Sys2Proof.Machine.execFmin f s
  | .fmax f => Sys2Proof.Machine.execFmax f s
  | .fabs f => Sys2Proof.Machine.execFabs f s
  | .fneg f => Sys2Proof.Machine.execFneg f s
  | .fdiv f => Sys2Proof.Machine.execFdiv f s
  | .fsqrt f => Sys2Proof.Machine.execFsqrt f s
  | .frcp f => Sys2Proof.Machine.execFrcp f s
  | .frsq f => Sys2Proof.Machine.execFrsq f s
  | .fex2 f => Sys2Proof.Machine.execFex2 f s
  | .flg2 f => Sys2Proof.Machine.execFlg2 f s
  | .fsint f => Sys2Proof.Machine.execFsint f s
  | .fcost f => Sys2Proof.Machine.execFcost f s
  | .frnd f => Sys2Proof.Machine.execFrnd f s
  | .fldexp f => Sys2Proof.Machine.execFldexp f s
  | .fexpo f => Sys2Proof.Machine.execFexpo f s
  | .fclass f => Sys2Proof.Machine.execFclass f s
  | .hadd2 f => Sys2Proof.Machine.execHadd2 f s
  | .hmul2 f => Sys2Proof.Machine.execHmul2 f s
  | .hfma2 f => Sys2Proof.Machine.execHfma2 f s
  | .badd2 f => Sys2Proof.Machine.execBadd2 f s
  | .bmul2 f => Sys2Proof.Machine.execBmul2 f s
  | .bfma2 f => Sys2Proof.Machine.execBfma2 f s
  | .dadd f => Sys2Proof.Machine.execDadd f s
  | .dmul f => Sys2Proof.Machine.execDmul f s
  | .dfma f => Sys2Proof.Machine.execDfma f s
  | .cvtF32Sw f => Sys2Proof.Machine.execCvtF32Sw f s
  | .cvtF32Uw f => Sys2Proof.Machine.execCvtF32Uw f s
  | .cvtSwF32 f => Sys2Proof.Machine.execCvtSwF32 f s
  | .cvtUwF32 f => Sys2Proof.Machine.execCvtUwF32 f s
  | .cvtF16x2F32 f => Sys2Proof.Machine.execCvtF16x2F32 f s
  | .cvtBf16x2F32 f => Sys2Proof.Machine.execCvtBf16x2F32 f s
  | .cvtF32F16 f => Sys2Proof.Machine.execCvtF32F16 f s
  | .cvtF32Bf16 f => Sys2Proof.Machine.execCvtF32Bf16 f s
  | .cvtE4m3x2F32 f => Sys2Proof.Machine.execCvtE4m3x2F32 f s
  | .cvtE5m2x2F32 f => Sys2Proof.Machine.execCvtE5m2x2F32 f s
  | .cvtF32E4m3 f => Sys2Proof.Machine.execCvtF32E4m3 f s
  | .cvtF32E5m2 f => Sys2Proof.Machine.execCvtF32E5m2 f s
  | .cvtF64F32 f => Sys2Proof.Machine.execCvtF64F32 f s
  | .cvtF32F64 f => Sys2Proof.Machine.execCvtF32F64 f s
  | .qfp4 f => Sys2Proof.Machine.execQfp4 f s
  | .dqfp4 f => Sys2Proof.Machine.execDqfp4 f s
  | .icmpEq f => Sys2Proof.Machine.execIcmpEq f s
  | .icmpNe f => Sys2Proof.Machine.execIcmpNe f s
  | .icmpLtS f => Sys2Proof.Machine.execIcmpLtS f s
  | .icmpLeS f => Sys2Proof.Machine.execIcmpLeS f s
  | .icmpLtU f => Sys2Proof.Machine.execIcmpLtU f s
  | .icmpLeU f => Sys2Proof.Machine.execIcmpLeU f s
  | .fcmpEq f => Sys2Proof.Machine.execFcmpEq f s
  | .fcmpNe f => Sys2Proof.Machine.execFcmpNe f s
  | .fcmpLt f => Sys2Proof.Machine.execFcmpLt f s
  | .fcmpLe f => Sys2Proof.Machine.execFcmpLe f s
  | .fcmpUo f => Sys2Proof.Machine.execFcmpUo f s
  | .pand f => Sys2Proof.Machine.execPand f s
  | .por f => Sys2Proof.Machine.execPor f s
  | .pxor f => Sys2Proof.Machine.execPxor f s
  | .pnot f => Sys2Proof.Machine.execPnot f s
  | .gset f => Sys2Proof.Machine.execGset f s
  | .shflIdx f => Sys2Proof.Machine.execShflIdx f s
  | .shflUp f => Sys2Proof.Machine.execShflUp f s
  | .shflDn f => Sys2Proof.Machine.execShflDn f s
  | .shflXor f => Sys2Proof.Machine.execShflXor f s
  | .voteAll f => Sys2Proof.Machine.execVoteAll f s
  | .voteAny f => Sys2Proof.Machine.execVoteAny f s
  | .voteBal f => Sys2Proof.Machine.execVoteBal f s
  | .matchLanes f => Sys2Proof.Machine.execMatchLanes f s
  | .reduxAdd f => Sys2Proof.Machine.execReduxAdd f s
  | .reduxMinS f => Sys2Proof.Machine.execReduxMinS f s
  | .reduxMaxS f => Sys2Proof.Machine.execReduxMaxS f s
  | .sreg f => Sys2Proof.Machine.execSreg f s
  | .p2v f => Sys2Proof.Machine.execP2v f s
  | .v2p f => Sys2Proof.Machine.execV2p f s
  | .lanemask f => Sys2Proof.Machine.execLanemask f s
  | .bra f => Sys2Proof.Machine.execBra f s
  | .brx f => Sys2Proof.Machine.execBrx f s
  | .call f => Sys2Proof.Machine.execCall f s
  | .ret f => Sys2Proof.Machine.execRet f s
  | .exit f => Sys2Proof.Machine.execExit f s
  | .yield f => Sys2Proof.Machine.execYield f s
  | .setpri f => Sys2Proof.Machine.execSetpri f s
  | .launch f => Sys2Proof.Machine.execLaunch f s
  | .waitch f => Sys2Proof.Machine.execWaitch f s
  | .tbarSync f => Sys2Proof.Machine.execTbarSync f s
  | .tbarArv f => Sys2Proof.Machine.execTbarArv f s
  | .trap f => Sys2Proof.Machine.execTrap f s
  | .bkpt f => Sys2Proof.Machine.execBkpt f s
  | .sleep f => Sys2Proof.Machine.execSleep f s
  | .ldUb f => Sys2Proof.Machine.execLdUb f s
  | .ldSb f => Sys2Proof.Machine.execLdSb f s
  | .ldUh f => Sys2Proof.Machine.execLdUh f s
  | .ldSh f => Sys2Proof.Machine.execLdSh f s
  | .ldW f => Sys2Proof.Machine.execLdW f s
  | .ldD f => Sys2Proof.Machine.execLdD f s
  | .ldQ f => Sys2Proof.Machine.execLdQ f s
  | .stB f => Sys2Proof.Machine.execStB f s
  | .stH f => Sys2Proof.Machine.execStH f s
  | .stW f => Sys2Proof.Machine.execStW f s
  | .stD f => Sys2Proof.Machine.execStD f s
  | .stQ f => Sys2Proof.Machine.execStQ f s
  | .ldaW f => Sys2Proof.Machine.execLdaW f s
  | .ldaD f => Sys2Proof.Machine.execLdaD f s
  | .stlW f => Sys2Proof.Machine.execStlW f s
  | .stlD f => Sys2Proof.Machine.execStlD f s
  | .ldsW f => Sys2Proof.Machine.execLdsW f s
  | .ldsD f => Sys2Proof.Machine.execLdsD f s
  | .ldsQ f => Sys2Proof.Machine.execLdsQ f s
  | .stsW f => Sys2Proof.Machine.execStsW f s
  | .stsD f => Sys2Proof.Machine.execStsD f s
  | .stsQ f => Sys2Proof.Machine.execStsQ f s
  | .atomAdd f => Sys2Proof.Machine.execAtomAdd f s
  | .atomAdd64 f => Sys2Proof.Machine.execAtomAdd64 f s
  | .atomMinS f => Sys2Proof.Machine.execAtomMinS f s
  | .atomMaxS f => Sys2Proof.Machine.execAtomMaxS f s
  | .atomAnd f => Sys2Proof.Machine.execAtomAnd f s
  | .atomOr f => Sys2Proof.Machine.execAtomOr f s
  | .atomXchg f => Sys2Proof.Machine.execAtomXchg f s
  | .atomCas f => Sys2Proof.Machine.execAtomCas f s
  | .atomFadd f => Sys2Proof.Machine.execAtomFadd f s
  | .fence f => Sys2Proof.Machine.execFence f s
  | .mmaE2m1 f => Sys2Proof.Machine.execMmaE2m1 f s
  | .mmaE4m3 f => Sys2Proof.Machine.execMmaE4m3 f s
  | .mmaE5m2 f => Sys2Proof.Machine.execMmaE5m2 f s
  | .mmaBf16 f => Sys2Proof.Machine.execMmaBf16 f s
  | .mmaF16 f => Sys2Proof.Machine.execMmaF16 f s
  | .mmaI8 f => Sys2Proof.Machine.execMmaI8 f s
  | .accmv f => Sys2Proof.Machine.execAccmv f s
  | .accrd f => Sys2Proof.Machine.execAccrd f s
  | .accwr f => Sys2Proof.Machine.execAccwr f s
  | .atqk f => Sys2Proof.Machine.execAtqk f s
  | .atsm f => Sys2Proof.Machine.execAtsm f s
  | .atpv f => Sys2Proof.Machine.execAtpv f s
  | .atfn f => Sys2Proof.Machine.execAtfn f s
  | .hbindSpad f => Sys2Proof.Machine.execHbindSpad f s
  | .hbindRec f => Sys2Proof.Machine.execHbindRec f s
  | .hbindOff f => Sys2Proof.Machine.execHbindOff f s
  | .hbindSeek f => Sys2Proof.Machine.execHbindSeek f s
  | .tcopy f => Sys2Proof.Machine.execTcopy f s
  | .tstore f => Sys2Proof.Machine.execTstore f s
  | .xbarInit f => Sys2Proof.Machine.execXbarInit f s
  | .xbarArv f => Sys2Proof.Machine.execXbarArv f s
  | .xbarArvExp f => Sys2Proof.Machine.execXbarArvExp f s
  | .xbarArvAck f => Sys2Proof.Machine.execXbarArvAck f s
  | .xbarWait f => Sys2Proof.Machine.execXbarWait f s
  | .qdeq f => Sys2Proof.Machine.execQdeq f s
  | .qdeqTry f => Sys2Proof.Machine.execQdeqTry f s
  | .qenq f => Sys2Proof.Machine.execQenq f s
  | .qenqTry f => Sys2Proof.Machine.execQenqTry f s
  | .treeFork f => Sys2Proof.Machine.execTreeFork f s
  | .treePrune f => Sys2Proof.Machine.execTreePrune f s
  | .treeCommit f => Sys2Proof.Machine.execTreeCommit f s
  | .treeAppend f => Sys2Proof.Machine.execTreeAppend f s
  | .treeAdopt f => Sys2Proof.Machine.execTreeAdopt f s
  | .treeQctx f => Sys2Proof.Machine.execTreeQctx f s
  | .treeQuery f => Sys2Proof.Machine.execTreeQuery f s
  | .kvbindKp f => Sys2Proof.Machine.execKvbindKp f s
  | .kvbindVp f => Sys2Proof.Machine.execKvbindVp f s
  | .kvbindKt f => Sys2Proof.Machine.execKvbindKt f s
  | .kvbindVt f => Sys2Proof.Machine.execKvbindVt f s
  | .kvbindWk f => Sys2Proof.Machine.execKvbindWk f s
  | .kvbindWv f => Sys2Proof.Machine.execKvbindWv f s
  | .sampleSubmit f => Sys2Proof.Machine.execSampleSubmit f s
  | .sampleVerify f => Sys2Proof.Machine.execSampleVerify f s
  | .collAllred f => Sys2Proof.Machine.execCollAllred f s
  | .collAllgath f => Sys2Proof.Machine.execCollAllgath f s
  | .collRedscat f => Sys2Proof.Machine.execCollRedscat f s
  | .collHistmrg f => Sys2Proof.Machine.execCollHistmrg f s
  | .csrrd f => Sys2Proof.Machine.execCsrrd f s
  | .csrwr f => Sys2Proof.Machine.execCsrwr f s
  | .eret f => Sys2Proof.Machine.execEret f s
  | .tlbinv f => Sys2Proof.Machine.execTlbinv f s
  | .winrd f => Sys2Proof.Machine.execWinrd f s
  | .winwr f => Sys2Proof.Machine.execWinwr f s
  | .ctxsave f => Sys2Proof.Machine.execCtxsave f s
  | .ctxload f => Sys2Proof.Machine.execCtxload f s
  | .halt f => Sys2Proof.Machine.execHalt f s
  | .reservedOpcode w => Sys2Proof.Machine.execReservedOpcode w s
  | .turnGrant => Sys2Proof.Machine.execTurnGrant s
  | .turnTimeLimit => Sys2Proof.Machine.execTurnTimeLimit s
  | .turnInstructionLimit => Sys2Proof.Machine.execTurnInstructionLimit s
  | .sleepExpiry => Sys2Proof.Machine.execSleepExpiry s
  | .recordDelivery => Sys2Proof.Machine.execRecordDelivery s
  | .chargeWrite => Sys2Proof.Machine.execChargeWrite s
  | .pageWalk => Sys2Proof.Machine.execPageWalk s
  | .walkAheadTranslation => Sys2Proof.Machine.execWalkAheadTranslation s
  | .operandFetchCopy => Sys2Proof.Machine.execOperandFetchCopy s
  | .homeRenewal => Sys2Proof.Machine.execHomeRenewal s
  | .homeWrite => Sys2Proof.Machine.execHomeWrite s
  | .memoryReply => Sys2Proof.Machine.execMemoryReply s
  | .remoteL2Renewal => Sys2Proof.Machine.execRemoteL2Renewal s
  | .l2Eviction => Sys2Proof.Machine.execL2Eviction s
  | .ltTick => Sys2Proof.Machine.execLtTick s
  | .rebase => Sys2Proof.Machine.execRebase s
  | .rebaseSignal => Sys2Proof.Machine.execRebaseSignal s
  | .pinRetry => Sys2Proof.Machine.execPinRetry s
  | .domainViolation => Sys2Proof.Machine.execDomainViolation s
  | .fabricRead => Sys2Proof.Machine.execFabricRead s
  | .fabricWrite => Sys2Proof.Machine.execFabricWrite s
  | .ownerForward => Sys2Proof.Machine.execOwnerForward s
  | .ownerWriteback => Sys2Proof.Machine.execOwnerWriteback s
  | .hostAccess => Sys2Proof.Machine.execHostAccess s
  | .hostSnoop => Sys2Proof.Machine.execHostSnoop s
  | .launchTrigger => Sys2Proof.Machine.execLaunchTrigger s
  | .launchRecordParse => Sys2Proof.Machine.execLaunchRecordParse s
  | .holdBufferRelease => Sys2Proof.Machine.execHoldBufferRelease s
  | .dispatchDecision => Sys2Proof.Machine.execDispatchDecision s
  | .teamResident => Sys2Proof.Machine.execTeamResident s
  | .groupPlaceRelease => Sys2Proof.Machine.execGroupPlaceRelease s
  | .teamLeave => Sys2Proof.Machine.execTeamLeave s
  | .gridRetire => Sys2Proof.Machine.execGridRetire s
  | .preemptVictimChoice => Sys2Proof.Machine.execPreemptVictimChoice s
  | .preemptSave => Sys2Proof.Machine.execPreemptSave s
  | .preemptAbandon => Sys2Proof.Machine.execPreemptAbandon s
  | .teamRestore => Sys2Proof.Machine.execTeamRestore s
  | .batchFormerStep => Sys2Proof.Machine.execBatchFormerStep s
  | .batchFormerIdleTimer => Sys2Proof.Machine.execBatchFormerIdleTimer s
  | .boardPass => Sys2Proof.Machine.execBoardPass s
  | .matrixOpComplete => Sys2Proof.Machine.execMatrixOpComplete s
  | .guardResolve => Sys2Proof.Machine.execGuardResolve s
  | .tcopySectorWrite => Sys2Proof.Machine.execTcopySectorWrite s
  | .tstoreSectorRead => Sys2Proof.Machine.execTstoreSectorRead s
  | .bindingEnd => Sys2Proof.Machine.execBindingEnd s
  | .groupCancel => Sys2Proof.Machine.execGroupCancel s
  | .cancelledCommandStop => Sys2Proof.Machine.execCancelledCommandStop s
  | .collTimeout => Sys2Proof.Machine.execCollTimeout s
  | .collInstanceRelease => Sys2Proof.Machine.execCollInstanceRelease s
  | .migrationGo => Sys2Proof.Machine.execMigrationGo s
  | .migrationRound => Sys2Proof.Machine.execMigrationRound s
  | .migrationFreeze => Sys2Proof.Machine.execMigrationFreeze s
  | .qsyncWrite => Sys2Proof.Machine.execQsyncWrite s
  | .rdcollGo => Sys2Proof.Machine.execRdcollGo s
  | .rdcollDone => Sys2Proof.Machine.execRdcollDone s
  | .kvpoolWrite => Sys2Proof.Machine.execKvpoolWrite s
  | .frsizeWrite => Sys2Proof.Machine.execFrsizeWrite s
  | .frlostClear => Sys2Proof.Machine.execFrlostClear s
  | .mclostClear => Sys2Proof.Machine.execMclostClear s
  | .specdropClear => Sys2Proof.Machine.execSpecdropClear s
  | .nopagecntClear => Sys2Proof.Machine.execNopagecntClear s
  | .mptbaseWrite => Sys2Proof.Machine.execMptbaseWrite s
  | .schedctlWrite => Sys2Proof.Machine.execSchedctlWrite s
  | .csrWrite => Sys2Proof.Machine.execCsrWrite s
  | .ownerWrite => Sys2Proof.Machine.execOwnerWrite s
  | .controlRegisterWrite => Sys2Proof.Machine.execControlRegisterWrite s
  | .deniedClear => Sys2Proof.Machine.execDeniedClear s
  | .lrefuseClear => Sys2Proof.Machine.execLrefuseClear s
  | .errorCounterClear => Sys2Proof.Machine.execErrorCounterClear s
  | .versionSelect => Sys2Proof.Machine.execVersionSelect s
  | .coreReset => Sys2Proof.Machine.execCoreReset s
  | .uncoreReset => Sys2Proof.Machine.execUncoreReset s
  | .uncoreResetComplete => Sys2Proof.Machine.execUncoreResetComplete s
  | .dieLost => Sys2Proof.Machine.execDieLost s
  | .packagePowerOnReset => Sys2Proof.Machine.execPackagePowerOnReset s
  | .loadimage => Sys2Proof.Machine.execLoadimage s
  | .attest => Sys2Proof.Machine.execAttest s
  | .getpub => Sys2Proof.Machine.execGetpub s
  | .raisemin => Sys2Proof.Machine.execRaisemin s
  | .imageinfo => Sys2Proof.Machine.execImageinfo s
  | .attestctx => Sys2Proof.Machine.execAttestctx s
  | .mailboxComplete => Sys2Proof.Machine.execMailboxComplete s
  | .thermalThrottle => Sys2Proof.Machine.execThermalThrottle s
  | .thermalRelease => Sys2Proof.Machine.execThermalRelease s
  | .thermalShutdown => Sys2Proof.Machine.execThermalShutdown s
  | .structureFailed => Sys2Proof.Machine.execStructureFailed s
  | .quadSubstitution => Sys2Proof.Machine.execQuadSubstitution s
  | .pchanCopyComplete => Sys2Proof.Machine.execPchanCopyComplete s
  | .hostLinkUp => Sys2Proof.Machine.execHostLinkUp s
  | .linkTraining => Sys2Proof.Machine.execLinkTraining s
  | .flitReceive => Sys2Proof.Machine.execFlitReceive s
  | .flitReplay => Sys2Proof.Machine.execFlitReplay s
  | .linkLaneFailure => Sys2Proof.Machine.execLinkLaneFailure s
  | .deviceDeadDeclared => Sys2Proof.Machine.execDeviceDeadDeclared s
  | .lineReclaim => Sys2Proof.Machine.execLineReclaim s
  | .utilisationWindow => Sys2Proof.Machine.execUtilisationWindow s
  | .engineCommandStart => Sys2Proof.Machine.execEngineCommandStart s
  | .tcountTick => Sys2Proof.Machine.execTcountTick s
  | .l2PrefetchTranslation => Sys2Proof.Machine.execL2PrefetchTranslation s
  | .fabricRouteReprogram => Sys2Proof.Machine.execFabricRouteReprogram s

end Sys2Proof.Machine
end

