-- ==== Sys2Proof/Machine/Errors.lean ====
section
/-! DEFINITION. Soft errors: those that the device corrects and counts, and the fate of those that it cannot correct (R447,
R458 to R460). -/

namespace Sys2Proof.Machine

/-- Count a corrected error of a class on a die, saturating (R460). -/
def State.countCorrected (s : State) (die cls : Nat) : State :=
  let up (t : Tab Nat) : Tab Nat := Tab.put t cls (min (Tab.get t cls 0 + 1) (2 ^ 32 - 1))
  s.onCtl fun c => if die = 0 then { c with cecnt0 := up c.cecnt0 } else { c with cecnt1 := up c.cecnt1 }

/-- Keep a corrected error at a location; the 64th within 2^30 ticks makes its unit one that firmware declares failed (R461; log
52). -/
def State.noteCorrection (s : State) (u : FailUnit) (loc : Nat) : State :=
  let now := s.ticks 0
  let recent := (u, loc, now) :: s.ctl.corrections.filter fun x => now < x.2.2 + 2 ^ 30
  let n := (recent.filter fun x => x.1 = u && x.2.1 = loc).length
  s.onCtl fun c =>
    { c with corrections := recent, failing := if 64 ≤ n then u :: c.failing.filter (· ≠ u) else c.failing }

/-- Count an uncorrected error on a die, saturating (R460). -/
def State.countUncorrected (s : State) (die : Nat) : State :=
  let up (n : Nat) : Nat := min (n + 1) (2 ^ 32 - 1)
  s.onCtl fun c => if die = 0 then { c with uecnt0 := up c.uecnt0 } else { c with uecnt1 := up c.uecnt1 }

/-- An uncorrected error in use: counted on the team's die, and the team ends (R458). -/
def State.errorEnds (s : State) (id code info0 info1 : Nat) : State :=
  match s.team? id with
  | none => s
  | some t => (s.countUncorrected (dieOfCore t.core)).endTeam id code info0 info1

/-- An uncorrected error of a group's registers or of an entry of its operand log: it is counted, and a team ends; a privileged group
has no team, and goes on (R458, R460; log 106). -/
def State.groupError (s : State) (k info0 : Nat) : State :=
  match s.group? k with
  | none => s
  | some g =>
    if g.privileged then s.countUncorrected (dieOfCore (keyCore k)) else s.errorEnds g.team 0x0601 info0 0

/-- A line of HBM, or a line dirty in an L2 or at the host port, whose error cannot be corrected (R368, R458, R459, R460). -/
def State.spoilLine (s : State) (line : Nat) : State :=
  let l := lineOf (s.norm (line * 64))
  if s.isLocal (line * 64) || (Tab.find s.home l).any (·.dirty) then
    ({ s with badLines := Tab.put s.badLines l ⟨5, 0, 0⟩ }).countUncorrected (s.homeDie (line * 64))
  else s

/-- What a soft error does (R447, R458 to R460). -/
def State.softError (s : State) : SoftError → State
  | .corrected d cls u loc => (if d < 2 && cls < 8 then s.countCorrected d cls else s).noteCorrection u loc
  | .register k => s.groupError k 1
  | .operandLog k => if s.hasLog k then s.groupError k 4 else s
  | .scratchpad id => s.errorEnds id 0x0602 2 0
  | .accumulator id => s.errorEnds id 0x0602 3 0
  | .l1 c line => (s.onCore c fun q => { q with l1 := Tab.del q.l1 line }).countCorrected (dieOfCore c) 3
  | .l2Copy d line => (s.onDie d fun x => { x with copies := Tab.del x.copies line }).countCorrected d 4
  | .tlb c n => (s.onCore c fun q => { q with tlb := q.tlb.eraseIdx n }).countCorrected (dieOfCore c) 5
  | .quadTlb q ahead n =>
    let drop (x : Quad) : Quad := if ahead then { x with ahead := x.ahead.eraseIdx n } else { x with tlb := x.tlb.eraseIdx n }
    (s.onQuad q drop).countCorrected (q / 256) 5
  | .walkTlb d n => (s.onDie d fun x => { x with walks := x.walks.eraseIdx n }).countCorrected d 5
  | .line l => s.spoilLine l
  | .saved id restore n =>
    let info0 := n % 4 + 1
    let code := if info0 = 1 then 0x0601 else 0x0602
    if restore then
      match Tab.find s.saved id with
      | none => s
      | some v => (s.countUncorrected v.die).endSaved id code info0 2
    else if (s.team? id).any fun t => t.preempt.isSome then s.errorEnds id code info0 1
    else s

end Sys2Proof.Machine
end

