-- ==== Sys2Proof/Machine/Place.lean ====
section
/-! DEFINITION. Placing one word where the machine fetches next: a stand-in for the launch of a program from outside. -/

namespace Sys2Proof.Machine

/-- Class of a clause that admits an opcode (R146). -/
def classFor (op : Nat) : Nat :=
  if op < 0xA0 || 0xDD ≤ op then 0 else if op < 0xC0 then 1 else if op < 0xD0 then 2 else if op < 0xDC then 3 else 4

/-- A header of count 15 for one word and 14 NOPs, without E and without a wait (R145). -/
def headerFor (op : Nat) : Nat := 7 * 2 ^ 29 + classFor op * 2 ^ 26 + 15 * 2 ^ 22

/-- Address of the tables and of the code that hold the word: a root, two tables and one leaf of 1 GiB that maps the
lowest addresses onto themselves, readable, writable and executable with A and D set (R63, R64). -/
def placeBase : Nat := 0x10000

/-- Memory with the tables and the block of the word. -/
def placeMem (m : List Host.Cell) (w : Nat) : List Host.Cell :=
  let m1 := memWriteLE m 0x1000 8 (0x2000 + 1)
  let m2 := memWriteLE m1 0x2000 8 (0x3000 + 1)
  let m3 := memWriteLE m2 0x3000 8 0xDF
  memWriteLE m3 placeBase 64 (headerFor (w / 2 ^ 24) + w * 2 ^ 32)

/-- A group that stands at the word in all 32 lanes, or in lane 0 when it is privileged (R38, R393), with 96 vector
registers that hold 0, as if its code had written them (log 28). -/
def placeGroup (privileged : Bool) : Group :=
  { Group.privilegedReset with
    privileged := privileged
    vregs := (List.range 96).map fun r => (r, List.replicate 32 0)
    pcs := if privileged then [4] else List.replicate 32 4 }

/-- The launch record of the group's team: one team of 32 lanes with 96 registers (R343). -/
def placeRecord : Nat := packFields [(32, 31, 1), (64, 16, 1), (80, 16, 1), (96, 10, 31), (128, 4, 10), (136, 10, 1), (148, 3, 2)]

/-- The group's grid, all of whose one team is dispatched (R347). -/
def placeGrid : Grid :=
  { ctx := 0, record := placeRecord, tier := 0, parent := none, parentTeam := 0, depth := 0, queue := 0, accepted := 0,
    ready := some 0, next0 := 1, next1 := 1, live := 1, params := none, code := 0, perSlot := 0, slots := [], step := false,
    unplaced0 := 0, unplaced1 := 0, preempting := none, cut := 0 }

/-- The group's team, which has a scratchpad of 4 KiB and a window of 32 tiles. -/
def placeTeam : Team :=
  { grid := 0, tix := 0, core := 0, place := 0, occ := 0, groups := [(0, 0)], resident := true, scratchSize := 4096,
    stamp := 0, scratch := [], winBase := 0, winW := 32, acc := [], handles := [], phase := 0, expected := 1,
    arrived := [], children := [], slot := none, reqId := 0, reqRec := 0, preempt := none, senders := [], changes := [], ended := false }

/-- A table of lines without those that hold the tables and the block of the word. -/
def readable {α : Type} (t : Tab α) : Tab α := t.filter fun x => placeBase / 64 < x.1

/-- The word placed, with a group of core 0 before it that holds its partition's turn, or, for a word of format SYS, with
the privileged group of sector 0 before it. -/
def placeWord (s : State) (w : Nat) : State :=
  let mem := placeMem s.mem w
  if w / 2 ^ 24 = 0xDC then
    { s with
      powered := true
      agenda := .manage 0 :: s.agenda
      mem := mem
      lineMeta := readable s.lineMeta
      badLines := readable s.badLines
      die0 := { s.die0 with walks := [], lost := false }
      moves := []
      csr := { s.csr with mptbase := 0x1000, mcbase := 0x10000 }
      cores := Tab.put s.cores 2048 { (s.core 2048) with tlb := [] }
      manage := Tab.put s.manage 0 { (s.manager 0) with halted := false, open_ := false }
      groups := Tab.put s.groups (privKey 0) (placeGroup true) }
  else
    { s with
      powered := true
      agenda := .primary 0 0 :: s.agenda
      mem := mem
      lineMeta := readable s.lineMeta
      badLines := readable s.badLines
      die0 := { s.die0 with walks := [], lost := false }
      moves := []
      contexts := Tab.put s.contexts 0 { (s.context 0) with ptbase := 0x1000, asid := 1, codebase := 0x10000 }
      cores := Tab.put s.cores 0 { (s.core 0) with tlb := [] }
      quads := Tab.put s.quads 0 { (s.quad 0) with tlb := [] }
      parts := Tab.put s.parts 0 { (s.part 0) with turn := some ⟨0, 0, s.cycles 0⟩ }
      grids := Tab.put s.grids 0 placeGrid
      teams := Tab.put s.teams 0 placeTeam
      groups := Tab.put s.groups 0 (placeGroup false) }

end Sys2Proof.Machine
end

