-- ==== Sys2Proof/Machine/Ready.lean ====
section
/-! DEFINITION. Readiness: whether the instruction at a group's issue address can issue (R45), which the arbiter of a partition
looks at when it grants a turn and the tick when it counts waits. -/

namespace Sys2Proof.Machine

/-- A group is ready: the headers before its issue address have been checked, the wait of its clause is met, and the word there
would not be held (R38, R45). -/
def State.readyNow (s : State) (k : Nat) (g : Group) : Bool :=
  match g.minPc with
  | none => false
  | some pc =>
    match pickAt s k g pc (g.lanesAt pc) false with
    | .word s1 u =>
      match exec (wordInstr u.word) { s1 with cur := u } with
      | .next t => !t.cur.held
      | _ => true
    | _ => false

/-- Look at the readiness of the groups whose key meets a test. -/
def State.look (s : State) (f : Nat → Bool) : State :=
  let see (x : Nat × Group) : Nat × Group :=
    if x.2.privileged || !f x.1 then x else (x.1, { x.2 with ready := s.readyNow x.1 x.2 })
  { s with groups := s.groups.map see }

/-- The state as an event meets it: a grant looks at the groups of its partition, a tick at every group (R45, R47). -/
def State.lookFor (s : State) : Event → State
  | .turnGrant c p => s.look fun k => keyCore k = c && keyPart k = p
  | .tcountTick => s.look fun _ => true
  | _ => s

end Sys2Proof.Machine
end

