-- ==== Sys2Proof/Machine/Step.lean ====
section
/-! DEFINITION. One step: the next move of the agenda, or a tick when the agenda is empty. A move of a port issues the word
that stands at its issue address; a move of an event runs the event's row. -/

namespace Sys2Proof.Machine

/-- Run what a port has picked. -/
def runPick (s : State) : Pick → Host.Outcome State Fault Refusal
  | .idle => .next s
  | .arrive k u => .next (s.arrival k u)
  | .fetch k off => .next (s.fetchHere k off)
  | .word s1 u => exec (wordInstr u.word) { s1 with cur := u }

/-- Run an event. -/
def runEvent (s : State) (e : Event) : Host.Outcome State Fault Refusal :=
  let s1 := s.lookFor e
  exec e.row { s1 with cur := { s1.cur with event := some e } }

/-- The state after a move has been taken from the agenda. -/
def State.taken (s : State) : State := { s with agenda := s.agenda.tail, freeCtr := s.freeCtr + 1 }

/-- Every record that a move has made since `s` may follow the last of its ring: of the records of one tick, a lower COREID enters
first, and the I/O die last (R392). -/
def State.recordsInOrder (s t : State) : Bool :=
  t.contexts.all fun x =>
    (s.context x.1).recTick ≠ (t.context x.1).recTick || (s.context x.1).recRank ≤ (t.context x.1).recRank

/-- One may come after another: in another cycle, or at no lower rank. -/
def Mark.before (a b : Mark) : Bool := a.cycle ≠ b.cycle || a.rank ≤ b.rank

/-- What a move has posted on the counting boards since `s`, and the barriers that it has changed, may follow what came there before:
within a cycle, postings come in order of partition and core, and the changes of a barrier in order of core, partition and sector (R236,
R251, R268, R284). -/
def State.changesInOrder (s t : State) : Bool :=
  let changes (s : State) (id : Nat) : Tab Mark := ((s.team? id).map (·.changes)).getD []
  (t.quads.all fun x => (s.quad x.1).posted.before (t.quad x.1).posted) &&
    t.teams.all fun x => (changes t x.1).all fun y =>
      (Tab.get (changes s x.1) y.1 ⟨0, 0⟩).before (Tab.get (changes t x.1) y.1 ⟨0, 0⟩)

/-- A move that would make a record, post an entry or change a barrier out of its order does not happen yet (R236, R268, R392; log 2,
log 79). -/
def State.ordered (s : State) : Host.Outcome State Fault Refusal → Host.Outcome State Fault Refusal
  | .next t => .next (if s.recordsInOrder t && s.changesInOrder t then t else s)
  | o => o

/-- One move. -/
def runMove (s : State) : Move → Host.Outcome State Fault Refusal
  | .primary c p => let s1 := s.clearSecond (partKey c p); runPick s1 (primaryPick s1 c p)
  | .secondary c p => runPick s (secondaryPick s c p)
  | .manage n => runPick s (managePick s n)
  | .fetch k => runPick s (fetchPick s k)
  | .fence k op => .next (s.fenceDone k op)
  | .launch k op => .next (s.launchDone k op)
  | .goOn id => .next (s.goOnCmd id)
  | .farRank comm seq timeout root a => .next (s.farRank comm seq timeout root a)
  | .farStep n r => .next (s.farStep n r)
  | .farStatus n st => .next (s.farStatus n st)
  | .sendFlit p head payload => .next (s.sendFlit p head payload)
  | .event e => runEvent s e
  | .error e => .next (s.softError e)

/-- What happens to a device that has shut down: its package power-on reset, and a sensor that cools (R464, R468). -/
def Move.whileOff : Move → Option Event
  | .event (.packagePowerOnReset us) => some (.packagePowerOnReset us)
  | .event (.thermalRelease n t) => some (.thermalRelease n t)
  | _ => none

/-- One step of the machine; a device that has shut down does nothing until its package power-on reset (R464, R468). -/
def step (s : State) : Host.Outcome State Fault Refusal :=
  if s.powered then
    match s.agenda with
    | [] => runEvent s.taken .tcountTick
    | m :: _ => s.taken.ordered (runMove s.taken m)
  else match s.agenda.head?.bind (·.whileOff) with
    | some e => runEvent s.taken e
    | none => .fault .poweredOff

/-- `s` with a word placed as the next that step runs: a clause of the class that holds it in a code segment of its own,
before a group that stands at it, and the port's move at the head of the agenda. -/
def State.withFetchWord (s : State) (nbits w : Nat) : State := placeWord s (w % 2 ^ nbits % 2 ^ 32)

end Sys2Proof.Machine
end

