-- ==== Sys2Proof/Safety.lean ====
section
/-! DEFINITION. What a safe run is, and the vocabulary of the claims: when the word of the latch issues, which lanes take
part in it, and what a word leaves as it was. -/

namespace Sys2Proof

open Machine in
/-- The machine can take its next step: it is powered and the step answers a next state. -/
def Safe (s : State) : Prop := ∃ t, step s = .next t

open Machine in
/-- A run of `n` steps from `s` is safe. -/
def SafeRun : Nat → State → Prop
  | 0, _ => True
  | n + 1, s => ∃ t, step s = .next t ∧ SafeRun n t

namespace Machine

/-- The word of the latch issues for group `g`: some lanes stand at it, the group is not stopped and waits for nothing
(R40, R43, R45, R157, R158), and the word passes its encoding check (R402). -/
structure Issues (i : Instr) (s : State) (g : Group) : Prop where
  found : s.group? s.cur.grp = some g
  active : s.cur.active ≠ 0
  standing : s.cur.active &&& ~~~ (g.lanesAt s.cur.pc) = 0
  ready : g.stopped s.cur.pc = false
  free : g.mustWait i = false
  legal : issueCheck s.freeCtr i s.cur g = none

/-- The lanes that take part in the word of the latch: the active lanes that its guard admits (R155). -/
def State.admitted (s : State) (g : Group) : Word := s.cur.active &&& g.guardMask (s.cur.word.toNat / 2 ^ 21 % 8)

/-- The word of the latch is not the last of its clause, so its lanes advance to the next word (R39, R144). -/
def State.midClause (s : State) : Prop := s.cur.pc.toNat ≠ s.cur.hdr + 4 * hdrCount s.cur.head

/-- The lanes of the word of the latch advance without a fault of the management core's own group, which would load its
registers anew (R398): the word is not the last of its clause, or the group is none of the privileged ones. -/
def State.plainAdvance (s : State) : Prop := s.midClause ∨ s.cur.grp < 0x20000

/-- The part of a group that no instruction but one that names it writes: its register file, and what identifies the
group (R31, R38). -/
structure File where
  privileged : Bool
  stamp : Nat
  gid : Nat
  team : Nat
  regs : Nat
  vregs : Tab (List Word)
  uregs : Tab Word
  preds : Tab Word
  guards : Tab Guard
  pri : Nat
  tcounth : Option Word
  latch : Latch
  qctx : Option QueryCtx
  tag : Option Tag
  deriving DecidableEq, Repr

/-- The file of a group. -/
def Group.file (g : Group) : File :=
  ⟨g.privileged, g.stamp, g.gid, g.team, g.regs, g.vregs, g.uregs, g.preds, g.guards, g.pri, g.tcounth, g.latch, g.qctx, g.tag⟩

/-- The file of the group of a key, if one is resident there. -/
def State.fileOf (s : State) (k : Nat) : Option File := (s.group? k).map Group.file

/-! ### The shapes of claims about lane instructions -/

/-- Every vector register but `vs`, every uniform register but `us` and every predicate but `ps` is as it was, and so are
the guard slots, the priority, the reuse latch, the query context and the node tag (R172, R200). -/
structure OnlyWrites (g g' : Group) (vs us ps : List Nat) : Prop where
  vregs : ∀ r, r ∉ vs → ∀ l, g'.vreg r l = g.vreg r l
  uregs : ∀ u, u ∉ us → g'.ureg u = g.ureg u
  preds : ∀ p, p ∉ ps → g'.predMask p = g.predMask p
  guards : g'.guards = g.guards
  pri : g'.pri = g.pri
  latch : g'.latch = g.latch
  qctx : g'.qctx = g.qctx
  tag : g'.tag = g.tag

/-- The word completes: a next state, in which the issuing group meets `R` and every other group has the file it had. -/
def Completes (i : Instr) (s : State) (R : Group → Prop) : Prop :=
  ∃ t g', exec i s = .next t ∧ t.group? s.cur.grp = some g' ∧ R g' ∧ ∀ j, j ≠ s.cur.grp → t.fileOf j = s.fileOf j

/-- A lane instruction completes; vector register `d` takes `val` in each lane that takes part and keeps its word in the
others, and nothing else of any group's registers changes (R172). -/
def LaneWrites (i : Instr) (d : Nat) (val : State → Group → Nat → Word) : Prop :=
  ∀ s g, Issues i s g → s.plainAdvance → Completes i s fun g' =>
    (∀ l, l < 32 → g'.vreg d l = if (s.admitted g).getLsbD l then val s g l else g.vreg d l) ∧ OnlyWrites g g' [d] [] []

/-- The same for a pair d, d + 1 of vector registers, low word first (R153). -/
def PairWrites (i : Instr) (d : Nat) (val : Group → Nat → DWord) : Prop :=
  ∀ s g, Issues i s g → s.plainAdvance → Completes i s fun g' =>
    (∀ l, l < 32 →
      g'.vreg d l = (if (s.admitted g).getLsbD l then (val g l).extractLsb' 0 32 else g.vreg d l) ∧
      g'.vreg (d + 1) l = (if (s.admitted g).getLsbD l then (val g l).extractLsb' 32 32 else g.vreg (d + 1) l)) ∧
    OnlyWrites g g' [d, d + 1] [] []

/-- The same for a predicate. -/
def PredWrites (i : Instr) (p : Nat) (rel : State → Group → Nat → Bool) : Prop :=
  ∀ s g, Issues i s g → s.plainAdvance → Completes i s fun g' =>
    (∀ l, l < 32 → g'.pred p l = if (s.admitted g).getLsbD l then rel s g l else g.pred p l) ∧ OnlyWrites g g' [] [] [p]

/-- A uniform instruction acts when its guard admits the lowest active lane: uniform register `u` takes `val`, which draws
on that lane (R183). -/
def UniformWrites (i : Instr) (u : Nat) (val : Group → Nat → Word) : Prop :=
  ∀ s g, Issues i s g → s.plainAdvance → Completes i s fun g' =>
    g'.ureg u = (if (s.admitted g).getLsbD (lowestLane s.cur.active) then val g (lowestLane s.cur.active) else g.ureg u) ∧
      OnlyWrites g g' [] [u] []

/-- One source a. -/
def Lane1 (i : Instr) (f : FmtA) (op : Word → Word) : Prop := LaneWrites i f.d.toNat fun _ g l => op (g.reg f.a.toNat l)

/-- Two sources a and b. -/
def Lane2 (i : Instr) (f : FmtA) (op : Word → Word → Word) : Prop :=
  LaneWrites i f.d.toNat fun _ g l => op (g.reg f.a.toNat l) (g.reg f.b.toNat l)

/-- Two sources and the old value of d. -/
def Lane3 (i : Instr) (f : FmtA) (op : Word → Word → Word → Word) : Prop :=
  LaneWrites i f.d.toNat fun _ g l => op (g.reg f.a.toNat l) (g.reg f.b.toNat l) (g.vreg f.d.toNat l)

/-- One source and an immediate. -/
def LaneImm (i : Instr) (f : FmtB) (op : Word → Nat → Word) : Prop :=
  LaneWrites i f.d.toNat fun _ g l => op (g.reg f.a.toNat l) f.i.toNat

/-- Pair sources a and b, and the old pair d. -/
def Pair3 (i : Instr) (f : FmtA) (op : DWord → DWord → DWord → DWord) : Prop :=
  PairWrites i f.d.toNat fun g l => op (g.pair f.a.toNat l) (g.pair f.b.toNat l) (g.pair f.d.toNat l)

/-- A compare of sources a and b. -/
def Compare (i : Instr) (f : FmtA) (rel : Word → Word → Bool) : Prop :=
  PredWrites i f.d.toNat fun _ g l => rel (g.reg f.a.toNat l) (g.reg f.b.toNat l)

/-- A function of predicates a and b. -/
def Logic (i : Instr) (f : FmtA) (rel : Bool → Bool → Bool) : Prop :=
  PredWrites i f.d.toNat fun _ g l => rel (g.pred f.a.toNat l) (g.pred f.b.toNat l)

/-! ### The shapes of claims about the other words -/

/-- The word of the latch stands at a multiple of 4 and is not the last of its clause (R144). -/
def State.inClause (s : State) : Prop := s.cur.pc.toNat % 4 = 0 ∧ s.midClause

/-- Memory, line metadata, the homes, the control and status registers, contexts, dies, cores, quads, teams, grids, the
management cores and every group but `k` are as before. -/
structure Untouched (k : Nat) (s t : State) : Prop where
  mem : ∀ a, memRead t.mem a = memRead s.mem a
  lineMeta : t.lineMeta = s.lineMeta
  home : t.home = s.home
  csr : t.csr = s.csr
  ctl : t.ctl = s.ctl
  contexts : t.contexts = s.contexts
  die0 : t.die0 = s.die0
  die1 : t.die1 = s.die1
  cores : t.cores = s.cores
  quads : t.quads = s.quads
  teams : t.teams = s.teams
  grids : t.grids = s.grids
  manage : t.manage = s.manage
  groups : ∀ j, j ≠ k → t.group? j = s.group? j

/-- A word inside its clause completes with the frame of `Untouched`: the next state meets `R`. -/
def StepsTo (i : Instr) (s : State) (R : State → Group → Prop) : Prop :=
  ∃ t g', exec i s = .next t ∧ t.group? s.cur.grp = some g' ∧ R t g'

/-- PCs after an issue: the lanes of `m` at `f`, the other active lanes at the next word, the rest where they stood. -/
def PcsAre (s : State) (g g' : Group) (m : Word) (f : Nat → Word) : Prop :=
  g'.pcs.length = g.pcs.length ∧ ∀ l, l < g.pcs.length → g'.pcs[l]? =
    if m.getLsbD l then some (f l) else if s.cur.active.getLsbD l then some (s.cur.pc + 4) else g.pcs[l]?

/-- The group holds no turn of its partition (R44). -/
def State.noTurn (s : State) (k : Nat) : Prop := ∀ u, (s.part (partOf k)).turn = some u → u.place ≠ keyPlace k

/-- The code word at an offset is `w`, through an entry of the core's own TLB, from a line that can be read (R70, R84). -/
def State.codeHit (s : State) (k off : Nat) (w : Word) : Prop :=
  s.frozenAt (s.asidOf (s.spaceOf k)) (s.codeVa (s.spaceOf k) off) = false ∧
  ∃ e, (tlbFind (s.core (keyCore k)).tlb (s.asidOf (s.spaceOf k)) (s.codeVa (s.spaceOf k) off)).filter (·.serves .fetch) = some e ∧
    permFault e .fetch (s.regionOf (s.spaceOf k) (s.codeVa (s.spaceOf k) off)) = none ∧
    s.spanFault (e.phys (s.codeVa (s.spaceOf k) off)) 4 false = none ∧
    w = BitVec.ofNat 32 (s.peekLE (e.phys (s.codeVa (s.spaceOf k) off)) 4)

/-- The L2s have room for `n` more lines, so that none leaves to make it (R17). -/
def State.l2Room (s : State) (n : Nat) : Prop := ∀ d, s.home.length + (s.die d).copies.length + n ≤ 4194304

/-- A branch to offset `H` meets a header that passes its check (R148, R403). -/
def State.goodTarget (s : State) (k H : Nat) : Prop :=
  H % 4 = 0 ∧ H < 2 ^ 32 ∧ ∃ h0 h, s.codeHit k (H / 64 * 64) h0 ∧ hdrData h0 = false ∧ s.codeHit k H h ∧ hdrData h = false ∧
    hdrReason h (H % 64 / 4) true = none ∧ ∀ g, s.group? k = some g → H / 64 * 64 ∉ g.fetchWait

/-- A branch whose lanes all meet good headers sets their PCs to the word after the header; the other active lanes advance;
`link` says whether v95 takes the address of the next word (R199, R203, R205). -/
def Branches (i : Instr) (target : State → Group → Nat → Nat) (link : Bool) : Prop :=
  ∀ s g, Issues i s g → s.inClause → (∀ l ∈ lanesOf (s.admitted g), s.goodTarget s.cur.grp (target s g l)) →
    StepsTo i s fun t g' =>
      PcsAre s g g' (s.admitted g) (fun l => BitVec.ofNat 32 (target s g l + 4)) ∧
      OnlyWrites g g' (if link then [95] else []) [] [] ∧
      (link = true → ∀ l, l < 32 → g'.vreg 95 l = if (s.admitted g).getLsbD l then s.cur.pc + 4 else g.vreg 95 l) ∧
      Untouched s.cur.grp s t

/-- The word of the latch is about to issue, whatever its encoding check says (R402). -/
structure Presented (i : Instr) (s : State) (g : Group) : Prop where
  found : s.group? s.cur.grp = some g
  active : s.cur.active ≠ 0
  standing : s.cur.active &&& ~~~ (g.lanesAt s.cur.pc) = 0
  ready : g.stopped s.cur.pc = false
  free : g.mustWait i = false

/-- Group `g'` is suspended on a record of code `code` for the lanes of `m` at `pc`, with these information words; the record
has not been delivered, and the group holds no turn (R389, R390, R394). -/
def SuspendedAs (t : State) (k : Nat) (g' : Group) (code : Nat) (m pc : Word) (info0 info1 : Nat) : Prop :=
  (∃ z, g'.suspension = some z ∧ z.code = code ∧ z.mask = m ∧ z.pc = pc ∧ z.delivered = false ∧
    bits z.record 80 16 = code ∧ bits z.record 72 4 = 0 ∧ bits z.record 192 32 = m.toNat ∧ bits z.record 224 32 = pc.toNat ∧
    bits z.record 384 64 = info0 ∧ bits z.record 448 64 = info1) ∧ t.noTurn k

/-- Nothing but what the suspension of group `k` itself writes has changed: no access, instruction or command in flight, team, quad,
core or grid, none of the group's counters, holds, waits and PCs, no register of any group, and no byte of memory outside the record's
place in its ring, as long as no line has to leave an L2 for it (R389 to R392, R400). -/
def OnlySuspends (s t : State) (k : Nat) (g g' : Group) : Prop :=
  t.accesses = s.accesses ∧ t.ops = s.ops ∧ t.cmds = s.cmds ∧ t.teams = s.teams ∧ t.quads = s.quads ∧ t.cores = s.cores ∧
    t.grids = s.grids ∧ (∀ n, g'.counter n = g.counter n) ∧ g'.holds = g.holds ∧ g'.busy = g.busy ∧ g'.pcs = g.pcs ∧
    g'.block = g.block ∧ OnlyWrites g g' [] [] [] ∧ (∀ j, j ≠ k → t.fileOf j = s.fileOf j) ∧
    let c := s.context (s.ctxOf k)
    let a := s.norm (bits c.frbase.toNat 12 40 * 4096 + 64 * (c.frhead % 2 ^ c.frsize))
    s.l2Room 1 → ∀ b, b < a ∨ a + 64 ≤ b → memRead t.mem b = memRead s.mem b

/-- The latch holds the word of the instruction (R151). -/
def State.latched (s : State) (i : Instr) : Prop := encode i = some s.cur.word

/-- An access of a kind translates to a physical address through an entry of the core's own TLB that permits it, while no
move holds its page (R84, R88, R412). -/
def State.dataHit (s : State) (k va : Nat) (acc : AccessKind) (pa : Nat) : Prop :=
  canonical va = true ∧ s.frozenAt (s.asidOf (s.spaceOf k)) va = false ∧
  ∃ e, (tlbFind (s.core (keyCore k)).tlb (s.asidOf (s.spaceOf k)) va).filter (·.serves acc) = some e ∧
    permFault e acc (s.regionOf (s.spaceOf k) va) = none ∧ pa = e.phys va

/-- A memory instruction or engine command raises the counter that its c field names; with c = 0 it is held after `la` more
issues instead, and each hold counts the issue (R158, R159). -/
def Counts (g g' : Group) (op c la : Nat) : Prop :=
  (∀ n, n = 1 ∨ n = 2 ∨ n = 3 → g'.counter n = g.counter n + if n = c then 1 else 0) ∧
  g'.holds = (g.holds.map fun h => { h with left := h.left - 1 }) ++ if c = 0 then [⟨op, la⟩] else []

/-- A word of the issuing group that leaves it running inside its clause, with no register, predicate, guard slot or memory
byte written and every other group as it was. -/
def Quiet (s t : State) (g g' : Group) : Prop :=
  OnlyWrites g g' [] [] [] ∧ PcsAre s g g' 0 (fun _ => 0) ∧ (∀ a, memRead t.mem a = memRead s.mem a) ∧
    ∀ j, j ≠ s.cur.grp → t.group? j = s.group? j

/-- An event of the table happens: where `s` has it in progress (`s.cur.event`), its row answers a next state that meets
`R`. -/
def Happens (i : Instr) (e : Event) (s : State) (R : State → Prop) : Prop :=
  s.cur.event = some e → e.row = i ∧ ∃ t, exec i s = .next t ∧ R t

/-- The lane instructions: opcodes 0x00 to 0x34 but LDK, 0x40 to 0x6C, 0x70 to 0x7F and 0x80 to 0x8E (R172). -/
def isLaneWord (i : Instr) : Bool :=
  match i with
  | .nop _ | .iadd _ | .isub _ | .iadd64 _ | .isub64 _ | .imul _ | .imulhiS _ | .imulhiU _ | .imad _ | .imadwS _
  | .imadwU _ | .idivS _ | .idivU _ | .iremS _ | .iremU _ | .iminS _ | .iminU _ | .imaxS _ | .imaxU _ | .iabs _
  | .ineg _ | .and _ | .or _ | .xor _ | .andn _ | .not _ | .shl _ | .shrU _ | .shrS _ | .rotl _ | .shli _ | .shriU _
  | .shriS _ | .iaddi _ | .movi _ | .movhi _ | .mov _ | .sel _ | .popc _ | .clz _ | .brev _ | .bfeU _ | .bfeS _
  | .bfi _ | .lea _ | .idot4Sb _ | .idot4Ub _ | .b3ext _ | .umov _ | .umovi _ | .uadd _ | .ulea _ | .fadd _
  | .fsub _ | .fmul _ | .ffma _ | .fmin _ | .fmax _ | .fabs _ | .fneg _ | .fdiv _ | .fsqrt _ | .frcp _ | .frsq _
  | .fex2 _ | .flg2 _ | .fsint _ | .fcost _ | .frnd _ | .fldexp _ | .fexpo _ | .fclass _ | .hadd2 _ | .hmul2 _
  | .hfma2 _ | .badd2 _ | .bmul2 _ | .bfma2 _ | .dadd _ | .dmul _ | .dfma _ | .cvtF32Sw _ | .cvtF32Uw _
  | .cvtSwF32 _ | .cvtUwF32 _ | .cvtF16x2F32 _ | .cvtBf16x2F32 _ | .cvtF32F16 _ | .cvtF32Bf16 _ | .cvtE4m3x2F32 _
  | .cvtE5m2x2F32 _ | .cvtF32E4m3 _ | .cvtF32E5m2 _ | .cvtF64F32 _ | .cvtF32F64 _ | .qfp4 _ | .dqfp4 _ | .icmpEq _
  | .icmpNe _ | .icmpLtS _ | .icmpLeS _ | .icmpLtU _ | .icmpLeU _ | .fcmpEq _ | .fcmpNe _ | .fcmpLt _ | .fcmpLe _
  | .fcmpUo _ | .pand _ | .por _ | .pxor _ | .pnot _ | .gset _ | .shflIdx _ | .shflUp _ | .shflDn _ | .shflXor _
  | .voteAll _ | .voteAny _ | .voteBal _ | .matchLanes _ | .reduxAdd _ | .reduxMinS _ | .reduxMaxS _ | .sreg _
  | .p2v _ | .v2p _ | .lanemask _ => true
  | _ => false

/-- The word of an opcode row that stands for an instruction word, not for an event (R7, R151). -/
def isWord (i : Instr) : Bool := (encode i).isSome

end Machine

end Sys2Proof
end

