-- ==== Sys2Proof/Certificates/Slice0/Obligations.lean ====
section
/-! DEFINITION. The statements about the machine, for the provers. Each says in its docstring which rules of the manual it
formalises; the shapes they use stand in Safety. -/

section
open Sys2Proof Sys2Proof.Machine

/-! ### Lane instructions -/

/-- R176 and R179 to R182: the integer instructions, on words and on pairs, bit fields by position and length, the trits of a byte,
moves, constants, and SEL, which writes every active lane, complete for every operand and write exactly the value that the table
gives. -/
def Obligations.IntegerResults : Prop :=
  (∀ f, Lane2 (.iadd f) f fun a b => BitVec.ofNat 32 (a.toNat + b.toNat)) ∧
  (∀ f, Lane2 (.isub f) f fun a b => BitVec.ofInt 32 ((a.toNat : Int) - b.toNat)) ∧
  (∀ f, Lane2 (.imul f) f fun a b => BitVec.ofNat 32 (a.toNat * b.toNat)) ∧
  (∀ f, Lane2 (.imulhiS f) f fun a b => (BitVec.ofInt 64 (a.toInt * b.toInt)).extractLsb' 32 32) ∧
  (∀ f, Lane2 (.imulhiU f) f fun a b => (BitVec.ofNat 64 (a.toNat * b.toNat)).extractLsb' 32 32) ∧
  (∀ f, Lane3 (.imad f) f fun a b d => BitVec.ofNat 32 (a.toNat * b.toNat + d.toNat)) ∧
  (∀ f, Lane2 (.iminS f) f fun a b => if b.toInt < a.toInt then b else a) ∧
  (∀ f, Lane2 (.iminU f) f fun a b => if b.toNat < a.toNat then b else a) ∧
  (∀ f, Lane2 (.imaxS f) f fun a b => if a.toInt < b.toInt then b else a) ∧
  (∀ f, Lane2 (.imaxU f) f fun a b => if a.toNat < b.toNat then b else a) ∧
  (∀ f, Lane1 (.iabs f) f fun a => BitVec.ofInt 32 |a.toInt|) ∧
  (∀ f, Lane1 (.ineg f) f fun a => BitVec.ofInt 32 (-a.toInt)) ∧
  (∀ f, Lane3 (.idot4Sb f) f fun a b d =>
    BitVec.ofInt 32 ((d.toNat : Int) + sextNat (byteOf a 0) 8 * sextNat (byteOf b 0) 8 + sextNat (byteOf a 1) 8 * sextNat (byteOf b 1) 8 +
      sextNat (byteOf a 2) 8 * sextNat (byteOf b 2) 8 + sextNat (byteOf a 3) 8 * sextNat (byteOf b 3) 8)) ∧
  (∀ f, Lane3 (.idot4Ub f) f fun a b d =>
    BitVec.ofNat 32 (d.toNat + byteOf a 0 * byteOf b 0 + byteOf a 1 * byteOf b 1 + byteOf a 2 * byteOf b 2 + byteOf a 3 * byteOf b 3)) ∧
  (∀ f, Pair3 (.iadd64 f) f fun a b _ => BitVec.ofNat 64 (a.toNat + b.toNat)) ∧
  (∀ f, Pair3 (.isub64 f) f fun a b _ => BitVec.ofInt 64 ((a.toNat : Int) - b.toNat)) ∧
  (∀ f : FmtA, PairWrites (.imadwS f) f.d.toNat fun g l =>
    BitVec.ofInt 64 ((g.reg f.a.toNat l).toInt * (g.reg f.b.toNat l).toInt + (g.pair f.d.toNat l).toNat)) ∧
  (∀ f : FmtA, PairWrites (.imadwU f) f.d.toNat fun g l =>
    BitVec.ofNat 64 ((g.reg f.a.toNat l).toNat * (g.reg f.b.toNat l).toNat + (g.pair f.d.toNat l).toNat)) ∧
  (∀ f : FmtB, PairWrites (.lea f) f.d.toNat fun g l =>
    BitVec.ofInt 64 ((g.pair f.d.toNat l).toNat + (g.reg f.a.toNat l).toInt * 2 ^ f.i.toNat)) ∧
  (∀ f, Lane2 (.bfeU f) f fun a b =>
    let t := if 32 ≤ byteOf b 0 then 0 else a.toNat / 2 ^ byteOf b 0
    BitVec.ofNat 32 (t % 2 ^ min (byteOf b 1) 32)) ∧
  (∀ f, Lane2 (.bfeS f) f fun a b =>
    let t : Word := if 32 ≤ byteOf b 0 then (if a.getLsbD 31 then 0xFFFFFFFF else 0) else BitVec.ofInt 32 (a.toInt / 2 ^ byteOf b 0)
    if byteOf b 1 = 0 then 0 else BitVec.ofInt 32 (sextNat t.toNat (min (byteOf b 1) 32))) ∧
  (∀ f, Lane3 (.bfi f) f fun a b d =>
    maskOf ((List.range 32).filter fun k =>
      if byteOf b 0 ≤ k ∧ k < byteOf b 0 + min (byteOf b 1) 32 then a.getLsbD (k - byteOf b 0) else d.getLsbD k)) ∧
  (∀ f, LaneImm (.b3ext f) f fun a i =>
    let c := byteOf a (i / 8)
    if 243 ≤ c then 0
    else if c / 3 ^ (i % 8) % 3 = 0 then 0 else if c / 3 ^ (i % 8) % 3 = 1 then 1 else 0xFFFFFFFF) ∧
  (∀ f : FmtB, LaneWrites (.iaddi f) f.d.toNat fun _ g l => BitVec.ofInt 32 ((g.reg f.a.toNat l).toInt + f.i.toInt)) ∧
  (∀ f : FmtC, LaneWrites (.movi f) f.d.toNat fun _ _ _ => BitVec.ofInt 32 f.i.toInt) ∧
  (∀ f : FmtC, LaneWrites (.movhi f) f.d.toNat fun _ g l => f.i ++ (g.vreg f.d.toNat l).extractLsb' 0 18) ∧
  (∀ f, Lane1 (.mov f) f fun a => a) ∧
  (∀ (f : FmtA) (s : State) (g : Group), Issues (.sel f) s g → s.plainAdvance → Completes (.sel f) s fun g' =>
    (∀ l, l < 32 → g'.vreg f.d.toNat l =
      if s.cur.active.getLsbD l then
        (if (g.guardMask (s.cur.word.toNat / 2 ^ 21 % 8)).getLsbD l then g.reg f.a.toNat l else g.reg f.b.toNat l)
      else g.vreg f.d.toNat l) ∧
    OnlyWrites g g' [f.d.toNat] [] [])

/-- R177: division and remainder complete for every operand, division by zero and the one overflow included. -/
def Obligations.DivisionResults : Prop :=
  (∀ f, Lane2 (.idivU f) f fun a b => if b = 0 then 0xFFFFFFFF else BitVec.ofNat 32 (a.toNat / b.toNat)) ∧
  (∀ f, Lane2 (.iremU f) f fun a b => if b = 0 then a else BitVec.ofNat 32 (a.toNat - b.toNat * (a.toNat / b.toNat))) ∧
  (∀ f, Lane2 (.idivS f) f fun a b =>
    if b = 0 then 0xFFFFFFFF else if a = 0x80000000 ∧ b = 0xFFFFFFFF then 0x80000000
    else BitVec.ofInt 32 (Int.tdiv a.toInt b.toInt)) ∧
  (∀ f, Lane2 (.iremS f) f fun a b =>
    if b = 0 then a else if a = 0x80000000 ∧ b = 0xFFFFFFFF then 0
    else BitVec.ofInt 32 (a.toInt - b.toInt * Int.tdiv a.toInt b.toInt))

/-- R178: logic and shifts; a shift by 32 or more gives 0, or copies of the sign. -/
def Obligations.LogicShiftResults : Prop :=
  (∀ f, Lane2 (.and f) f fun a b => a &&& b) ∧
  (∀ f, Lane2 (.or f) f fun a b => a ||| b) ∧
  (∀ f, Lane2 (.xor f) f fun a b => a ^^^ b) ∧
  (∀ f, Lane2 (.andn f) f fun a b => a &&& ~~~ b) ∧
  (∀ f, Lane1 (.not f) f fun a => ~~~ a) ∧
  (∀ f, Lane2 (.shl f) f fun a b => if 32 ≤ b.toNat then 0 else BitVec.ofNat 32 (a.toNat * 2 ^ b.toNat)) ∧
  (∀ f, Lane2 (.shrU f) f fun a b => if 32 ≤ b.toNat then 0 else BitVec.ofNat 32 (a.toNat / 2 ^ b.toNat)) ∧
  (∀ f, Lane2 (.shrS f) f fun a b =>
    if 32 ≤ b.toNat then (if a.getLsbD 31 then 0xFFFFFFFF else 0) else BitVec.ofInt 32 (a.toInt / 2 ^ b.toNat)) ∧
  (∀ f, Lane2 (.rotl f) f fun a b =>
    maskOf ((List.range 32).filter fun k => a.getLsbD ((k + 32 - b.toNat % 32) % 32))) ∧
  (∀ f, LaneImm (.shli f) f fun a i => if 32 ≤ i then 0 else BitVec.ofNat 32 (a.toNat * 2 ^ i)) ∧
  (∀ f, LaneImm (.shriU f) f fun a i => if 32 ≤ i then 0 else BitVec.ofNat 32 (a.toNat / 2 ^ i)) ∧
  (∀ f, LaneImm (.shriS f) f fun a i =>
    if 32 ≤ i then (if a.getLsbD 31 then 0xFFFFFFFF else 0) else BitVec.ofInt 32 (a.toInt / 2 ^ i)) ∧
  (∀ f, Lane1 (.popc f) f fun a => BitVec.ofNat 32 ((List.range 32).filter fun k => a.getLsbD k).length) ∧
  (∀ f, Lane1 (.clz f) f fun a => BitVec.ofNat 32 (((List.range 32).find? fun n => a.getLsbD (31 - n)).getD 32)) ∧
  (∀ f, Lane1 (.brev f) f fun a => maskOf ((List.range 32).filter fun k => a.getLsbD (31 - k)))

/-- R183: a uniform instruction acts once, in the lowest active lane, and only when the guard admits that lane. -/
def Obligations.UniformResults : Prop :=
  (∀ f : FmtA, UniformWrites (.umov f) (f.d.toNat - 96) fun g l => g.reg f.a.toNat l) ∧
  (∀ f : FmtC, UniformWrites (.umovi f) (f.d.toNat - 96) fun _ _ => BitVec.ofInt 32 f.i.toInt) ∧
  (∀ f : FmtA, UniformWrites (.uadd f) (f.d.toNat - 96) fun g l =>
    BitVec.ofNat 32 ((g.reg f.a.toNat l).toNat + (g.reg f.b.toNat l).toNat)) ∧
  (∀ (f : FmtB) (s : State) (g : Group), Issues (.ulea f) s g → s.plainAdvance → Completes (.ulea f) s fun g' =>
    let l := lowestLane s.cur.active
    let u := f.d.toNat - 96
    let v : DWord := BitVec.ofInt 64 (((g.ureg u).toNat + 2 ^ 32 * (g.ureg (u + 1)).toNat : Nat) + (g.reg f.a.toNat l).toInt * 2 ^ f.i.toNat)
    g'.ureg u = (if (s.admitted g).getLsbD l then v.extractLsb' 0 32 else g.ureg u) ∧
    g'.ureg (u + 1) = (if (s.admitted g).getLsbD l then v.extractLsb' 32 32 else g.ureg (u + 1)) ∧
    OnlyWrites g g' [] [u, u + 1] [])

/-- R122 and R184 to R189: FP32 arithmetic, the correctly rounded functions, rounding to an integral value, scaling by a power of
two, the exponent and the class of a value; packed halves in FP16 and BF16, and FP64 on pairs. -/
def Obligations.FloatResults : Prop :=
  ((∀ f, Lane2 (.fadd f) f fun a b => fpWord ((fp a).add (fp b))) ∧
  (∀ f, Lane2 (.fsub f) f fun a b => fpWord ((fp a).add (fp b).neg)) ∧
  (∀ f, Lane2 (.fmul f) f fun a b => fpWord ((fp a).mul (fp b))) ∧
  (∀ f, Lane3 (.ffma f) f fun a b d => fpWord (((fp a).mul (fp b)).add (fp d))) ∧
  (∀ f, Lane2 (.fmin f) f fun a b =>
    if fp a = .nan ∧ fp b = .nan then 0x7FC00000 else if fp a = .nan then b else if fp b = .nan then a
    else if fcmpLt a b ∨ (fcmpEq a b ∧ a.getLsbD 31 ∧ !b.getLsbD 31) then a else b) ∧
  (∀ f, Lane2 (.fmax f) f fun a b =>
    if fp a = .nan ∧ fp b = .nan then 0x7FC00000 else if fp a = .nan then b else if fp b = .nan then a
    else if fcmpLt a b ∨ (fcmpEq a b ∧ a.getLsbD 31 ∧ !b.getLsbD 31) then b else a) ∧
  (∀ f, Lane1 (.fabs f) f fun a => BitVec.ofNat 32 (a.toNat % 2 ^ 31)) ∧
  (∀ f, Lane1 (.fneg f) f fun a => a ^^^ 0x80000000) ∧
  (∀ f, Lane2 (.fdiv f) f fun a b => fpWord ((fp a).div (fp b))) ∧
  (∀ f, Lane1 (.fsqrt f) f fun a => fpWord (fp a).sqrt) ∧
  (∀ f, Lane1 (.frcp f) f fun a => fpWord ((Ext.fin false 1 0).div (fp a))) ∧
  (∀ f, Lane1 (.frsq f) f fun a => fpWord (fp a).rsqrt) ∧
  (∀ f, Lane1 (.fex2 f) f fun a => fpWord (fp a).exp2) ∧
  (∀ f, Lane1 (.flg2 f) f fun a => fpWord (fp a).log2) ∧
  (∀ f, Lane1 (.fsint f) f fun a => fpWord (fp a).sinTurns) ∧
  (∀ f, Lane1 (.fcost f) f fun a => fpWord (fp a).cosTurns) ∧
  (∀ f, LaneImm (.frnd f) f fun a i =>
    match fp a with
    | .nan => 0x7FC00000
    | .inf _ => a
    | .fin neg m e => fpWord (.fin neg (roundInt i neg m e) 0)) ∧
  (∀ f, Lane2 (.fldexp f) f fun a b =>
    match fp a with
    | .nan => 0x7FC00000
    | .inf _ => a
    | .fin neg m e => if m = 0 then a else fpWord (.fin neg m (e + max (-2000) (min 2000 b.toInt)))) ∧
  (∀ f, Lane1 (.fexpo f) f fun a =>
    if bits a.toNat 23 8 = 255 then 0x7FFFFFFF
    else if bits a.toNat 23 8 ≠ 0 then BitVec.ofInt 32 ((bits a.toNat 23 8 : Int) - 127)
    else if bits a.toNat 0 23 = 0 then 0x80000000
    else BitVec.ofInt 32 ((Nat.log2 (bits a.toNat 0 23) : Int) - 149)) ∧
  (∀ f, Lane1 (.fclass f) f fun a =>
    let E := bits a.toNat 23 8
    let m := bits a.toNat 0 23
    if E = 255 ∧ m ≠ 0 then (if a.getLsbD 22 then 0x200 else 0x100)
    else if a.getLsbD 31 then (if E = 255 then 0x1 else if E ≠ 0 then 0x2 else if m ≠ 0 then 0x4 else 0x8)
    else (if E = 255 then 0x80 else if E ≠ 0 then 0x40 else if m ≠ 0 then 0x20 else 0x10))) ∧
  (let half (t : FpFmt) (op : Ext → Ext → Ext → Ext) (a b d : Word) (h : Nat) : Nat :=
    t.encode (op (t.decode (bits a.toNat (16 * h) 16)) (t.decode (bits b.toNat (16 * h) 16)) (t.decode (bits d.toNat (16 * h) 16)))
  let both (t : FpFmt) (op : Ext → Ext → Ext → Ext) (a b d : Word) : Word :=
    BitVec.ofNat 32 (half t op a b d 0 + 2 ^ 16 * half t op a b d 1)
  (∀ f, Lane3 (.hadd2 f) f (both fp16 fun a b _ => a.add b)) ∧
  (∀ f, Lane3 (.hmul2 f) f (both fp16 fun a b _ => a.mul b)) ∧
  (∀ f, Lane3 (.hfma2 f) f (both fp16 fun a b d => (a.mul b).add d)) ∧
  (∀ f, Lane3 (.badd2 f) f (both bf16 fun a b _ => a.add b)) ∧
  (∀ f, Lane3 (.bmul2 f) f (both bf16 fun a b _ => a.mul b)) ∧
  (∀ f, Lane3 (.bfma2 f) f (both bf16 fun a b d => (a.mul b).add d)) ∧
  (∀ f, Pair3 (.dadd f) f fun a b _ => dpWord ((dp a).add (dp b))) ∧
  (∀ f, Pair3 (.dmul f) f fun a b _ => dpWord ((dp a).mul (dp b))) ∧
  (∀ f, Pair3 (.dfma f) f fun a b d => dpWord (((dp a).mul (dp b)).add (dp d))))

/-- R132, R134, R190 and R191: conversions, block quantisation of each quarter, and its inverse. -/
def Obligations.ConversionResults : Prop :=
  (∀ f, Lane1 (.cvtF32Sw f) f fun a => fpWord (.fin (decide (a.toInt < 0)) a.toInt.natAbs 0)) ∧
  (∀ f, Lane1 (.cvtF32Uw f) f fun a => fpWord (.fin false a.toNat 0)) ∧
  (∀ f, Lane1 (.cvtSwF32 f) f fun a =>
    match fp a with
    | .nan => 0
    | .inf neg => if neg then 0x80000000 else 0x7FFFFFFF
    | .fin neg m e =>
      let n : Int := if neg then -(roundInt 1 neg m e : Int) else roundInt 1 neg m e
      BitVec.ofInt 32 (max (-2 ^ 31) (min (2 ^ 31 - 1) n))) ∧
  (∀ f, Lane1 (.cvtUwF32 f) f fun a =>
    match fp a with
    | .nan => 0
    | .inf neg => if neg then 0 else 0xFFFFFFFF
    | .fin neg m e => if neg then 0 else BitVec.ofNat 32 (min (2 ^ 32 - 1) (roundInt 1 neg m e))) ∧
  (∀ f, Lane2 (.cvtF16x2F32 f) f fun a b => BitVec.ofNat 32 (fp16.encode (fp a) + 2 ^ 16 * fp16.encode (fp b))) ∧
  (∀ f, Lane2 (.cvtBf16x2F32 f) f fun a b => BitVec.ofNat 32 (bf16.encode (fp a) + 2 ^ 16 * bf16.encode (fp b))) ∧
  (∀ f, LaneImm (.cvtF32F16 f) f fun a i => fpWord (fp16.decode (if i % 2 = 1 then a.toNat / 2 ^ 16 else a.toNat % 2 ^ 16))) ∧
  (∀ f, LaneImm (.cvtF32Bf16 f) f fun a i => fpWord (bf16.decode (if i % 2 = 1 then a.toNat / 2 ^ 16 else a.toNat % 2 ^ 16))) ∧
  (∀ f, Lane3 (.cvtE4m3x2F32 f) f fun a b d =>
    BitVec.ofNat 32 (encodeE4M3 (fp b) * 2 ^ 24 + encodeE4M3 (fp a) * 2 ^ 16 + d.toNat / 2 ^ 16)) ∧
  (∀ f, Lane3 (.cvtE5m2x2F32 f) f fun a b d =>
    BitVec.ofNat 32 (e5m2.encode (fp b) * 2 ^ 24 + e5m2.encode (fp a) * 2 ^ 16 + d.toNat / 2 ^ 16)) ∧
  (∀ f, LaneImm (.cvtF32E4m3 f) f fun a i => fpWord (decodeE4M3 (byteOf a (i % 4)))) ∧
  (∀ f, LaneImm (.cvtF32E5m2 f) f fun a i => fpWord (e5m2.decode (byteOf a (i % 4)))) ∧
  (∀ f : FmtA, PairWrites (.cvtF64F32 f) f.d.toNat fun g l => dpWord (fp (g.reg f.a.toNat l))) ∧
  (∀ f : FmtA, LaneWrites (.cvtF32F64 f) f.d.toNat fun _ g l => fpWord (dp (g.pair f.a.toNat l))) ∧
  (∀ f : FmtA, LaneWrites (.qfp4 f) f.d.toNat fun s g l =>
    let x (k : Nat) : Word := if (s.admitted g).getLsbD k then g.reg f.a.toNat k else 0
    let q := l / 8
    let scale := blockScale (amax ([x (8 * q), x (8 * q + 1), x (8 * q + 2), x (8 * q + 3), x (8 * q + 4), x (8 * q + 5),
      x (8 * q + 6), x (8 * q + 7)].map fp))
    BitVec.ofNat 32 (scale * 256 + quantCode (x l) scale)) ∧
  (∀ f, Lane1 (.dqfp4 f) f fun a => fpWord ((decodeE2M1 (a.toNat % 16)).mul (decodeE3M5 (byteOf a 1))))

/-- R192: compares write their relation into a predicate in the lanes that take part. -/
def Obligations.CompareResults : Prop :=
  (∀ f, Compare (.icmpEq f) f fun a b => a == b) ∧
  (∀ f, Compare (.icmpNe f) f fun a b => a != b) ∧
  (∀ f, Compare (.icmpLtS f) f fun a b => decide (a.toInt < b.toInt)) ∧
  (∀ f, Compare (.icmpLeS f) f fun a b => !decide (b.toInt < a.toInt)) ∧
  (∀ f, Compare (.icmpLtU f) f fun a b => decide (a.toNat < b.toNat)) ∧
  (∀ f, Compare (.icmpLeU f) f fun a b => !decide (b.toNat < a.toNat)) ∧
  (∀ f, Compare (.fcmpEq f) f fun a b => (fp a).eqv (fp b)) ∧
  (∀ f, Compare (.fcmpNe f) f fun a b => !(fp a).eqv (fp b)) ∧
  (∀ f, Compare (.fcmpLt f) f fun a b => (fp a).lt (fp b)) ∧
  (∀ f, Compare (.fcmpLe f) f fun a b => (fp a).lt (fp b) || (fp a).eqv (fp b)) ∧
  (∀ f, Compare (.fcmpUo f) f fun a b => decide (fp a = .nan) || decide (fp b = .nan))

/-- R193 to R197: predicate logic; GSET, which binds or unbinds one guard slot whichever lanes are active; predicates as the bits of
a word and back, and the masks of lanes by comparison with the lane. The shuffles copy the source register of another lane, which is
read whether or not it takes part; votes, MATCH and reductions combine the lanes that take part, and with none nothing is written. -/
def Obligations.PredicateResults : Prop :=
  (∀ f, Logic (.pand f) f fun a b => a && b) ∧
  (∀ f, Logic (.por f) f fun a b => a || b) ∧
  (∀ f, Logic (.pxor f) f fun a b => xor a b) ∧
  (∀ f, Logic (.pnot f) f fun a _ => !a) ∧
  (∀ (f : FmtB) (s : State) (g : Group), Issues (.gset f) s g → s.plainAdvance → Completes (.gset f) s fun g' =>
    (∀ n, Tab.find g'.guards n =
      if n = f.d.toNat then (if f.i.getLsbD 1 then none else some ⟨f.a.toNat, f.i.getLsbD 0⟩) else Tab.find g.guards n) ∧
    g'.vregs = g.vregs ∧ g'.uregs = g.uregs ∧ g'.preds = g.preds ∧ g'.pri = g.pri) ∧
  (∀ f : FmtB, LaneWrites (.p2v f) f.d.toNat fun _ g l =>
    maskOf ((List.range 32).filter fun k => decide (k < f.i.toNat) && g.pred (f.a.toNat + k) l)) ∧
  (∀ (f : FmtB) (s : State) (g : Group), Issues (.v2p f) s g → s.plainAdvance → Completes (.v2p f) s fun g' =>
    (∀ k l, k < f.i.toNat → l < 32 → g'.pred (f.d.toNat + k) l =
      if (s.admitted g).getLsbD l then (g.reg f.a.toNat l).getLsbD k else g.pred (f.d.toNat + k) l) ∧
    OnlyWrites g g' [] [] ((List.range f.i.toNat).map (f.d.toNat + ·))) ∧
  (∀ f : FmtB, LaneWrites (.lanemask f) f.d.toNat fun _ _ l =>
    maskOf ((List.range 32).filter fun k =>
      match f.i.toNat with
      | 0 => decide (k = l)
      | 1 => decide (k < l)
      | 2 => decide (k ≤ l)
      | 3 => decide (k > l)
      | _ => decide (k ≥ l))) ∧
  (∀ f : FmtA, LaneWrites (.shflIdx f) f.d.toNat fun _ g l => g.reg f.a.toNat ((g.reg f.b.toNat l).toNat % 32)) ∧
  (∀ f : FmtB, LaneWrites (.shflUp f) f.d.toNat fun _ g l =>
    let wd := 32 / 2 ^ (f.i.toNat / 32)
    g.reg f.a.toNat (if f.i.toNat % 32 ≤ l % wd then l - f.i.toNat % 32 else l)) ∧
  (∀ f : FmtB, LaneWrites (.shflDn f) f.d.toNat fun _ g l =>
    let wd := 32 / 2 ^ (f.i.toNat / 32)
    g.reg f.a.toNat (if l % wd + f.i.toNat % 32 < wd then l + f.i.toNat % 32 else l)) ∧
  (∀ f : FmtB, LaneWrites (.shflXor f) f.d.toNat fun _ g l =>
    let wd := 32 / 2 ^ (f.i.toNat / 32)
    let j := l ^^^ (f.i.toNat % 32)
    g.reg f.a.toNat (if j / wd = l / wd then j else l)) ∧
  (∀ f : FmtA, PredWrites (.voteAll f) f.d.toNat fun s g _ => (List.range 32).all fun k => !(s.admitted g).getLsbD k || g.pred f.a.toNat k) ∧
  (∀ f : FmtA, PredWrites (.voteAny f) f.d.toNat fun s g _ => (List.range 32).any fun k => (s.admitted g).getLsbD k && g.pred f.a.toNat k) ∧
  (∀ f : FmtA, LaneWrites (.voteBal f) f.d.toNat fun s g _ =>
    maskOf ((List.range 32).filter fun k => (s.admitted g).getLsbD k && g.pred f.a.toNat k)) ∧
  (∀ f : FmtA, LaneWrites (.matchLanes f) f.d.toNat fun s g l =>
    maskOf ((List.range 32).filter fun k => (s.admitted g).getLsbD k && g.reg f.a.toNat k == g.reg f.a.toNat l)) ∧
  (∀ f : FmtA, LaneWrites (.reduxAdd f) f.d.toNat fun s g _ =>
    BitVec.ofNat 32 (((lanesOf (s.admitted g)).map fun k => (g.reg f.a.toNat k).toNat).sum)) ∧
  (∀ f : FmtA, LaneWrites (.reduxMinS f) f.d.toNat fun s g _ =>
    BitVec.ofInt 32 (((lanesOf (s.admitted g)).map fun k => (g.reg f.a.toNat k).toInt).foldl min (2 ^ 31 - 1))) ∧
  (∀ f : FmtA, LaneWrites (.reduxMaxS f) f.d.toNat fun s g _ =>
    BitVec.ofInt 32 (((lanesOf (s.admitted g)).map fun k => (g.reg f.a.toNat k).toInt).foldl max (-2 ^ 31)))

/-- R198: the special registers; a read of TCOUNT captures the high word for TCOUNTH. That a privileged group reads COREID 0x7FF, and 0
in the registers of a team, its grid and NBV, is the model's choice (log 75). -/
def Obligations.SpecialRegisterResults : Prop :=
  (∀ f : FmtC, LaneWrites (.sreg f) f.d.toNat fun s g l =>
    let k := s.cur.grp
    let c := keyCore k
    let ofTeam (v : Team → Grid → Nat) : Word :=
      match s.teamOf k, s.gridOf k with
      | some t, some gr => BitVec.ofNat 32 (v t gr)
      | _, _ => 0
    let ofGrid (v : Nat → Nat) : Word := BitVec.ofNat 32 (((s.gridOf k).map fun gr => v gr.record).getD 0)
    match f.i.toNat with
    | 0x00 => BitVec.ofNat 32 l
    | 0x01 => BitVec.ofNat 32 (l / 8)
    | 0x02 => BitVec.ofNat 32 g.gid
    | 0x04 => ofTeam fun t gr => t.tix % bits gr.record 32 31
    | 0x05 => ofTeam fun t gr => t.tix / bits gr.record 32 31 % bits gr.record 64 16
    | 0x06 => ofTeam fun t gr => t.tix / (bits gr.record 32 31 * bits gr.record 64 16)
    | 0x08 => ofGrid fun r => bits r 96 10 + 1
    | 0x09 => ofGrid fun r => bits r 106 10 + 1
    | 0x0A => ofGrid fun r => bits r 116 10 + 1
    | 0x0C => ofGrid fun r => bits r 32 31
    | 0x0D => ofGrid fun r => bits r 64 16
    | 0x0E => ofGrid fun r => bits r 80 16
    | 0x10 => BitVec.ofNat 32 (if c < 2048 then c else 0x7FF)
    | 0x11 => BitVec.ofNat 32 (dieOfCore c)
    | 0x12 => BitVec.ofNat 32 (((s.gridOf k).map Grid.depth).getD 0)
    | 0x18 => s.cur.pc
    | 0x19 => s.cur.active
    | 0x1A => BitVec.ofNat 32 g.pri
    | 0x1B => BitVec.ofNat 32 (s.context (s.ctxOf k)).nbv
    | 0x20 => BitVec.ofNat 32 (s.core c).lt
    | 0x21 => (s.die (dieOfCore c)).tcount.extractLsb' 0 32
    | 0x22 => g.tcounth.getD ((s.die (dieOfCore c)).tcount.extractLsb' 32 32)
    | 0x23 => s.tcoff
    | 0x30 => ((s.slotOf k).map (BitVec.ofNat 32)).getD 0xFFFFFFFF
    | 0x31 => if (s.slotOf k).isSome then BitVec.ofNat 32 (((s.teamOf k).map Team.reqId).getD 0) else 0xFFFFFFFF
    | n => bltEntry (n - 0x28)) ∧
  (∀ (f : FmtC) (s : State) (g : Group), Issues (.sreg f) s g → s.plainAdvance → Completes (.sreg f) s fun g' =>
    g'.tcounth =
      if f.i.toNat = 0x21 then some ((s.die (dieOfCore (keyCore s.cur.grp))).tcount.extractLsb' 32 32) else g.tcounth)


/-- R172: a lane instruction leaves all but its own group's registers as it was: memory, line times, special registers, every
other group, and in its own group the counters, the failure record and whether it runs. -/
def Obligations.LaneWordsFrame : Prop :=
  ∀ i s g t, isLaneWord i = true → Issues i s g → s.inClause → exec i s = .next t →
    Untouched s.cur.grp s t ∧ ∀ g', t.group? s.cur.grp = some g' →
      g'.c1 = g.c1 ∧ g'.c2 = g.c2 ∧ g'.c3 = g.c3 ∧ g'.failed = g.failed ∧ g'.failBits = g.failBits ∧
      g'.block = g.block ∧ g'.suspension = g.suspension ∧ g'.exited = g.exited ∧
      PcsAre s g g' 0 fun _ => 0

/-! ### Control -/

/-- R176 and R207: NOP only advances; YIELD ends the turn; SETPRI sets the priority; SLEEP ends the turn and makes the group
not ready for min(a, 1,048,576) cycles, or acts as YIELD for 0. The last three act when the guard admits the lowest active lane. -/
def Obligations.TurnWords : Prop :=
  (∀ f s g, Issues (.nop f) s g → s.inClause → StepsTo (.nop f) s fun t g' =>
    OnlyWrites g g' [] [] [] ∧ Untouched s.cur.grp s t ∧ PcsAre s g g' 0 fun _ => 0) ∧
  (∀ f s g, Issues (.yield f) s g → s.inClause → s.cur.grp < 0x20000 → StepsTo (.yield f) s fun t g' =>
    OnlyWrites g g' [] [] [] ∧ Untouched s.cur.grp s t ∧ (PcsAre s g g' 0 fun _ => 0) ∧
    ((s.admitted g).getLsbD (lowestLane s.cur.active) = true → t.noTurn s.cur.grp)) ∧
  (∀ f s g, Issues (.setpri f) s g → s.inClause → StepsTo (.setpri f) s fun t g' =>
    g'.pri = (if (s.admitted g).getLsbD (lowestLane s.cur.active) then f.i.toNat else g.pri) ∧
    g'.vregs = g.vregs ∧ g'.uregs = g.uregs ∧ g'.preds = g.preds ∧ g'.guards = g.guards ∧
    Untouched s.cur.grp s t ∧ PcsAre s g g' 0 fun _ => 0) ∧
  (∀ f s g, Issues (.sleep f) s g → s.inClause → s.cur.grp < 0x20000 →
    (s.admitted g).getLsbD (lowestLane s.cur.active) = true → StepsTo (.sleep f) s fun t g' =>
      let n := min (g.reg f.a.toNat (lowestLane s.cur.active)).toNat 1048576
      g'.block = (if n = 0 then .none else .sleep (s.cycles (dieOfCore (keyCore s.cur.grp)) + n)) ∧
      t.noTurn s.cur.grp ∧ OnlyWrites g g' [] [] [] ∧ Untouched s.cur.grp s t ∧ PcsAre s g g' 0 fun _ => 0)

/-- R203 and R205: branches, calls and returns whose lanes all meet good headers. -/
def Obligations.BranchWords : Prop :=
  (∀ f : FmtE, Branches (.bra f) (fun s _ _ => (s.cur.pc + 4 * f.o.signExtend 32).toNat) false) ∧
  (∀ f : FmtA, Branches (.brx f) (fun _ g l => (g.reg f.a.toNat l).toNat) false) ∧
  (∀ f : FmtE, Branches (.call f) (fun s _ _ => (s.cur.pc + 4 * f.o.signExtend 32).toNat) true) ∧
  (∀ f : FmtA, Branches (.ret f) (fun _ g l => (g.reg f.a.toNat l).toNat) false)

/-- R207 and R208: EXIT ends the lanes that take part; a group whose last lane exits has exited and holds no turn. -/
def Obligations.ExitEndsLanes : Prop :=
  ∀ f s g, Issues (.exit f) s g → s.inClause → StepsTo (.exit f) s fun t g' =>
    (PcsAre s g g' (s.admitted g) fun _ => exitedPc) ∧ OnlyWrites g g' [] [] [] ∧
    (∀ a, memRead t.mem a = memRead s.mem a) ∧
    (g.privileged = false → s.cur.grp < 0x20000 → g'.allExited = true → g'.exited = true ∧ t.noTurn s.cur.grp) ∧
    (g'.allExited = false → g'.exited = false ∧ t.teams = s.teams)

/-- R214, R389, R390, R394 and R410: TRAP and BKPT suspend the group, with the lanes that take part standing at the word,
the other active lanes past it, and a record of the software trap. -/
def Obligations.TrapsSuspend : Prop :=
  let Traps (i : Instr) (code info0 : Nat) : Prop :=
    ∀ s g, Issues i s g → s.inClause → s.cur.grp < 0x20000 → s.admitted g ≠ 0 → StepsTo i s fun t g' =>
      SuspendedAs t s.cur.grp g' code (s.admitted g) s.cur.pc info0 0 ∧
      (PcsAre s g g' (s.admitted g) fun _ => s.cur.pc) ∧ OnlyWrites g g' [] [] []
  (∀ f : FmtC, Traps (.trap f) 0x0110 f.i.toNat) ∧ (∀ f : FmtA, Traps (.bkpt f) 0x0111 0)

/-- R400, R402 and R405: a word that fails its encoding check has no effect, whatever its guard; the group is suspended with
its active lanes at the word, the record holds the word and the reason, and nothing but what the suspension writes changes. Which of
several reasons is shown is a free choice of the model (log 17). -/
def Obligations.IllegalInstructionTrap : Prop :=
  ∀ i s g r, isWord i = true → Presented i s g → s.cur.grp < 0x20000 → issueCheck s.freeCtr i s.cur g = some r →
    StepsTo i s fun t g' =>
      SuspendedAs t s.cur.grp g' 0x0103 s.cur.active s.cur.pc s.cur.word.toNat (reasonInfo r % 2 ^ 64) ∧
      OnlySuspends s t s.cur.grp g g'

/-- R144, R148, R398, R403 to R405 and R418: what is met where a header should stand, and a fault of a handler. A branch, call or
return of which a lane's target fails, the lower lanes' targets being good, suspends its group at the word with every active lane and
changes nothing else: executed-data where word 0 of the target's block is a DATA header, else illegal-header with the first reason of
R403's table. That a DATA header further on raises executed-data too is the model's choice (log 100), and so is what happens where the
target's block cannot be fetched: the fetch is reported and the word held, with nothing of it done (log 21). Lanes that fall through the
last word of a clause onto such a header stand at it, and are the record's. An illegal instruction of a privileged group starts its
handler anew on a record of 0x0120; that the lane stands after MCENTRY's header, yet unseen, is the model's choice (log 99). The record
in hand comes again; when a record that came again faults its handler, its group's lanes end and it is done with. -/
def Obligations.HeaderAndHandlerFaults : Prop :=
  let reason (h H lack : Nat) : Nat :=
    if H % 4 ≠ 0 ∨ h / 2 ^ 29 ≠ 7 then lack
    else if h / 2 ^ 26 % 8 = 5 ∨ h / 2 ^ 26 % 8 = 6 then 2
    else if h / 2 ^ 22 % 16 = 0 then 3
    else if h % 2 ^ 15 ≠ 0 then 4
    else if 15 < H % 64 / 4 + h / 2 ^ 22 % 16 then 5 else 0
  let data (h : Nat) : Prop := h / 2 ^ 29 = 7 ∧ h / 2 ^ 26 % 8 = 7
  let Fails (s : State) (H code info0 info1 : Nat) : Prop := H < 2 ^ 32 ∧ ∃ h0, s.codeHit s.cur.grp (H / 64 * 64) h0 ∧
    ((data h0.toNat ∧ code = 0x0102 ∧ info0 = h0.toNat + 2 ^ 32 * (H / 64 * 64) ∧ info1 = 1) ∨
     (¬ data h0.toNat ∧ ∃ h, s.codeHit s.cur.grp (H / 4 * 4) h ∧
      ((data h.toNat ∧ H % 4 = 0 ∧ code = 0x0102 ∧ info0 = h.toNat + 2 ^ 32 * (H / 64 * 64) ∧ info1 = 1) ∨
       ((data h.toNat → H % 4 ≠ 0) ∧ reason h.toNat H 7 ≠ 0 ∧ code = 0x0101 ∧ info0 = h.toNat + 2 ^ 32 * H ∧
        info1 = reason h.toNat H 7))))
  let Meets (s : State) (g : Group) (target : State → Group → Nat → Nat) (l : Nat) : Prop :=
    s.cur.grp < 0x20000 ∧ g.fetchWait = [] ∧ ∃ pre post, lanesOf (s.admitted g) = pre ++ l :: post ∧
      ∀ p ∈ pre, s.goodTarget s.cur.grp (target s g p)
  let Forms (P : Instr → (State → Group → Nat → Nat) → Prop) : Prop :=
    (∀ f : FmtE, P (.bra f) fun s _ _ => (s.cur.pc + 4 * f.o.signExtend 32).toNat) ∧
    (∀ f : FmtA, P (.brx f) fun _ g l => (g.reg f.a.toNat l).toNat) ∧
    (∀ f : FmtE, P (.call f) fun s _ _ => (s.cur.pc + 4 * f.o.signExtend 32).toNat) ∧
    (∀ f : FmtA, P (.ret f) fun _ g l => (g.reg f.a.toNat l).toNat)
  (Forms fun i target => ∀ s g l code info0 info1, Issues i s g → Meets s g target l → Fails s (target s g l) code info0 info1 →
    StepsTo i s fun t g' => SuspendedAs t s.cur.grp g' code s.cur.active s.cur.pc info0 info1 ∧ OnlySuspends s t s.cur.grp g g') ∧
  (Forms fun i target => ∀ s g l e code, Issues i s g → Meets s g target l →
    let k := s.cur.grp
    let blk := target s g l / 64 * 64
    let va := s.codeVa (s.spaceOf k) blk
    s.frozenAt (s.asidOf (s.spaceOf k)) va = false →
    (tlbFind (s.core (keyCore k)).tlb (s.asidOf (s.spaceOf k)) va).filter (·.serves .fetch) = some e →
    permFault e .fetch (s.regionOf (s.spaceOf k) va) = some code → disposition code = 1 →
    StepsTo i s fun t g' => g' = { g with fetchWait := [blk] } ∧ t.cur.held = true ∧ t.accesses = s.accesses ∧ t.cmds = s.cmds ∧
      ∀ j, j ≠ k → t.group? j = s.group? j) ∧
  (∀ f s g h, Issues (.nop f) s g → s.cur.grp < 0x20000 → s.cur.pc.toNat % 4 = 0 → ¬ s.midClause →
    let H := s.cur.pc + 4
    s.codeHit s.cur.grp H.toNat h →
    let Stands (t : State) (g' : Group) (code info0 info1 : Nat) : Prop :=
      SuspendedAs t s.cur.grp g' code s.cur.active H info0 info1 ∧ (PcsAre s g g' 0 fun _ => 0) ∧ OnlyWrites g g' [] [] []
    (data h.toNat → StepsTo (.nop f) s fun t g' => Stands t g' 0x0102 (h.toNat + 2 ^ 32 * (H.toNat / 64 * 64)) 0) ∧
    (¬ data h.toNat → reason h.toNat H.toNat 1 ≠ 0 →
      StepsTo (.nop f) s fun t g' => Stands t g' 0x0101 (h.toNat + 2 ^ 32 * H.toNat) (reason h.toNat H.toNat 1))) ∧
  (∀ i s g r n b, isWord i = true → Presented i s g → s.cur.grp = 0x20000 + n → issueCheck s.freeCtr i s.cur g = some r →
    (s.manager n).handling = some b →
    let Restarts (t : State) (g' : Group) : Prop :=
      let H := s.csr.mcentry.toNat / 64 * 64
      g'.pcs = [BitVec.ofNat 32 (H + 4)] ∧ g'.unseen = [⟨H, 1⟩] ∧ g'.block = .none ∧ (t.manager n).halted = false ∧
      ∃ R, (∀ v, v < 16 → g'.vreg v 0 = BitVec.ofNat 32 (R / 2 ^ (32 * v))) ∧ bits R 80 16 = 0x0120 ∧ bits R 111 11 = 0x7FF ∧
        bits R 109 2 = 0 ∧ bits R 105 4 = 0 ∧ bits R 122 6 = bits b.record 122 6 ∧ bits R 224 32 = s.cur.pc.toNat ∧
        bits R 384 64 = 0x0103 ∧ bits R 448 64 = (bits b.record 80 16 + n * 2 ^ 32)
    n < 16 →
    ((s.manager n).again = none → StepsTo i s fun t g' =>
      Restarts t g' ∧ (t.manager n).again = some b ∧ (t.manager n).inFault = true ∧ ∀ j, j ≠ s.cur.grp → t.group? j = s.group? j) ∧
    (∀ a k q, (s.manager n).again = some a → s.recordedKey a = some k → s.group? k = some q → k < 0x20000 → q.privileged = false →
      q.exited = false →
      (∀ tm, s.teamOf k = some tm → tm.slot = none) → StepsTo i s fun t g' =>
        Restarts t g' ∧ (t.manager n).again = none ∧ (t.manager n).handling = none ∧ (t.manager n).inFault = true ∧
        ∃ q', t.group? k = some q' ∧ q'.suspension = none ∧ q'.cancelled = true ∧ ∀ p ∈ q'.pcs, p = exitedPc))

/-- R163, R277 and R405: a word that no instruction assigns takes the illegal-instruction trap with the reason of its kind; so
does a word of format SYS in a group that is not privileged, with reason 10. -/
def Obligations.ReservedAndPrivilegedWords : Prop :=
  let Illegal (i : Instr) (s : State) (g : Group) (reason : Nat) : Prop := StepsTo i s fun t g' =>
    SuspendedAs t s.cur.grp g' 0x0103 s.cur.active s.cur.pc s.cur.word.toNat reason ∧ g'.pcs = g.pcs
  (∀ w s g, Presented (.reservedOpcode w) s g → s.cur.grp < 0x20000 → s.cur.word = w → decodeWord w = .reservedOpcode w →
    (classAdmits (hdrClass s.cur.head) (w.toNat / 2 ^ 24) = true ∨ opcodeReserved (w.toNat / 2 ^ 24) = true ∨ 0xE0 ≤ w.toNat / 2 ^ 24) →
    Illegal (.reservedOpcode w) s g (reservedReason w)) ∧
  (∀ i s g, Presented i s g → s.cur.grp < 0x20000 → g.privileged = false → hdrClass s.cur.head = 4 →
    s.cur.word.toNat / 2 ^ 24 = 0xDC → Opnd.sys ∈ opnds i → (opnds i).flatMap (Opnd.faults g.regs true) = [] →
    Illegal i s g 10)

/-! ### Memory -/

/-- R158, R159, R215, R216 and R221: a global load, store or atomic whose lanes translate posts one access for each lane that
takes part, in ascending lane order, and counts on its counter or its lookahead; the lanes go on at once. The data of a store
or atomic is read at issue. With no lane taking part nothing is posted. -/
def Obligations.MemoryWordsPost : Prop :=
  let Posts (i : Instr) (kind : AccessKind) (bytes words : Nat) (plain : Bool) (f : FmtD) : Prop :=
    ∀ s g, Issues i s g → s.inClause → s.latched i → (s.freeEntry (partOf s.cur.grp)).isSome = true →
      g.canCount f.c.toNat = true →
      let k := s.cur.grp
      let m := s.admitted g
      let va (l : Nat) := g.regN f.a.toNat l 2
      (m = 0 → StepsTo i s fun t g' => Quiet s t g g' ∧ t.accesses = s.accesses ∧ t.ops = s.ops) ∧
      ∀ pa : Nat → Nat, m ≠ 0 → s.hasLog k = false →
        (∀ l ∈ lanesOf m, canonical (va l) = true ∧ va l % bytes = 0 ∧ s.dataHit k (va l) kind (pa l)) →
        StepsTo i s fun t g' =>
          Tab.find t.ops s.idCtr = some ⟨k, f.c.toNat, m, s.cur.word, s.cur.pc⟩ ∧
          (∀ l ∈ lanesOf m, ∃ x, Tab.find t.accesses (s.idCtr + 1 + (lanesOf m).idxOf l) = some x ∧
            x.op = s.idCtr ∧ x.grp = k ∧ x.lane = l ∧ x.kind = kind ∧ x.va = va l ∧ x.pa = pa l ∧ x.size = bytes ∧
            (x.dom, x.control) = s.regionOf (s.spaceOf k) (va l) ∧ x.reg = f.t.toNat ∧ x.status = .waiting ∧ x.dead = [] ∧
            x.rlx = (plain && f.o.getLsbD 0) ∧ x.acq = (!plain && kind = .load) ∧ x.rel = (!plain && kind = .store) ∧
            (kind ≠ .load → x.data = g.regN f.t.toNat l words % 2 ^ (8 * bytes)) ∧
            (i = .atomCas f → x.cmp = (g.reg (f.t.toNat + 1) l).toNat)) ∧
          (∀ n, n < s.idCtr ∨ s.idCtr + 1 + (lanesOf m).length ≤ n → Tab.find t.accesses n = Tab.find s.accesses n) ∧
          Counts g g' s.idCtr f.c.toNat f.la.toNat ∧ Quiet s t g g' ∧ Untouched k s t
  (∀ f, Posts (.ldUb f) .load 1 1 true f) ∧ (∀ f, Posts (.ldSb f) .load 1 1 true f) ∧
  (∀ f, Posts (.ldUh f) .load 2 1 true f) ∧ (∀ f, Posts (.ldSh f) .load 2 1 true f) ∧
  (∀ f, Posts (.ldW f) .load 4 1 true f) ∧ (∀ f, Posts (.ldD f) .load 8 2 true f) ∧ (∀ f, Posts (.ldQ f) .load 16 4 true f) ∧
  (∀ f, Posts (.stB f) .store 1 1 true f) ∧ (∀ f, Posts (.stH f) .store 2 1 true f) ∧
  (∀ f, Posts (.stW f) .store 4 1 true f) ∧ (∀ f, Posts (.stD f) .store 8 2 true f) ∧ (∀ f, Posts (.stQ f) .store 16 4 true f) ∧
  (∀ f, Posts (.ldaW f) .load 4 1 false f) ∧ (∀ f, Posts (.ldaD f) .load 8 2 false f) ∧
  (∀ f, Posts (.stlW f) .store 4 1 false f) ∧ (∀ f, Posts (.stlD f) .store 8 2 false f) ∧
  (∀ f, Posts (.atomAdd f) .atomic 4 1 true f) ∧ (∀ f, Posts (.atomAdd64 f) .atomic 8 2 true f) ∧
  (∀ f, Posts (.atomMinS f) .atomic 4 1 true f) ∧ (∀ f, Posts (.atomMaxS f) .atomic 4 1 true f) ∧
  (∀ f, Posts (.atomAnd f) .atomic 4 1 true f) ∧ (∀ f, Posts (.atomOr f) .atomic 4 1 true f) ∧
  (∀ f, Posts (.atomXchg f) .atomic 4 1 true f) ∧ (∀ f, Posts (.atomCas f) .atomic 4 1 true f) ∧
  (∀ f, Posts (.atomFadd f) .atomic 4 1 true f)

/-- R62, R215, R400, R402, R407 and R412: a memory word of which a lane's address is not canonical, not a multiple of the
access size, or outside the scratchpad windows suspends the group with its active lanes at the word, and nothing but what the
suspension writes changes; the canonical check comes first. That information 1 of a non-canonical address shows level 0 is the model's
choice (log 74). -/
def Obligations.MemoryWordTraps : Prop :=
  let Traps (i : Instr) (s : State) (g : Group) (code addr mask info1 : Nat) : Prop :=
    StepsTo i s fun t g' =>
      SuspendedAs t s.cur.grp g' code s.cur.active s.cur.pc mask info1 ∧
      (∃ z, g'.suspension = some z ∧ bits z.record 320 64 = addr) ∧ OnlySuspends s t s.cur.grp g g'
  let Global (i : Instr) (kind bytes : Nat) (f : FmtD) : Prop :=
    ∀ s g, Issues i s g → s.cur.grp < 0x20000 →
      let va (l : Nat) := g.regN f.a.toNat l 2
      let nc := (lanesOf (s.admitted g)).filter fun l => !canonical (va l)
      let mis := (lanesOf (s.admitted g)).filter fun l => va l % bytes ≠ 0
      (∀ l rest, nc = l :: rest → Traps i s g 0x0204 (va l) (maskOf nc).toNat kind) ∧
      (∀ l rest, nc = [] → mis = l :: rest → Traps i s g 0x0104 (va l) (maskOf mis).toNat bytes)
  let Scratch (i : Instr) (store : Bool) (bytes : Nat) (f : FmtDS) : Prop :=
    ∀ s g, Issues i s g → s.cur.grp < 0x20000 →
      let e (l : Nat) := (g.reg f.a.toNat l).toNat + f.off.toNat * bytes
      let mis := (lanesOf (s.admitted g)).filter fun l => e l % bytes ≠ 0
      let out := (lanesOf (s.admitted g)).filter fun l => s.spadCause s.cur.grp (e l) bytes store ≠ 0
      (∀ l rest, mis = l :: rest → Traps i s g 0x0104 (e l) (maskOf mis).toNat (bytes + 256)) ∧
      (∀ l rest, mis = [] → out = l :: rest →
        Traps i s g 0x0105 (e l) (maskOf out).toNat (bytes + 256 * s.spadCause s.cur.grp (e l) bytes store))
  (∀ f, Global (.ldUb f) 0 1 f) ∧ (∀ f, Global (.ldSb f) 0 1 f) ∧ (∀ f, Global (.ldUh f) 0 2 f) ∧
  (∀ f, Global (.ldSh f) 0 2 f) ∧ (∀ f, Global (.ldW f) 0 4 f) ∧ (∀ f, Global (.ldD f) 0 8 f) ∧ (∀ f, Global (.ldQ f) 0 16 f) ∧
  (∀ f, Global (.stB f) 1 1 f) ∧ (∀ f, Global (.stH f) 1 2 f) ∧ (∀ f, Global (.stW f) 1 4 f) ∧ (∀ f, Global (.stD f) 1 8 f) ∧
  (∀ f, Global (.stQ f) 1 16 f) ∧ (∀ f, Global (.ldaW f) 0 4 f) ∧ (∀ f, Global (.ldaD f) 0 8 f) ∧
  (∀ f, Global (.stlW f) 1 4 f) ∧ (∀ f, Global (.stlD f) 1 8 f) ∧ (∀ f, Global (.atomAdd f) 2 4 f) ∧
  (∀ f, Global (.atomAdd64 f) 2 8 f) ∧ (∀ f, Global (.atomMinS f) 2 4 f) ∧ (∀ f, Global (.atomMaxS f) 2 4 f) ∧
  (∀ f, Global (.atomAnd f) 2 4 f) ∧ (∀ f, Global (.atomOr f) 2 4 f) ∧ (∀ f, Global (.atomXchg f) 2 4 f) ∧
  (∀ f, Global (.atomCas f) 2 4 f) ∧ (∀ f, Global (.atomFadd f) 2 4 f) ∧
  (∀ f, Scratch (.ldsW f) false 4 f) ∧ (∀ f, Scratch (.ldsD f) false 8 f) ∧ (∀ f, Scratch (.ldsQ f) false 16 f) ∧
  (∀ f, Scratch (.stsW f) true 4 f) ∧ (∀ f, Scratch (.stsD f) true 8 f) ∧ (∀ f, Scratch (.stsQ f) true 16 f)

/-- R282, R412, R413, R415 to R417 and R426: lane page faults. A global load, store or atomic whose lane F is the lowest that an entry of
its core's TLB refuses is split there: the lanes below F are posted, F and every lane above it stand in one free entry of the operand
log with the operands that they had at issue, the instruction counts as issued, its completion stays pending, its group goes on, and the
record names the held lanes, F's address and level, the failing lanes, the entry and the kind. ERET by the handler that names the running
group replays the entry: a lane whose pending bit the handler has cleared is dropped, and a store or atomic then counts as failed; a
load's supplied words are written; an access whose translation now holds is made with the operands of the entry; and one that is
refused again leaves the entry waiting under a new record. -/
def Obligations.PageFaultsAndReplay : Prop :=
  let Splits (i : Instr) (kind : AccessKind) (bytes words : Nat) (f : FmtD) : Prop :=
    ∀ s g (pa : Nat → Nat) fl entry code n, Issues i s g → s.inClause → s.latched i → s.cur.grp < 0x20000 →
      let k := s.cur.grp
      let m := s.admitted g
      let held := (lanesOf m).filter fun l => fl ≤ l
      let va (l : Nat) := g.regN f.a.toNat l 2
      let kindNo := match kind with
        | .store => 1
        | .atomic => 2
        | _ => 0
      s.freeEntry (partOf k) = some n → g.canCount f.c.toNat = true → s.hasLog k = false → fl ∈ lanesOf m →
      (∀ l ∈ lanesOf m, canonical (va l) = true ∧ va l % bytes = 0) →
      (∀ l ∈ lanesOf m, l < fl → s.dataHit k (va l) kind (pa l)) →
      s.frozenAt (s.asidOf (s.spaceOf k)) (va fl) = false →
      (tlbFind (s.core (keyCore k)).tlb (s.asidOf (s.spaceOf k)) (va fl)).filter (·.serves kind) = some entry →
      permFault entry kind (s.regionOf (s.spaceOf k) (va fl)) = some code → disposition code = 1 →
      StepsTo i s fun t g' =>
        Tab.find t.ops s.idCtr = some ⟨k, f.c.toNat, m, s.cur.word, s.cur.pc⟩ ∧
        (∀ l ∈ lanesOf m, l < fl → ∃ x, Tab.find t.accesses (s.idCtr + 1 + (lanesOf m).idxOf l) = some x ∧ x.op = s.idCtr ∧
          x.grp = k ∧ x.lane = l ∧ x.va = va l ∧ x.pa = pa l ∧ x.status = .waiting) ∧
        (∀ x ∈ t.accesses, x.2.op = s.idCtr → fl ≤ x.2.lane → x ∈ s.accesses) ∧
        (∃ e, Tab.find (t.part (partOf k)).log n = some e ∧ e.grp = k ∧ e.op = s.idCtr ∧ e.word = s.cur.word ∧ e.pc = s.cur.pc ∧
          e.code = code ∧ e.seq = (s.context (s.ctxOf k)).frhead % 2 ^ 32 ∧ e.replaying = false ∧
          (∀ l, l ∉ held → Tab.find e.lanes l = none) ∧
          ∀ l ∈ held, ∃ ws, Tab.find e.lanes l = some ws ∧ ws.length = 7 ∧ ws[4]? = some (BitVec.ofNat 32 (va l)) ∧
            ws[5]? = some (BitVec.ofNat 32 (va l / 2 ^ 32)) ∧ (ws[6]? = some 1 ∨ ws[6]? = some 3) ∧ (l = fl → ws[6]? = some 3) ∧
            (kind ≠ .load → ∀ j, j < 4 → (i = .atomCas f → j = 0) →
              ws[j]? = some (BitVec.ofNat 32 (g.regN f.t.toNat l words % 2 ^ (8 * bytes) / 2 ^ (32 * j)))) ∧
            (i = .atomCas f → ws[1]? = some (g.reg (f.t.toNat + 1) l))) ∧
        (let o := keyCore k % 2 ^ 11 / 128
         (s.manager o).queue.length < 64 → (s.manager o).waiting = [] → ∃ d, (t.manager o).queue = (s.manager o).queue ++ [d] ∧
          bits d.record 80 16 = code % 2 ^ 16 ∧ bits d.record 72 4 = 1 ∧ bits d.record 192 32 = (maskOf held).toNat ∧
          bits d.record 224 32 = s.cur.pc.toNat ∧ bits d.record 320 64 = va fl % 2 ^ 64 ∧ bits d.record 416 6 = n ∧
          (∀ l, l < fl → bits d.record (384 + l) 1 = 0) ∧ bits d.record (384 + fl) 1 = 1 ∧
          bits d.record 448 4 = kindNo ∧ bits d.record 452 3 = entry.level % 8) ∧
        g'.suspension = none ∧ Counts g g' s.idCtr f.c.toNat f.la.toNat ∧ OnlyWrites g g' [] [] [] ∧ PcsAre s g g' 0 (fun _ => 0)
  let Replays (f : FmtSys) (s : State) (g : Group) (k : Nat) (q : Group) (i : Nat) (e : LogEntry) (l : Nat) (ws : List Word)
      (o : MemOp) : Prop :=
    Issues (.eret f) s g ∧ s.inClause ∧ s.admitted g ≠ 0 ∧ 0x20000 ≤ s.cur.grp ∧ k < 0x20000 ∧
      (s.manager (s.cur.grp - 0x20000)).winsel = k ∧ sectorOfCore (keyCore k) = s.cur.grp - 0x20000 ∧ s.group? k = some q ∧
      q.suspension = none ∧ q.fetchWait = [] ∧ Tab.find (s.part (partOf k)).log i = some e ∧ s.logOf k = [(i, e)] ∧ e.grp = k ∧
      e.lanes = [(l, ws)] ∧ l < 32 ∧ ws.length = 7 ∧ Tab.find s.ops e.op = some o ∧ o.grp = k ∧ o.left = BitVec.ofNat 32 (2 ^ l) ∧
      (∀ y ∈ s.cmds, y.2.grp = k → y.2.skipped = []) ∧ (∀ z ∈ s.quads, ∀ b ∈ z.2.board, b.2.grp = k → b.2.held = false)
  let word (ws : List Word) (n : Nat) : Word := (ws[n]?).getD 0
  let global (e : LogEntry) : Prop :=
    let op := e.word.toNat / 2 ^ 24
    (0xA0 ≤ op ∧ op ≤ 0xAF) ∨ (0xB6 ≤ op ∧ op ≤ 0xBE)
  let Ends (s t : State) (k i : Nat) (e : LogEntry) (o : MemOp) (q q' : Group) : Prop :=
    Tab.find (t.part (partOf k)).log i = none ∧ Tab.find t.ops e.op = none ∧ t.accesses = s.accesses ∧
      (1 ≤ o.c → o.c ≤ 3 → q'.counter o.c = q.counter o.c - 1) ∧ (o.c = 0 → q'.holds = q.holds.filter fun h => h.op ≠ e.op)
  (∀ f, Splits (.ldUb f) .load 1 1 f) ∧ (∀ f, Splits (.ldSb f) .load 1 1 f) ∧
  (∀ f, Splits (.ldUh f) .load 2 1 f) ∧ (∀ f, Splits (.ldSh f) .load 2 1 f) ∧
  (∀ f, Splits (.ldW f) .load 4 1 f) ∧ (∀ f, Splits (.ldD f) .load 8 2 f) ∧ (∀ f, Splits (.ldQ f) .load 16 4 f) ∧
  (∀ f, Splits (.stB f) .store 1 1 f) ∧ (∀ f, Splits (.stH f) .store 2 1 f) ∧
  (∀ f, Splits (.stW f) .store 4 1 f) ∧ (∀ f, Splits (.stD f) .store 8 2 f) ∧ (∀ f, Splits (.stQ f) .store 16 4 f) ∧
  (∀ f, Splits (.ldaW f) .load 4 1 f) ∧ (∀ f, Splits (.ldaD f) .load 8 2 f) ∧
  (∀ f, Splits (.stlW f) .store 4 1 f) ∧ (∀ f, Splits (.stlD f) .store 8 2 f) ∧
  (∀ f, Splits (.atomAdd f) .atomic 4 1 f) ∧ (∀ f, Splits (.atomAdd64 f) .atomic 8 2 f) ∧
  (∀ f, Splits (.atomMinS f) .atomic 4 1 f) ∧ (∀ f, Splits (.atomMaxS f) .atomic 4 1 f) ∧
  (∀ f, Splits (.atomAnd f) .atomic 4 1 f) ∧ (∀ f, Splits (.atomOr f) .atomic 4 1 f) ∧
  (∀ f, Splits (.atomXchg f) .atomic 4 1 f) ∧ (∀ f, Splits (.atomCas f) .atomic 4 1 f) ∧
  (∀ f, Splits (.atomFadd f) .atomic 4 1 f) ∧
  (∀ f s g k q i e l ws o, Replays f s g k q i e l ws o → global e →
    let kind := memKind (e.word.toNat / 2 ^ 24)
    let va := (word ws 4).toNat + 2 ^ 32 * (word ws 5).toNat
    let flags := (word ws 6).toNat
    let words := memWords (e.word.toNat / 2 ^ 24)
    let t0 := e.word.toNat / 2 ^ 14 % 2 ^ 7
    (flags % 2 = 0 → StepsTo (.eret f) s fun t _ => ∃ q', t.group? k = some q' ∧ Ends s t k i e o q q' ∧ OnlyWrites q q' [] [] [] ∧
      (kind ≠ .load → q'.failed = min 255 (q.failed + 1) ∧ (e.code = 0x0401 → q'.failBits = q.failBits ||| 1) ∧
        (e.code = 0x0402 → q'.failBits = q.failBits ||| 2) ∧ (e.code = 0x0403 → q'.failBits = q.failBits ||| 4)) ∧
      (kind = .load → q'.failed = q.failed ∧ q'.failBits = q.failBits)) ∧
    (flags % 2 = 1 → flags / 4 % 2 = 1 → kind = .load → StepsTo (.eret f) s fun t _ =>
      ∃ q', t.group? k = some q' ∧ Ends s t k i e o q q' ∧ OnlyWrites q q' ((List.range words).map (t0 + ·)) [] [] ∧
        ∀ j, j < words → ∀ l', q'.vreg (t0 + j) l' =
          if l' = l ∧ (l, t0 + j) ∉ e.dead then word ws j else q.vreg (t0 + j) l') ∧
    (∀ pa, flags % 2 = 1 → flags / 4 % 2 = 0 → s.inFlight e.op l = false → s.dataHit k va kind pa →
      StepsTo (.eret f) s fun t _ => (∃ q', t.group? k = some q' ∧ OnlyWrites q q' [] [] [] ∧ q'.holds = q.holds) ∧
        Tab.find t.ops e.op = some o ∧ (∃ e', Tab.find (t.part (partOf k)).log i = some e' ∧ e'.replaying = true ∧ e'.lanes = e.lanes) ∧
        ∃ x, Tab.find t.accesses s.idCtr = some x ∧ x.op = e.op ∧ x.grp = k ∧ x.lane = l ∧ x.kind = kind ∧ x.va = va ∧ x.pa = pa ∧
          x.size = memSize (e.word.toNat / 2 ^ 24) ∧ x.reg = t0 ∧ x.status = .waiting ∧
          (e.word.toNat / 2 ^ 24 = 0xBD → x.data = (word ws 0).toNat ∧ x.cmp = (word ws 1).toNat)) ∧
    (∀ entry code, flags % 2 = 1 → flags / 4 % 2 = 0 → s.inFlight e.op l = false → canonical va = true →
      s.frozenAt (s.asidOf (s.spaceOf k)) va = false →
      (tlbFind (s.core (keyCore k)).tlb (s.asidOf (s.spaceOf k)) va).filter (·.serves kind) = some entry →
      permFault entry kind (s.regionOf (s.spaceOf k) va) = some code → disposition code = 1 →
      StepsTo (.eret f) s fun t _ => (∃ q', t.group? k = some q' ∧ OnlyWrites q q' [] [] [] ∧ q'.suspension = none) ∧
        Tab.find t.ops e.op = some o ∧ t.accesses = s.accesses ∧
        ∃ e', Tab.find (t.part (partOf k)).log i = some e' ∧ e'.code = code ∧
          e'.seq = (s.context (s.ctxOf k)).frhead % 2 ^ 32 ∧ e'.replaying = false ∧
          ∃ ws', e'.lanes = [(l, ws')] ∧ ws'[6]? = some 3 ∧ ∀ j, j < 6 → ws'[j]? = ws[j]?))

/-- R74, R75, R219 and R220: a scratchpad load writes t in its lanes from the bytes at e′; a scratchpad store writes the bytes
at e′ of its team's own allocation, the highest lane last, and no others. Nothing waits in the operand log. -/
def Obligations.ScratchpadWords : Prop :=
  let sw (f : FmtDS) (e : Nat) : Nat :=
    if f.sw = 0 then e else e - bits e 4 3 * 16 + Nat.xor (bits e 4 3) (bits e (f.sw.toNat + 6) 3) * 16
  let Ready (i : Instr) (s : State) (g : Group) (f : FmtDS) (tm : Team) (store : Bool) (bytes : Nat) : Prop :=
    Issues i s g ∧ s.inClause ∧ s.teamOf s.cur.grp = some tm ∧ (s.freeEntry (partOf s.cur.grp)).isSome = true ∧
      s.hasLog s.cur.grp = false ∧ (∀ x ∈ s.accesses, x.2.grp = s.cur.grp → x.2.rlx = true) ∧ g.fences = [] ∧
      ∀ l ∈ lanesOf (s.admitted g), ((g.reg f.a.toNat l).toNat + f.off.toNat * bytes) % bytes = 0 ∧
        s.spadCause s.cur.grp ((g.reg f.a.toNat l).toNat + f.off.toNat * bytes) bytes store = 0
  let Loads (i : Instr) (bytes words : Nat) (f : FmtDS) : Prop :=
    ∀ s g tm, Ready i s g f tm false bytes → StepsTo i s fun t g' =>
      let v (l : Nat) := s.spadLE tm (s.ctxOf s.cur.grp) (sw f ((g.reg f.a.toNat l).toNat + f.off.toNat * bytes)) bytes
      (∀ j l, j < words → l < 32 → g'.vreg (f.t.toNat + j) l =
        if (s.admitted g).getLsbD l then BitVec.ofNat 32 (v l / 2 ^ (32 * j)) else g.vreg (f.t.toNat + j) l) ∧
      OnlyWrites g g' ((List.range words).map (f.t.toNat + ·)) [] [] ∧ (PcsAre s g g' 0 fun _ => 0) ∧ Untouched s.cur.grp s t
  let Stores (i : Instr) (bytes words : Nat) (f : FmtDS) : Prop :=
    ∀ s g tm, Ready i s g f tm true bytes →
      let e (l : Nat) := (g.reg f.a.toNat l).toNat + f.off.toNat * bytes
      (∀ l ∈ lanesOf (s.admitted g), e l + bytes ≤ tm.scratchSize ∧ e l + bytes ≤ 0x200000) → StepsTo i s fun t g' =>
        (∃ tm', t.team? g.team = some tm' ∧ { tm' with scratch := [] } = { tm with scratch := [] } ∧ ∀ a, a < 0x200000 →
          t.spadByte tm' (s.ctxOf s.cur.grp) a =
            match (lanesOf (s.admitted g)).reverse.find? fun l => decide (sw f (e l) ≤ a) && decide (a < sw f (e l) + bytes) with
            | some l => BitVec.ofNat 8 (g.regN f.t.toNat l words / 256 ^ (a - sw f (e l)))
            | none => s.spadByte tm (s.ctxOf s.cur.grp) a) ∧
        (∀ j, j ≠ g.team → t.team? j = s.team? j) ∧ Quiet s t g g'
  (∀ f, Loads (.ldsW f) 4 1 f) ∧ (∀ f, Loads (.ldsD f) 8 2 f) ∧ (∀ f, Loads (.ldsQ f) 16 4 f) ∧
  (∀ f, Stores (.stsW f) 4 1 f) ∧ (∀ f, Stores (.stsD f) 8 2 f) ∧ (∀ f, Stores (.stsQ f) 16 4 f)

/-- R181: LDK writes d in the lanes that take part with the code word at w(o + 4 × sext(imm14, 32)), when its address
translates and its line can be read. -/
def Obligations.LdkReadsCode : Prop :=
  ∀ (f : FmtC) s g pa, Issues (.ldk f) s g → s.inClause → s.admitted g ≠ 0 →
    s.dataHit s.cur.grp (s.codeVa (s.spaceOf s.cur.grp) (s.cur.pc + 4 * f.i.signExtend 32).toNat) .ldk pa →
    s.spanFault pa 4 false = none → StepsTo (.ldk f) s fun t g' =>
      (∀ l, l < 32 → g'.vreg f.d.toNat l =
        if (s.admitted g).getLsbD l then BitVec.ofNat 32 (s.peekLE pa 4) else g.vreg f.d.toNat l) ∧
      OnlyWrites g g' [f.d.toNat] [] [] ∧ (PcsAre s g g' 0 fun _ => 0) ∧ Untouched s.cur.grp s t

/-- R99, R112, R114, R222, R223 and R224: once every access of the group has been performed, FENCE writes the status word and
clears the failure record; a full fence leaves no race that is over, and another fence ends none; with the widening bit FENCE
raises the pins of its context that are narrower than its domain and contain the group, and no others. While an access that its
kind orders is outstanding FENCE is in progress: the group goes on past it, its destination waits, and it completes when that
access has been performed. That a full fence which ends a race drops the copies of its line (log 98), and that a release is noted on
the uses of its group (log 98), are the model's choices: they bound what the statement says stays as it was. -/
def Obligations.FenceWord : Prop :=
  (∀ (f : FmtFence) s g, Issues (.fence f) s g → s.inClause → s.admitted g ≠ 0 → s.quiet s.cur.grp = true →
    (∀ x ∈ s.accesses, x.2.grp ≠ s.cur.grp) → (s.freeEntry (partOf s.cur.grp)).isSome = true →
    StepsTo (.fence f) s fun t g' =>
      (∀ l, l < 32 → g'.vreg f.d.toNat l =
        if (s.admitted g).getLsbD l then BitVec.ofNat 32 (g.failBits % 8 + 256 * min g.failed 255) else g.vreg f.d.toNat l) ∧
      g'.failed = 0 ∧ g'.failBits = 0 ∧ OnlyWrites g g' [f.d.toNat] [] [] ∧ (PcsAre s g g' 0 fun _ => 0) ∧
      (f.widen = 0 → f.kind ≠ 3 ∨ s.races = [] → Untouched s.cur.grp s t) ∧
      (f.widen = 0 → (∀ a, memRead t.mem a = memRead s.mem a) ∧ t.home = s.home ∧ t.lineMeta = s.lineMeta ∧ t.csr = s.csr ∧
        t.teams = s.teams ∧ t.quads = s.quads ∧ (∀ j, j ≠ s.cur.grp → t.group? j = s.group? j) ∧
        ∀ c, (t.core c).lt = (s.core c).lt ∧ (t.core c).tlb = (s.core c).tlb) ∧
      (f.kind ≠ 2 → f.kind ≠ 3 → t.races = s.races) ∧
      (f.kind = 2 → ∀ b q, (b, q) ∈ t.races → ∃ r, (b, r) ∈ s.races ∧ q.images = r.images ∧
        q.uses.length = r.uses.length ∧ ∀ u, u ∈ q.uses → ∃ v, v ∈ r.uses ∧ u = { v with released := u.released }) ∧
      (f.kind = 3 → ∀ b q, (b, q) ∈ t.races → ∃ r, (b, r) ∈ s.races ∧ q.images = r.images ∧
        let team := if g.privileged then none else some g.team
        let gid := if g.privileged then s.cur.grp else g.gid
        ∀ u, u ∈ q.uses → (∃ v, v ∈ r.uses ∧ u = { v with fenced := u.fenced, released := u.released }) ∧
          ((r.release team gid f.dom.toNat).fence team gid f.dom.toNat).over u = false) ∧
      (f.widen = 1 → (∀ a, memRead t.mem a = memRead s.mem a) ∧ (∀ j, j ≠ s.cur.grp → t.group? j = s.group? j) ∧
        ∀ line, match Tab.find s.home line with
          | none => Tab.find t.home line = none
          | some h =>
            let d := f.dom.toNat
            let die := dieOfCore (keyCore s.cur.grp)
            let inside (p : Pin) : Prop :=
              p.ctx = s.spaceOf s.cur.grp ∧ p.dom < d ∧ p.inside (s.agentOf s.cur.grp) = true
            ∃ h', Tab.find t.home line = some h' ∧ h'.wts = h.wts ∧ h'.rts = h.rts ∧ h'.dirty = h.dirty ∧
              ((∀ p, h.pin = some p → ¬ inside p) → h'.pin = h.pin) ∧
              ∀ p, h.pin = some p → inside p →
                h'.pin = some ⟨d, if d = 1 then die else 0, s.spaceOf s.cur.grp⟩)) ∧
  (∀ (f : FmtFence) s g, Issues (.fence f) s g → s.inClause → s.admitted g ≠ 0 → s.hasLog s.cur.grp = false →
    (s.freeEntry (partOf s.cur.grp)).isSome = true →
    (∃ x ∈ s.accesses, x.2.grp = s.cur.grp ∧ x.2.op < s.idCtr ∧ (f.kind ≠ 1 ∨ x.2.kind = .load ∨ x.2.kind = .atomic)) →
    StepsTo (.fence f) s fun t g' =>
      Tab.find g'.fences s.idCtr = some ⟨s.admitted g, f.d.toNat, f.kind.toNat, f.dom.toNat, f.widen = 1, []⟩ ∧
      Tab.find g'.busy s.idCtr = some [f.d.toNat] ∧ OnlyWrites g g' [] [] [] ∧ (PcsAre s g g' 0 fun _ => 0) ∧
      g'.failed = g.failed ∧ g'.failBits = g.failBits ∧ Untouched s.cur.grp s t) ∧
  (∀ (s : State) k op rest g f, s.powered = true → s.agenda = .fence k op :: rest → s.group? k = some g →
    Tab.find g.fences op = some f → (∀ y ∈ g.fences, op ≤ y.1) → (∀ x ∈ s.accesses, x.2.grp = k → op ≤ x.2.op) →
    s.hasLog k = false → ∃ t g', step s = .next t ∧ t.group? k = some g' ∧ Tab.find g'.fences op = none ∧
      Tab.find g'.busy op = none ∧ g'.failed = 0 ∧ g'.failBits = 0 ∧ (∀ l, l < 32 → g'.vreg f.d l =
        if f.lanes.getLsbD l then BitVec.ofNat 32 (g.failBits % 8 + 256 * min g.failed 255) else g.vreg f.d l) ∧
      OnlyWrites g g' [f.d] [] [] ∧ ∀ a, memRead t.mem a = memRead s.mem a)

/-! ### Teams and child grids -/

/-- R211, R212 and R213: a group whose accesses have been performed arrives at its team barrier once in a phase. TBAR.SYNC
then blocks until the phase completes; the arrival that completes it makes every group that waits ready and raises the phase
number; TBAR.ARV goes on, and blocks only a group that has arrived already. Neither issues on the second port (R41). -/
def Obligations.TeamBarrierWords : Prop :=
  let Arrives (i : Instr) (s : State) (g : Group) (tm : Team) : Prop :=
    Issues i s g ∧ s.inClause ∧ s.cur.second = false ∧ s.cur.grp < 0x20000 ∧ g.privileged = false ∧ s.team? g.team = some tm ∧
      (s.admitted g).getLsbD (lowestLane s.cur.active) = true ∧ s.quiet s.cur.grp = true
  let Last (s t : State) (g g' : Group) (tm : Team) : Prop :=
    t.team? g.team = some { tm with phase := (tm.phase + 1) % 2 ^ 32, arrived := [] } ∧ g'.block = .none ∧
      ∀ j q, j ≠ s.cur.grp → s.group? j = some q → t.group? j = some
        (if q.privileged = false ∧ q.team = g.team ∧ q.block = .tbar tm.phase then { q with block := .none } else q)
  let Writes (s t : State) (g g' : Group) : Prop :=
    OnlyWrites g g' [] [] [] ∧ (PcsAre s g g' 0 fun _ => 0) ∧ (∀ a, memRead t.mem a = memRead s.mem a)
  (∀ f s g tm, Arrives (.tbarSync f) s g tm → tm.arrived.contains s.cur.grp = false → tm.arrived.length + 1 ≠ tm.expected →
    StepsTo (.tbarSync f) s fun t g' =>
      t.team? g.team = some { tm with arrived := s.cur.grp :: tm.arrived } ∧ g'.block = .tbar tm.phase ∧
      t.noTurn s.cur.grp ∧ Writes s t g g' ∧ ∀ j, j ≠ s.cur.grp → t.group? j = s.group? j) ∧
  (∀ f s g tm, Arrives (.tbarSync f) s g tm → tm.arrived.contains s.cur.grp = false → tm.arrived.length + 1 = tm.expected →
    (∀ x ∈ s.groups, x.2.team = g.team → x.2.block ≠ .tbarArv tm.phase) →
    StepsTo (.tbarSync f) s fun t g' => Last s t g g' tm ∧ Writes s t g g') ∧
  (∀ f s g tm, Arrives (.tbarSync f) s g tm → tm.arrived.contains s.cur.grp = true →
    StepsTo (.tbarSync f) s fun t g' =>
      t.teams = s.teams ∧ g'.block = .tbar tm.phase ∧ t.noTurn s.cur.grp ∧ Writes s t g g') ∧
  (∀ f s g tm, Arrives (.tbarArv f) s g tm → tm.arrived.contains s.cur.grp = false → tm.arrived.length + 1 ≠ tm.expected →
    StepsTo (.tbarArv f) s fun t g' =>
      t.team? g.team = some { tm with arrived := s.cur.grp :: tm.arrived } ∧ g'.block = .none ∧ Writes s t g g') ∧
  (∀ f s g tm, Arrives (.tbarArv f) s g tm → tm.arrived.contains s.cur.grp = false → tm.arrived.length + 1 = tm.expected →
    (∀ x ∈ s.groups, x.2.team = g.team → x.2.block ≠ .tbarArv tm.phase) →
    StepsTo (.tbarArv f) s fun t g' => Last s t g g' tm ∧ Writes s t g g') ∧
  (∀ f s g tm, Arrives (.tbarArv f) s g tm → tm.arrived.contains s.cur.grp = true →
    StepsTo (.tbarArv f) s fun t g' =>
      t.teams = s.teams ∧ g'.block = .tbarArv tm.phase ∧ t.noTurn s.cur.grp ∧ Writes s t g g')

/-- R49, R51, R53, R209 and R210: WAITCH completes at once when every child grid that the team has launched has retired, and raises
the core's logical time above every store performed so far; otherwise the group blocks on those that have not; while a LAUNCH of the
team has not been answered it cannot issue. LAUNCH gives 3 to every lane but the leader, the lowest active lane of group 0. The
leader's record, valid, becomes a child grid, the last of its queue but for host records that entered in the same tick (R342), and
gives 0; at depth 10 the leader receives 1, with 4,096 children 2, and for a misaligned or invalid record 4, and nothing is launched.
While a store or atomic of the group is outstanding that the record's read must follow, the answer waits and the group goes on past
it. The logical time to which WAITCH raises its core (log 27), and that a queue which holds 1,024 entries still takes a child (log 76),
are the model's choices. -/
def Obligations.LaunchWords : Prop :=
  (let Ready (f : FmtA) (s : State) (g : Group) (tm : Team) : Prop :=
     Issues (.waitch f) s g ∧ s.inClause ∧ s.cur.second = false ∧ s.cur.grp < 0x20000 ∧ g.privileged = false ∧ s.team? g.team = some tm ∧
       (s.admitted g).getLsbD (lowestLane s.cur.active) = true
   (∀ f s g tm, Ready f s g tm → s.launching g.team = true →
     ∃ t, exec (.waitch f) s = .next t ∧ t.cur.held = true ∧ t.groups = s.groups ∧ t.teams = s.teams ∧ t.mem = s.mem) ∧
   (∀ f s g tm, Ready f s g tm → s.launching g.team = false → (∀ n ∈ tm.children, s.grid? n = none) →
     StepsTo (.waitch f) s fun t g' =>
     g'.block = .none ∧ Quiet s t g g' ∧ (t.core (keyCore s.cur.grp)).lt = max (s.core (keyCore s.cur.grp)).lt s.frontier) ∧
   (∀ f s g tm, Ready f s g tm → s.launching g.team = false → (∃ n ∈ tm.children, (s.grid? n).isSome = true) →
     StepsTo (.waitch f) s fun t g' =>
     (∃ ns, g'.block = .waitch ns ∧ ∀ n, n ∈ ns ↔ n ∈ tm.children ∧ (s.grid? n).isSome = true) ∧
     t.noTurn s.cur.grp ∧ Quiet s t g g' ∧ Untouched s.cur.grp s t)) ∧
  (let Gives (s : State) (g g' : Group) (f : FmtA) (c : Nat) : Prop :=
     (∀ l, l < 32 → g'.vreg f.d.toNat l =
       if (s.admitted g).getLsbD l then (if l = lowestLane s.cur.active then BitVec.ofNat 32 c else 3) else g.vreg f.d.toNat l) ∧
     OnlyWrites g g' [f.d.toNat] [] [] ∧ PcsAre s g g' 0 fun _ => 0
   let Leads (f : FmtA) (s : State) (g : Group) (tm : Team) (p : Grid) : Prop :=
     Issues (.launch f) s g ∧ s.inClause ∧ g.gid = 0 ∧ g.privileged = false ∧
       (s.admitted g).getLsbD (lowestLane s.cur.active) = true ∧ s.storesDone s.cur.grp s.idCtr = true ∧
       s.team? g.team = some tm ∧ s.grid? tm.grid = some p
   (∀ (f : FmtA) s g, Issues (.launch f) s g → s.inClause → s.admitted g ≠ 0 →
     (g.gid ≠ 0 ∨ (s.admitted g).getLsbD (lowestLane s.cur.active) = false) → StepsTo (.launch f) s fun t g' =>
       (∀ l, l < 32 → g'.vreg f.d.toNat l = if (s.admitted g).getLsbD l then 3 else g.vreg f.d.toNat l) ∧
       OnlyWrites g g' [f.d.toNat] [] [] ∧ (PcsAre s g g' 0 fun _ => 0) ∧ Untouched s.cur.grp s t) ∧
   (∀ f s g tm p, Leads f s g tm p → p.depth = 10 → StepsTo (.launch f) s fun t g' =>
     Gives s g g' f 1 ∧ Untouched s.cur.grp s t) ∧
   (∀ f s g tm p, Leads f s g tm p → p.depth ≠ 10 → (s.context p.ctx).children = 4096 → StepsTo (.launch f) s fun t g' =>
     Gives s g g' f 2 ∧ Untouched s.cur.grp s t) ∧
   (∀ f s g tm p, Leads f s g tm p → p.depth ≠ 10 → (s.context p.ctx).children ≠ 4096 →
     g.regN f.a.toNat (lowestLane s.cur.active) 2 % 256 ≠ 0 → StepsTo (.launch f) s fun t g' =>
     Gives s g g' f 4 ∧ Untouched s.cur.grp s t) ∧
   (∀ f s g tm p pa, Leads f s g tm p → p.depth ≠ 10 → (s.context p.ctx).children ≠ 4096 →
     let va := g.regN f.a.toNat (lowestLane s.cur.active) 2
     let r := s.peekLE pa 256
     va % 256 = 0 → s.dataHit s.cur.grp va .load pa → s.spanFault pa 256 false = none →
     ((recordRefusal s r p.ctx none).isSome = true → StepsTo (.launch f) s fun t g' =>
       Gives s g g' f 4 ∧ Untouched s.cur.grp s t) ∧
     (recordRefusal s r p.ctx none = none → recKind r ≠ 2 → recCompletion r = 0 → StepsTo (.launch f) s fun t g' =>
       Gives s g g' f 0 ∧
       (∃ gr, t.grid? s.idCtr = some gr ∧ gr.record = r ∧ gr.ctx = p.ctx ∧ gr.tier = max (bits r 160 2) p.tier ∧
         gr.parent = some tm.grid ∧ gr.parentTeam = g.team ∧ gr.depth = p.depth + 1 ∧ gr.next0 = 0 ∧ gr.live = 0) ∧
       (let late (m : Nat) : Prop := ∃ h, s.grid? m = some h ∧ h.parent = none ∧ h.step = false ∧ h.accepted = s.ticks 0 ∧
          h.next0 = 0 ∧ h.next1 = 0
        ∃ l1 l2, Tab.get s.queues (bits r 164 12) [] = l1 ++ l2 ∧ Tab.get t.queues (bits r 164 12) [] = l1 ++ s.idCtr :: l2 ∧
          (∀ m, m ∈ l1 → ¬ late m) ∧ ∀ m, l2.head? = some m → late m) ∧
       (t.context p.ctx).children = (s.context p.ctx).children + 1 ∧
       t.team? g.team = some { tm with children := s.idCtr :: tm.children } ∧
       (∀ a, memRead t.mem a = memRead s.mem a) ∧ ∀ j, j ≠ s.cur.grp → t.group? j = s.group? j)) ∧
   (∀ (f : FmtA) s g tm p, Issues (.launch f) s g → s.inClause → g.gid = 0 → g.privileged = false →
     (s.admitted g).getLsbD (lowestLane s.cur.active) = true → s.team? g.team = some tm → s.grid? tm.grid = some p →
     s.storesDone s.cur.grp s.idCtr = false → p.depth ≠ 10 → (s.context p.ctx).children ≠ 4096 →
     let va := g.regN f.a.toNat (lowestLane s.cur.active) 2
     va % 256 = 0 → canonical va = true → StepsTo (.launch f) s fun t g' =>
       Tab.find g'.launches s.idCtr = some ⟨lowestLane s.cur.active, va, f.d.toNat, s.cur.word, s.cur.pc⟩ ∧
       Tab.find g'.busy s.idCtr = some [f.d.toNat] ∧ (PcsAre s g g' 0 fun _ => 0) ∧ Untouched s.cur.grp s t))

/-! ### Matrix words -/

/-- R227, R230, R233, R235, R236, R260 and R402: a matrix word whose tiles lie in the team's window and whose handles hold
tiles of its type posts one entry for each of its small operations on its quad's board, with its A block captured, from the latch
or from the registers, and its handles advanced; the accumulators change when the operations complete. That a block which is not
E2M1 has block scales of no particular value is the model's choice (log 81). -/
def Obligations.MatrixWordsPost : Prop :=
  let Posts (i : Instr) (op ty : Nat) (f : FmtF) : Prop :=
    ∀ s g, Issues i s g → s.inClause → s.latched i →
      let k := s.cur.grp
      let tm := s.teamFor g
      let ops := smallOps f.f.toNat s.cur.active
      let hs := (List.range (if f.f = 2 then 2 else if f.f = 3 then 4 else 1)).map (f.h.toNat + ·)
      let A (q : Nat) : List Word :=
        if g.latch.held ∧ g.latch.aField = f.a.toNat ∧ g.latch.e2m1 = decide (ty = 1) ∧ bits g.latch.valid q 1 = 1 then
          Tab.get g.latch.blocks q []
        else (List.range 8).flatMap fun l => (List.range 20).map fun w =>
          if w < 16 ∨ ty = 1 then g.vreg (f.a.toNat + w) (8 * q + l) else Config.freeVector g.stamp (96 + w) (8 * q + l)
      ops ≠ [] → (∀ h ∈ hs, s.bindPending g.team h = false) →
      (∀ o ∈ ops, f.t.toNat + o.2.2 < tm.winW) → (∀ h ∈ hs, matrixOk ty h (tm.handle h) = true) →
      (streams tm hs = true → s.storesPending k = false) → s.boardRoom (keyCore k) ops.length = true →
      StepsTo i s fun t g' =>
        (∀ j o, ops[j]? = some o → ∃ e, Tab.find (t.quad (quadOfCore (keyCore k))).board (s.idCtr + j) = some e ∧
          e.op = op ∧ e.grp = k ∧ e.team = g.team ∧ e.core = keyCore k ∧ e.instr = s.idCtr ∧ e.quarter = o.1 ∧
          e.writes = [f.t.toNat + o.2.2] ∧ e.reads = [] ∧ e.a = A o.1 ∧ e.src = [tm.handle (f.h.toNat + o.2.1)] ∧
          e.type = ty ∧ e.z = f.z.getLsbD 0 ∧ e.nbv = (s.context (s.ctxOf k)).nbv ∧ e.granted = false) ∧
        (∀ h ∈ hs, ((t.team? g.team).getD noTeam).handle h = s.atCursor (tm.handle h) (· + 1)) ∧
        (f.r = 0 → g'.latch = Latch.reset) ∧
        (f.r = 1 → g'.latch.held = true ∧ g'.latch.aField = f.a.toNat ∧ g'.latch.e2m1 = decide (ty = 1) ∧
          ∀ o ∈ ops, bits g'.latch.valid o.1 1 = 1 ∧ Tab.get g'.latch.blocks o.1 [] = A o.1) ∧
        g'.vregs = g.vregs ∧ g'.uregs = g.uregs ∧ g'.preds = g.preds ∧ g'.guards = g.guards ∧ (PcsAre s g g' 0 fun _ => 0) ∧
        (∀ a, memRead t.mem a = memRead s.mem a) ∧ ∀ j, j ≠ k → t.group? j = s.group? j
  (∀ f, Posts (.mmaE2m1 f) 0xC0 1 f) ∧ (∀ f, Posts (.mmaE4m3 f) 0xC1 2 f) ∧ (∀ f, Posts (.mmaE5m2 f) 0xC2 3 f) ∧
  (∀ f, Posts (.mmaBf16 f) 0xC3 5 f) ∧ (∀ f, Posts (.mmaF16 f) 0xC4 6 f) ∧ (∀ f, Posts (.mmaI8 f) 0xC5 4 f)

/-- R228, R240, R243 and R244: ACCMV, ACCRD and ACCWR post one entry; ACCRD keeps its destination registers waiting until it
completes, and ACCWR reads its registers at issue. -/
def Obligations.AccumulatorWordsPost : Prop :=
  let Posts (i : Instr) (f : FmtF) (tiles : Group → List Nat) (P : Group → Group → Entry → Nat → Prop) : Prop :=
    ∀ s g, Issues i s g → s.inClause → s.latched i →
      (∀ n ∈ tiles g, n < (s.teamFor g).winW) → s.boardRoom (keyCore s.cur.grp) 1 = true →
      StepsTo i s fun t g' =>
        (∃ e, Tab.find (t.quad (quadOfCore (keyCore s.cur.grp))).board s.idCtr = some e ∧ e.op = s.cur.word.toNat / 2 ^ 24 ∧
          e.grp = s.cur.grp ∧ e.team = g.team ∧ e.conv = f.f.toNat ∧ e.lanes = s.cur.active ∧ e.granted = false ∧
          P g g' e s.idCtr) ∧
        Quiet s t g g' ∧ t.teams = s.teams
  (∀ f : FmtF, Posts (.accmv f) f (fun g => [f.t.toNat, (g.ureg (f.a.toNat - 96)).toNat % 256]) fun g g' e _ =>
    e.reads = [(g.ureg (f.a.toNat - 96)).toNat % 256] ∧ e.writes = [f.t.toNat] ∧ g'.busy = g.busy) ∧
  (∀ f : FmtF, Posts (.accrd f) f (fun _ => [f.t.toNat]) fun g g' e n =>
    e.reads = [f.t.toNat] ∧ e.writes = (if f.z = 1 then [f.t.toNat] else []) ∧ e.z = f.z.getLsbD 0 ∧ e.reg = f.a.toNat ∧
    Tab.find g'.busy n = some ((List.range (if f.f = 0 then 16 else 8)).map (f.a.toNat + ·)) ∧
    ∀ m, m ≠ n → Tab.find g'.busy m = Tab.find g.busy m) ∧
  (∀ f : FmtF, Posts (.accwr f) f (fun _ => [f.t.toNat]) fun g g' e _ =>
    e.writes = [f.t.toNat] ∧ e.z = f.z.getLsbD 0 ∧ g'.busy = g.busy ∧
    (f.z = 0 → ∀ l j, l < 32 → j < (if f.f = 0 then 16 else 8) →
      e.a[l * (if f.f = 0 then 16 else 8) + j]? = some (g.vreg (f.a.toNat + j) l)))

/-- R245 to R249: the attention words post one entry for each quarter that takes part, with the rows inside the query extent;
ATQK captures its A block and the mask of each row, ATSM its scale. A row's mask has a 1 for each key of the tile that is absent, lies
at a position after the row's own, or belongs to a tree node that is no ancestor of the query's (R246, R299); a group without a query
context masks nothing. -/
def Obligations.AttentionWordsPost : Prop :=
  let Room (i : Instr) (s : State) (g : Group) (hs : List Nat) (tiles : List Nat) (ok : HandleTest) : Prop :=
    Issues i s g ∧ s.inClause ∧ s.latched i ∧
      (∀ h ∈ hs, s.bindPending g.team h = false) ∧ (∀ n ∈ tiles, n < (s.teamFor g).winW) ∧
      (∀ h ∈ hs, ok h ((s.teamFor g).handle h) = true) ∧ (streams (s.teamFor g) hs = true → s.storesPending s.cur.grp = false) ∧
      s.boardRoom (keyCore s.cur.grp) (quarters s.cur.active).length = true
  let Done (i : Instr) (s : State) (g : Group) (hs : List Nat) (latch : Latch) (P : Entry → Nat → Prop) : Prop :=
    StepsTo i s fun t g' =>
      (∀ j q, (quarters s.cur.active)[j]? = some q → ∃ e,
        Tab.find (t.quad (quadOfCore (keyCore s.cur.grp))).board (s.idCtr + j) = some e ∧ e.op = s.cur.word.toNat / 2 ^ 24 ∧
        e.grp = s.cur.grp ∧ e.team = g.team ∧ e.quarter = q ∧
        e.rows = (match g.qctx with
          | none => 0xFFFF
          | some c => 2 ^ min 16 (c.rows - 16 * q) - 1) ∧ e.granted = false ∧ P e q) ∧
      (∀ h ∈ hs, ((t.team? g.team).getD noTeam).handle h = s.atCursor ((s.teamFor g).handle h) (· + 1)) ∧
      g'.latch = latch ∧ g'.vregs = g.vregs ∧ g'.uregs = g.uregs ∧ g'.preds = g.preds ∧ g'.guards = g.guards ∧
      (PcsAre s g g' 0 fun _ => 0) ∧ (∀ a, memRead t.mem a = memRead s.mem a) ∧ ∀ j, j ≠ s.cur.grp → t.group? j = s.group? j
  (∀ (f : FmtAtt) s g,
    Room (.atqk f) s g [f.h.toNat] ((quarters s.cur.active).map fun q => f.t.toNat + 2 * q) (kvOk false) →
    Done (.atqk f) s g [f.h.toNat] (g.latchAfter f.a.toNat false (f.r = 1) (quarters s.cur.active)) fun e q =>
      e.writes = [f.t.toNat + 2 * q] ∧ e.a = g.takeA f.a.toNat q false ∧ e.src = [(s.teamFor g).handle f.h.toNat] ∧
      e.z = f.z.getLsbD 0 ∧
      (∀ c n m ty cur half bd, g.qctx = some c → (s.teamFor g).handle f.h.toNat = .kvRead n m ty cur half →
        Tab.find s.bindings n = some bd → ∀ i j, i < 16 → j < 32 → (bits ((e.masked[i]?).getD 0) j 1 = 1 ↔
          match bd.keys[32 * (cur / ceilDiv bd.dim (typeK bd.type)) + j]? with
          | none => True
          | some (pos, node, _) => c.base + 16 * q + i < pos ∨ (node < 64 ∧ bits bd.ancestry node 1 = 0))) ∧
      (g.qctx = none → ∀ i j : Nat, bits ((e.masked[i]?).getD 0) j 1 = 0)) ∧
  (∀ (f : FmtAtt) s g,
    Room (.atsm f) s g [] ((quarters s.cur.active).flatMap fun q => [f.t.toNat + 2 * q, f.t.toNat + 2 * q + 1]) (fun _ _ => true) →
    Done (.atsm f) s g [] g.latch fun e q =>
      e.writes = [f.t.toNat + 2 * q, f.t.toNat + 2 * q + 1] ∧ e.sigma = g.ureg (f.a.toNat - 96) ∧ e.z = f.z.getLsbD 0) ∧
  (∀ (f : FmtAtt) s g,
    let b := (g.ureg (f.a.toNat - 96)).toNat % 256
    let hs := pvHandles (s.teamFor g) f.h.toNat
    b % 2 = 0 → (∀ h ∈ hs, h < 32) → s.bindPending g.team f.h.toNat = false →
    Room (.atpv f) s g hs (b :: (quarters s.cur.active).flatMap fun q => [f.t.toNat + q, b + 2 * q, b + 2 * q + 1])
      (pairOk (s.teamFor g) f.h.toNat) →
    Done (.atpv f) s g hs g.latch fun e q =>
      e.writes = [f.t.toNat + q] ∧ e.reads = [b + 2 * q, b + 2 * q + 1] ∧ e.src = hs.map (s.teamFor g).handle ∧
      e.z = f.z.getLsbD 0) ∧
  (∀ (f : FmtAtt) s g,
    let b := (g.ureg (f.a.toNat - 96)).toNat % 256
    b % 2 = 0 →
    Room (.atfn f) s g [] (b :: (quarters s.cur.active).flatMap fun q => [f.t.toNat + q, b + 2 * q + 1]) (fun _ _ => true) →
    Done (.atfn f) s g [] g.latch fun e q => e.writes = [f.t.toNat + q] ∧ e.reads = [b + 2 * q + 1])

/-- R230, R248, R256, R402, R408 and R409: an accumulator tile at or above the window, an unbound handle, or a handle that the word
does not accept suspends the group with its active lanes at the word, and nothing but what the suspension writes changes. The tiles are
those that the posted operations name and the base tile; the lowest is shown, and comes before the handles, which are looked at in
ascending number. It holds for every matrix and attention word, TCOPY and TSTORE. -/
def Obligations.BindingTraps : Prop :=
  let Suspends (i : Instr) (s : State) (g : Group) (code info0 info1 : Nat) : Prop :=
    StepsTo i s fun t g' => SuspendedAs t s.cur.grp g' code s.cur.active s.cur.pc info0 info1 ∧ OnlySuspends s t s.cur.grp g g'
  let Traps (i : Instr) (s : State) (g : Group) (tiles hs : List Nat) (accepts : Nat → Handle → Prop) : Prop :=
    Issues i s g → s.cur.grp < 0x20000 → (g.privileged = false → ∀ h ∈ hs, s.bindPending g.team h = false) →
      let tm := s.teamFor g
      let fits (h : Nat) : Prop := (∀ c, tm.handle h ≠ .unbound c) ∧ accepts h (tm.handle h)
      (∀ n, n ∈ tiles → n < 512 → tm.winW ≤ n → tm.winW ≤ 256 → (∀ p, p ∈ tiles → tm.winW ≤ p → n ≤ p) →
        Suspends i s g 0x0106 (n + 2 ^ 16 * tm.winW) 0) ∧
      ∀ l1 h l2, (∀ n, n ∈ tiles → n < tm.winW) → hs = l1 ++ h :: l2 → (∀ x, x ∈ l1 → fits x) → h < 32 →
        (∀ c, tm.handle h = .unbound c → c < 2 ^ 64 → Suspends i s g 0x0107 h c) ∧
        ((∀ c, tm.handle h ≠ .unbound c) → ¬ accepts h (tm.handle h) → (tm.handle h).type < 8 →
          Suspends i s g 0x0108 h ((tm.handle h).type + 256 * (tm.handle h).kind))
  let Matrix (i : Instr) (ty : Nat) (f : FmtF) : Prop := ∀ s g,
    Traps i s g ((smallOps f.f.toNat s.cur.active).map fun o => f.t.toNat + o.2.2)
      ((List.range (if f.f = 2 then 2 else if f.f = 3 then 4 else 1)).map (f.h.toNat + ·)) fun _ h => match h with
        | .spad _ t _ _ => t = ty
        | .record sh _ t _ _ _ => t = ty ∧ shTile sh 0 = typeK ty ∧ shTile sh 1 = 32
        | _ => False
  let kv (odd : Nat) (h : Handle) : Prop := match h with
    | .kvRead _ m t _ _ => m % 2 = odd ∧ (t = 2 ∨ t = 3 ∨ t = 5 ∨ t = 6)
    | _ => False
  let base (g : Group) (f : FmtAtt) : Nat := (g.ureg (f.a.toNat - 96)).toNat % 256
  (∀ f, Matrix (.mmaE2m1 f) 1 f) ∧ (∀ f, Matrix (.mmaE4m3 f) 2 f) ∧ (∀ f, Matrix (.mmaE5m2 f) 3 f) ∧
  (∀ f, Matrix (.mmaBf16 f) 5 f) ∧ (∀ f, Matrix (.mmaF16 f) 6 f) ∧ (∀ f, Matrix (.mmaI8 f) 4 f) ∧
  (∀ (f : FmtF) s g, Traps (.accmv f) s g [f.t.toNat, (g.ureg (f.a.toNat - 96)).toNat % 256] [] fun _ _ => True) ∧
  (∀ (f : FmtF) s g, Traps (.accrd f) s g [f.t.toNat] [] fun _ _ => True) ∧
  (∀ (f : FmtF) s g, Traps (.accwr f) s g [f.t.toNat] [] fun _ _ => True) ∧
  (∀ (f : FmtAtt) s g, Traps (.atqk f) s g ((quarters s.cur.active).map fun q => f.t.toNat + 2 * q) [f.h.toNat] fun _ h => kv 0 h) ∧
  (∀ (f : FmtAtt) s g, Traps (.atsm f) s g ((quarters s.cur.active).flatMap fun q => [f.t.toNat + 2 * q, f.t.toNat + 2 * q + 1]) []
    fun _ _ => True) ∧
  (∀ (f : FmtAtt) s g, base g f % 2 = 0 →
    Traps (.atfn f) s g (base g f :: (quarters s.cur.active).flatMap fun q => [f.t.toNat + q, base g f + 2 * q + 1]) [] fun _ _ => True) ∧
  (∀ (f : FmtAtt) s g, base g f % 2 = 0 →
    let hs := pvHandles (s.teamFor g) f.h.toNat
    (∀ h ∈ hs, h < 32) → Traps (.atpv f) s g
      (base g f :: (quarters s.cur.active).flatMap fun q => [f.t.toNat + q, base g f + 2 * q, base g f + 2 * q + 1]) hs fun n h =>
        kv 1 h ∧ ∀ b m t c half b0 m0 t0 c0 half0, h = .kvRead b m t c half → (s.teamFor g).handle f.h.toNat = .kvRead b0 m0 t0 c0 half0 →
          t0 = 5 ∨ t0 = 6 → b = b0 ∧ m = m0 ∧ t = t0 ∧ half = n - f.h.toNat) ∧
  (∀ (f : FmtCopy) s g, Traps (.tcopy f) s g [] [f.h.toNat] fun _ h => h.kind = 1) ∧
  (∀ (f : FmtCopy) s g, Traps (.tstore f) s g [] [f.h.toNat] fun _ h => h.kind = 1 ∨ h.kind = 3)

/-! ### Engine commands -/

/-- R158, R252 to R256, R258, R260, R262, R265, R272 and R273: a command whose guard admits the lowest active lane enters its
queue, the tile queue or the uncore queue of its core, last, with its block read at issue in that lane; it counts, and the
group goes on at once, except that the blocking QDEQ blocks it. QENQ captures its item and TCOPY and TSTORE their handle, which
advances. With the guard settled against it a command does nothing. -/
def Obligations.EngineCommandsPost : Prop :=
  let Posts (i : Instr) (op m len : Nat) (uncore : Bool) (g0 : FmtG) (named : List Nat)
      (ok : State → Group → Prop) (P : State → State → Group → Group → Cmd → Prop) : Prop :=
    ∀ s g, Issues i s g → s.inClause → s.latched i →
      let k := s.cur.grp
      let c := keyCore k
      let l := lowestLane s.cur.active
      (∀ h ∈ named, s.bindPending g.team h = false) → ok s g →
      ((s.core c).queue uncore).length < 16 → g.canCount g0.c.toNat = true →
      g.guardInFlight g0.g.toNat (s.cycles (dieOfCore c)) = none →
      ((s.admitted g).getLsbD l = false → StepsTo i s fun t g' => Quiet s t g g' ∧ t.cmds = s.cmds ∧ Untouched k s t) ∧
      ((s.admitted g).getLsbD l = true → StepsTo i s fun t g' =>
        (∃ x, Tab.find t.cmds s.idCtr = some x ∧ x.core = c ∧ x.grp = k ∧ x.team = g.team ∧ x.ctx = s.spaceOf k ∧
          x.op = op ∧ x.m = m ∧ x.pc = s.cur.pc ∧ x.h = g0.h.toNat ∧ x.c = g0.c.toNat ∧
          x.block = (List.range len).map (fun j => g.reg (g0.a.toNat + j) l) ∧ x.tag = g.tag ∧ x.qctx = g.qctx ∧
          x.guard = none ∧ x.started = false ∧ x.done = [] ∧ P s t g g' x) ∧
        (∀ n, n ≠ s.idCtr → Tab.find t.cmds n = Tab.find s.cmds n) ∧
        (t.core c).queue uncore = (s.core c).queue uncore ++ [s.idCtr] ∧
        (t.core c).queue (!uncore) = (s.core c).queue (!uncore) ∧
        Counts g g' s.idCtr g0.c.toNat g0.la.toNat ∧ Quiet s t g g')
  let Plain (s t : State) (_ g' : Group) (_ : Cmd) : Prop := t.teams = s.teams ∧ g'.block = .none
  let Tile (i : Instr) (f : FmtG) (op m len : Nat) : Prop := Posts i op m len false f [] (fun _ _ => True) Plain
  let Named (i : Instr) (f : FmtG) (op m len : Nat) : Prop := Posts i op m len false f [f.h.toNat] (fun _ _ => True) Plain
  let Uncore (i : Instr) (f : FmtG) (m : Nat) : Prop := Posts i 0xDB m 2 true f [] (fun _ _ => True) Plain
  let Copies (i : Instr) (f : FmtCopy) (op : Nat) (accepts : Handle → Prop) : Prop :=
    Posts i op (f.acq.toNat + 2 * f.rel.toNat) 2 false ⟨f.g, f.c, f.la, f.h, f.a⟩ [f.h.toNat]
      (fun s g => accepts ((s.teamFor g).handle f.h.toNat))
      fun s t g g' x => x.handle = (s.teamFor g).handle f.h.toNat ∧ g'.block = .none ∧
        ((t.team? g.team).getD noTeam).handle f.h.toNat = s.atCursor ((s.teamFor g).handle f.h.toNat) (· + 1)
  let Enqueues (i : Instr) (f : FmtG) (m : Nat) : Prop :=
    Posts i 0xD7 m 2 true f [] (fun _ _ => True) fun s t g g' x => t.teams = s.teams ∧ g'.block = .none ∧
      let from_ (j : Nat) : Nat := (g.reg (f.a.toNat + 1) (lowestLane s.cur.active)).toNat + j
      x.item = (List.range 64).map (fun j => s.spadSeen s.cur.grp (s.teamFor g) (s.spaceOf s.cur.grp) (from_ j)) ∧
        (s.hasLog s.cur.grp = false →
          x.item = (List.range 64).map fun j => s.spadByte (s.teamFor g) (s.spaceOf s.cur.grp) (from_ j))
  (∀ f, Named (.hbindSpad f) f 0xD0 0 2) ∧ (∀ f, Named (.hbindRec f) f 0xD0 1 3) ∧ (∀ f, Named (.hbindOff f) f 0xD0 2 0) ∧
  (∀ f, Named (.hbindSeek f) f 0xD0 3 1) ∧
  (∀ f, Copies (.tcopy f) f 0xD1 fun h => h.kind = 1) ∧
  (∀ f, Copies (.tstore f) f 0xD2 fun h => h.kind = 1 ∨ h.kind = 3) ∧
  (∀ f, Tile (.xbarInit f) f 0xD3 0 2) ∧ (∀ f, Tile (.xbarArv f) f 0xD4 0 2) ∧ (∀ f, Tile (.xbarArvExp f) f 0xD4 1 2) ∧
  (∀ f, Tile (.xbarArvAck f) f 0xD4 2 2) ∧
  (∀ f : FmtBlock, Posts (.xbarWait f) 0xD5 0 2 false ⟨f.g, 0, 0, f.h, f.a⟩ []
    (fun s _ => s.hasLog s.cur.grp = false) Plain) ∧
  (∀ f : FmtBlock, Posts (.qdeq f) 0xD6 0 2 true ⟨f.g, 0, 0, f.h, f.a⟩ [] (fun s _ => s.cur.grp < 0x20000)
    fun s t _ g' _ => t.teams = s.teams ∧ g'.block = .qdeq s.idCtr ∧ (s.cur.second = false → t.noTurn s.cur.grp)) ∧
  (∀ f, Posts (.qdeqTry f) 0xD6 1 2 true f [] (fun _ _ => True) Plain) ∧
  (∀ f, Enqueues (.qenq f) f 0) ∧ (∀ f, Enqueues (.qenqTry f) f 1) ∧
  (∀ f, Tile (.treeFork f) f 0xD8 0 4) ∧ (∀ f, Tile (.treePrune f) f 0xD8 1 4) ∧ (∀ f, Tile (.treeCommit f) f 0xD8 2 4) ∧
  (∀ f, Tile (.treeAppend f) f 0xD8 3 4) ∧ (∀ f, Tile (.treeAdopt f) f 0xD8 4 4) ∧ (∀ f, Tile (.treeQctx f) f 0xD8 5 4) ∧
  (∀ f, Tile (.treeQuery f) f 0xD8 6 4) ∧
  (∀ f, Named (.kvbindKp f) f 0xD9 0 3) ∧ (∀ f, Named (.kvbindVp f) f 0xD9 1 3) ∧ (∀ f, Named (.kvbindKt f) f 0xD9 2 3) ∧
  (∀ f, Named (.kvbindVt f) f 0xD9 3 3) ∧ (∀ f, Named (.kvbindWk f) f 0xD9 4 3) ∧ (∀ f, Named (.kvbindWv f) f 0xD9 5 3) ∧
  (∀ f, Tile (.sampleSubmit f) f 0xDA 0 8) ∧ (∀ f, Tile (.sampleVerify f) f 0xDA 1 12) ∧
  (∀ f, Uncore (.collAllred f) f 0) ∧ (∀ f, Uncore (.collAllgath f) f 1) ∧ (∀ f, Uncore (.collRedscat f) f 2) ∧
  (∀ f, Uncore (.collHistmrg f) f 3)

/-! ### The management cores -/

/-- R6, R69, R278, R338, R339, R391, R394 and R419: CSRRD reads the register that its number names into lane 0 of d, low word
first; a reserved field reads as 0. CSRWR completes for every register; a register of plain fields then reads the value with its
reserved bits 0, a lost-record or event counter reads 0, FRHEAD keeps its value, FRSIZE clears FRHEAD, and SCHEDCTL takes EN once
FWSTAT reads RUNNING. Memory, every group and every other device register stay. That pdelay is written whatever FWSTAT reads is the
model's choice (log 89). -/
def Obligations.CsrWords : Prop :=
  (∀ (f : FmtSys) s g, Issues (.csrrd f) s g → s.inClause → s.admitted g ≠ 0 → StepsTo (.csrrd f) s fun t g' =>
    (∀ j, j < csrWidth f.a.toNat → g'.vreg (f.d.toNat + j) 0 =
      BitVec.ofNat 32 (s.csrValue (s.cur.grp - 0x20000) f.a.toNat / 2 ^ (32 * j))) ∧
    (∀ r l, l ≠ 0 → l < 32 → g'.vreg r l = g.vreg r l) ∧
    OnlyWrites g g' ((List.range (csrWidth f.a.toNat)).map (f.d.toNat + ·)) [] [] ∧
    (PcsAre s g g' 0 fun _ => 0) ∧ Untouched s.cur.grp s t) ∧
  (∀ (s : State) (n : Nat),
     let x := s.context (s.manager n).ctxsel
     s.csrValue n 0x00 = x.ptbase.toNat ∧ s.csrValue n 0x01 = x.asid ∧ s.csrValue n 0x02 = x.codebase.toNat ∧
     s.csrValue n 0x03 = x.nbv ∧ s.csrValue n 0x08 = x.migva.toNat ∧ s.csrValue n 0x09 = x.migframe.toNat ∧
     s.csrValue n 0x0A = 2 * x.migstatus + 16 * x.migrounds ∧ s.csrValue n 0x18 = x.frbase.toNat ∧
     s.csrValue n 0x19 = x.frsize ∧ s.csrValue n 0x1A = x.frhead ∧ s.csrValue n 0x1B = x.frtail ∧ s.csrValue n 0x1C = x.frlost ∧
     (∀ i, i < 64 → s.csrValue n (0x40 + i) = (Tab.get x.rgnlo i 0).toNat + 2 ^ 64 * (Tab.get x.rgnhi i 0).toNat) ∧
     s.csrValue n 0x0C = s.csr.mptbase.toNat ∧ s.csrValue n 0x10 = (s.manager n).winsel ∧
     s.csrValue n 0x11 = s.csr.mcentry.toNat ∧ s.csrValue n 0x12 = s.csr.fabid.toNat ∧ s.csrValue n 0x13 = 0 ∧
     s.csrValue n 0x14 = s.csr.mcbase.toNat ∧ s.csrValue n 0x15 = s.csr.mclost ∧
     s.csrValue n 0x16 = s.csr.specdrop0 + 2 ^ 32 * s.csr.specdrop1 ∧ s.csrValue n 0x17 = s.csr.nopage0 + 2 ^ 32 * s.csr.nopage1 ∧
     s.csrValue n 0x20 = s.csr.tlim1 ∧ s.csrValue n 0x21 = s.csr.tlim2 ∧ s.csrValue n 0x22 = s.csr.tlim3 ∧
     s.csrValue n 0x23 = (if s.csr.en then 1 else 0) + (if s.csr.cxl then 2 else 0) + 256 * s.csr.pdelay ∧
     s.csrValue n 0x24 = s.csr.ressel ∧ s.csrValue n 0x25 = (Tab.get s.csr.resacl s.csr.ressel 0).toNat ∧
     s.csrValue n 0x26 = s.csr.savebase.toNat ∧ s.csrValue n 0x27 = s.csr.savesize ∧
     s.csrValue n 0x28 = s.csr.treebase0.toNat ∧ s.csrValue n 0x29 = s.csr.treebase1.toNat ∧
     s.csrValue n 0x2A = s.csr.kvpool0.toNat ∧ s.csrValue n 0x2B = s.csr.kvpool1.toNat ∧
     s.csrValue n 0x2C = s.csr.pfxtab0.toNat ∧ s.csrValue n 0x2D = s.csr.pfxtab1.toNat ∧ s.csrValue n 0x2E = s.csr.smptmo ∧
     s.csrValue n 0x2F = s.die0.band + 256 * s.die1.band ∧ s.csrValue n 0x30 = s.csr.qtbase.toNat ∧ s.csrValue n 0x31 = 0 ∧
     s.csrValue n 0x32 = s.csr.rdframe.toNat + 2 * s.csr.rdstatus ∧ s.csrValue n 0x3F = (s.manager n).ctxsel) ∧
  (let cut (lo len v : Nat) : Nat := v / 2 ^ lo % 2 ^ len * 2 ^ lo
   let plain (a v : Nat) : Option Nat :=
     if a = 0x00 ∨ a = 0x09 ∨ a = 0x0C ∨ a = 0x18 then some (cut 12 40 v)
     else if a = 0x01 then some (cut 0 16 v)
     else if a = 0x02 ∨ a = 0x14 then some (cut 16 41 v)
     else if a = 0x08 then some (cut 0 57 v)
     else if a = 0x10 then some (cut 0 17 v)
     else if a = 0x11 ∨ a = 0x1B ∨ a = 0x27 ∨ a = 0x2E then some (cut 0 32 v)
     else if a = 0x12 then some (cut 0 24 v)
     else if a = 0x19 then some (cut 0 5 v)
     else if a = 0x1C ∨ a = 0x15 ∨ a = 0x16 ∨ a = 0x17 then some 0
     else if a = 0x20 ∨ a = 0x21 ∨ a = 0x22 then some (cut 0 48 v)
     else if a = 0x24 then some (cut 0 8 v)
     else if a = 0x26 then some (cut 16 36 v)
     else if a = 0x30 then some (cut 5 52 v)
     else if a = 0x3F then some (cut 0 6 v)
     else none
   ∀ (f : FmtSys) s g, Issues (.csrwr f) s g → s.inClause → s.admitted g ≠ 0 →
     let n := s.cur.grp - 0x20000
     let a := f.a.toNat
     let v := g.regN f.d.toNat 0 (csrWidth a)
     (∃ t, exec (.csrwr f) s = .next t) ∧
     (∀ w, plain a v = some w → StepsTo (.csrwr f) s fun t g' =>
       t.csrValue n a = w ∧ Quiet s t g g' ∧ t.teams = s.teams ∧
       (a = 0x19 → t.csrValue n 0x1A = 0) ∧
       (a = 0x10 ∨ a = 0x3F ∨ isCtxCsr a = true → t.csr = s.csr) ∧
       (a ≠ 0x10 → a ≠ 0x3F → isCtxCsr a = false → t.contexts = s.contexts ∧ t.manage = s.manage)) ∧
     (a = 0x1A → StepsTo (.csrwr f) s fun t g' => t.csrValue n a = s.csrValue n a ∧ Quiet s t g g') ∧
     (a = 0x23 → StepsTo (.csrwr f) s fun t g' =>
       t.csr.pdelay = v / 2 ^ 8 % 2 ^ 24 ∧ t.csr.cxl = s.csr.cxl ∧
       t.csr.en = (if s.ctl.fwstat = 3 then decide (v % 2 = 1) else s.csr.en) ∧ Quiet s t g g'))

/-- R393, R394, R395 and R398: ERET resumes the suspended group that WINSEL names, after a TRAP or BKPT with the lanes that
still stand at the word advanced past it, when nothing of the group waits to be replayed; a group that TBAR.ARV blocked on a phase
that has completed since arrives in the next. HALT stops the privileged group until the next record. Either ends the handling of the
record. -/
def Obligations.HandlerReturns : Prop :=
  let Ends (s t : State) : Prop :=
    let n := s.cur.grp - 0x20000
    (t.manager n).open_ = true ∧ (t.manager n).handling = none ∧ (t.manager n).inFault = false ∧
      (t.manager n).again = (if (s.manager n).inFault then (s.manager n).again else none) ∧
      (t.manager n).queue = (s.manager n).queue ∧ (t.manager n).winsel = (s.manager n).winsel
  let Returns (f : FmtSys) (s : State) (g : Group) (k : Nat) (q : Group) (z : Suspension) : Prop :=
    Issues (.eret f) s g ∧ s.inClause ∧ s.admitted g ≠ 0 ∧ 0x20000 ≤ s.cur.grp ∧ k < 0x20000 ∧
      (s.manager (s.cur.grp - 0x20000)).winsel = k ∧ sectorOfCore (keyCore k) = s.cur.grp - 0x20000 ∧
      s.group? k = some q ∧ q.suspension = some z ∧ q.allExited = false ∧ s.groupWaits k = false
  let late (s : State) (q : Group) : Prop := ∃ p tm, q.block = .tbarArv p ∧ q.privileged = false ∧ s.team? q.team = some tm ∧ tm.phase ≠ p
  (∀ (f : FmtSys) s g, Issues (.eret f) s g → s.inClause → s.admitted g ≠ 0 → ∃ t, exec (.eret f) s = .next t) ∧
  (∀ f s g k q z, Returns f s g k q z → z.code ≠ 0x0110 → z.code ≠ 0x0111 → ¬ late s q → StepsTo (.eret f) s fun t g' =>
    t.group? k = some { q with suspension := none, fetchWait := [] } ∧ Ends s t ∧
    OnlyWrites g g' [] [] [] ∧ (PcsAre s g g' 0 fun _ => 0) ∧ ∀ a, memRead t.mem a = memRead s.mem a) ∧
  (∀ f s g k q z tm, Returns f s g k q z → z.code ≠ 0x0110 → z.code ≠ 0x0111 → late s q → s.team? q.team = some tm →
    tm.arrived.length + 1 ≠ tm.expected → StepsTo (.eret f) s fun t g' =>
      t.group? k = some { q with suspension := none, fetchWait := [], block := .none } ∧
      t.team? q.team = some { tm with arrived := k :: tm.arrived } ∧ Ends s t ∧
      OnlyWrites g g' [] [] [] ∧ (PcsAre s g g' 0 fun _ => 0) ∧ ∀ a, memRead t.mem a = memRead s.mem a) ∧
  (∀ f s g k q z, Returns f s g k q z → (z.code = 0x0110 ∨ z.code = 0x0111) → ¬ late s q →
    (∃ h w, clauseAt (codeReader s k) z.pc.toNat = some (h, w) ∧ z.pc.toNat ≠ h + 4 * hdrCount w ∧ z.pc.toNat % 4 = 0) →
    StepsTo (.eret f) s fun t g' =>
      (∃ q', t.group? k = some q' ∧ q'.suspension = none ∧ q'.vregs = q.vregs ∧ q'.uregs = q.uregs ∧ q'.preds = q.preds ∧
        q'.pcs.length = q.pcs.length ∧
        ∀ l, l < q.pcs.length → q'.pcs[l]? =
          if z.mask.getLsbD l ∧ q.pcs[l]? = some z.pc then some (z.pc + 4) else q.pcs[l]?) ∧
      Ends s t ∧ OnlyWrites g g' [] [] [] ∧ (PcsAre s g g' 0 fun _ => 0) ∧ ∀ a, memRead t.mem a = memRead s.mem a) ∧
  (∀ (f : FmtSys) s g, Issues (.halt f) s g → s.inClause → s.admitted g ≠ 0 → StepsTo (.halt f) s fun t g' =>
    (t.manager (s.cur.grp - 0x20000)).halted = true ∧ Ends s t ∧ Quiet s t g g')

/-- R280, R281 and R282: the window reads and writes the registers, predicates and PCs of the suspended group that WINSEL names; a
read of a group that is not suspended gives all ones, and a write to it does nothing. TLBINV, once no access that it concerns is in
flight (log 34), leaves no entry of its scope in any TLB and drops no other. -/
def Obligations.WindowWords : Prop :=
  (let at_ (space i lane : Nat) : Nat := space * 2 ^ 28 + i * 2 ^ 20 + lane * 2 ^ 15
  let Named (i : Instr) (s : State) (g : Group) (k : Nat) (q : Group) : Prop :=
    Issues i s g ∧ s.inClause ∧ s.admitted g ≠ 0 ∧ 0x20000 ≤ s.cur.grp ∧ k < 0x20000 ∧
      (s.manager (s.cur.grp - 0x20000)).winsel = k ∧ sectorOfCore (keyCore k) = s.cur.grp - 0x20000 ∧ s.group? k = some q
  let Reads (f : FmtSys) (s : State) (g : Group) (v : Word) : Prop :=
    StepsTo (.winrd f) s fun t g' => g'.vreg f.d.toNat 0 = v ∧ (∀ l, l ≠ 0 → l < 32 → g'.vreg f.d.toNat l = g.vreg f.d.toNat l) ∧
      OnlyWrites g g' [f.d.toNat] [] [] ∧ (PcsAre s g g' 0 fun _ => 0) ∧ Untouched s.cur.grp s t
  let Writes (f : FmtSys) (s : State) (g : Group) (k : Nat) (P : Group → Prop) : Prop :=
    StepsTo (.winwr f) s fun t g' => (∃ q', t.group? k = some q' ∧ P q') ∧ OnlyWrites g g' [] [] [] ∧
      (PcsAre s g g' 0 fun _ => 0) ∧ (∀ a, memRead t.mem a = memRead s.mem a) ∧
      ∀ j, j ≠ k → j ≠ s.cur.grp → t.group? j = s.group? j
  (∀ (f : FmtSys) s g k q i lane, Named (.winrd f) s g k q → q.suspension.isSome = true → lane < 32 →
    let a := (g.reg f.a.toNat 0).toNat
    (a = at_ 0 i lane → i < 96 → Reads f s g (q.vreg i lane)) ∧
    (a = at_ 1 i 0 → i < 32 → Reads f s g (q.ureg i)) ∧
    (a = at_ 2 i lane → i < 3 → Reads f s g (maskOf ((List.range 32).filter fun b => q.pred (32 * i + b) lane))) ∧
    (∀ p, a = at_ 3 0 lane → q.pcs[lane]? = some p → Reads f s g p) ∧
    (a = at_ 4 i 0 → 1 ≤ i → i < 8 → Reads f s g (match Tab.find q.guards i with
      | none => 0
      | some x => BitVec.ofNat 32 (1 + (if x.inverted then 2 else 0) + 4 * x.pred)))) ∧
  (∀ (f : FmtSys) s g k q, Named (.winrd f) s g k q → q.suspension = none → (g.reg f.a.toNat 0).toNat / 2 ^ 28 ≠ 6 →
    Reads f s g 0xFFFFFFFF) ∧
  (∀ (f : FmtSys) s g k q i lane, Named (.winwr f) s g k q → q.suspension.isSome = true → lane < 32 →
    let a := (g.reg f.a.toNat 0).toNat
    let v := g.reg f.d.toNat 0
    (a = at_ 0 i lane → i < 96 → Writes f s g k fun q' =>
      (∀ l, l < 32 → q'.vreg i l = if l = lane then v else q.vreg i l) ∧ OnlyWrites q q' [i] [] [] ∧ q'.pcs = q.pcs) ∧
    (a = at_ 1 i 0 → i < 32 → Writes f s g k fun q' => q'.ureg i = v ∧ OnlyWrites q q' [] [i] [] ∧ q'.pcs = q.pcs) ∧
    (a = at_ 2 i lane → i < 3 → Writes f s g k fun q' =>
      (∀ b l, b < 32 → l < 32 → q'.pred (32 * i + b) l = if l = lane then v.getLsbD b else q.pred (32 * i + b) l) ∧
      OnlyWrites q q' [] [] ((List.range 32).map (32 * i + ·)) ∧ q'.pcs = q.pcs) ∧
    (a = at_ 3 0 lane → Writes f s g k fun q' => OnlyWrites q q' [] [] [] ∧ q'.pcs.length = q.pcs.length ∧
      ∀ l, l < q.pcs.length → q'.pcs[l]? = if l = lane then some v else q.pcs[l]?)) ∧
  (∀ (f : FmtSys) s g k q, Named (.winwr f) s g k q → q.suspension = none → (g.reg f.a.toNat 0).toNat / 2 ^ 28 ≠ 6 →
    StepsTo (.winwr f) s fun t g' => Quiet s t g g' ∧ Untouched s.cur.grp s t)) ∧
  (∀ (f : FmtSys) s g, Issues (.tlbinv f) s g → s.inClause → s.admitted g ≠ 0 →
    let v := (g.reg f.d.toNat 0).toNat
    let scope := v / 2 ^ 16 % 4
    let va := g.regN f.a.toNat 0 2
    let gone (e : TlbEntry) : Prop :=
      2 ≤ scope ∨ (e.asid = v % 2 ^ 16 ∧ (scope = 1 ∨ va % 2 ^ 57 / e.size * e.size = e.va))
    s.inflight scope (v % 2 ^ 16) va = false → StepsTo (.tlbinv f) s fun t g' =>
      (∀ c e, e ∈ (t.core c).tlb ↔ e ∈ (s.core c).tlb ∧ ¬ gone e) ∧
      (∀ q e, e ∈ (t.quad q).tlb ↔ e ∈ (s.quad q).tlb ∧ ¬ gone e) ∧
      (∀ q e, e ∈ (t.quad q).ahead ↔ e ∈ (s.quad q).ahead ∧ ¬ gone e) ∧ Quiet s t g g')

/-- R283: CTXSAVE completes and stores each context register of the slot at byte 16n of its area, and CTXLOAD completes and loads every
one of them from there but MIGCTL, reserved bits as 0, and no other slot. That the area is a virtual address of the management space is
the model's choice (log 36). -/
def Obligations.ContextSaveAndLoad : Prop :=
  let Reaches (i : Instr) (f : FmtSys) (s : State) (g : Group) (acc : AccessKind) (pa : Nat) : Prop :=
    Issues i s g ∧ s.inClause ∧ s.admitted g ≠ 0 ∧ 0x20000 ≤ s.cur.grp ∧ canonical (g.regN f.a.toNat 0 2) = true ∧
      s.dataHit s.cur.grp (g.regN f.a.toNat 0 2 / 2048 * 2048) acc pa ∧ pa + 2048 ≤ 2 ^ 40
  (∀ (f : FmtSys) s g pa, Reaches (.ctxsave f) f s g .store pa → s.badLines = [] → s.spanFault pa 2048 true = none →
    (∀ l, pa / 64 ≤ l → l < pa / 64 + 32 → s.ownedAway l = false) → s.l2Room 32 → StepsTo (.ctxsave f) s fun t g' =>
      (∀ n, n ∈ ctxNumbers → t.peekLE (pa + 16 * n) 16 = ctxRead (s.context ((g.reg f.d.toNat 0).toNat % 64)) n % 2 ^ 128) ∧
      (∀ b, b < pa ∨ pa + 2048 ≤ b → memRead t.mem b = memRead s.mem b) ∧
      t.contexts = s.contexts ∧ OnlyWrites g g' [] [] [] ∧ (PcsAre s g g' 0 fun _ => 0) ∧
      ∀ j, j ≠ s.cur.grp → t.group? j = s.group? j) ∧
  (∀ (f : FmtSys) s g pa, Reaches (.ctxload f) f s g .load pa → s.spanFault pa 2048 false = none → StepsTo (.ctxload f) s fun t g' =>
    let x := (g.reg f.d.toNat 0).toNat % 64
    let v (n : Nat) := s.peekLE (pa + 16 * n) 16
    (t.context x).ptbase.toNat = v 0 / 2 ^ 12 % 2 ^ 40 * 2 ^ 12 ∧ (t.context x).asid = v 1 % 2 ^ 16 ∧
    (t.context x).codebase.toNat = v 2 / 2 ^ 16 % 2 ^ 41 * 2 ^ 16 ∧
    (t.context x).nbv = (if v 3 % 4 = 1 ∨ v 3 % 4 = 2 then v 3 % 4 else (s.context x).nbv) ∧
    (t.context x).frbase.toNat = v 0x18 / 2 ^ 12 % 2 ^ 40 * 2 ^ 12 ∧ (t.context x).frsize = v 0x19 % 2 ^ 5 ∧
    (t.context x).migva.toNat = v 8 % 2 ^ 57 ∧ (t.context x).migframe.toNat = v 9 / 2 ^ 12 % 2 ^ 40 * 2 ^ 12 ∧
    (∀ i, i < 64 →
      (Tab.get (t.context x).rgnlo i 0).toNat = v (0x40 + i) % 2 + v (0x40 + i) / 2 ^ 4 % 2 ^ 4 * 2 ^ 4 +
        v (0x40 + i) / 2 ^ 8 % 2 * 2 ^ 8 + v (0x40 + i) / 2 ^ 24 % 2 ^ 36 * 2 ^ 24 ∧
      (Tab.get (t.context x).rgnhi i 0).toNat = v (0x40 + i) / 2 ^ 64 % 2 ^ 36) ∧
    (t.context x).frhead = v 0x1A % 2 ^ 32 ∧ (t.context x).frtail = v 0x1B % 2 ^ 32 ∧ (t.context x).frlost = v 0x1C % 2 ^ 32 ∧
    (t.context x).migstatus = (s.context x).migstatus ∧ (t.context x).migrounds = (s.context x).migrounds ∧
    (∀ y, y ≠ x → t.context y = s.context y) ∧ t.csr = s.csr ∧ Quiet s t g g')

/-- R390, R391, R392 and R393: the record of a fault stands in its context's ring at FRHEAD modulo the ring's size, with FRHEAD
as its sequence number, and FRHEAD is one more; in a ring that is off or full it is counted in FRLOST instead. It joins the
queue of the management core of its source's sector, for a unit that is no group that of sector 0 of a live die, while that holds
fewer than 64. -/
def Obligations.FaultRecordsReported : Prop :=
  ∀ (s : State) (u : Source) (r : Report),
    let c := s.context u.ctx
    let w := s.report u r
    let a := c.frbase.toNat / 2 ^ 12 % 2 ^ 40 * 4096 + 64 * (c.frhead % 2 ^ c.frsize)
    let on : Prop := 6 ≤ c.frsize ∧ c.frsize ≤ 16 ∧ (c.frhead + 2 ^ 32 - c.frtail) % 2 ^ 32 < 2 ^ c.frsize
    let n := if u.origin ≠ .group then (if s.die0.lost then 8 else 0) else u.core % 2 ^ 11 / 128
    (bits w.2 32 32 = c.frhead % 2 ^ 32 ∧ bits w.2 72 4 = r.disp % 2 ^ 4 ∧ bits w.2 80 16 = r.code % 2 ^ 16 ∧
      bits w.2 105 4 = u.place % 2 ^ 4 ∧ bits w.2 109 2 = u.part % 2 ^ 2 ∧ bits w.2 111 11 = u.core % 2 ^ 11 ∧
      bits w.2 122 6 = u.ctx % 2 ^ 6 ∧ bits w.2 144 48 = s.time0 u.die % 2 ^ 48 ∧ bits w.2 192 32 = r.mask % 2 ^ 32 ∧
      bits w.2 224 32 = r.pc % 2 ^ 32 ∧ bits w.2 320 64 = r.addr % 2 ^ 64 ∧ bits w.2 384 64 = r.info0 % 2 ^ 64 ∧
      bits w.2 448 64 = r.info1 % 2 ^ 64) ∧
    (on → a + 64 ≤ 2 ^ 40 → s.ownedAway (a / 64) = false → s.l2Room 1 →
      readBytes (memRead w.1.mem) a 64 = w.2 ∧ (∀ b, b < a ∨ a + 64 ≤ b → memRead w.1.mem b = memRead s.mem b) ∧
      (w.1.context u.ctx).frhead = (c.frhead + 1) % 2 ^ 32 ∧ (w.1.context u.ctx).frlost = c.frlost) ∧
    (¬ on → w.1.mem = s.mem ∧ (w.1.context u.ctx).frhead = c.frhead ∧
      (w.1.context u.ctx).frlost = min (c.frlost + 1) (2 ^ 32 - 1)) ∧
    ((s.manager n).queue.length < 64 → (s.manager n).waiting = [] →
      (w.1.manager n).queue = (s.manager n).queue ++ [⟨w.2, u.origin ≠ .group, u.stamp⟩]) ∧
    w.1.groups = s.groups

/-! ### The whole machine -/

/-- R151, R161, R162: the decoder and the encoder are inverse on instruction words. Every word-row instruction is decoded from
its own word with every field at every value; a word that decodes to no assigned instruction is RESERVED_OPCODE with that word;
and every 32-bit word is the encoding of what it decodes to, so no bit of it is dropped. -/
def Obligations.EncodeRoundTrip : Prop :=
  (∀ i w, encode i = some w → (∀ v, i = .reservedOpcode v → decodeWord v = .reservedOpcode v) → decodeWord w = i) ∧
  ∀ w, encode (decodeWord w) = some w

/-- R151, R161 to R163: the words that the manual writes out in its examples decode to the instructions it gives for them. -/
def Obligations.WordsDecode : Prop :=
  decodeWord 0x22015234 = .movi ⟨0, 5, 0x1234⟩ ∧ decodeWord 0x23015000 = .movhi ⟨0, 5, 0x1000⟩ ∧
  decodeWord 0x43010082 = .ffma ⟨0, 4, 1, 2⟩ ∧ decodeWord 0x7F008281 = .gset ⟨0, 2, 5, 1⟩ ∧
  decodeWord 0x83614210 = .shflXor ⟨3, 5, 4, 16⟩ ∧ decodeWord 0x905FFFCC = .bra ⟨2, 0x1FFFCC⟩ ∧
  decodeWord 0x97010100 = .launch ⟨0, 4, 2, 0⟩ ∧ decodeWord 0x9B000012 = .trap ⟨0, 0, 0x12⟩ ∧
  decodeWord 0xA402011B = .ldW ⟨0, 8, 2, 3, 1, 1⟩ ∧ decodeWord 0xB2020153 = .ldsQ ⟨0, 8, 2, 5, 3⟩ ∧
  decodeWord 0xBD018100 = .atomCas ⟨0, 6, 2, 0, 0, 0⟩ ∧ decodeWord 0xBF030072 = .fence ⟨0, 12, 1, 3, 2⟩ ∧
  decodeWord 0xC61C4006 = .accmv ⟨0, 0, 1, 98, 0, 6⟩ ∧ decodeWord 0xD6001340 = .qdeq ⟨0, 4, 104⟩ ∧
  decodeWord 0xD7001741 = .qenqTry ⟨0, 0, 0, 5, 104⟩ ∧ decodeWord 0xDC010800 = .csrrd ⟨0, 4, 16⟩ ∧
  decodeWord 0xDC010801 = .csrwr ⟨0, 4, 16⟩ ∧ decodeWord 0xDC010303 = .tlbinv ⟨0, 4, 6⟩ ∧
  decodeWord 0xFF123456 = .reservedOpcode 0xFF123456

/-- R40, R41, R44, R144 and R393: a step runs the move at the head of the agenda. A primary port whose partition's turn has
time and issues left issues the decoded word at the minimum PC of the group that holds the turn, with the lanes that stand
there, once the header's wait is met, and notes the lanes at the second-lowest PC; a management core issues the word of its
privileged group in the same way; an event runs its row, once the arbiter has looked at the groups that it asks about; and with no
move left the time counters tick. Which move comes next is outside the model: the agenda, its head, and the tick of an empty agenda are the
model's choice (logs 2, 3, 79), and so is that `ordered` puts off a move whose records, postings on a board or barrier changes would
come out of the order of R236, R268 or R392. -/
def Obligations.StepRunsWord : Prop :=
  (∀ (s : State) (c p : Nat) (rest : List Move) (u : Turn) (g : Group) (pc hw w : Word) (h : Nat),
    s.powered = true → s.agenda = .primary c p :: rest → (s.part (partKey c p)).turn = some u →
    s.group? (mkKey c p u.place) = some g → u.issues < 24 → s.cycles (dieOfCore c) < u.start + 256 →
    g.minPc = some pc → g.stopped pc = false → g.lanesAt pc ≠ 0 → (∀ v ∈ g.unseen, v.lanes &&& g.lanesAt pc = 0) →
    let s1 := s.taken.clearSecond (partKey c p)
    clauseAt (codeReader s1 (mkKey c p u.place)) pc.toNat = some (h, hw) → (pc.toNat = h + 4 → g.waitMet hw = true) →
    s1.codeHit (mkKey c p u.place) pc.toNat w →
    step s = s.taken.ordered (exec (decodeWord w) { s1.onPart (partKey c p) (fun q =>
      { q with second := g.secondPc.map fun z => ⟨mkKey c p u.place, z, g.lanesAt z, w⟩ }) with
      cur := ⟨mkKey c p u.place, pc, g.lanesAt pc, w, false, h, hw, none, false⟩ })) ∧
  (∀ (s : State) (n : Nat) (rest : List Move) (g : Group) (pc hw w : Word) (h : Nat),
    s.powered = true → s.agenda = .manage n :: rest → s.group? (privKey n) = some g → (s.manager n).halted = false →
    ((s.manager n).open_ = false ∨ s.canDeliver n = false) → g.minPc = some pc → g.stopped pc = false → g.lanesAt pc ≠ 0 →
    (∀ v ∈ g.unseen, v.lanes &&& g.lanesAt pc = 0) →
    clauseAt (codeReader s.taken (privKey n)) pc.toNat = some (h, hw) → (pc.toNat = h + 4 → g.waitMet hw = true) →
    s.taken.codeHit (privKey n) pc.toNat w →
    step s = s.taken.ordered (exec (decodeWord w) { s.taken.onManager n (fun m => { m with open_ := false }) with
      cur := ⟨privKey n, pc, g.lanesAt pc, w, false, h, hw, none, false⟩ })) ∧
  (∀ (s : State) (e : Event) (rest : List Move), s.powered = true → s.agenda = .event e :: rest →
    step s = s.taken.ordered (exec e.row { s.taken.lookFor e with cur := { s.cur with event := some e } })) ∧
  (∀ s : State, s.powered = true → s.agenda = [] →
    step s = exec .tcountTick { s.taken.lookFor .tcountTick with cur := { s.cur with event := some .tcountTick } })

/-- R464 and R468: a device that has shut down stops at every step but a package power-on reset, after which it runs unless a sensor
still reads 110 °C or more, and a sensor that cools. -/
def Obligations.ShutDownStops : Prop :=
  ∀ s : State, s.powered = false →
    ((∀ us rest, s.agenda ≠ .event (.packagePowerOnReset us) :: rest) → (∀ n T rest, s.agenda ≠ .event (.thermalRelease n T) :: rest) →
      step s = .fault .poweredOff) ∧
    (∀ us rest, s.agenda = .event (.packagePowerOnReset us) :: rest → ∃ t, step s = .next t ∧
      (t.powered = true ↔ s.ctl.temp0 < 110 ∧ s.ctl.temp1 < 110 ∧ s.ctl.tempIo < 110)) ∧
    (∀ n T rest, s.agenda = .event (.thermalRelease n T) :: rest → ∃ t, step s = .next t ∧ t.powered = false ∧
      (n ≤ 2 → T < 95 → (if n = 0 then t.ctl.temp0 else if n = 1 then t.ctl.temp1 else t.ctl.tempIo) = T))

/-- What package power-on reset leaves: both time counters 0 (R22); every core's logical time, every die's MFT and the rebase
epoch 0 and no line in an L1 or L2 (R109); every HBM line in state I with owner 0 and lease bucket 0 (R97, R109); every item queue
disabled with both counts 0 (R271); SCHEDCTL.EN 0 and firmware RUNNING (R464); no teams, grids or turns, no TLB entry; the
residency limits and SMPTMO at the values of R338 and R333; and sixteen privileged groups, which have not started (R393). That
memory reads 0 and that no record waits at reset is the model's choice (log 7). -/
def Obligations.ResetState : Prop :=
  let r := State.reset
  r.powered = true ∧ r.die0.tcount = 0 ∧ r.die1.tcount = 0 ∧ r.epoch = false ∧ (∀ d, (r.die d).mft = 0 ∧ (r.die d).copies = []) ∧
  (∀ c, (r.core c).lt = 0 ∧ (r.core c).l1 = [] ∧ (r.core c).tlb = []) ∧ r.home = [] ∧ r.lineMeta = [] ∧
  (∀ q, (r.quad q).tlb = [] ∧ (r.quad q).ahead = [] ∧ (r.quad q).board = []) ∧
  r.itemQueues = [] ∧ r.csr.en = false ∧ r.ctl.fwstat = 3 ∧ r.teams = [] ∧ r.grids = [] ∧ (∀ k, (r.part k).turn = none) ∧
  r.csr.tlim1 = 5000000 ∧ r.csr.tlim2 = 20000000 ∧ r.csr.tlim3 = 50000000 ∧ r.csr.smptmo = 200000 ∧
  (∀ n, n < 16 → ∃ g, r.group? (privKey n) = some g ∧ g.privileged = true ∧ g.pcs.length = 1 ∧ (r.manager n).halted = true) ∧
  (∀ n, (r.manager n).queue = [] ∧ (r.manager n).waiting = []) ∧ (∀ a, memRead r.mem a = 0) ∧ memWf r.mem = true

/-- The physical memory keeps its canonical form in every step of every state. -/
def Obligations.MemoryKeepsForm : Prop :=
  ∀ s t : State, memWf s.mem = true → step s = .next t → memWf t.mem = true

/-- R22: no step changes a die's TCOUNT but TCOUNT_TICK, which advances both by one, and package power-on reset, which clears
both, as does the completion of the mailbox command that ends its wait for a recovery image (R464); no word, no fault and no core or
uncore reset does. -/
def Obligations.TimeOnlyTicks : Prop :=
  ∀ s t : State, step s = .next t →
    (t.die0.tcount = s.die0.tcount ∧ t.die1.tcount = s.die1.tcount) ∨
    ((s.agenda = [] ∨ s.agenda.head? = some (.event .tcountTick)) ∧
      t.die0.tcount = s.die0.tcount + 1 ∧ t.die1.tcount = s.die1.tcount + 1) ∨
    (((∃ us, s.agenda.head? = some (.event (.packagePowerOnReset us))) ∨
        (s.agenda.head? = some (.event .mailboxComplete) ∧ s.ctl.fwstat = 2)) ∧ t.die0.tcount = 0 ∧ t.die1.tcount = 0)

/-! ### Events -/

/-- R44, R45 and R47: a partition without a turn grants one, with no issue spent, to a group that was ready when the turn before
ended: with the waits of that moment starving groups (at least 1,792) come first, by wait, else the highest aged priority wins, then
the longest wait, and of equals the one listed first; when none was ready then, to the first that has become so since, and of equals
to the one listed first. The winner's wait restarts, and no register changes. A turn that has held the partition for 256 cycles, or
has issued 24 words, ends. A group is ready when the word at its issue address is not held. -/
def Obligations.TurnEvents : Prop :=
  let since (s : State) (c p : Nat) : Nat := s.cycles (dieOfCore c) - (s.part (partKey c p)).freed
  let aged (d : Nat) (g : Group) : Nat := min 7 (g.pri + (g.wait - d) / 512)
  let better (d : Nat) (y x : Nat × Group) : Prop :=
    (1792 ≤ y.2.wait - d ∧ (x.2.wait - d < 1792 ∨ x.2.wait < y.2.wait)) ∨
    (y.2.wait - d < 1792 ∧ x.2.wait - d < 1792 ∧
      (aged d x.2 < aged d y.2 ∨ (aged d x.2 = aged d y.2 ∧ x.2.wait < y.2.wait)))
  let Granted (s t : State) (c p : Nat) (x : Nat × Group) : Prop :=
    (t.part (partKey c p)).turn = some ⟨keyPlace x.1, 0, s.cycles (dieOfCore c)⟩ ∧
      (∀ n, n ≠ partKey c p → t.part n = s.part n) ∧ (∃ g, t.group? x.1 = some g ∧ g.wait = 0) ∧
      (∀ k, t.fileOf k = s.fileOf k) ∧ (∀ k, k ≠ x.1 → t.group? k = s.group? k) ∧ t.mem = s.mem
  let Ends (s t : State) (c p : Nat) : Prop :=
    (t.part (partKey c p)).turn = none ∧ (∀ n, n ≠ partKey c p → t.part n = s.part n) ∧ t.mem = s.mem ∧
      ∀ k, t.fileOf k = s.fileOf k
  (∀ s c p, c < 2048 → p < 4 → (s.part (partKey c p)).turn = none → (∃ x ∈ s.readyGroups c p, since s c p ≤ x.2.wait) →
    Happens .turnGrant (.turnGrant c p) s fun t => ∃ l1 x l2,
      ((s.readyGroups c p).filter fun x => decide (since s c p ≤ x.2.wait)) = l1 ++ x :: l2 ∧
      (∀ y, y ∈ l1 → better (since s c p) x y) ∧ (∀ y, y ∈ l2 → ¬ better (since s c p) y x) ∧ Granted s t c p x) ∧
  (∀ s c p, c < 2048 → p < 4 → (s.part (partKey c p)).turn = none → s.readyGroups c p ≠ [] →
    (∀ x ∈ s.readyGroups c p, x.2.wait < since s c p) →
    Happens .turnGrant (.turnGrant c p) s fun t => ∃ l1 x l2, s.readyGroups c p = l1 ++ x :: l2 ∧
      (∀ y, y ∈ l1 → y.2.wait < x.2.wait) ∧ (∀ y, y ∈ l2 → y.2.wait ≤ x.2.wait) ∧ Granted s t c p x) ∧
  (∀ s c p, (s.part (partKey c p)).turn.isSome = true ∨ s.readyGroups c p = [] →
    Happens .turnGrant (.turnGrant c p) s fun t => t = s) ∧
  (∀ s c p u, c < 2048 → p < 4 → (s.part (partKey c p)).turn = some u → u.place < 16 →
    (u.start + 256 ≤ s.cycles (dieOfCore c) → Happens .turnTimeLimit (.turnTimeLimit c p) s fun t => Ends s t c p) ∧
    (s.cycles (dieOfCore c) < u.start + 256 → Happens .turnTimeLimit (.turnTimeLimit c p) s fun t => t = s) ∧
    (24 ≤ u.issues → Happens .turnInstructionLimit (.turnInstructionLimit c p) s fun t => Ends s t c p) ∧
    (u.issues < 24 → Happens .turnInstructionLimit (.turnInstructionLimit c p) s fun t => t = s)) ∧
  (∀ s c p k g, s.group? k = some g → g.privileged = false → keyCore k = c → keyPart k = p → ∃ g',
    (s.lookFor (.turnGrant c p)).group? k = some g' ∧ g' = { g with ready := s.readyNow k g } ∧
    ∀ pc h hw w t, g.minPc = some pc → g.stopped pc = false → g.lanesAt pc ≠ 0 → g.unseen = [] →
      clauseAt (codeReader s k) pc.toNat = some (h, hw) → (pc.toNat = h + 4 → g.waitMet hw = true) → s.codeHit k pc.toNat w →
      exec (decodeWord w) { s with cur := ⟨k, pc, g.lanesAt pc, w, false, h, hw, none, false⟩ } = .next t →
      s.readyNow k g = !t.cur.held)

/-- R22, R41, R47, R108 and R207: a tick advances both time counters and ends every chance of a second port, and a ready group
without its partition's turn waits the cycles of the tick, while one that is not ready waits from 0, as long as no charge of a
request waits to be tried again (log 82); a sleep ends when its time has
come; every 1,024 cycles of a die the logical time of its cores rises by one; and a rebase takes 2^46 from every logical time, down
to 0, and inverts the epoch. -/
def Obligations.TimeEvents : Prop :=
  let Rebased (s t : State) : Prop :=
    t.epoch = !s.epoch ∧ (∀ c, (t.core c).lt = (s.core c).lt - 2 ^ 46) ∧
    (∀ d, (t.die d).mft = (s.die d).mft - 2 ^ 46 ∧ (t.die d).tcount = (s.die d).tcount) ∧
    (∀ l h, Tab.find s.home l = some h → ∃ h', Tab.find t.home l = some h' ∧ h'.wts = h.wts - 2 ^ 46 ∧ h'.rts = h.rts - 2 ^ 46 ∧
      h'.pin = h.pin ∧ h'.dirty = h.dirty) ∧
    (∀ c l x, Tab.find (s.core c).l1 l = some x →
      Tab.find (t.core c).l1 l = some { x with wts := x.wts - 2 ^ 46, rts := x.rts - 2 ^ 46 }) ∧
    t.mem = s.mem ∧ t.groups = s.groups ∧ t.lineMeta = s.lineMeta
  (∀ s, Happens .tcountTick .tcountTick s fun t =>
    t.die0.tcount = s.die0.tcount + 1 ∧ t.die1.tcount = s.die1.tcount + 1 ∧
    (s.heldCharges = [] → t.mem = s.mem ∧ (∀ n, t.part n = { s.part n with second := none }) ∧
    (∀ k, t.fileOf k = s.fileOf k) ∧
    ∀ k g, s.group? k = some g → g.privileged = false → ∃ g', t.group? k = some g' ∧ g'.pcs = g.pcs ∧ g'.block = g.block ∧
      g'.suspension = g.suspension ∧ g'.ready = g.ready ∧
      g'.wait = if (s.part (partOf k)).turn.map (·.place) = some (keyPlace k) then g.wait
        else if g.ready then g.wait + (t.cycles (dieOfCore (keyCore k)) - s.cycles (dieOfCore (keyCore k))) else 0)) ∧
  (∀ s k g n, s.group? k = some g → g.block = .sleep n →
    (n ≤ s.cycles (dieOfCore (keyCore k)) → Happens .sleepExpiry (.sleepExpiry k) s fun t =>
      t.group? k = some { g with block := .none } ∧ (∀ j, j ≠ k → t.group? j = s.group? j) ∧ t.mem = s.mem) ∧
    (s.cycles (dieOfCore (keyCore k)) < n → Happens .sleepExpiry (.sleepExpiry k) s fun t => t = s)) ∧
  (∀ s d, d < 2 →
    (1024 * ((s.die d).ltTicks + 1) ≤ s.cycles d → Happens .ltTick (.ltTick d) s fun t =>
      (∀ c, c < 2064 → (t.core c).lt = (s.core c).lt + if dieOfCore c = d then 1 else 0) ∧
      (t.die d).ltTicks = (s.die d).ltTicks + 1 ∧ (∀ x, (t.die x).mft = (s.die x).mft) ∧
      t.mem = s.mem ∧ t.groups = s.groups ∧ t.home = s.home) ∧
    (s.cycles d < 1024 * ((s.die d).ltTicks + 1) → Happens .ltTick (.ltTick d) s fun t => t = s)) ∧
  (∀ s, s.mustRebase = true → Happens .rebase .rebase s fun t => Rebased s t) ∧
  (∀ s, s.mustRebase = false → Happens .rebase .rebase s fun t => t = s) ∧
  (∀ s, Happens .rebaseSignal .rebaseSignal s fun t => Rebased s t)

/-- R102 to R107 and R112 to R115: a load's renewal at its home grants it a lease of 8 above its time; a store or atomic is
performed at its home above every lease and gives the line its write time; a request from the other die goes through the
issuing die's L2, which grants of its own lease at most 8 above the time that the request carries; a reply writes the lane's
registers, a load that races taking a value that its location has held (log 98), and raises its core's logical time; an access that a pin
refuses changes nothing, is repeated, and raises a domain violation after 65,536 cycles; an evicted line leaves its lease end in its
die's MFT. -/
def Obligations.AccessEvents : Prop :=
  let lineAt (s : State) (a : Access) : Nat := lineOf (s.norm a.pa)
  let Reach (s : State) (id : Nat) (a : Access) : Prop :=
    Tab.find s.accesses id = some a ∧ s.homeFault a = none ∧ s.isLocal (s.norm a.pa) = true ∧
      (s.die (s.homeDie a.pa)).resetting = false ∧ s.ownedAway (lineAt s a) = false ∧ s.norm a.pa % 64 + a.size ≤ 64 ∧ s.l2Room 1
  let Kept (s t : State) (a : Access) : Prop :=
    (∀ k, (t.group? k).map (fun g => { g with fences := [] }) = (s.group? k).map fun g => { g with fences := [] }) ∧
      (∀ g, s.group? a.grp = some g → g.fences = [] → t.groups = s.groups)
  let Status (t : State) (id : Nat) (a : Access) (v : AccStatus) : Prop := Tab.find t.accesses id = some { a with status := v }
  let pin (s : State) (a : Access) : Option Pin :=
    if a.control && (s.homeLine (lineAt s a)).pin.isNone then some ((s.agentOf a.grp).pin a.dom) else (s.homeLine (lineAt s a)).pin
  let Loaded (s : State) (id : Nat) (a : Access) (T : Nat) (own : Option Nat) (t : State) : Prop :=
    let h := s.homeLine (lineAt s a)
    let r := max h.rts (T + 8)
    Status t id a (.replied (lineAt s a) h.wts r (min r (own.getD r)) (packReply 0 (s.lineData (lineAt s a)))) ∧
      Tab.find t.home (lineAt s a) = some ⟨h.wts, r, pin s a, h.dirty⟩ ∧
      (∀ m, m ≠ lineAt s a → Tab.find t.home m = Tab.find s.home m) ∧
      t.mem = s.mem ∧ Kept s t a ∧ t.cores = s.cores
  let Stored (s : State) (id : Nat) (a : Access) (T : Nat) (t : State) : Prop :=
    let l := lineAt s a
    let h := s.homeLine l
    let w := max T ((if s.lineState l = 1 then max h.rts (s.leaseEnd l) else h.rts) + 1)
    let old := s.peekLE (s.norm a.pa) a.size
    Status t id a (.replied l w w w (packReply old (t.lineData l))) ∧ Tab.find t.home l = some ⟨w, w, pin s a, true⟩ ∧
      (∀ m, m ≠ l → Tab.find t.home m = Tab.find s.home m) ∧
      (match a.newValue old with
        | none => t.mem = s.mem
        | some v => readBytes (memRead t.mem) (s.norm a.pa) a.size = v % 256 ^ a.size ∧
          ∀ b, b < s.norm a.pa ∨ s.norm a.pa + a.size ≤ b → memRead t.mem b = memRead s.mem b) ∧
      Kept s t a ∧ t.cores = s.cores
  let writer (s : State) (a : Access) : Nat := if a.rlx then a.lt else s.ltOf a.grp
  let Completed (s t : State) (a : Access) (g g' : Group) : Prop :=
    ∀ o, Tab.find s.ops a.op = some o → o.grp = a.grp → 1 ≤ o.c → o.c ≤ 3 →
      if o.left &&& ~~~ (maskOf [a.lane]) = 0 then Tab.find t.ops a.op = none ∧ g'.counter o.c = g.counter o.c - 1
      else Tab.find t.ops a.op = some { o with left := o.left &&& ~~~ (maskOf [a.lane]) } ∧ g'.counter o.c = g.counter o.c
  let Taken (s : State) (id : Nat) (a : Access) (g : Group) (t : State) (words : Nat) (v lt : Nat) : Prop :=
    ∃ g', t.group? a.grp = some g' ∧
      (∀ i, i < words → ∀ l, l < 32 → g'.vreg (a.reg + i) l =
        if l = a.lane then BitVec.ofNat 32 (v / 2 ^ (32 * i)) else g.vreg (a.reg + i) l) ∧
      OnlyWrites g g' ((List.range words).map (a.reg + ·)) [] [] ∧ g'.pcs = g.pcs ∧ Completed s t a g g' ∧
      Tab.find t.accesses id = none ∧ (t.core (keyCore a.grp)).lt = max (s.core (keyCore a.grp)).lt lt ∧ t.mem = s.mem ∧ t.home = s.home
  let Waits (s : State) (id : Nat) (a : Access) (g : Group) : Prop :=
    Tab.find s.accesses id = some a ∧ s.group? a.grp = some g ∧ a.dead = [] ∧ (s.logOf a.grp).any (·.2.replaying) = false ∧
      s.l2Room 1
  (∀ s id a, Reach s id a → s.mayPerform id a = true → s.refusing a = none → a.kind = .load →
    (a.status = .waiting → s.crossDie a = false → Happens .homeRenewal (.homeRenewal id) s fun t =>
      Loaded s id a (s.ltOf a.grp) none t) ∧
    (∀ T, a.status = .forwarded T → Happens .homeRenewal (.homeRenewal id) s fun t => Loaded s id a T (some (T - 16)) t)) ∧
  (∀ s id a, Reach s id a → s.mayPerform id a = true → s.refusing a = none → a.kind ≠ .load → a.status = .waiting →
    Happens .homeWrite (.homeWrite id) s fun t => Stored s id a (writer s a) t) ∧
  (∀ s id a, Reach s id a → s.mayPerform id a = true → (s.refusing a).isSome = true → a.kind ≠ .load → a.status = .waiting →
    Happens .homeWrite (.homeWrite id) s fun t =>
      Status t id a (.refused (s.cycles (dieOfCore (keyCore a.grp)))) ∧ t.mem = s.mem ∧ t.home = s.home ∧ t.groups = s.groups) ∧
  (∀ s id a c, Reach s id a → a.status = .refused c →
    (s.refusing a = none → a.kind ≠ .load → Happens .pinRetry (.pinRetry id) s fun t => Stored s id a (writer s a) t) ∧
    (s.refusing a = none → a.kind = .load → Happens .pinRetry (.pinRetry id) s fun t =>
      if s.crossDie a then Loaded s id a (s.ltOf a.grp + 24) (some (s.ltOf a.grp + 8)) t
      else Loaded s id a (s.ltOf a.grp) none t) ∧
    ((s.refusing a).isSome = true → Happens .pinRetry (.pinRetry id) s fun t =>
      Status t id a (.refused c) ∧ t.mem = s.mem ∧ t.home = s.home ∧ t.groups = s.groups)) ∧
  (∀ s id a, Tab.find s.accesses id = some a → s.mayPerform id a = true → a.kind = .load → a.status = .waiting →
    s.crossDie a = true → Happens .remoteL2Renewal (.remoteL2Renewal id) s fun t =>
      (match Tab.find (s.die (dieOfCore (keyCore a.grp))).copies (lineAt s a) with
        | some c =>
          if s.ltOf a.grp ≤ c.rts ∧ s.refusing a = none then
            Status t id a (.replied (lineAt s a) c.wts c.rts (min c.rts (s.ltOf a.grp + 8)) (packReply 0 c.data))
          else Status t id a (.forwarded (s.ltOf a.grp + 24))
        | none => Status t id a (.forwarded (s.ltOf a.grp + 24))) ∧ t.mem = s.mem ∧ t.home = s.home ∧ Kept s t a) ∧
  (∀ s id a g w r e v, Waits s id a g → a.kind = .load → a.status = .replied (lineAt s a) w r e v →
    (s.ltOf a.grp ≤ e → s.raced a = [] → Happens .memoryReply (.memoryReply id) s fun t =>
      Taken s id a g t (memResultWords a.code) (loadValue a.code (lineField (v / 2 ^ 128) (s.norm a.pa % 64) a.size)) w) ∧
    (∀ b, s.ltOf a.grp ≤ e → s.raced a ≠ [] → Tab.find s.races (s.norm a.pa / 16) = some b → b.images ≠ [] →
      Happens .memoryReply (.memoryReply id) s fun t => ∃ x, x ∈ b.images ∧
        Taken s id a g t (memResultWords a.code) (loadValue a.code (bits x (8 * (s.norm a.pa % 16)) (8 * a.size))) w) ∧
    (e < s.ltOf a.grp → s.unheld (lineAt s a * 64) = false → Happens .memoryReply (.memoryReply id) s fun t =>
      Status t id a .waiting ∧ t.groups = s.groups)) ∧
  (∀ s id a g c, Waits s id a g → a.kind = .load → a.status = .waiting → s.mayPerform id a = true → s.refusing a = none →
    Tab.find (s.core (keyCore a.grp)).l1 (lineAt s a) = some c → s.ltOf a.grp ≤ c.rts → s.raced a = [] →
    Happens .memoryReply (.memoryReply id) s fun t =>
      Taken s id a g t (memResultWords a.code) (loadValue a.code (lineField c.data (s.norm a.pa % 64) a.size)) c.wts) ∧
  (∀ s id a g w r e v, Waits s id a g → a.status = .replied (lineAt s a) w r e v →
    (a.kind = .atomic → Happens .memoryReply (.memoryReply id) s fun t =>
      Taken s id a g t (memResultWords a.code) (v % 2 ^ 128) w) ∧
    (a.kind = .store → Happens .memoryReply (.memoryReply id) s fun t => Taken s id a g t 0 0 w)) ∧
  (∀ s id a g o p c, Tab.find s.accesses id = some a → a.status = .refused c → s.refusing a = some p → s.group? a.grp = some g →
    a.grp < 0x20000 → a.lane < 32 → g.cancelled = false → g.suspension = none → c + 65536 ≤ s.cycles (dieOfCore (keyCore a.grp)) →
    (s.freeEntry (partOf a.grp)).isSome = true → Tab.find s.ops a.op = some o →
    Happens .domainViolation (.domainViolation id) s fun t => Tab.find t.accesses id ≠ some a ∧ ∃ g' m, t.group? a.grp = some g' ∧
      m.getLsbD a.lane = true ∧ SuspendedAs t a.grp g' 0x0402 m o.pc (s.pinInfo p % 2 ^ 64) (keyCore a.grp % 2048 % 2 ^ 64) ∧
      ∀ j, j ≠ a.grp → t.group? j = s.group? j) ∧
  (∀ s l h, Tab.find s.home l = some h → s.isLocal (l * 64) = true → Happens .l2Eviction (.l2Eviction l) s fun t =>
    Tab.find t.home l = none ∧ (t.die (s.homeDie (l * 64))).mft = max (s.die (s.homeDie (l * 64))).mft h.rts ∧
    (t.homeLine l).wts = max (s.die (s.homeDie (l * 64))).mft h.rts ∧ (t.homeLine l).pin = none ∧
    t.mem = s.mem ∧ t.groups = s.groups ∧ t.lineMeta = s.lineMeta)

/-- R108, R110, R111, R113, R373 and R427: what a request of another device, over a link that carries coherent traffic, does to a
line's metadata at its home, and what a request does to a line that this device owns; a request for a line of control class that
another instance has pinned changes nothing, and one for an unpinned line pins it; an owner's write-back brings data and write time
home; the fabric manager reclaims a lost line with a write time above MFT + 1,984. A time of the epoch before has 2^46 taken from it, down to 0, and a time of the epoch after is
held. That a device of the other epoch bit is in the epoch before until it has been heard in this one is a reading of the model
(log 37), and so is the lease bucket 0 of a line that passes to M (log 110). -/
def Obligations.FabricLineEvents : Prop :=
  let Meta (s t : State) (l state owner bucket : Nat) : Prop :=
    t.lineState l = state ∧ t.lineOwner l = owner ∧ t.lineBucket l = bucket ∧
      ∀ m, m ≠ l → Tab.find t.lineMeta m = Tab.find s.lineMeta m
  let Rest (s t : State) : Prop := t.mem = s.mem ∧ t.groups = s.groups ∧ t.cores = s.cores ∧ t.csr = s.csr
  let bucket (s : State) (l T : Nat) : Nat :=
    let mft := (s.die (s.homeDie (l * 64))).mft
    min 31 ((max (T + 32) (s.leaseEnd l) - mft + 63) / 64)
  let Of (s : State) (d time : Nat) (e : Bool) (T : Nat) : Prop :=
    (e = s.epoch ∧ T = time) ∨ (e ≠ s.epoch ∧ d ∈ s.behind ∧ T = time - 2 ^ 46)
  (∀ s d l time e T, l < 2 ^ 34 → Of s d time e T → s.linkedTo d = true → s.l2Room 1 →
    (s.lineState l ≤ 1 → Happens .fabricRead (.fabricRead d l time e none) s fun t => Meta s t l 1 0 (bucket s l T) ∧ Rest s t) ∧
    (2 ≤ s.lineState l → s.lineState l ≤ 4 → s.lineOwner l ≠ d → Happens .fabricRead (.fabricRead d l time e none) s fun t =>
      Meta s t l 4 (s.lineOwner l) (bucket s l T) ∧ t.home = s.home ∧ Rest s t) ∧
    (s.lineState l = 5 → Happens .fabricRead (.fabricRead d l time e none) s fun t => t = s)) ∧
  (∀ s d l time e T, d < 256 → l < 2 ^ 34 → Of s d time e T → s.linkedTo d = true → s.l2Room 1 →
    (s.lineState l ≤ 1 → Happens .fabricWrite (.fabricWrite d l time e none) s fun t => Meta s t l 3 d 0 ∧ Rest s t ∧
      ∃ h, Tab.find t.home l = some h ∧ h.rts = h.wts ∧
        h.wts = max T ((if s.lineState l = 1 then max (s.homeLine l).rts (s.leaseEnd l) else (s.homeLine l).rts) + 1)) ∧
    (2 ≤ s.lineState l → s.lineState l ≤ 4 → s.lineOwner l ≠ d → Happens .fabricWrite (.fabricWrite d l time e none) s fun t =>
      Meta s t l 3 d 0 ∧ t.home = s.home ∧ Rest s t)) ∧
  (∀ s d l time e, s.linkedTo d = false →
    (Happens .fabricRead (.fabricRead d l time e none) s fun t => t = s) ∧
    Happens .fabricWrite (.fabricWrite d l time e none) s fun t => t = s) ∧
  (∀ s d l time e, e ≠ s.epoch → d ∉ s.behind →
    (Happens .fabricRead (.fabricRead d l time e none) s fun t => t = s) ∧
    Happens .fabricWrite (.fabricWrite d l time e none) s fun t => t = s) ∧
  (∀ s d l time e T, (s.remoteDev (l * 64)).isSome = true → s.owns (l * 64) = true → s.linkedTo d = true → Of s d time e T →
    (Happens .ownerForward (.ownerForward d l time false e none) s fun t =>
      Tab.find t.home l = some { s.homeLine l with rts := max (s.homeLine l).rts (T + 8) } ∧ Rest s t) ∧
    Happens .ownerForward (.ownerForward d l time true e none) s fun t =>
      t.owns (l * 64) = false ∧ (∀ b, b / 64 ≠ l → memRead t.mem b = memRead s.mem b) ∧ t.groups = s.groups) ∧
  (∀ s d l (data : BitVec 512) time e T, l < 2 ^ 34 → Of s d time e T → s.ownedAway l = true → s.lineOwner l = d → s.linkedTo d = true → s.l2Room 1 →
    Happens .ownerWriteback (.ownerWriteback d l data time e) s fun t =>
      (if s.lineState l = 4 then Meta s t l 1 0 (s.lineBucket l) else Meta s t l 0 0 0) ∧
      readBytes (memRead t.mem) (l * 64) 64 = data.toNat ∧ (∀ b, b / 64 ≠ l → memRead t.mem b = memRead s.mem b) ∧
      (∃ h, Tab.find t.home l = some h ∧ h.wts = max (s.homeLine l).wts T) ∧ t.groups = s.groups) ∧
  (∀ s d l dom time e T, l < 2 ^ 34 → Of s d time e T → s.linkedTo d = true → s.lineState l ≤ 1 →
    let pinned (t : State) : Prop := ∃ h, Tab.find t.home l = some h ∧ h.pin = some ((s.farAgent d).pin dom)
    ((s.pinAgainst (s.farAgent d) (l * 64)).isSome = true →
      (Happens .fabricRead (.fabricRead d l time e (some dom)) s fun t => t = s) ∧
      Happens .fabricWrite (.fabricWrite d l time e (some dom)) s fun t => t = s) ∧
    ((s.homeLine l).pin = none → s.l2Room 1 →
      (Happens .fabricRead (.fabricRead d l time e (some dom)) s pinned) ∧
      Happens .fabricWrite (.fabricWrite d l time e (some dom)) s pinned)) ∧
  (∀ s l, l < 2 ^ 34 → s.l2Room 1 → Happens .lineReclaim (.lineReclaim l) s fun t =>
    Meta s t l 0 0 0 ∧ (∃ h, Tab.find t.home l = some h ∧ (s.die (s.homeDie (l * 64))).mft + 1984 < h.wts ∧ h.rts = h.wts) ∧
    Rest s t)

/-- R276, R369, R373, R425, R427 and R464: once the device runs, a link trains to the highest version that DLVER.selected and the partner allow, or stays
down; a port sends flits in sequence with their CRC, keeps the last 256 and replays from the one that the partner asks for in the
original order; it delivers the flits in sequence and asks for a replay of one whose CRC fails; a flit that fails 16 replays in a row,
or fewer than 2 lanes, makes it dead with its routes, which the fabric manager brings back; and a device can be declared dead. How each
side counts the replays that fail, and that a good flit out of sequence is dropped and counted nowhere, is the model's choice (log
64). -/
def Obligations.LinkEvents : Prop :=
  let Others (s t : State) (p : Nat) : Prop := (∀ q, q ≠ p → t.port q = s.port q) ∧ t.mem = s.mem ∧ t.groups = s.groups
  (∀ s p lo hi, s.ctl.fwstat ≠ 3 → Happens .linkTraining (.linkTraining p lo hi) s fun t => t = s) ∧
  (∀ s p lo hi, s.ctl.fwstat = 3 → Happens .linkTraining (.linkTraining p lo hi) s fun t =>
    let v := min s.ctl.dlver hi
    (t.port p).up = decide (0x0100 ≤ v ∧ lo ≤ v) ∧ ((t.port p).up = true → (t.port p).version = v) ∧
      (t.port p).rx = 0 ∧ (t.port p).delivered = [] ∧ (t.port p).lanes = (s.port p).lanes ∧ Others s t p) ∧
  (∀ s p (flit : BitVec 2048), (s.port p).up = true → (s.port p).dead = false →
    let seq := flit.toNat % 65536
    let good : Prop := (crc32c (leBytes flit.toNat 252)).toNat = flit.toNat / 2 ^ 2016 % 2 ^ 32
    (good → seq = (s.port p).rx → Happens .flitReceive (.flitReceive p flit) s fun t =>
      (t.port p).rx = (seq + 1) % 65536 ∧ (t.port p).delivered = (s.port p).delivered ++ [flit] ∧ (t.port p).replays = 0 ∧ (t.port p).dead = false ∧ Others s t p) ∧
    (good → seq ≠ (s.port p).rx → Happens .flitReceive (.flitReceive p flit) s fun t => t = s) ∧
    (¬ good → (s.port p).asked = false → Happens .flitReceive (.flitReceive p flit) s fun t =>
      (t.port p).asked = true ∧ (t.port p).rx = (s.port p).rx ∧ (t.port p).dead = false ∧ Others s t p) ∧
    (¬ good → (s.port p).asked = true → (s.port p).replays < 15 → Happens .flitReceive (.flitReceive p flit) s fun t =>
      (t.port p).replays = (s.port p).replays + 1 ∧ (t.port p).dead = false ∧ (t.port p).rx = (s.port p).rx ∧ Others s t p) ∧
    (¬ good → (s.port p).asked = true → 15 ≤ (s.port p).replays → s.colls = [] →
      Happens .flitReceive (.flitReceive p flit) s fun t =>
        (t.port p).dead = true ∧ (t.port p).routeDead = true ∧ Others s t p)) ∧
  (∀ s p seq n, seq < 65536 → (s.port p).up = true → (s.port p).dead = false → (s.port p).retry = some (seq, n) →
    (n < 16 → Happens .flitReplay (.flitReplay p seq) s fun t =>
      (t.port p).retry = some (seq, n + 1) ∧ (t.port p).dead = false ∧ Others s t p) ∧
    (16 ≤ n → s.colls = [] → Happens .flitReplay (.flitReplay p seq) s fun t =>
      (t.port p).dead = true ∧ (t.port p).routeDead = true ∧ Others s t p)) ∧
  (∀ s p seq n, seq < 65536 → (s.port p).up = true → (s.port p).dead = false → (s.port p).retry = some (seq, n) → n < 16 →
    Happens .flitReplay (.flitReplay p seq) s fun t => (t.port p).buffer = (s.port p).buffer ∧
      ∃ l, (s.port p).buffer = l ++ (s.port p).buffer.drop l.length ∧ (∀ b, b ∈ l → b.1 ≠ seq) ∧
        (∀ b, ((s.port p).buffer.drop l.length).head? = some b → b.1 = seq) ∧
        (t.port p).out = ((s.port p).buffer.drop l.length).map (·.2)) ∧
  (∀ s p head (v : BitVec 1952), (s.port p).up = true → (s.port p).dead = false → (s.port p).buffer.length ≤ 256 →
    (s.port p).tx < 65536 →
    let t := s.sendFlit p head v
    (t.port p).tx = ((s.port p).tx + 1) % 65536 ∧ (t.port p).buffer.length ≤ 256 ∧ Others s t p ∧
    ∃ flit : BitVec 2048, (t.port p).out = [flit] ∧ (t.port p).buffer.getLast? = some ((s.port p).tx, flit) ∧
      flit.toNat % 65536 = (s.port p).tx ∧ (crc32c (leBytes flit.toNat 252)).toNat = flit.toNat / 2 ^ 2016 % 2 ^ 32) ∧
  (∀ s p, 3 ≤ (s.port p).lanes → Happens .linkLaneFailure (.linkLaneFailure p) s fun t =>
    (t.port p).lanes = (s.port p).lanes - 1 ∧ (t.port p).dead = (s.port p).dead ∧ Others s t p) ∧
  (∀ s p, (s.port p).lanes = 2 → s.colls = [] → Happens .linkLaneFailure (.linkLaneFailure p) s fun t =>
    (t.port p).lanes = 1 ∧ (t.port p).dead = true ∧ (t.port p).routeDead = true ∧ Others s t p) ∧
  (∀ s p, (s.port p).routeDead = true → Happens .fabricRouteReprogram (.fabricRouteReprogram p) s fun t =>
    (t.port p).routeDead = false ∧ (t.port p).dead = (s.port p).dead ∧ Others s t p) ∧
  (∀ s d, Happens .deviceDeadDeclared (.deviceDeadDeclared d) s fun t =>
    (∀ x, x ∈ t.deadDevices ↔ x = d ∨ x ∈ s.deadDevices) ∧
    (s.colls = [] → t.mem = s.mem ∧ t.groups = s.groups ∧ t.lineMeta = s.lineMeta))

/-- R113, R116, R339 to R342, R345, R362, R366, R368 and R444: what host reads and writes of device memory and of the launch window
do, and that one which a pin refuses does nothing; the trigger that a write of a slot's last eight bytes pulls; the parse of the oldest copy, which refuses, holds or accepts it;
the release of the hold buffer; a snoop in CXL mode; and link-up. -/
def Obligations.HostEvents : Prop :=
  let Whole (s : State) (a n : Nat) : Prop :=
    a + n ≤ 2 ^ 40 ∧ s.hostHeld a n = false ∧ s.badLines = [] ∧ s.die0.lost = false ∧ s.die1.lost = false ∧
      ∀ b, a ≤ b → b < a + n → s.lineState (b / 64) ≤ 1
  let Queued (s t : State) (r : Nat) : Prop :=
    (∃ gr, t.grid? s.idCtr = some gr ∧ gr.record = r ∧ gr.ctx = recCtx r ∧ gr.tier = recTier r ∧ gr.parent = none ∧
      gr.depth = 0 ∧ gr.accepted = s.ticks 0 ∧ gr.next0 = 0 ∧ gr.live = 0) ∧
    Tab.get t.queues (recQueue r) [] = Tab.get s.queues (recQueue r) [] ++ [s.idCtr] ∧
    (∀ q, q ≠ recQueue r → Tab.get t.queues q [] = Tab.get s.queues q []) ∧ t.mem = s.mem ∧ t.groups = s.groups
  let Triggers (s t : State) (slot : Nat) : Prop :=
    let r := readBytes t.windowByte (256 * slot) 256
    let seq : DWord := BitVec.ofNat 64 (recSeq r)
    if s.csr.en = true ∧ seq ≠ 0 ∧ Tab.get s.lastTrigger slot 0 ≠ seq then
      Tab.get t.lastTrigger slot 0 = seq ∧
        ∀ x, x ∈ t.copies ↔ x = (slot + (if 16384 ≤ s.hold.length then 4096 else 0) + 8192 * s.ticks 0, r) ∨ x ∈ s.copies
    else t.copies = s.copies ∧ t.lastTrigger = s.lastTrigger
  (∀ s a n, s.hostHeld a n = true → (Happens .hostAccess (.hostAccess (.readMem a n)) s fun t => t = s) ∧
    ∀ v : BitVec 512, Happens .hostAccess (.hostAccess (.writeMem a n v)) s fun t => t = s) ∧
  (∀ s a n, Whole s a n →
    Happens .hostAccess (.hostAccess (.readMem a n)) s fun t =>
    t.hostReply = readBytes (memRead s.mem) a n ∧ t.mem = s.mem ∧ t.groups = s.groups) ∧
  (∀ s a n (v : BitVec 512), (Whole s a n ∧ s.l2Room 2) ∨ (2 ^ 51 ≤ a ∧ a + n ≤ 2 ^ 52 ∧ s.csr.cxl = false ∧ s.hostHeld a n = false) →
    n ≤ 64 →
    Happens .hostAccess (.hostAccess (.writeMem a n v)) s fun t =>
      readBytes (memRead t.mem) a n = v.toNat % 256 ^ n ∧
      (∀ b, b < a ∨ a + n ≤ b → memRead t.mem b = memRead s.mem b) ∧ t.groups = s.groups) ∧
  (∀ s o n, Happens .hostAccess (.hostAccess (.readWindow o n)) s fun t =>
    t.hostReply = readBytes s.windowByte o n ∧ t.mem = s.mem ∧ t.window = s.window) ∧
  (∀ s o n (v : BitVec 512), n ≤ 64 → Happens .hostAccess (.hostAccess (.writeWindow o n v)) s fun t =>
    readBytes t.windowByte o n = v.toNat % 256 ^ n ∧ (∀ b, b < o ∨ o + n ≤ b → t.windowByte b = s.windowByte b) ∧
    (∀ slot, o ≤ 256 * slot + 248 → 256 * slot + 256 ≤ o + n → Triggers s t slot) ∧
    ((∀ slot, 256 * slot + 248 < o ∨ o + n < 256 * slot + 256) → t.copies = s.copies) ∧ t.mem = s.mem ∧ t.groups = s.groups) ∧
  (∀ s, Happens .hostAccess (.hostAccess (.readControl 0)) s fun t => t.hostReply = 0xB1 ∧ t.mem = s.mem ∧ t.ctl = s.ctl) ∧
  (∀ s slot (v : DWord), Happens .launchTrigger (.launchTrigger slot v) s fun t =>
    readBytes t.windowByte (256 * slot + 248) 8 = v.toNat ∧
    (∀ b, b < 256 * slot + 248 ∨ 256 * slot + 256 ≤ b → t.windowByte b = s.windowByte b) ∧
    Triggers s t slot ∧ t.mem = s.mem ∧ t.groups = s.groups) ∧
  (∀ s tag r rest, s.copies = (tag, r) :: rest → tag / 8192 < s.ticks 0 → s.spaceFrozen (recCtx r) = false →
    recCompletion r = 0 →
    (∀ c, s.copyRefusal tag r = some c → Happens .launchRecordParse .launchRecordParse s fun t =>
      t.copies = rest ∧ t.hold = s.hold ∧ t.queues = s.queues ∧ t.grids = s.grids ∧
      bits t.ctl.lrefuse.toNat 0 32 = min (bits s.ctl.lrefuse.toNat 0 32 + 1) (2 ^ 32 - 1) ∧
      bits t.ctl.lrefuse.toNat 32 12 = tag % 4096 ∧ bits t.ctl.lrefuse.toNat 48 16 = c % 2 ^ 16 ∧
      t.mem = s.mem ∧ t.groups = s.groups) ∧
    (s.copyRefusal tag r = none → recKind r ≠ 2 → s.queueFull (recQueue r) = false →
      (∀ h, h ∈ s.hold → recQueue h.2 ≠ recQueue r) → Happens .launchRecordParse .launchRecordParse s fun t =>
        Queued s t r ∧ t.copies = rest ∧ t.hold = s.hold) ∧
    (s.copyRefusal tag r = none → recKind r ≠ 2 → s.queueFull (recQueue r) = true ∨ (∃ h, h ∈ s.hold ∧ recQueue h.2 = recQueue r) →
      s.hold.length < 16384 → Happens .launchRecordParse .launchRecordParse s fun t =>
        t.copies = rest ∧ t.hold = s.hold ++ [(tag % 4096, r)] ∧ t.queues = s.queues ∧ t.grids = s.grids ∧ t.mem = s.mem)) ∧
  (∀ s l1 h l2, s.hold = l1 ++ h :: l2 → (∀ x, x ∈ l1 → s.queueFull (recQueue x.2) = true) → s.queueFull (recQueue h.2) = false →
    s.spaceFrozen (recCtx h.2) = false → recKind h.2 ≠ 2 → recCompletion h.2 = 0 →
    Happens .holdBufferRelease .holdBufferRelease s fun t => Queued s t h.2 ∧ t.hold = l1 ++ l2) ∧
  (∀ s l (own : Bool) (data : BitVec 512), s.csr.cxl = true → 2 ^ 45 ≤ l → l < 2 ^ 46 → (Tab.find s.home l).isSome = true →
    s.badLines = [] → s.hostHeld (l * 64) 64 = false → Happens .hostSnoop (.hostSnoop l own data) s fun t =>
      (if own then readBytes (memRead t.mem) (l * 64) 64 = data.toNat ∧ ∀ b, b / 64 ≠ l → memRead t.mem b = memRead s.mem b
        else t.hostReply = readBytes (memRead s.mem) (l * 64) 64 ∧ t.mem = s.mem) ∧ t.groups = s.groups) ∧
  (∀ s (cxl : Bool), Happens .hostLinkUp (.hostLinkUp cxl) s fun t =>
    t.csr.cxl = cxl ∧ t.csr.en = s.csr.en ∧ t.mem = s.mem ∧ t.groups = s.groups)

/-- R32, R38, R52, R58, R208, R345, R348, R350 and R431: a decision of a die's dispatcher places the next team of the first of
its eight best entries that fits a core, moves the placement pointer past the core, and does nothing twice in a tick; a placed
team starts its groups at the word after the entry header, with the parameter block in its first registers and the priority of
its tier; an exited group whose memory instructions have completed gives up its place; a team without groups and commands
leaves; and a grid that is done writes its completion record and retires. That a grid with a share on a lost die writes its record of
0x0405 when the surviving share and the children have completed is the model's choice (log 59). -/
def Obligations.DispatchEvents : Prop :=
  (∀ s d x c tix, d < 2 → (s.die d).lost = false → (s.die d).resetting = false → (s.die d).decided ≠ s.ticks d + 1 →
    s.cands d ≠ [] → s.firstFit d ((s.decisionOrder d).1.take 8) = some (x, c) → x.work = .fresh tix →
    s.grid? x.id = some x.g → x.g.needsParams = false → Happens .dispatchDecision (.dispatchDecision d) s fun t =>
      s.fits c (x.g.need x.id none) = true ∧ dieOfCore c = d ∧
      (∃ id tm, t.team? id = some tm ∧ tm.grid = x.id ∧ tm.tix = tix ∧ tm.core = c ∧ tm.resident = false ∧
        tm.winW = recWindow x.g.record ∧ tm.scratchSize = recScratch x.g.record ∧
        tm.groups.map (·.2) = List.range (recGroups x.g.record) ∧ ∀ j, j ≠ id → t.team? j = s.team? j) ∧
      (∃ g', t.grid? x.id = some g' ∧ g'.live = x.g.live + 1 ∧ g'.next d = tix + 1 - (x.g.share d).1) ∧
      (t.die d).placePtr = (c % 1024 + 1) % 1024 ∧ (t.die d).decisions = (s.die d).decisions + 1 ∧
      t.groups = s.groups ∧ t.mem = s.mem) ∧
  (∀ s d, d < 2 → (s.die d).lost = false → (s.die d).resetting = false → (s.die d).decided ≠ s.ticks d + 1 →
    s.cands d ≠ [] → s.firstFit d ((s.decisionOrder d).1.take 8) = none →
    Happens .dispatchDecision (.dispatchDecision d) s fun t =>
      (t.die d).decisions = (s.die d).decisions + 1 ∧ t.teams = s.teams ∧ t.groups = s.groups ∧ t.mem = s.mem) ∧
  (∀ s d, (s.die d).lost = true ∨ (s.die d).resetting = true ∨ (s.die d).decided = s.ticks d + 1 ∨ s.cands d = [] →
    Happens .dispatchDecision (.dispatchDecision d) s fun t => t = s) ∧
  (∀ s id tm g h e, s.team? id = some tm → s.grid? tm.grid = some g → tm.resident = false → Tab.find s.saved id = none →
    g.emptyTeam tm.tix = false → (tm.groups.map (·.1)).Nodup → (∀ x, x ∈ tm.groups → x.1 < 0x20000 ∧ keyCore x.1 = tm.core) →
    recEntry g.record % 64 = 0 →
    let va := s.codeVa g.ctx (recEntry g.record)
    s.frozenAt (s.asidOf g.ctx) va = false →
    (tlbFind (s.core tm.core).tlb (s.asidOf g.ctx) va).filter (·.serves .fetch) = some e →
    permFault e .fetch (s.regionOf g.ctx va) = none → s.spanFault (e.phys va) 4 false = none →
    h = BitVec.ofNat 32 (s.peekLE (e.phys va) 4) →
    hdrData h = false → hdrReason h 0 false = none →
    Happens .teamResident (.teamResident id) s fun t =>
      (∃ tm', t.team? id = some tm' ∧ tm'.resident = true ∧ tm'.groups = tm.groups ∧ tm'.core = tm.core) ∧
      (∀ k gid, (k, gid) ∈ tm.groups → ∃ q, t.group? k = some q ∧ q.privileged = false ∧ q.team = id ∧ q.gid = gid ∧
        q.pcs = List.replicate 32 (BitVec.ofNat 32 (recEntry g.record + 4)) ∧ q.pri = 6 - 2 * g.tier ∧
        q.suspension = none ∧ q.exited = false ∧
        (∀ r l, r < (g.params.getD []).length → l < 32 → q.vreg r l = ((g.params.getD [])[r]?).getD 0)) ∧
      (∀ j, j ∉ tm.groups.map (·.1) → t.group? j = s.group? j) ∧ t.mem = s.mem) ∧
  (∀ s id tm g, s.team? id = some tm → s.grid? tm.grid = some g → tm.resident = false → Tab.find s.saved id = none →
    g.emptyTeam tm.tix = true → Happens .teamResident (.teamResident id) s fun t =>
      t.team? id = none ∧ t.groups = s.groups ∧ ∃ g', t.grid? tm.grid = some g' ∧ g'.live = g.live - 1) ∧
  (∀ s k g tm, s.group? k = some g → g.privileged = false → g.exited = true → s.team? g.team = some tm →
    (s.quiet k = true → Happens .groupPlaceRelease (.groupPlaceRelease k) s fun t =>
      t.group? k = none ∧ (∀ j, j ≠ k → t.group? j = s.group? j) ∧
      t.team? g.team = some { tm with groups := tm.groups.filter fun x => x.1 ≠ k } ∧ t.mem = s.mem) ∧
    (s.quiet k = false → Happens .groupPlaceRelease (.groupPlaceRelease k) s fun t => t = s)) ∧
  (∀ s id tm g, s.team? id = some tm → tm.resident = true → tm.groups = [] → s.grid? tm.grid = some g →
    (s.teamBusy id = false → Happens .teamLeave (.teamLeave id) s fun t =>
      t.team? id = none ∧ (∀ j, j ≠ id → t.team? j = s.team? j) ∧ (∃ g', t.grid? tm.grid = some g' ∧ g'.live = g.live - 1) ∧
      t.groups = s.groups ∧ t.mem = s.mem) ∧
    (s.teamBusy id = true → Happens .teamLeave (.teamLeave id) s fun t => t = s)) ∧
  (∀ s n g, s.grid? n = some g → s.gridDone n g = true → g.cut ≠ 2 → s.heldAt g.ctx (recCompletion g.record) = false →
    let done (code : Nat) : Nat := completionBits (recSeq g.record) 2 code (missedBy (s.ticks 0) (recDeadline g.record)) g.accepted
      (s.ticks 0) (recDeadline g.record)
    let Written (t : State) (code : Nat) : Prop :=
      if recCompletion g.record = 0 then t.mem = s.mem
      else ∀ s1 u, writeVirt s g.ctx (recCompletion g.record) 64 (done code) = (s1, .ok u) → t.mem = s1.mem
    (s.shareLost n g = false → Happens .gridRetire (.gridRetire n) s fun t =>
      t.grid? n = none ∧ Tab.get t.queues g.queue [] = (Tab.get s.queues g.queue []).filter (· ≠ n) ∧ Written t g.code ∧
      (g.parent.isSome = true → (t.context g.ctx).children = (s.context g.ctx).children - 1) ∧
      ∀ k q ns, s.group? k = some q → q.block = .waitch ns → (∀ m, m ∈ ns → m = n ∨ s.grid? m = none) →
        ∃ q', t.group? k = some q' ∧ q'.block = .none ∧ q'.file = q.file ∧ q'.pcs = q.pcs) ∧
    (s.shareLost n g = true → Happens .gridRetire (.gridRetire n) s fun t =>
      (∃ g', t.grid? n = some g' ∧ g'.cut = 2) ∧ t.queues = s.queues ∧ Written t 0x0405)) ∧
  (∀ s n g, s.grid? n = some g → s.gridDone n g = false → Happens .gridRetire (.gridRetire n) s fun t => t = s)

/-- R351 to R356, R361, R411 and R448: an entry at effective tier 0 that has waited pdelay ticks pre-empts the teams of its
victim core, or waits again when the save pool is full; a drained team is saved with its groups; a pre-emption that has not
drained in 1,000,000 ticks is abandoned; a placed saved team is restored, a suspension's record naming the new place; and the
batch former stops when its record says so, and waits 10,000 ticks when it has nothing to launch. The size of a save area
(log 38), the order of victims with several teams (log 39), the record of a restored suspension (log 40), the restored fetches
(log 67) and where the wait of an entry starts again (log 68) are the model's choices. -/
def Obligations.PreemptionAndFormerEvents : Prop :=
  (∀ s d n g w c, s.grid? n = some g → s.nextWork n g d = some w → s.csr.savesize ≠ 0 → (s.die d).lost = false →
    g.ready.isSome = true → (s.effective g).1 = 0 → s.preemptBusy g = false → g.unplaced d + s.pdelay ≤ s.ticks 0 →
    s.pickCore d (w.need n g) = none → s.victim d (w.need n g) = some c →
    let need := (s.coreTeams c).foldl (fun n x => n + s.saveUnits x.2) 0
    (s.unitsUsed + need ≤ s.csr.savesize → Happens .preemptVictimChoice (.preemptVictimChoice d n) s fun t =>
      s.mayPreempt c = true ∧ (∀ id tm, s.team? id = some tm → tm.core = c →
        ∃ tm', t.team? id = some tm' ∧ tm'.preempt = some (s.ticks 0) ∧ tm'.groups = tm.groups ∧ tm'.core = c) ∧
      (∃ g', t.grid? n = some g' ∧ g'.preempting = some c) ∧ t.groups = s.groups ∧ t.mem = s.mem) ∧
    (s.csr.savesize < s.unitsUsed + need → Happens .preemptVictimChoice (.preemptVictimChoice d n) s fun t =>
      t.teams = s.teams ∧ (∃ g', t.grid? n = some g' ∧ g'.unplaced d = s.ticks 0) ∧ t.groups = s.groups ∧ t.mem = s.mem)) ∧
  (∀ s id tm, s.team? id = some tm → tm.preempt.isSome = true →
    (tm.groups.any fun k => (s.group? k.1).any fun g => !g.exited) = true →
    (s.drained id tm = true → Happens .preemptSave (.preemptSave id) s fun t =>
      t.team? id = none ∧ (∃ v, Tab.find t.saved id = some v ∧ v.team = tm ∧ v.die = dieOfCore tm.core ∧
        v.units = s.saveUnits tm ∧ v.groups = s.groups.filter fun x => (tm.groups.map (·.1)).contains x.1) ∧
      (∀ k, t.group? k = if (tm.groups.map (·.1)).contains k then none else s.group? k) ∧ t.mem = s.mem) ∧
    (s.drained id tm = false → Happens .preemptSave (.preemptSave id) s fun t => t = s)) ∧
  (∀ s id tm n, s.team? id = some tm → tm.preempt = some n → s.drained id tm = false →
    (n + 1000000 ≤ s.ticks 0 → Happens .preemptAbandon (.preemptAbandon id) s fun t =>
      (∀ j tj, s.team? j = some tj → tj.core = tm.core → ∃ tj', t.team? j = some tj' ∧ tj'.preempt = none ∧ tj'.groups = tj.groups) ∧
      (∀ m g, s.grid? m = some g → g.preempting = some tm.core → ∃ g', t.grid? m = some g' ∧ g'.preempting = none ∧
        g'.unplaced0 = s.ticks 0 ∧ g'.unplaced1 = s.ticks 0) ∧ t.groups = s.groups ∧ t.mem = s.mem) ∧
    (s.ticks 0 < n + 1000000 → Happens .preemptAbandon (.preemptAbandon id) s fun t => t = s)) ∧
  (∀ s id tm v, s.team? id = some tm → Tab.find s.saved id = some v → tm.resident = false →
    s.logRoom (newKey v.team.groups tm.groups) v = true →
    (v.groups.map fun x => newKey v.team.groups tm.groups x.1).Nodup → (∀ e, e ∈ v.logs → e.replaying = false) →
    (∀ x, x ∈ v.groups → s.logOf (newKey v.team.groups tm.groups x.1) = []) →
    Happens .teamRestore (.teamRestore id tm.core) s fun t =>
      Tab.find t.saved id = none ∧ (∃ tm', t.team? id = some tm' ∧ tm'.resident = true ∧ tm'.core = tm.core) ∧
      ∀ k q, (k, q) ∈ v.groups → ∃ q', t.group? (newKey v.team.groups tm.groups k) = some q' ∧ q'.file = q.file ∧
        q'.pcs = q.pcs ∧ q'.fetchWait = [] ∧ ∀ z, q.suspension = some z → q'.suspension =
          some { z with record := recordAt z.record (newKey v.team.groups tm.groups k), delivered := false }) ∧
  (∀ s x f, Tab.find s.formers x = some f → f.grid = none → f.idleAt = none → f.pending = some none → s.spaceFrozen x = false →
    Happens .batchFormerStep (.batchFormerStep x) s fun t => Tab.find t.formers x = none ∧ t.mem = s.mem ∧ t.groups = s.groups) ∧
  (∀ s x f, Tab.find s.formers x = some f → f.grid = none → f.pending = none → f.slots = [] → dsEntries f.desc = 0 →
    s.spaceFrozen x = false →
    let Idles (t : State) : Prop :=
      (∃ f', Tab.find t.formers x = some f' ∧ f'.idleAt = some (s.ticks 0 + 10000) ∧ f'.grid = none ∧ f'.slots = []) ∧
        t.mem = s.mem ∧ t.groups = s.groups ∧ t.grids = s.grids
    (f.idleAt = none → Happens .batchFormerStep (.batchFormerStep x) s Idles) ∧
    (∀ n, f.idleAt = some n → n ≤ s.ticks 0 → Happens .batchFormerIdleTimer (.batchFormerIdleTimer x) s Idles) ∧
    (∀ n, f.idleAt = some n → s.ticks 0 < n → Happens .batchFormerIdleTimer (.batchFormerIdleTimer x) s fun t => t = s)) ∧
  (∀ s x f, Tab.find s.formers x = some f → f.grid.isSome = true →
    (Happens .batchFormerStep (.batchFormerStep x) s fun t => t = s) ∧
    Happens .batchFormerIdleTimer (.batchFormerIdleTimer x) s fun t => t = s)

/-- R56 to R59, R335, R345, R356, R358, R359, R437 and R442: a step of a batch former with one request. It retires the request in its
slot when that is cancelled, has a fault code or has met its stop condition, writing its state, its missed bit and its completion
record, and releasing its tree unless KEEP is 1; one whose code is 0x0502 goes back to QUEUED and keeps its half; while its die has
fewer than LW free sets it evicts the request, whose tree is NEW again, and of two the one that R359 puts first; it admits a QUEUED
request to slot 0 when the die has HW free sets; and it writes the manifest and launches the step grid. That a template which cannot be
read launches no grid is the model's choice (log 41). -/
def Obligations.FormerSteps : Prop :=
  let Starts (s : State) (x : Nat) (f : Former) : Prop :=
    Tab.find s.formers x = some f ∧ f.grid = none ∧ f.idleAt = none ∧ f.pending = none ∧ s.spaceFrozen x = false ∧
      f.requeued = [] ∧ f.emitted = []
  let Holds (s : State) (x n a cur half r : Nat) (f : Former) : Prop :=
    Starts s x f ∧ dsEntries f.desc = 0 ∧ f.slots = [(n, a, cur, half)] ∧ (readVirt s x a 256).2 = .ok r
  let Stops (r : Nat) : Prop := rqMax r ≠ 0 ∧ rqMax r ≤ rqEmitted r
  let Stays (r : Nat) : Prop := rqState r ≠ 5 ∧ rqFault r = 0 ∧ ¬ Stops r
  let Idle (s t : State) (x : Nat) (R : Former → Prop) : Prop :=
    ∃ f', Tab.find t.formers x = some f' ∧ f'.slots = [] ∧ f'.grid = none ∧ f'.idleAt = some (s.ticks 0 + 10000) ∧ R f'
  let Step (s : State) (x : Nat) (R : State → Prop) : Prop := Happens .batchFormerStep (.batchFormerStep x) s R
  (∀ s x n a cur half r f v s1 s2 s3 u, Holds s x n a cur half r f →
    (rqState r = 5 ∧ v = 6) ∨ (rqState r ≠ 5 ∧ rqFault r ≠ 0 ∧ rqFault r ≠ 0x0502 ∧ v = 4) ∨
      (rqState r ≠ 5 ∧ rqFault r = 0 ∧ Stops r ∧ v = 3) →
    let miss := decide (rqDeadline r ≠ 0 ∧ rqDeadline r < s.ticks 0)
    writeVirt s x (a + 8) 1 v = (s1, .ok u) →
    (if miss then writeVirt s1 x (a + 10) 1 (setBits (rqFlags r) 0 1 1) = (s2, .ok u) else s2 = s1) →
    (if rqCompletion r = 0 then s3 = s2
      else writeVirt s2 x (rqCompletion r) 64
        (completionBits (rqId r) v (rqFault r) miss (rqAdmitted r) (s.ticks 0) (rqDeadline r)) = (s3, .ok u)) →
    let tr := rqTree r
    Step s x fun t => Idle s t x (fun f' => ∀ y, Tab.find f'.found y = if y = a then none else Tab.find f.found y) ∧
      (dsKeep f.desc = true ∨ s3.ownsTree tr x = false ∨ thState (s3.treeHdr tr) ≠ 2 → t.mem = s3.mem) ∧
      (dsKeep f.desc = false → s3.ownsTree tr x = true → thState (s3.treeHdr tr) = 2 → t.mem = (treePrune s3 tr none).1.mem)) ∧
  (∀ s x n a cur half r f s1 s2 u, Holds s x n a cur half r f → rqState r ≠ 5 → rqFault r = 0x0502 →
    writeVirt s x (a + 8) 1 1 = (s1, .ok u) → writeVirt s1 x (a + 12) 2 0 = (s2, .ok u) →
    Step s x fun t => t.mem = s2.mem ∧
      Idle s t x fun f' => Tab.find f'.found a = some (s.ticks 0) ∧ Tab.find f'.halves a = some half) ∧
  (∀ s x n a cur half r f s1 s2 u, Holds s x n a cur half r f → Stays r →
    let tr := rqTree r
    let s3 := (treePrune s2 tr none).1
    s.freeCount (treeDie tr) < dsLow f.desc →
    writeVirt s x (a + 8) 1 1 = (s1, .ok u) → writeVirt s1 x (a + 10) 1 (setBits (rqFlags r) 1 1 1) = (s2, .ok u) →
    s2.ownsTree tr x = true → thState (s2.treeHdr tr) = 2 →
    Step s x fun t => t.mem = (if s3.ownsTree tr x then s3.setHdr tr (setBits (s3.treeHdr tr) 0 4 1) else s3).mem ∧
      Idle s t x fun f' => Tab.find f'.found a = some (s.ticks 0) ∧ Tab.find f'.halves a = some half) ∧
  (∀ s x n m a b ca cb ha hb ra rb f, Starts s x f → dsEntries f.desc = 0 → f.slots = [(n, a, ca, ha), (m, b, cb, hb)] →
    n ≠ m → a ≠ b → (readVirt s x a 256).2 = .ok ra → (readVirt s x b 256).2 = .ok rb → Stays ra → Stays rb →
    treeDie (rqTree ra) = treeDie (rqTree rb) →
    let latest (d : Nat) : Nat := if d = 0 then 2 ^ 48 - 1 else d
    rqTier rb < rqTier ra ∨ (rqTier rb = rqTier ra ∧ latest (rqDeadline rb) < latest (rqDeadline ra)) →
    Step s x fun t => ∃ f', Tab.find t.formers x = some f' ∧
      ((∃ z, z ∈ f'.slots ∧ z.2.1 = a) → ∃ z, z ∈ f'.slots ∧ z.2.1 = b)) ∧
  (∀ s x f r, Starts s x f → dsEntries f.desc = 1 → f.slots = [] → f.halves = [] →
    let a := dsTable f.desc
    let half := if 0 = f.step % 2 then dsDraft f.desc else dsCheck f.desc
    let extent := if 0 < rqPosition r then min (dsChunk f.desc) (rqPosition r) else half
    (readVirt s x a 256).2 = .ok r → rqState r = 1 → s.malformed r = false →
    (s.freeCount (treeDie (rqTree r)) < dsHigh f.desc → Step s x fun t => t.mem = s.mem ∧
      Idle s t x fun f' => (Tab.find f'.found a).isSome = true) ∧
    (dsHigh f.desc ≤ s.freeCount (treeDie (rqTree r)) → extent ≤ dsTokens f.desc → ∀ s1 s2 u e,
      writeVirt s x (a + 8) 1 2 = (s1, .ok u) →
      (if rqAdmitted r = 0 then writeVirt s1 x (a + 104) 8 (s.ticks 0) = (s2, .ok u) else s2 = s1) →
      (readVirt s2 x (dsTemplate f.desc) 256).2 = .error e →
      Step s x fun t => t.mem = s2.mem ∧ ∃ f', Tab.find t.formers x = some f' ∧ f'.slots = [(0, a, 0, 0)] ∧
        Tab.find f'.found a = none ∧ f'.grid = none ∧ f'.idleAt = some (s.ticks 0 + 10000))) ∧
  (∀ s x a cur half r f template s1 s2 u, Holds s x 0 a cur half r f → Stays r →
    dsLow f.desc ≤ s.freeCount 0 → dsLow f.desc ≤ s.freeCount 1 →
    let pos := rqPosition r
    let extent := if cur < pos then min (dsChunk f.desc) (pos - cur)
      else if half = f.step % 2 then dsDraft f.desc else dsCheck f.desc
    let start := if cur < pos then cur else pos - 1
    let S := bits template 152 6 + 1
    let deadline := if rqDeadline r = 0 ∨ rqDeadline r = 2 ^ 48 - 1 then 0 else rqDeadline r
    let record := setBits (setBits (setBits (setBits (setBits (setBits template 32 31 S) 64 16 1) 80 16 1) 160 2 f.tier)
      164 12 f.queue) 192 48 deadline
    extent ≤ dsTokens f.desc → (readVirt s x (dsTemplate f.desc) 256).2 = .ok template →
    recordRefusal s record x none = none → recKind record = 0 → recCompletion record = 0 →
    writeVirt s x (dsManifest f.desc) 64 (packFields [(0, 16, 1), (16, 8, S), (32, 32, extent), (64, 64, f.step)]) = (s1, .ok u) →
    writeVirt s1 x (dsManifest f.desc + 64) 32
      (packFields [(0, 64, a), (64, 32, 0), (96, 17, extent), (113, 1, half), (128, 24, start)]) = (s2, .ok u) →
    Step s x fun t => t.mem = s2.mem ∧
      (∃ g, t.grid? s2.idCtr = some g ∧ g.ctx = x ∧ g.record = record ∧ g.tier = f.tier ∧ g.step = true ∧ g.perSlot = S ∧
        g.slots = [(0, extent, rqId r, a)] ∧
        g.params = some [BitVec.ofNat 32 (dsManifest f.desc), BitVec.ofNat 32 (dsManifest f.desc / 2 ^ 32)]) ∧
      ∃ f', Tab.find t.formers x = some f' ∧ f'.grid = some s2.idCtr ∧ f'.step = f.step + 1 ∧
        f'.slots = [(0, a, if pos ≤ cur + extent then 2 ^ 32 else cur + extent, half)])

/-- R138, R229, R231, R235 to R237, R240, R243 to R249, R261, R419 and R422: a board pass grants entries that are eligible, a fused
instruction's together, at most four to the decks and two to the move path, in the order of R237 and first of all those that share the
B tile of the first; a granted entry that no earlier one on its tiles precedes takes effect on the team's accumulator tiles, with the
values of its rule, and is freed; and the operand fetcher copies a tile into every waiting entry of the same tile, or holds the entry
at a fault; a copy more than three blocks ahead waits, and one ahead of its use is dropped where its translation is not free of faults.
Which zero is the larger of −0 and +0 in ATSM is free (log 112). -/
def Obligations.BoardEvents : Prop :=
  let On (s : State) (qn id : Nat) (e : Entry) : Prop := Tab.find (s.quad qn).board id = some e
  let Frees (s t : State) (qn id : Nat) : Prop :=
    Tab.find (t.quad qn).board id = none ∧
      (∀ j, j ≠ id → Tab.find (t.quad qn).board j = Tab.find (s.quad qn).board j) ∧ t.mem = s.mem
  let Ready (s : State) (qn id : Nat) (e : Entry) : Prop :=
    On s qn id e ∧ e.granted = true ∧ ∀ x, x ∈ (s.quad qn).board → x.1 < id → e.meets x.2 = false
  let Move (e : Entry) : Prop := e.op = 0xC6 ∨ e.op = 0xC7 ∨ e.op = 0xC8
  let Eligible (s : State) (qn id : Nat) (e : Entry) : Prop :=
    On s qn id e ∧ e.granted = false ∧ e.held = false ∧ (∀ x, x ∈ e.b → x ≠ none) ∧
      ∀ j f, On s qn j f → j < id → f.team = e.team → (∃ n, n ∈ e.reads ++ e.writes ∧ n ∈ f.reads ++ f.writes) →
        f.granted = true ∧ ¬ Move e ∧ ¬ Move f
  let Stands (s : State) (qn id : Nat) (e : Entry) : Prop :=
    Eligible s qn id e ∧
      (e.fused = true → ∀ j f, On s qn j f → f.instr = e.instr → f.granted = false → Eligible s qn j f)
  let Before (s : State) (qn : Nat) (x y : Entry) : Prop :=
    let eff (e : Entry) : Nat := min 7 (e.pri + (s.cycles (qn / 256) - e.posted) / 256)
    eff y < eff x ∨ (eff x = eff y ∧ (x.posted < y.posted ∨ (x.posted = y.posted ∧
      (x.core < y.core ∨ (x.core = y.core ∧ x.quarter < y.quarter)))))
  (∀ s qn, ((s.quad qn).board.map (·.1)).Nodup →
    (∀ i j e f, On s qn i e → On s qn j f → e.instr = f.instr → e.fused = f.fused ∧ (Move e → e.fused = false)) →
    (∀ i e, On s qn i e → e.fused = true → ((s.quad qn).board.filter fun x => x.2.instr = e.instr).length ≤ 4) →
    ((∀ i e, ¬ Stands s qn i e) → Happens .boardPass (.boardPass qn) s fun t => t = s) ∧
    Happens .boardPass (.boardPass qn) s fun t =>
      let New (i : Nat) (e : Entry) : Prop :=
        On s qn i e ∧ e.granted = false ∧ On t qn i { e with granted := true }
      let Deck (i : Nat) (e : Entry) : Prop := New i e ∧ ¬ Move e
      let Waits (i : Nat) (e : Entry) : Prop := Stands s qn i e ∧ ¬ New i e
      (∀ i e, On s qn i e → New i e ∨ On t qn i e) ∧ (∀ i e, New i e → Stands s qn i e) ∧
      (∃ ds ms : List Nat, ds.length ≤ 4 ∧ ms.length ≤ 2 ∧ ∀ i e, New i e → (Move e → i ∈ ms) ∧ (¬ Move e → i ∈ ds)) ∧
      (∀ i e j f, New i e → e.fused = true → On s qn j f → f.instr = e.instr → f.granted = false → New j f) ∧
      (∀ i e, Waits i e → Move e → ∃ j k f g, j ≠ k ∧ New j f ∧ New k g ∧ Move f ∧ Move g ∧
        ¬ Before s qn e f ∧ ¬ Before s qn e g) ∧
      (∀ i e, Stands s qn i e → ¬ Move e → ∃ j h, Deck j h ∧ (∀ k y, Stands s qn k y → ¬ Move y → ¬ Before s qn y h) ∧
        (e.fused = false → Waits i e →
          (∃ ds : List Nat, ds.Nodup ∧ ds.length = 4 ∧ ∀ k, k ∈ ds → ∃ y, Deck k y) ∧
          ∀ k x, Deck k x → x.fused = false → k ≠ j → Before s qn e x ∨ (e.bid = h.bid ∧ x.bid ≠ h.bid) →
            h.fused = false ∧ x.bid = h.bid ∧ h.bid ≠ [] ∧ e.bid ≠ h.bid)) ∧
      t.groups = s.groups ∧ t.teams = s.teams ∧ t.mem = s.mem) ∧
  (∀ s qn id e tm, Ready s qn id e → s.team? e.team = some tm → e.op ≠ 0xC7 →
    Happens .matrixOpComplete (.matrixOpComplete qn id) s fun t => Frees s t qn id ∧ t.groups = s.groups ∧
      (∀ j, j ≠ e.team → t.team? j = s.team? j) ∧ ∃ tm', t.team? e.team = some tm' ∧
        let d := e.writes.headD 0
        let src := e.reads.headD 0
        let K := typeK e.type
        let row (i : Nat) : Prop := bits e.rows i 1 = 1
        (e.op ∉ [0xC6, 0xC8, 0xCA, 0xCB, 0xCC] → e.cols ≤ 32 → ∀ n i j, i < 16 → j < 32 → tm'.tile n i j =
          if n = d ∧ bits e.rows i 1 = 1 ∧ j < e.cols then
            (if bits ((e.masked[i]?).getD 0) j 1 = 1 then 0xFF800000
            else matrixSum e.nbv e.type K (if e.z then 0 else tm.tile n i j) fun k =>
              (aValue e.nbv e.type e.a i k).mul (bValue e.nbv e.type (e.tileOf 0) k j))
          else tm.tile n i j) ∧
        (e.op = 0xC6 → ∀ n i j, i < 16 → j < 32 → tm'.tile n i j =
          if n = d then
            (if e.conv = 1 then fpWord ((fp (tm.tile n i j)).add (fp (tm.tile src i j))) else tm.tile src i j)
          else tm.tile n i j) ∧
        (e.op = 0xC8 → ∀ n i j, i < 16 → j < 32 → tm'.tile n i j =
          if n = d ∧ e.lanes.getLsbD j = true then
            (if e.z then 0
            else if e.conv = 0 then (e.a[16 * j + i]?).getD 0
            else fpWord ((if e.conv = 1 then bf16 else fp16).decode
              (bits ((e.a[8 * j + i / 2]?).getD 0).toNat (16 * (i % 2)) 16)))
          else tm.tile n i j) ∧
        (e.op = 0xCA → (∀ n i j, n ≠ d → (n = d + 1 → 3 ≤ j) → i < 16 → j < 32 → tm'.tile n i j = tm.tile n i j) ∧
          ∀ i, i < 16 → (¬ row i → ∀ n j, j < 32 → tm'.tile n i j = tm.tile n i j) ∧ (row i →
            let S (j : Nat) : Ext := fp (tm.tile d i j)
            let m : Ext := if e.z then .inf true else fp (tm.tile (d + 1) i 0)
            let l : Ext := if e.z then .fin false 0 0 else fp (tm.tile (d + 1) i 1)
            let τ (j : Nat) : Ext := if S j = .inf true then .inf true else fp (fpWord ((fp e.sigma).mul (S j)))
            let bad : Prop := (∀ k x, fp e.sigma = .fin false k x → k = 0) ∨ m = .nan ∨ l = .nan ∨ ∃ j, j < 32 ∧ τ j = .nan
            let mn := (List.range 32).foldl (fun x j => x.maxv (τ j)) m
            let c : Ext := if mn = .inf true then .fin false 1 0
              else if mn = .inf false then (if m = .inf false then .fin false 1 0 else .fin false 0 0)
              else if m = .inf true then .fin false 0 0 else fp (fpWord (m.add mn.neg).exp2)
            let p (j : Nat) : Ext := if mn = .inf true then .fin false 0 0
              else if mn = .inf false then (if τ j = .inf false then .fin false 1 0 else .fin false 0 0)
              else if τ j = .inf true then .fin false 0 0 else decodeP5 (encodeP5 ((τ j).add mn.neg).exp2)
            let sum := (List.range 32).foldl (fun x j => x.add (p j)) (Ext.fin false 0 0)
            (bad → (∀ j, j < 32 → tm'.tile d i j = 0x7FC00000) ∧ ∀ j, j < 3 → tm'.tile (d + 1) i j = 0x7FC00000) ∧
            (¬ bad → (∀ j, j < 32 → tm'.tile d i j = fpWord (p j)) ∧ tm'.tile (d + 1) i 0 = fpWord mn ∧
              tm'.tile (d + 1) i 1 = fpWord ((c.mul l).add sum) ∧ tm'.tile (d + 1) i 2 = fpWord c))) ∧
        (e.op = 0xCB → e.cols ≤ 32 → ∀ n i j, i < 16 → j < 32 → tm'.tile n i j =
          if n = d ∧ bits e.rows i 1 = 1 ∧ j < e.cols then
            matrixSum e.nbv e.type 32
              (if e.z then 0 else fpWord ((fp (tm.tile (src + 1) i 2)).mul (fp (tm.tile n i j)))) fun k =>
              (a5 (fp (tm.tile src i k))).mul (bValue e.nbv e.type (e.tileOf (k / K)) (k % K) j)
          else tm.tile n i j) ∧
        (e.op = 0xCC → ∀ n i j, i < 16 → j < 32 → tm'.tile n i j =
          if n = d ∧ bits e.rows i 1 = 1 then
            (if bits (tm.tile src i 1).toNat 0 31 = 0 then 0
            else fpWord ((fp (tm.tile n i j)).div (fp (tm.tile src i 1))))
          else tm.tile n i j)) ∧
  (∀ s qn id e g tm, Ready s qn id e → s.team? e.team = some tm → s.group? e.grp = some g → g.team = e.team → e.op = 0xC7 →
    let words := if e.conv = 0 then 16 else 8
    let f := if e.conv = 1 then bf16 else fp16
    let T := tm.tile (e.reads.headD 0)
    Happens .matrixOpComplete (.matrixOpComplete qn id) s fun t =>
      Frees s t qn id ∧ (∀ j, j ≠ e.grp → t.group? j = s.group? j) ∧
      (∃ tm', t.team? e.team = some tm' ∧ ∀ n i j, i < 16 → j < 32 → tm'.tile n i j =
        if e.z = true ∧ n = e.reads.headD 0 ∧ e.lanes.getLsbD j = true then 0 else tm.tile n i j) ∧
      ∃ g', t.group? e.grp = some g' ∧ (∀ w l, w < words → l < 32 → g'.vreg (e.reg + w) l =
        if e.lanes.getLsbD l then
          (if e.conv = 0 then T w l
          else BitVec.ofNat 32 (f.encode (fp (T (2 * w) l)) + 65536 * f.encode (fp (T (2 * w + 1) l))))
        else g.vreg (e.reg + w) l) ∧
        OnlyWrites g g' ((List.range words).map (e.reg + ·)) [] [] ∧ g'.pcs = g.pcs) ∧
  (∀ s qn id e, Tab.find (s.quad qn).board id = some e → e.granted = false →
    Happens .matrixOpComplete (.matrixOpComplete qn id) s fun t => t = s) ∧
  (∀ s qn id e s1 l, Tab.find (s.quad qn).board id = some e → e.held = false → e.b.all Option.isSome = false →
    (s.quad qn).aheadBy id e = 0 → fetchTiles (e.agent id) e (e.b.zip e.src) s = (s1, .ok l) →
    Happens .operandFetchCopy (.operandFetchCopy qn id) s fun t =>
      (∃ e', Tab.find (t.quad qn).board id = some e' ∧ e' = { e with b := l, held := false }) ∧
      (∀ j f, j ≠ id → Tab.find (s.quad qn).board j = some f → ∃ f', Tab.find (t.quad qn).board j = some f' ∧
        f' = if f.bid = e.bid ∧ f.src = e.src ∧ f.granted = false then { f with b := l, held := false } else f) ∧
      t.groups = s1.groups ∧ t.mem = s1.mem) ∧
  (∀ s qn id e bn bd m ty cur half, On s qn id e → e.held = false → e.b = [none] → e.src = [.kvRead bn m ty cur half] →
    Tab.find s.bindings bn = some bd →
    (∀ i x a, i < 1024 → x ∈ tileCells bd.type i → kvCell bd m cur half x = some a → s.lineFault a false false = none) →
    let tile := (List.range 1024).map fun i => tileByte bd.type i fun x =>
      ((kvCell bd m cur half x).map fun a => readN s.peek a (elemBytes bd.type)).getD 0
    Happens .operandFetchCopy (.operandFetchCopy qn id) s fun t => On t qn id { e with b := [some tile] } ∧
      (∀ j f, j ≠ id → On s qn j f →
        On t qn j (if f.bid = e.bid ∧ f.src = e.src ∧ f.granted = false then { f with b := [some tile], held := false } else f)) ∧
      t.groups = s.groups ∧ t.teams = s.teams ∧ t.mem = s.mem) ∧
  (∀ s qn id e s1 va code level, Tab.find (s.quad qn).board id = some e → e.held = false → e.b.all Option.isSome = false →
    (s.quad qn).aheadBy id e = 0 → fetchTiles (e.agent id) e (e.b.zip e.src) s = (s1, .error (va, .fault code level)) →
    Happens .operandFetchCopy (.operandFetchCopy qn id) s fun t => ∃ e', Tab.find (t.quad qn).board id = some e' ∧ e'.held = true) ∧
  (∀ s qn id e, Tab.find (s.quad qn).board id = some e → e.held = false → e.b.all Option.isSome = false →
    (0 < (s.quad qn).aheadBy id e → (s.quad qn).aheadBy id e ≤ 3 → s.fetchesAhead qn e = false →
      Happens .operandFetchCopy (.operandFetchCopy qn id) s fun t => t = s.countDrop (qn / 256)) ∧
    (3 < (s.quad qn).aheadBy id e → Happens .operandFetchCopy (.operandFetchCopy qn id) s fun t => t = s))

/-- R254, R255, R257, R259, R263, R265, R269, R276, R293, R310, R316, R318, R319 and R439: the head of a queue starts once its guard
is known, but not at an Abacus that a higher COREID has reached in the same cycle, where nothing happens (log 2); a TCOPY writes its
sectors into the scratchpad of each receiving team, whose barrier counts them, and a TSTORE its sectors into memory, each sector once;
a binding that nothing names drops its pins; a pruned group ends as if its lanes had executed EXIT, and its commands stop without a
result; and a collective that has timed out, at the engine of its root and by the timeout of the rank that came first (log 30), ends
with status 1, and is forgotten a timeout later. -/
def Obligations.EngineEvents : Prop :=
  let Done (s t : State) (id : Nat) (x : Cmd) : Prop :=
    Tab.find t.cmds id = none ∧ (∀ n, n ≠ id → Tab.find t.cmds n = Tab.find s.cmds n) ∧
    (∀ g, s.group? x.grp = some g → g.team = x.team → 1 ≤ x.c → x.c ≤ 3 →
      ∃ g', t.group? x.grp = some g' ∧ g'.counter x.c = g.counter x.c - 1 ∧ g'.file = g.file ∧ g'.pcs = g.pcs) ∧
    t.mem = s.mem
  let Head (s : State) (c : Nat) (uncore : Bool) (id : Nat) (x : Cmd) : Prop :=
    ((s.core c).queue uncore).head? = some id ∧ Tab.find s.cmds id = some x
  let Popped (s t : State) (c : Nat) (uncore : Bool) : Prop :=
    (t.core c).queue uncore = ((s.core c).queue uncore).tail ∧ (t.core c).queue (!uncore) = (s.core c).queue (!uncore)
  let Moves (s : State) (op id : Nat) (c : Cmd) (tile n : Nat) (s0 : State) (m : Tab Nat) : Prop :=
    Tab.find s.cmds id = some c ∧ c.op = op ∧ c.started = true ∧ tile < (s.job c).tiles ∧ n < (s.job c).sectors ∧
      c.skipped.contains tile = false ∧ c.done.contains (sectorNo tile n) = false ∧
      match Tab.find c.maps tile with
      | some known => s0 = s ∧ m = known
      | none => ∃ s1, s.tileMap c tile = (s1, .ok m) ∧ s0 = s1.keepMap id tile m
  let Marked (s t : State) (id : Nat) (c : Cmd) (tile n : Nat) : Prop :=
    let d := { c with done := sectorNo tile n :: c.done, maps := [] }
    if d.complete (s.job c) then Tab.find t.cmds id = none
    else ∃ d', Tab.find t.cmds id = some d' ∧ { d' with maps := [] } = d
  (∀ s c (uncore : Bool) id x, Head s c uncore id x →
    (x.guard.isSome = true → Happens .engineCommandStart (.engineCommandStart c uncore) s fun t => t = s) ∧
    (x.guard = none → x.doomed = true → x.op ≠ 0xD9 → Happens .engineCommandStart (.engineCommandStart c uncore) s fun t =>
      Done s t id x ∧ Popped s t c uncore) ∧
    (x.guard = none → x.doomed = false → s.abacusPassed x = true →
      Happens .engineCommandStart (.engineCommandStart c uncore) s fun t => t = s) ∧
    (∀ tm, x.guard = none → x.doomed = false → x.op = 0xD0 → x.m = 0 → s.spadEarlier x.grp id = false → s.team? x.team = some tm →
      Happens .engineCommandStart (.engineCommandStart c uncore) s fun t => Done s t id x ∧ Popped s t c uncore ∧
        ∃ tm', t.team? x.team = some tm' ∧ tm'.handle x.h = spadBinding s tm x.ctx (x.word 0) (x.word 1) ∧
          ∀ h, h ≠ x.h → tm'.handle h = tm.handle h) ∧
    (∀ tm, x.guard = none → x.doomed = false → x.op = 0xD3 → s.team? x.team = some tm → x.word 0 % 16 = 0 →
      x.word 0 + 16 ≤ tm.scratchSize → tm.scratchSize ≤ 0x200000 → bits (x.word 1) 0 20 ≠ 0 → bits (x.word 1) 28 4 = 0 →
      s.spadEarlier x.grp id = false → (∀ y, y ∈ s.cmds → y.2.op ≠ 0xD5 ∧ y.2.op ≠ 0xD8) →
      Happens .engineCommandStart (.engineCommandStart c uncore) s fun t => Done s t id x ∧ Popped s t c uncore ∧
        ∃ tm', t.team? x.team = some tm' ∧
          t.barrier tm' (x.word 0) = packFields [(4, 20, bits (x.word 1) 0 20), (56, 8, bits (x.word 1) 20 8),
            (64, 20, bits (x.word 1) 0 20), (84, 8, bits (x.word 1) 20 8)])) ∧
  (∀ s c (uncore : Bool) id x p v, Head s c uncore id x → x.guard = some (p, v) →
    (∀ g n, s.group? x.grp = some g → Tab.find g.predBusy p = some n → n ≤ s.cycles (dieOfCore x.core)) →
    (v = true → Happens .guardResolve (.guardResolve c uncore) s fun t =>
      Tab.find t.cmds id = some { x with guard := none } ∧ t.groups = s.groups ∧ t.mem = s.mem ∧ t.cores = s.cores) ∧
    (v = false → Happens .guardResolve (.guardResolve c uncore) s fun t => Done s t id x ∧ Popped s t c uncore)) ∧
  (∀ s c (uncore : Bool) id x p v g n, Head s c uncore id x → x.guard = some (p, v) → s.group? x.grp = some g →
    Tab.find g.predBusy p = some n → s.cycles (dieOfCore x.core) < n →
    Happens .guardResolve (.guardResolve c uncore) s fun t => t = s) ∧
  (∀ s id c tile n, Tab.find s.cmds id = some c → c.skipped.contains tile = true ∨ c.done.contains (sectorNo tile n) = true →
    (Happens .tcopySectorWrite (.tcopySectorWrite id tile n) s fun t => t = s) ∧
    Happens .tstoreSectorRead (.tstoreSectorRead id tile n) s fun t => t = s) ∧
  (∀ s id c tile n s0 m sh a ty o e1 cur, Moves s 0xD1 id c tile n s0 m → c.handle = .record sh a ty o e1 cur → c.recv.Nodup →
    let j := s.job c
    let dest := c.word 0 + tileSize j.type * tile + 32 * n
    let bar := cpBarrier (c.word 1)
    let bytes := (tilePart s0 c.agent sh e1 j.type (shBlk sh o e1 cur) (tile / j.nv) (tile % j.nv) (32 * n) 32 m).2
    dest + 32 ≤ 0x200000 → c.word 0 % 32 = 0 → tileSize j.type % 32 = 0 →
    (bar ≠ 0xFFFFF → j.swz = 0 ∧ (16 * bar + 16 ≤ dest ∨ dest + 32 ≤ 16 * bar) ∧ 16 * bar + 16 ≤ 0x200000 ∧
      ∀ y, y ∈ s.cmds → y.2.op ≠ 0xD5 ∧ y.2.op ≠ 0xD8) →
    Happens .tcopySectorWrite (.tcopySectorWrite id tile n) s fun t => Marked s t id c tile n ∧ t.mem = s0.mem ∧
      ∀ tid tm, tid ∈ c.recv → s.team? tid = some tm → ∃ tm', t.team? tid = some tm' ∧
        (∀ i, i < 32 → Tab.find tm'.scratch (swizzle j.swz (dest + i)) = some ((bytes[i]?).getD 0)) ∧
        (bar ≠ 0xFFFFF → 16 * bar + 16 ≤ tm.scratchSize →
          let x := s.barrier tm (16 * bar)
          let y := t.barrier tm' (16 * bar)
          let left := (bits x 24 32 + 2 ^ 32 - 1) % 2 ^ 32
          let full : Prop := bits x 4 20 = 0 ∧ left = 0 ∧ bits x 56 8 = 0
          let own := (s.team? c.team).getD noTeam
          bits y 24 32 = left ∧ bits y 64 28 = bits x 64 28 ∧
          (full → bits y 0 4 = (bits x 0 4 + 1) % 16 ∧ bits y 4 20 = bits x 64 20 ∧ bits y 56 8 = bits x 84 8) ∧
          (¬ full → bits y 0 4 = bits x 0 4 ∧ bits y 4 20 = bits x 4 20 ∧ bits y 56 8 = bits x 56 8) ∧
          (tid ≠ c.team ∧ c.done = [] → bits y 92 2 = c.core % 4 ∧ bits y 94 6 = own.place % 64 ∧
            bits y 100 12 = own.occ % 4096) ∧
          (tid = c.team ∨ c.done ≠ [] → bits y 92 20 = bits x 92 20))) ∧
  (∀ s id c tile n s0 m bd bn mode ty cur, Moves s 0xD2 id c tile n s0 m → c.handle = .kvWrite bn mode ty cur →
    cpBarrier (c.word 1) = 0xFFFFF → Tab.find s.bindings bn = some bd → s0.kvStoreFault bd mode cur (s.job c).type tile n = none →
    Happens .tstoreSectorRead (.tstoreSectorRead id tile n) s fun t =>
      t.mem = (storeKv s0 c ((s.team? c.team).getD noTeam) bd mode cur (s.job c) tile n).mem ∧ t.teams = s.teams ∧
      Marked s t id c tile n) ∧
  (∀ s id c tile n s0 sh a ty o e1 cur m, Moves s 0xD2 id c tile n s0 m → c.handle = .record sh a ty o e1 cur →
    cpBarrier (c.word 1) = 0xFFFFF →
    let b := shBlk sh o e1 cur
    let addrs := ((List.range 32).flatMap fun i => tileCells (s.job c).type (32 * n + i)).flatMap
      (cellAddrs sh e1 (s.job c).type b (tile / (s.job c).nv) (tile % (s.job c).nv))
    Happens .tstoreSectorRead (.tstoreSectorRead id tile n) s fun t =>
      t.mem = (storeRecord (s0.notePages c.agent m true 1 addrs) c ((s.team? c.team).getD noTeam) sh e1 b (s.job c) m tile n).mem ∧
      t.teams = s.teams ∧
      Marked s t id c tile n) ∧
  (∀ s b bd, Tab.find s.bindings b = some bd →
    (s.bindingNamed b = true → Happens .bindingEnd (.bindingEnd b) s fun t => t = s) ∧
    (s.bindingNamed b = false → Happens .bindingEnd (.bindingEnd b) s fun t =>
      Tab.find t.bindings b = none ∧ t.groups = s.groups ∧ t.teams = s.teams ∧ (bd.pins = [] → t.mem = s.mem)) ∧
    (∀ f, s.bindingNamed b = false → bd.pins = [f] → s.setDesc (treeDie bd.tree) f + 8 ≤ 2 ^ 40 →
      s.ownedAway (s.setDesc (treeDie bd.tree) f / 64) = false → sdState (s.setWord (treeDie bd.tree) f) ≠ 2 →
      Happens .bindingEnd (.bindingEnd b) s fun t =>
        readBytes (memRead t.mem) (s.setDesc (treeDie bd.tree) f) 8 =
          setBits (s.setWord (treeDie bd.tree) f) 24 16 (sdPins (s.setWord (treeDie bd.tree) f) - 1) % 2 ^ 64)) ∧
  (∀ s k g, s.group? k = some g → g.doomed = true → g.privileged = false → g.exited = false →
    Happens .groupCancel (.groupCancel k) s fun t => t.mem = s.mem ∧ ∃ g', t.group? k = some g' ∧ g'.file = g.file ∧
      g'.exited = true ∧ g'.cancelled = true ∧ g'.suspension = none ∧ g'.block = .none ∧ g'.pcs.length = g.pcs.length ∧
      ∀ p, p ∈ g'.pcs → p = 0xFFFFFFFF) ∧
  (∀ s k g, s.group? k = some g → g.doomed = false → Happens .groupCancel (.groupCancel k) s fun t => t = s) ∧
  (∀ s id c, Tab.find s.cmds id = some c → c.doomed = true →
    (s.mayStop id c = true → Happens .cancelledCommandStop (.cancelledCommandStop id) s fun t =>
      Tab.find t.cmds id = none ∧ (∀ n, n ≠ id → Tab.find t.cmds n = Tab.find s.cmds n) ∧ t.mem = s.mem ∧
      (∀ k, t.fileOf k = s.fileOf k) ∧ (∀ x u, id ∉ (t.core x).queue u)) ∧
    (s.mayStop id c = false → Happens .cancelledCommandStop (.cancelledCommandStop id) s fun t => t = s)) ∧
  (∀ s n i, Tab.find s.colls n = some i →
    (i.ended = none → i.shard = false → i.timeout ≠ 0 → i.root = s.ownFabric → s.collLacks i = true →
      i.first + 1024 * i.timeout ≤ s.ticks 0 → (∀ id c, id ∈ i.here → Tab.find s.cmds id = some c → c.prior = []) →
      Happens .collTimeout (.collTimeout n) s fun t =>
        (∀ id, id ∈ i.here → Tab.find t.cmds id = none) ∧ t.mem = s.mem ∧
        (if i.size ≤ i.ranks.length then Tab.find t.colls n = none
          else ∃ j, Tab.find t.colls n = some j ∧ j.ended = some (1, s.ticks 0)) ∧
        (∀ id c g, i.here = [id] → Tab.find s.cmds id = some c → c.dead = false → s.group? c.grp = some g → g.team = c.team →
          ∃ g', t.group? c.grp = some g' ∧ g'.ureg c.h = 1 ∧ OnlyWrites g g' [] [c.h] [])) ∧
    (s.collExpired i = false → Happens .collTimeout (.collTimeout n) s fun t => t = s)) ∧
  (∀ s n i st at0, Tab.find s.colls n = some i → i.ended = some (st, at0) → i.timeout ≠ 0 →
    (at0 + 1024 * i.timeout ≤ s.ticks 0 → Happens .collInstanceRelease (.collInstanceRelease n) s fun t =>
      Tab.find t.colls n = none ∧ (∀ m, m ≠ n → Tab.find t.colls m = Tab.find s.colls m) ∧ t.groups = s.groups ∧ t.mem = s.mem) ∧
    (s.ticks 0 < at0 + 1024 * i.timeout → Happens .collInstanceRelease (.collInstanceRelease n) s fun t => t = s))

/-- R259, R269, R272 to R274, R301, R303, R308, R311, R315, R324 and R325: what the commands at the head of a queue do once their
engine starts them. HBIND.OFF unbinds, HBIND.SEEK moves a cursor, of a pair both, and HBIND.REC binds a record or keeps the code of its
refusal. XBAR.ARV returns the phase and counts, and a phase that changes wakes a group that XBAR.WAIT has blocked; XBAR.WAIT blocks its
group while the phase is the one named. QENQ and QDEQ move their item and return its number, or return 0xFFFF_FFFE or, in their TRY forms,
0xFFFF_FFFF, or wait. TREE returns status and value of its operation: 7 on a tree of another context, 9 for invalid words, FORK's slot and
generation, and QCTX sets the group's context and tag. KVBIND makes a binding, or leaves the handle unbound with the code of its refusal,
or waits at the Abacus for a pin, out of the queue. SAMPLE returns the outcome of its set, a set of one shard being ready at once, and
COLL joins its instance. That a command waits for its group's earlier accesses and for the operand log is the model's choice (log 22),
and so is the order of arrivals at an Abacus being looked at as they start (log 2). -/
def Obligations.StartedCommands : Prop :=
  let Ready (s : State) (c : Nat) (uncore : Bool) (id : Nat) (x : Cmd) : Prop :=
    ((s.core c).queue uncore).head? = some id ∧ Tab.find s.cmds id = some x ∧ x.guard = none ∧ x.doomed = false ∧
      s.abacusPassed x = false ∧ s.spadEarlier x.grp id = false ∧ s.earlierDone x.grp id = true
  let Starts (s : State) (c : Nat) (uncore : Bool) (R : State → Prop) : Prop :=
    Happens .engineCommandStart (.engineCommandStart c uncore) s fun t =>
      (t.core c).queue uncore = ((s.core c).queue uncore).tail ∧ (t.core c).queue (!uncore) = (s.core c).queue (!uncore) ∧ R t
  let Gone (t : State) (id : Nat) : Prop := Tab.find t.cmds id = none
  let Returns (s t : State) (id : Nat) (x : Cmd) (v : Nat) : Prop := Gone t id ∧
    ∀ g, s.group? x.grp = some g → g.team = x.team → x.dead = false →
      ∃ g', t.group? x.grp = some g' ∧ g'.ureg x.h = BitVec.ofNat 32 v ∧ OnlyWrites g g' [] [x.h] [] ∧
        (1 ≤ x.c → x.c ≤ 3 → g'.counter x.c = g.counter x.c - 1)
  let Binds (t : State) (id : Nat) (x : Cmd) (tm : Team) (h : Handle) : Prop := Gone t id ∧
    ∃ tm', t.team? x.team = some tm' ∧ tm'.handle x.h = h ∧ ∀ n, n ≠ x.h → tm'.handle n = tm.handle n
  let Is (s : State) (c : Nat) (uncore : Bool) (id : Nat) (x : Cmd) (tm : Team) (op m : Nat) : Prop :=
    Ready s c uncore id x ∧ x.op = op ∧ x.m = m ∧ s.team? x.team = some tm
  let moved (s : State) (h : Handle) (n : Nat) : Nat := if s.walkLen h = 0 then 0 else n % s.walkLen h
  (∀ s c uncore id x tm, Is s c uncore id x tm 0xD0 2 →
    Starts s c uncore fun t => Binds t id x tm (.unbound 0) ∧ t.mem = s.mem) ∧
  (∀ s c uncore id x tm sh a ty o e1 cur, Is s c uncore id x tm 0xD0 3 → tm.handle x.h = .record sh a ty o e1 cur →
    Starts s c uncore fun t => Binds t id x tm (.record sh a ty o e1 (moved s (tm.handle x.h) (x.word 0))) ∧ t.mem = s.mem) ∧
  (∀ s c uncore id x tm, Is s c uncore id x tm 0xD0 3 →
    (∃ r, tm.handle x.h = .unbound r) ∨ (∃ e ty n z, tm.handle x.h = .spad e ty n z) →
    Starts s c uncore fun t => Gone t id ∧ t.teams = s.teams ∧ t.mem = s.mem) ∧
  (∀ s c uncore id x tm b m ty cur cur' n, Is s c uncore id x tm 0xD0 3 → m % 2 = 1 → ty = 5 ∨ ty = 6 →
    tm.handle n = .kvRead b m ty cur 0 → tm.handle (n + 1) = .kvRead b m ty cur' 1 → x.h = n ∨ x.h = n + 1 →
    Starts s c uncore fun t => Gone t id ∧ ∃ tm', t.team? x.team = some tm' ∧
      (∃ k, tm'.handle n = .kvRead b m ty k 0 ∧ tm'.handle (n + 1) = .kvRead b m ty k 1 ∧
        k = moved s (.kvRead b m ty 0 0) (x.word 0)) ∧
      ∀ j, j ≠ n → j ≠ n + 1 → tm'.handle j = tm.handle j) ∧
  (∀ s c uncore id x tm, Is s c uncore id x tm 0xD0 1 → let a := x.word 0 + 2 ^ 32 * x.word 1
    (a % 64 ≠ 0 → Starts s c uncore fun t => Binds t id x tm (.unbound 0x10)) ∧
    (∀ s1 va code level, a % 64 = 0 →
      mapPages (quadOfCore x.core) x.agent .load [a] s [] = (s1, .error (va, .fault code level)) →
      Starts s c uncore fun t => Binds t id x tm (.unbound 0x11)) ∧
    (∀ s1 m, a % 64 = 0 → mapPages (quadOfCore x.core) x.agent .load [a] s [] = (s1, .ok m) →
      let sh := readBytes (s1.pageByte x.agent m) a 64
      let w := x.word 2
      (shRefusal sh = none → bits w 4 28 ≠ 0 → Starts s c uncore fun t => Binds t id x tm (.unbound 0x17)) ∧
      (shRefusal sh = none → bits w 4 28 = 0 → shFmt sh = 7 → bits w 0 3 = 7 →
        Starts s c uncore fun t => Binds t id x tm (.unbound 0x18)) ∧
      (shRefusal sh = none → bits w 4 28 = 0 → (shFmt sh = 7 → bits w 0 3 ≠ 7) → shRagged sh = 0 →
        Starts s c uncore fun t =>
          Binds t id x tm (.record sh a (fmtType (shFmt sh) (bits w 0 3)) (bits w 3 1) (shExt sh 1) 0)))) ∧
  (∀ s c uncore id x tm m, Is s c uncore id x tm 0xD4 m → m < 2 → x.word 0 % 16 = 0 → x.word 0 + 16 ≤ tm.scratchSize →
    tm.scratchSize ≤ 0x200000 → (m = 1 → x.word 1 < 2 ^ 31) →
    let b := s.barrier tm (x.word 0)
    let left := (bits b 4 20 - 1)
    let sectors := (bits b 24 32 + if m = 1 then x.word 1 else 0) % 2 ^ 32
    let full : Prop := left = 0 ∧ sectors = 0 ∧ bits b 56 8 = 0
    let After (t : State) : Prop := ∃ tm', t.team? x.team = some tm' ∧
      let y := t.barrier tm' (x.word 0)
      bits y 24 32 = sectors ∧ bits y 64 48 = bits b 64 48 ∧
      (full → bits y 0 4 = (bits b 0 4 + 1) % 16 ∧ bits y 4 20 = bits b 64 20 ∧ bits y 56 8 = bits b 84 8) ∧
      (¬ full → bits y 0 4 = bits b 0 4 ∧ bits y 4 20 = left ∧ bits y 56 8 = bits b 56 8)
    (bits b 4 20 = 0 → Starts s c uncore fun t => Returns s t id x (bits b 0 4) ∧ t.teams = s.teams) ∧
    (bits b 4 20 ≠ 0 → (∀ y, y ∈ s.cmds → y.2.op ≠ 0xD5 ∧ y.2.op ≠ 0xD8) →
      Starts s c uncore fun t => Returns s t id x (bits b 0 4) ∧ After t) ∧
    (∀ wid w q off v, bits b 4 20 ≠ 0 → full → Tab.find s.cmds wid = some w → w.op = 0xD5 → w.started = true → w.team = x.team →
      w.word 0 = x.word 0 → w.word 1 % 16 = bits b 0 4 → (∀ y, y ∈ s.cmds → y.2.op = 0xD5 ∨ y.2.op = 0xD8 → y = (wid, w)) →
      s.group? w.grp = some q → q.team = w.team → q.block = .xbar off v →
      Starts s c uncore fun t => Gone t id ∧ Gone t wid ∧ ∃ q', t.group? w.grp = some q' ∧ q'.block = .none)) ∧
  (∀ s c uncore id x tm m, Is s c uncore id x tm 0xD5 m → x.word 0 % 16 = 0 → x.word 0 + 16 ≤ tm.scratchSize →
    let phase := bits (s.barrier tm (x.word 0)) 0 4
    (phase ≠ x.word 1 % 16 → Starts s c uncore fun t => Gone t id ∧ t.teams = s.teams ∧
      ∀ g, s.group? x.grp = some g → g.team = x.team → ∃ g', t.group? x.grp = some g' ∧ g'.file = g.file ∧ g'.block = g.block) ∧
    (phase = x.word 1 % 16 → Starts s c uncore fun t => Tab.find t.cmds id = some { x with started := true } ∧ t.teams = s.teams ∧
      ∀ g, s.group? x.grp = some g → g.team = x.team → ∃ g', t.group? x.grp = some g' ∧ g'.file = g.file ∧
        g'.block = .xbar (x.word 0) (x.word 1 % 16) ∧ (x.grp < 0x20000 → t.noTurn x.grp))) ∧
  (∀ s c uncore id x tm op m, Is s c uncore id x tm op m → op = 0xD6 ∨ op = 0xD7 → x.word 1 % 64 = 0 →
    x.word 1 + 64 ≤ tm.scratchSize →
    let q := x.word 0 % 4096
    let d := s.itemQueue q
    let n := (d.enq + 2 ^ 32 - d.deq) % 2 ^ 32
    d.sync = false →
    (d.en = false ∨ d.asid ≠ s.asidOf x.ctx → Starts s c uncore fun t => Returns s t id x 0xFFFFFFFE ∧ t.mem = s.mem) ∧
    (d.en = true → d.asid = s.asidOf x.ctx →
      (m = 1 → (op = 0xD7 ∧ 2 ^ d.log ≤ n) ∨ (op = 0xD6 ∧ n = 0) →
        Starts s c uncore fun t => Returns s t id x 0xFFFFFFFF ∧ t.mem = s.mem ∧ t.itemQueue q = d) ∧
      (m = 0 → op = 0xD6 → n = 0 → d.waitDeq = [] → d.waitEnq = [] → Starts s c uncore fun t =>
        Tab.find t.cmds id = some { x with started := true } ∧ t.itemQueue q = { d with waitDeq := [id] } ∧ t.groups = s.groups) ∧
      (∀ s1 pages, op = 0xD7 → n < 2 ^ d.log → d.waitDeq = [] → d.waitEnq = [] →
        let u : State := { s with
          cmds := Tab.put s.cmds id { x with started := true }, itemQueues := Tab.put s.itemQueues q { d with waitEnq := [id] } }
        let a := (d.base + 64 * (d.enq % 2 ^ d.log)) % 2 ^ 64
        mapSpan u x.agent a 64 .store = (s1, .ok pages) → Starts s c uncore fun t => Returns s t id x d.enq ∧
          t.itemQueue q = { d with enq := (d.enq + 1) % 2 ^ 32 } ∧
          t.mem = (s1.engineStore x.core (pagePhys pages a) 64 (ofBytes x.item)).mem) ∧
      (∀ s1 pages, op = 0xD6 → n ≠ 0 → d.waitDeq = [] → d.waitEnq = [] →
        let u : State := { s with
          cmds := Tab.put s.cmds id { x with started := true }, itemQueues := Tab.put s.itemQueues q { d with waitDeq := [id] } }
        let a := (d.base + 64 * (d.deq % 2 ^ d.log)) % 2 ^ 64
        mapSpan u x.agent a 64 .load = (s1, .ok pages) → x.word 1 + 64 ≤ 0x200000 → Starts s c uncore fun t =>
          Returns s t id x d.deq ∧ t.itemQueue q = { d with deq := (d.deq + 1) % 2 ^ 32 } ∧
          ∃ tm', t.team? x.team = some tm' ∧ ∀ j, j < 64 →
            Tab.find tm'.scratch (x.word 1 + j) = some (s1.pageByte x.agent pages (a + j))))) ∧
  (∀ s c uncore id x tm m, Is s c uncore id x tm 0xD8 m →
    let tr := x.word 0 % 2 ^ 20
    let u := s.atAbacus x
    let Served (bad : Bool) : Prop := treeInvalid tm x = bad ∧ s.treeBase (treeDie tr) ≠ 0 ∧ u.ownsTree tr x.ctx = true ∧
      u.abacusFault tr x.ctx (if bad then [] else (List.range 64).map (u.nodeAddr tr)) (if bad then [] else u.treeReads x tr) = none
    (s.treeBase (treeDie tr) = 0 → Starts s c uncore fun t => Returns s t id x 7 ∧ t.mem = s.mem) ∧
    (Served true → Starts s c uncore fun t => Returns s t id x 9) ∧
    (∀ u1 u2 st v, Served false → u.openTree tr = (u1, true) → treeOp u1 x tr = (u2, st, v) → st ≠ 3 → st ≠ 5 →
      Starts s c uncore fun t => Returns u2 t id x (st + 2 ^ 8 * v) ∧ t.mem = u2.mem) ∧
    (∀ slot, m = 0 → Served false → thState (u.treeHdr tr) = 2 → bits (x.word 1) 16 1 = 1 →
      slot < 64 → bits (thLive (u.treeHdr tr)) slot 1 = 0 → (∀ n, n < slot → bits (thLive (u.treeHdr tr)) n 1 = 1) →
      thLen (u.treeHdr tr) % thT (u.treeHdr tr) = 0 → Starts s c uncore fun t => Returns s t id x
        (2 ^ 8 * (slot + 64 * ((ndGen (u.nodeRec tr slot) + 1) % 1024)))) ∧
    (∀ g, m = 5 → Served false → thState (u.treeHdr tr) = 2 → bits (x.word 1) 16 1 = 1 → s.group? x.grp = some g →
      g.team = x.team →
      let base := bits (x.word 2) 0 24
      let rows := bits (x.word 2) 24 7
      rows = 0 ∨ base + rows ≤ 2 ^ 24 → Starts s c uncore fun t => Gone t id ∧ ∃ g', t.group? x.grp = some g' ∧
        g'.qctx = some ⟨tr, x.word 1 % 2 ^ 17, base, rows⟩ ∧ g'.tag = some ⟨tr, true, 0, 0⟩ ∧ (x.dead = false → g'.ureg x.h = 0))) ∧
  (∀ s c uncore id x tm m, Is s c uncore id x tm 0xD9 m →
    let u := s.atAbacus x
    (kvInvalid x = true → Starts s c uncore fun t => Gone t id ∧ t.teams = s.teams) ∧
    (kvInvalid x = false → x.qctx = none → Starts s c uncore fun t => Binds t id x tm (.unbound 0x21)) ∧
    (∀ q, kvInvalid x = false → x.qctx = some q → u.abacusFault q.tree x.ctx [] (u.kvReads x q) = none →
      let h := u.treeHdr q.tree
      let keys := u.bindKeys q.tree m ((nodeWord q.node).map (·.1)) (x.word 1) (x.word 2)
      let full (f : Nat) : Prop := sdPins (u.setWord (treeDie q.tree) f) = 65535
      (∀ code, u.kvRefusal x q = some code → Starts s c uncore fun t => Gone t id ∧
        ∃ tm', t.team? x.team = some tm' ∧ tm'.handle x.h = .unbound code) ∧
      (u.kvRefusal x q = none → (∃ f, f ∈ keySets keys ∧ full f) → Starts s c uncore fun t =>
        Tab.find t.cmds id = some { x with started := true } ∧ t.teams = s.teams ∧ t.bindings = s.bindings) ∧
      (u.kvRefusal x q = none → (∀ f, f ∈ keySets keys → ¬ full f) → Starts s c uncore fun t => Gone t id ∧
        (∃ bd, Tab.find t.bindings s.idCtr = some bd ∧ bd.tree = q.tree ∧ bd.stream = x.word 0 ∧ bd.first = x.word 1 ∧
          bd.count = x.word 2 ∧ bd.keys = keys ∧ bd.pins = keySets keys) ∧
        ∃ tm', t.team? x.team = some tm' ∧
          tm'.handle x.h = (if 4 ≤ m then .kvWrite s.idCtr m (thType h) 0 else .kvRead s.idCtr m (thType h) 0 0) ∧
          ((m = 1 ∨ m = 3) → elemBytes (thType h) = 2 → tm'.handle (x.h + 1) = .kvRead s.idCtr m (thType h) 0 1) ∧
          (¬ ((m = 1 ∨ m = 3) ∧ elemBytes (thType h) = 2) → tm'.handle (x.h + 1) = tm.handle (x.h + 1))))) ∧
  (∀ s c uncore id x tm m, Is s c uncore id x tm 0xDA m → s.samplerRoom (dieOfCore x.core) = true →
    (x.spInvalid = true → Starts s c uncore fun t => Returns s t id x (4 * 2 ^ 24)) ∧
    (∀ s1 d, x.spInvalid = false → x.spCount = 1 → x.spFirst = 0 → x.skipped = [] → s.sampling = [] → s.colls = [] →
      let y : Cmd := { x with started := true }
      sampleRead { s with cmds := Tab.put s.cmds id y, sampling := [id] } y = (s1, .ok d) → s1.colls = [] →
      let a : Rank := ⟨0, 1, m, 0, 0, 0, some id, s.ownFabric, 0, 0, none, some (x.block, d)⟩
      let i : Coll := ⟨x.spCommunicator, x.spSeq, true, s.ownFabric, s1.ticks 0, 0, [a], none, false, 0, []⟩
      (∀ v, sampleCompute [(a.asCmd, d)] = .status v → v ≠ 2 → Starts s c uncore fun t => Returns s1 t id x (v * 2 ^ 24)) ∧
      (∀ tok accept zero s2, sampleCompute [(a.asCmd, d)] = .token tok accept zero →
        sampleUpdate { s1 with idCtr := s1.idCtr + 1, colls := [(s1.idCtr, i)] } y d tok = (s2, none) →
        Starts s c uncore fun t => t.mem = s2.mem ∧ Returns s2 t id x
          (packFields [(0, 20, tok), (20, 1, if accept then 1 else 0), (21, 1, if zero then 1 else 0)])))) ∧
  (∀ s c uncore id x tm m, Is s c uncore id x tm 0xDB m →
    let a := x.word 0 + 2 ^ 32 * x.word 1
    (a % 64 ≠ 0 → Starts s c uncore fun t => Returns s t id x 2 ∧ t.mem = s.mem) ∧
    (∀ s1 pages, a % 64 = 0 →
      mapSpan { s with cmds := Tab.put s.cmds id { x with started := true } } x.agent a 64 .load = (s1, .ok pages) →
      let d := readN (s1.pageByte x.agent pages) a 64
      (collInvalid m d = true → Starts s c uncore fun t => Returns s1 t id x 2) ∧
      (collInvalid m d = false → cdRanks d ≠ 1 → cdCount d = 0 → m = 0 → s1.deviceLost (cdRoot d) = false →
        s1.findColl (cdComm d) (cdSeq d) = none → Starts s c uncore fun t =>
          (Tab.find t.cmds id).isSome = true ∧ ∃ i, Tab.find t.colls s1.idCtr = some i ∧ i.comm = cdComm d ∧ i.seq = cdSeq d ∧
            i.root = cdRoot d ∧ i.timeout = cdTimeout d ∧ i.ended = none ∧ i.served = false ∧
            i.ranks.map (fun r => (r.r, r.n, r.cmd, r.data)) = [(cdRank d, cdRanks d, some id, some [])])))

/-- R65, R88, R278, R279, R285, R289, R339, R391, R393, R394, R396, R419, R420, R436 and R453: what the writes that the table
gives a row of their own do: GO of MIGCTL and RDCOLL with the rounds behind them, KVPOOL, QSYNC, CHARGE, the counters that a write
clears, FRSIZE, MPTBASE and SCHEDCTL. A write of any other register by a management core is that of CSRWR. Which moves GO refuses beyond
R87 (log 32), the die whose moves count and the 0 rounds of a refusal (log 115), how a tree counts as active (log 65), that pdelay is
written before FWSTAT reads RUNNING (log 89) and which block a running collapse rewrites when the frame is written again (log 90) are the
model's choices. -/
def Obligations.CsrEvents : Prop :=
  let Moving (s t : State) (x status rounds : Nat) : Prop :=
    (t.context x).migstatus = status ∧ (t.context x).migrounds = rounds ∧ t.groups = s.groups ∧ t.teams = s.teams
  (∀ s x (v : DWord), (s.context x).migstatus = 1 ∨ v.toNat % 2 = 0 → Happens .migrationGo (.migrationGo x v) s fun t => t = s) ∧
  (∀ s x (v : DWord) s1 r, (s.context x).migstatus ≠ 1 → v.toNat % 2 = 1 →
    walkFrom s none 0 x ((s.context x).migva.toNat % 2 ^ 57) = (s1, .fail r) →
    Happens .migrationGo (.migrationGo x v) s fun t => Moving s t x 3 0 ∧ t.moves = s.moves ∧ t.mem = s.mem) ∧
  (∀ s x (v : DWord) s1 ea pte level, (s.context x).migstatus ≠ 1 → v.toNat % 2 = 1 →
    let va := (s.context x).migva.toNat % 2 ^ 57
    walkFrom s none 0 x va = (s1, .leaf ea pte level) →
    let size := if level = 0 ∧ pte / 32 % 2 = 1 then 65536 else leafSize level
    let old := s.norm (pte / 2 ^ 12 % 2 ^ 40 * 4096 / size * size)
    let new := s.norm (s.context x).migframe.toNat
    let refused : Prop := level = 2 ∨ pte / 2 ^ 61 % 4 = 1 ∨ 16 ≤ (s.moves.filter fun m => m.2.die = s.homeDie old).length ∨
      new % size ≠ 0 ∨ physOk new = false
    let whole (f : Nat) : Prop := f + size ≤ 2 ^ 40 ∧ ∀ i, i < size / 64 → s.ownedAway (f / 64 + i) = false
    (refused → Happens .migrationGo (.migrationGo x v) s fun t => Moving s t x 3 0 ∧ t.moves = s.moves ∧ t.mem = s.mem) ∧
    (¬ refused → Happens .migrationGo (.migrationGo x v) s fun t => Moving s t x 1 1) ∧
    (¬ refused → memWf s.mem = true → s.badLines = [] → s.die0.lost = false → s.die1.lost = false → s.l2Room (size / 64) →
      whole old → whole new → old + size ≤ new ∨ new + size ≤ old →
      (∀ i, i < size / 64 → s.lineFault (old + 64 * i) false false = none) → Happens .migrationGo (.migrationGo x v) s fun t =>
        (∃ n, Tab.find t.moves n = some ⟨s.homeDie old, x, va / size * size, size, old, new, 1, [], false⟩) ∧
        (∀ i, i < size → memRead t.mem (new + i) = memRead s.mem (old + i)) ∧
        ∀ a, a < new ∨ new + size ≤ a → memRead t.mem a = memRead s.mem a)) ∧
  (∀ s n m, Tab.find s.moves n = some m →
    (m.frozen = true ∨ m.marked.length ≤ 256 → Happens .migrationRound (.migrationRound n) s fun t => t = s) ∧
    (m.frozen = false → 256 < m.marked.length → m.round < 8 →
      m.old % 64 = 0 → m.new % 64 = 0 → m.old + m.size ≤ m.new ∨ m.new + m.size ≤ m.old →
      (∀ l, l ∈ m.marked → m.old ≤ l * 64 ∧ l * 64 + 64 ≤ m.old + m.size ∧ s.lineFault (l * 64) false false = none ∧
        s.unheld (l * 64) = false ∧ s.remoteDev (l * 64) = none) →
      Happens .migrationRound (.migrationRound n) s fun t => Moving s t m.ctx 1 (m.round + 1) ∧
        Tab.find t.moves n = some { m with round := m.round + 1, marked := [] }) ∧
    (m.frozen = false → 256 < m.marked.length → 8 ≤ m.round → Happens .migrationRound (.migrationRound n) s fun t =>
      Moving s t m.ctx 4 8 ∧ Tab.find t.moves n = none) ∧
    (m.frozen = false → m.marked.length ≤ 256 → Happens .migrationFreeze (.migrationFreeze n) s fun t =>
      Tab.find t.moves n = some { m with frozen := true } ∧ t.mem = s.mem ∧ t.groups = s.groups) ∧
    (m.frozen = false → 256 < m.marked.length → Happens .migrationFreeze (.migrationFreeze n) s fun t => t = s) ∧
    (m.frozen = true → s.moveBusy m = true → Happens .migrationFreeze (.migrationFreeze n) s fun t => t = s) ∧
    (m.frozen = true → s.moveBusy m = false → (∀ a, a ∈ s.accesses → a.2.status ≠ .held) →
      (∀ p, p ∈ s.parts → ∀ e, e ∈ p.2.log → e.2.replaying = false) → Happens .migrationFreeze (.migrationFreeze n) s fun t =>
      Moving s t m.ctx 2 m.round ∧ Tab.find t.moves n = none ∧
      ∀ c e, e ∈ (t.core c).tlb → ¬ (e.asid = s.asidOf m.ctx ∧ m.va % 2 ^ 57 / e.size * e.size = e.va))) ∧
  (∀ s (v : DWord), let q := v.toNat % 4096
    Happens .qsyncWrite (.qsyncWrite v) s fun t =>
      t.itemQueue q = { ItemQueue.reset with sync := true } ∧ (∀ j, j ≠ q → t.itemQueue j = s.itemQueue j) ∧ t.mem = s.mem ∧
      (∀ id, id ∈ (s.itemQueue q).waitDeq ++ (s.itemQueue q).waitEnq → Tab.find t.cmds id = none) ∧
      ∀ id c g, (s.itemQueue q).waitDeq ++ (s.itemQueue q).waitEnq = [id] → Tab.find s.cmds id = some c → c.dead = false →
        s.group? c.grp = some g → g.team = c.team → ∃ g', t.group? c.grp = some g' ∧ g'.ureg c.h = 0xFFFFFFFE ∧
          OnlyWrites g g' [] [c.h] []) ∧
  (∀ s (v : DWord), let frame := v.toNat / 2 ^ 16 % 2 ^ 36 * 65536
    (Happens .rdcollGo (.rdcollGo v) s fun t => t.csr.rdframe.toNat = frame ∧
      t = { s with csr := { s.csr with rdframe := t.csr.rdframe, rdstatus := t.csr.rdstatus, rdblock := t.csr.rdblock } } ∧
      (s.csr.rdstatus = 1 ∨ v.toNat % 2 = 0 → t.csr.rdstatus = s.csr.rdstatus ∧ t.csr.rdblock = s.csr.rdblock) ∧
      (s.csr.rdstatus ≠ 1 → v.toNat % 2 = 1 → t.csr.rdblock = frame ∧ t.csr.rdstatus =
        if frame < 2 ^ 40 ∧ ∀ i, i < 1024 → (Tab.get s.lineMeta (frame / 64 + i) (0 : BitVec 16)).toNat % 8 = 5 then 1 else 3)) ∧
    (s.csr.rdstatus ≠ 1 → Happens .rdcollDone .rdcollDone s fun t => t = s) ∧
    (s.csr.rdstatus = 1 → Happens .rdcollDone .rdcollDone s fun t => t.csr = { s.csr with rdstatus := 2 } ∧
      (∀ l, Tab.get t.lineMeta l (0 : BitVec 16) =
        if s.csr.rdblock / 64 ≤ l ∧ l < s.csr.rdblock / 64 + 1024 then 0 else Tab.get s.lineMeta l 0) ∧
      t.mem = s.mem ∧ t.groups = s.groups)) ∧
  (∀ s d (v : DWord), d < 2 →
    let w := v.toNat / 2 ^ 16 % 2 ^ 36 * 65536 + v.toNat % 16
    let base := if 12 < v.toNat % 16 then 0 else v.toNat / 2 ^ 16 % 2 ^ 36 * 65536
    (s.treesActive d = true → Happens .kvpoolWrite (.kvpoolWrite d v) s fun t => t = s) ∧
    (s.treesActive d = false → Happens .kvpoolWrite (.kvpoolWrite d v) s fun t =>
      (if d = 0 then t.csr.kvpool0 else t.csr.kvpool1).toNat = w ∧ t.die (1 - d) = s.die (1 - d) ∧ t.mem = s.mem ∧
      t.groups = s.groups ∧
      t.die d = (if base = 0 then s.die d
        else { s.die d with poolN := s.peekLE base 8 % 2 ^ 32, poolF0 := s.peekLE base 8 / 2 ^ 32 % 2 ^ 24 }))) ∧
  (∀ s x (v : DWord),
    (Happens .frsizeWrite (.frsizeWrite x v) s fun t =>
      t = { s with contexts := t.contexts } ∧ t.context x = { s.context x with frsize := v.toNat % 32, frhead := 0 } ∧
      ∀ y, y ≠ x → t.context y = s.context y) ∧
    (Happens .frlostClear (.frlostClear x) s fun t =>
      t = { s with contexts := t.contexts } ∧ t.context x = { s.context x with frlost := 0 } ∧
      ∀ y, y ≠ x → t.context y = s.context y) ∧
    (Happens .mclostClear .mclostClear s fun t => t = { s with csr := { s.csr with mclost := 0 } }) ∧
    (Happens .specdropClear .specdropClear s fun t => t = { s with csr := { s.csr with specdrop0 := 0, specdrop1 := 0 } }) ∧
    (Happens .nopagecntClear .nopagecntClear s fun t => t = { s with csr := { s.csr with nopage0 := 0, nopage1 := 0 } }) ∧
    (Happens .mptbaseWrite (.mptbaseWrite v) s fun t =>
      t.csr.mptbase.toNat = v.toNat / 2 ^ 12 % 2 ^ 40 * 2 ^ 12 ∧
      t = { s with csr := { s.csr with mptbase := t.csr.mptbase } }) ∧
    (Happens .schedctlWrite (.schedctlWrite v) s fun t =>
      t = { s with csr := { s.csr with
        pdelay := v.toNat / 2 ^ 8 % 2 ^ 24, en := if s.ctl.fwstat = 3 then decide (v.toNat % 2 = 1) else s.csr.en } })) ∧
  (∀ s n num (v : BitVec 128), Happens .csrWrite (.csrWrite n num v) s fun t =>
    t = s.csrStore n num v.toNat ∧ (num = 0x10 → (t.manager n).winsel = v.toNat % 2 ^ 17) ∧
    (num = 0x3F → (t.manager n).ctxsel = v.toNat % 2 ^ 6) ∧ (num = 0x27 → t.csr.savesize = v.toNat % 2 ^ 32)) ∧
  (∀ s n (v : DWord), let k := (s.manager n).winsel
    let code := v.toNat % 2 ^ 16
    (s.group? k = none ∨ codeListed code = false ∨ (∀ tm, s.teamOf k = some tm → tm.slot = none) →
      Happens .chargeWrite (.chargeWrite n v) s fun t => t = s) ∧
    (∀ g tm j s1 s2 r, s.group? k = some g → s.teamOf k = some tm → tm.slot = some j → codeListed code = true → code ≠ 0x0502 →
      v.toNat / 2 ^ 16 % 2 = 0 → readVirt s (s.ctxOf k) (tm.reqRec + 12) 2 = (s1, .ok 0) →
      writeVirt s1 (s.ctxOf k) (tm.reqRec + 12) 2 code = (s2, r) → r ≠ .error .held →
      Happens .chargeWrite (.chargeWrite n v) s fun t => t = s2) ∧
    (∀ g tm j s1 old, s.group? k = some g → s.teamOf k = some tm → tm.slot = some j → codeListed code = true →
      v.toNat / 2 ^ 16 % 2 = 0 → readVirt s (s.ctxOf k) (tm.reqRec + 12) 2 = (s1, .ok old) → old ≠ 0 →
      Happens .chargeWrite (.chargeWrite n v) s fun t => t = s1) ∧
    (∀ g tm j, s.group? k = some g → g.privileged = false → s.teamOf k = some tm → tm.slot = some j → codeListed code = true →
      v.toNat / 2 ^ 16 % 2 = 1 → Happens .chargeWrite (.chargeWrite n v) s fun t =>
        ∀ g', t.group? k = some g' → g'.cancelled = true ∧ g'.suspension = none ∧ ∀ p, p ∈ g'.pcs → p = 0xFFFFFFFF ∨ g.exited = true))

/-- R371, R372, R373, R444, R460, R463 and R467: OWNER changes in three cases, with the epoch, and of the writes of one tick master
3's comes first and master 1's last; a write by a master that is not the
owner is dropped and counted in DENIED; the owner's write clears DENIED, LREFUSE and the error counters, selects a version inside
the range the device supports, requests a reset when none runs, and starts a mailbox command when none is under way.
That an OWNER write whose place in its tick has passed is dropped (log 2), and that no reset of a lost die is requested (log 58),
are the model's choices. -/
def Obligations.ControlRegisterEvents : Prop :=
  let Sets (s t : State) (f : Control → Control) : Prop := t = { s with ctl := f s.ctl }
  let Denied (s t : State) : Prop := Sets s t fun c => { c with denied := min (c.denied + 1) (2 ^ 32 - 1) }
  let Counter (off : Nat) : Prop := ∃ i, i ≤ 8 ∧ off = 0x1020 + 8 * i
  let Cleared (s t : State) (off : Nat) : Prop :=
    t = { s with ctl := { s.ctl with cecnt0 := t.ctl.cecnt0, cecnt1 := t.ctl.cecnt1, uecnt0 := t.ctl.uecnt0, uecnt1 := t.ctl.uecnt1 } } ∧
      ∀ o, Counter o → t.controlRead o = if o = off then 0 else s.controlRead o
  let Selected (s t : State) (off : Nat) (v : DWord) : Prop :=
    let sel := v.toNat / 2 ^ 32 % 2 ^ 16
    if off = 0x20 then Sets s t fun c => { c with dlver := if 0x0100 ≤ sel ∧ sel ≤ 0x0200 then sel else c.dlver }
    else if off = 0x18 then
      Sets s t fun c => { c with hifver := if s.csr.en = false ∧ 0x0200 ≤ sel ∧ sel ≤ 0x0201 then sel else c.hifver }
    else Sets s t fun c => { c with fwver := if s.csr.en = false ∧ 0x0100 ≤ sel ∧ sel ≤ 0x0103 then sel else c.fwver }
  let Version (off : Nat) : Prop := off = 0x18 ∨ off = 0x20 ∨ off = 0x28
  (∀ s m (v : DWord), 1 ≤ m → m ≤ 3 →
    let req := v.toNat / 16 % 16
    let own := s.ctl.owner
    let may : Prop := (own = 0 ∧ req = m) ∨ own = m ∨ (m = 3 ∧ v.toNat / 256 % 2 = 1)
    let passed : Prop := s.ctl.ownTick = s.ticks 0 + 1 ∧ s.ctl.ownMaster < m
    (¬ passed → Happens .ownerWrite (.ownerWrite m v) s fun t =>
      if req < 4 ∧ req ≠ own ∧ may then
        Sets s t fun c => { c with owner := req, epoch := (c.epoch + 1) % 2 ^ 16, ownTick := s.ticks 0 + 1, ownMaster := m }
      else Sets s t fun c => { c with ownTick := s.ticks 0 + 1, ownMaster := m }) ∧
    (passed → Happens .ownerWrite (.ownerWrite m v) s fun t => t = s)) ∧
  (∀ s m off (v : DWord), s.ctl.owner ≠ m →
    (off ≠ 8 → Happens .controlRegisterWrite (.controlRegisterWrite m off v) s (Denied s)) ∧
    (Happens .deniedClear (.deniedClear m) s (Denied s)) ∧ (Happens .lrefuseClear (.lrefuseClear m) s (Denied s)) ∧
    (Counter off → Happens .errorCounterClear (.errorCounterClear m off) s (Denied s)) ∧
    (Version off → Happens .versionSelect (.versionSelect m off v) s (Denied s))) ∧
  (∀ s m off (v : DWord), s.ctl.owner = m →
    (Happens .deniedClear (.deniedClear m) s fun t => Sets s t fun c => { c with denied := 0 }) ∧
    (Happens .lrefuseClear (.lrefuseClear m) s fun t => Sets s t fun c => { c with lrefuse := 0 }) ∧
    (Counter off → Happens .errorCounterClear (.errorCounterClear m off) s fun t => Cleared s t off) ∧
    (Version off → Happens .versionSelect (.versionSelect m off v) s fun t => Selected s t off v) ∧
    Happens .controlRegisterWrite (.controlRegisterWrite m off v) s fun t =>
      (off = 0x10 → Sets s t fun c => { c with denied := 0 }) ∧ (off = 0x30 → Sets s t fun c => { c with lrefuse := 0 }) ∧
      (Counter off → Cleared s t off) ∧ (Version off → Selected s t off v) ∧
      (off = 0x1000 → if s.ctl.resetPending ≠ 0 ∨ s.die0.resetting = true ∨ s.die1.resetting = true then t = s
        else Sets s t (fun c => { c with resetPending := t.ctl.resetPending }) ∧ t.ctl.resetPending < 16 ∧
          ∀ b, b < 4 → t.ctl.resetPending / 2 ^ b % 2 = if (s.die (b % 2)).lost then 0 else v.toNat / 2 ^ b % 2) ∧
      (off = 0x2000 → if s.ctl.mbbusy = true ∨ s.ctl.fwstat ≤ 1 then t = s
        else t.ctl.mbcmd.toNat = v.toNat % 2 ^ 16 ∧
          Sets s t fun c => { c with mbcmd := t.ctl.mbcmd, mbbusy := true, mbout := none }) ∧
      (off = 0x2010 → Sets s t fun c => { c with mbaddr := v }) ∧
      (off = 0x2018 → Sets s t fun c => { c with mblen := v.toNat % 2 ^ 32 }) ∧
      (off ∈ [0x0000, 0x1008, 0x1010, 0x1018, 0x1068, 0x1070, 0x2008] → t = s))

/-- R373, R465, R466 and R467: the mailbox. A command that the selected FWVER accepts runs when the controller takes it up:
LOADIMAGE keeps a verified image for storage, ATTEST and ATTESTCTX use up the next index, GETPUB and IMAGEINFO answer with their
bytes and RAISEMIN raises the stored minimum; the result is 1 for a command that is not accepted, 4 for a buffer that is
misaligned or too short, 5 for an exhausted key. Completion writes the buffer, clears busy and shows the tag and the result.
In AWAIT-RECOVERY the stored image is booted. Which result stands when two apply (log 45), the buffer as host physical memory (log 50),
the storage without an image during an update (log 51), and the verification, versions and key of images and attestations (log 16) are
the model's choices. -/
def Obligations.FirmwareEvents : Prop :=
  let Answers (s t : State) (o : Nat) (bs : List Byte) (result : Nat) (f : Control → Control) : Prop :=
    t = { s with ctl := { f s.ctl with mbout := some (2 ^ 51 + (s.ctl.mbaddr.toNat + o), bs, result) } }
  let Taken (s : State) (code : Nat) : Prop :=
    s.ctl.mbbusy = true ∧ s.ctl.mbout = none ∧ s.ctl.mbcmd.toNat % 256 = code
  let Good (s : State) (n : Nat) : Prop :=
    s.ctl.mbaddr.toNat % 64 = 0 ∧ n ≤ s.ctl.mblen ∧ s.ctl.mbaddr.toNat + s.ctl.mblen ≤ 2 ^ 51
  let Runs (s : State) (code minor : Nat) : Prop :=
    Taken s code ∧ minor ≤ s.ctl.fwver % 256 ∧ (s.ctl.fwstat ≠ 2 ∨ code = 1)
  let Turned (s : State) (code minor : Nat) : Prop :=
    Taken s code ∧ (s.ctl.fwver % 256 < minor ∨ (s.ctl.fwstat = 2 ∧ code ≠ 1))
  let row (code : Nat) : Instr × Event :=
    if code = 1 then (.loadimage, .loadimage) else if code = 2 then (.attest, .attest) else if code = 3 then (.getpub, .getpub)
    else if code = 4 then (.raisemin, .raisemin) else if code = 5 then (.imageinfo, .imageinfo) else (.attestctx, .attestctx)
  let Row (code : Nat) (s : State) (R : State → Prop) : Prop := Happens (row code).1 (row code).2 s R
  let same (c : Control) : Control := c
  (∀ s code, 1 ≤ code → code ≤ 6 → ¬ Taken s code → Row code s fun t => t = s) ∧
  (∀ s code minor, (code, minor) ∈ [(1, 0), (2, 0), (3, 0), (4, 1), (5, 2), (6, 3)] → Turned s code minor →
    Row code s fun t => Answers s t 0 [] 1 same) ∧
  (∀ s code minor need, (code, minor, need) ∈ [(2, 0, 2916), (3, 0, 68), (5, 2, 8), (6, 3, 2948)] → Runs s code minor →
    ¬ Good s need → Row code s fun t => Answers s t 0 [] 4 same) ∧
  (∀ s, Runs s 1 0 →
    let img := s.bufferBytes 0 s.ctl.mblen
    (¬ (s.ctl.mblen ≠ 0 ∧ Good s 0) → Happens .loadimage .loadimage s fun t => Answers s t 0 [] 4 same) ∧
    (s.ctl.mblen ≠ 0 → Good s 0 → Config.xmssVerify img = false → Happens .loadimage .loadimage s fun t => Answers s t 0 [] 2 same) ∧
    (s.ctl.mblen ≠ 0 → Good s 0 → Config.xmssVerify img = true → secVersion img < s.ctl.minVersion →
      Happens .loadimage .loadimage s fun t => Answers s t 0 [] 3 same) ∧
    (s.ctl.mblen ≠ 0 → Good s 0 → Config.xmssVerify img = true → s.ctl.minVersion ≤ secVersion img →
      Happens .loadimage .loadimage s fun t => Answers s t 0 [] 0 fun c => { c with storedImage := none, newImage := some img })) ∧
  (∀ s code minor need, (code, minor, need) ∈ [(2, 0, 2916), (6, 3, 2948)] → Runs s code minor → Good s need →
    (2 ^ 20 ≤ s.ctl.attidx → Row code s fun t => Answers s t 0 [] 5 same) ∧
    (s.ctl.attidx < 2 ^ 20 → Row code s fun t =>
      let hash := shake256 (s.ctl.runningImage ++ leBytes 0xB1 8 ++ leBytes (s.controlRead 0x1068) 8 ++ s.bufferBytes 0 32 ++
        if code = 6 then s.bufferBytes 2916 32 else []) 64
      let sig := xmssSign s.ctl.attidx hash
      hash.length = 64 ∧ sig.length = 2820 ∧ sig.take 4 = (leBytes s.ctl.attidx 4).reverse ∧
        Answers s t 32 (hash ++ sig) 0 fun c => { c with attidx := c.attidx + 1 })) ∧
  (∀ s, Runs s 3 0 → Good s 68 → Happens .getpub .getpub s fun t =>
    xmssPublic.length = 68 ∧ Answers s t 0 xmssPublic 0 same) ∧
  (∀ s, Runs s 4 1 → Happens .raisemin .raisemin s fun t =>
    Answers s t 0 [] 0 fun c => { c with minVersion := max c.minVersion (secVersion c.runningImage) }) ∧
  (∀ s img, Runs s 5 2 → Good s 8 → s.ctl.storedImage = some img → Happens .imageinfo .imageinfo s fun t =>
    Answers s t 0 (leBytes (secVersion img) 4 ++ leBytes (Config.imageVersion img) 4) 0 same) ∧
  (∀ s a bs r, s.ctl.mbbusy = true → s.ctl.mbout = some (a, bs, r) → Happens .mailboxComplete .mailboxComplete s fun t =>
    let boots : Prop := s.ctl.fwstat = 2 ∧ s.ctl.newImage ≠ none
    t.ctl.mbbusy = false ∧ t.ctl.mbout = none ∧ t.ctl.mbtag = s.ctl.mbcmd.toNat / 2 ^ 8 % 2 ^ 8 ∧ t.ctl.mbresult = r ∧
    t.ctl.newImage = none ∧ t.ctl.storedImage = (match s.ctl.newImage with | some img => some img | none => s.ctl.storedImage) ∧
    (¬ boots → t.mem = (s.deviceBytes 0 a bs).mem ∧ t.groups = s.groups ∧ t.teams = s.teams ∧
      t.ctl.fwstat = s.ctl.fwstat ∧ t.ctl.runningImage = s.ctl.runningImage) ∧
    (boots → t.ctl.fwstat = 3 ∧ s.ctl.newImage = some t.ctl.runningImage ∧ t.die0.tcount = 0 ∧ t.die1.tcount = 0 ∧
      ∀ b, b < 2 ^ 51 → memRead t.mem b = 0)) ∧
  (∀ s, s.ctl.mbbusy = true → s.ctl.mbout = none → s.ctl.newImage = none →
    s.ctl.mbcmd.toNat % 256 = 0 ∨ 7 ≤ s.ctl.mbcmd.toNat % 256 → Happens .mailboxComplete .mailboxComplete s fun t =>
      t.ctl.mbbusy = false ∧ t.ctl.mbtag = s.ctl.mbcmd.toNat / 2 ^ 8 % 2 ^ 8 ∧ t.ctl.mbresult = 1 ∧ t.mem = s.mem) ∧
  (∀ s, s.ctl.mbbusy = false → Happens .mailboxComplete .mailboxComplete s fun t => t = s)

/-- R363, R369, R425, R461, R462 and R468: a sensor at 95 °C or more withholds issue until it reads below 92 °C, and at 110 °C the
device shuts down; a unit is declared failed when 64 corrected errors at one of its locations within 2^30 ticks have marked it, and not
else; a failed quad takes a free spare of its sector once no team is on it; a failed pseudo-channel is copied to its stack's spare,
which is in use from then on; a failed link lane narrows its port; and BAND shows the share of 64 TB/s used in the last window. What a
reading between 92 and 95 does (log 46), the bit of a spare to which a copy runs (log 52) and a window that no event measures (log 122)
are the model's choices. -/
def Obligations.PlatformEvents : Prop :=
  let Ctl (s t : State) (f : Control → Control) : Prop := t = { s with ctl := f s.ctl }
  let reads (n T : Nat) (c : Control) : Control :=
    { c with temp0 := if n = 0 then T else c.temp0, temp1 := if n = 1 then T else c.temp1
             tempIo := if n = 2 then T else c.tempIo }
  let known (u : FailUnit) (c : Control) : Control :=
    { c with failing := c.failing.filter (· ≠ u), corrections := c.corrections.filter fun x => x.1 ≠ u }
  (∀ s n T, n ≤ 2 →
    (T < 95 ∨ 110 ≤ T → Happens .thermalThrottle (.thermalThrottle n T) s fun t => t = s) ∧
    (95 ≤ T → T < 110 → Happens .thermalThrottle (.thermalThrottle n T) s fun t => t.controlRead 0x1070 / 2 ^ 24 % 2 = 1 ∧
      Ctl s t fun c => { reads n T c with withheld := n :: c.withheld.filter (· ≠ n) }) ∧
    (95 ≤ T → Happens .thermalRelease (.thermalRelease n T) s fun t => t = s) ∧
    (T < 95 → Happens .thermalRelease (.thermalRelease n T) s fun t =>
      (T < 92 → (∀ m, m ∈ s.ctl.withheld → m = n) → t.controlRead 0x1070 / 2 ^ 24 % 2 = 0) ∧
      Ctl s t fun c => { reads n T c with withheld := if T < 92 then c.withheld.filter (· ≠ n) else c.withheld }) ∧
    (T < 110 → Happens .thermalShutdown (.thermalShutdown n T) s fun t => t = s) ∧
    (110 ≤ T → Happens .thermalShutdown (.thermalShutdown n T) s fun t => t.powered = false ∧
      t = { s with powered := false, ctl := { reads n T s.ctl with withheld := n :: s.ctl.withheld.filter (· ≠ n) } })) ∧
  (∀ s u, s.ctl.failing.contains u = false → Happens .structureFailed (.structureFailed u) s fun t => t = s) ∧
  (∀ s q, s.ctl.failing.contains (.quad q) = true → Happens .structureFailed (.structureFailed (.quad q)) s fun t =>
    t = { s with quads := t.quads, ctl := known (.quad q) s.ctl } ∧ t.quad q = { s.quad q with failed := true } ∧
      ∀ j, j ≠ q → t.quad j = s.quad j) ∧
  (∀ s k, s.ctl.failing.contains (.pseudoChannel k) = true →
    let serves : Prop := s.ctl.sparePchan / 2 ^ k % 2 = 1 ∨ (k ∈ s.ctl.copying ∧ (s.die (k / 8)).resetting = false)
    (serves → Happens .structureFailed (.structureFailed (.pseudoChannel k)) s fun t => Ctl s t (known (.pseudoChannel k))) ∧
    (¬ serves → Happens .structureFailed (.structureFailed (.pseudoChannel k)) s fun t =>
      Ctl s t (fun c => { known (.pseudoChannel k) c with copying := k :: c.copying }) ∧
      (k < 16 → (s.die (k / 8)).resetting = false → s.ctl.spareQuads < 2 ^ 32 →
        t.controlRead 0x1068 / 2 ^ (32 + k) % 2 = 1))) ∧
  (∀ s, s.ctl.failing.contains .bondLane = true → Happens .structureFailed (.structureFailed .bondLane) s fun t =>
    Ctl s t fun c => { known .bondLane c with bondFailed := true }) ∧
  (∀ s p, s.ctl.failing.contains (.linkLane p) = true → 3 ≤ (s.port p).lanes →
    Happens .structureFailed (.structureFailed (.linkLane p)) s fun t =>
    t = { s with ports := t.ports, ctl := known (.linkLane p) s.ctl } ∧
      t.port p = { s.port p with lanes := (s.port p).lanes - 1 } ∧ ∀ j, j ≠ p → t.port j = s.port j) ∧
  (∀ s q, let free (n : Nat) : Prop := s.ctl.spareQuads / 2 ^ (2 * (q / 32) + n) % 2 = 0
    let fit : Prop := (s.quad q).failed = true ∧ (∀ x, x ∈ s.teams → quadOfCore x.2.core ≠ q) ∧ (free 0 ∨ free 1)
    (¬ fit → Happens .quadSubstitution (.quadSubstitution q) s fun t => t = s) ∧
    (fit → Happens .quadSubstitution (.quadSubstitution q) s fun t => ∃ n, n < 2 ∧ free n ∧ (n = 1 → ¬ free 0) ∧
      t.quad q = { s.quad q with failed := false, spare := some n, tlb := [], ahead := [] } ∧
      (∀ j, j ≠ q → t.quad j = s.quad j) ∧ (Ctl s { t with quads := s.quads, cores := s.cores } fun c =>
        { c with spareQuads := c.spareQuads + 2 ^ (2 * (q / 32) + n) }) ∧
      ∀ c, if quadOfCore c = q then (t.core c).regions = [] ∧ (t.core c).tlb = [] else t.core c = s.core c)) ∧
  (∀ s k, k ∉ s.ctl.copying ∨ (s.die (k / 8)).resetting = true →
    Happens .pchanCopyComplete (.pchanCopyComplete k) s fun t => t = s) ∧
  (∀ s k, k ∈ s.ctl.copying → (s.die (k / 8)).resetting = false → Happens .pchanCopyComplete (.pchanCopyComplete k) s fun t =>
    Ctl s t fun c => { c with copying := c.copying.filter (· ≠ k), sparePchan := c.sparePchan + 2 ^ k }) ∧
  (∀ s d n, d < 2 →
    (s.ticks d / 1024 ≤ (s.die d).windows ∨ s.ticks d % 1024 ≠ 0 →
      Happens .utilisationWindow (.utilisationWindow d n) s fun t => t = s) ∧
    ((s.die d).windows < s.ticks d / 1024 → s.ticks d % 1024 = 0 → Happens .utilisationWindow (.utilisationWindow d n) s fun t =>
      t.die d = { s.die d with band := min 7 (8 * n / 65536000), windows := s.ticks d / 1024 } ∧
      t.die (1 - d) = s.die (1 - d) ∧ t = { s with die0 := t.die0, die1 := t.die1 }))

/-- R22, R24, R86, R109, R263, R348, R393, R429 to R431, R463, R464 and R465: what the resets leave. A core reset ends the teams of
its die and empties their cores' L1; an uncore reset includes it, empties the die's L2 and halts its management cores, and when it
completes the die's MFT stands 2,048 above the mirrored value with every core at it; the loss of a die ends its teams, its moves
and its management cores; package power-on reset leaves HBM zero, both time counters 0, no team, grid or context, and runs the
stored image if it may; a device that still reads 110 °C stays off. A reset that is not due changes nothing. The registers of a
restarted privileged group (log 4), when it halts (log 44), what a power-on keeps (log 53), the requests for a lost die (log 58) and the
end of its moves (log 60) are the model's choices. -/
def Obligations.ResetEvents : Prop :=
  let Teamless (s t : State) (d : Nat) : Prop :=
    ∀ id x, s.team? id = some x → dieOfCore x.core = d → t.team? id = none
  let Reset (t : State) (d lo hi : Nat) : Prop :=
    ∀ c, lo ≤ c → c < hi → dieOfCore c = d → (t.core c).l1 = [] ∧ (t.core c).lt = (t.die d).mft
  let due (s : State) (d b : Nat) : Prop :=
    s.ctl.resetPending / 2 ^ b % 2 = 1 ∧ s.die0.resetting = false ∧ s.die1.resetting = false ∧ (s.die d).lost = false ∧
      (d = 0 ∨ (s.ctl.resetPending / 2 ^ 0 % 2 = 0 ∧ s.ctl.resetPending / 2 ^ 2 % 2 = 0))
  let Begun (s t : State) (d : Nat) (requested : Bool) : Prop :=
    Teamless s t d ∧ (t.die d).resetting = true ∧ (t.die d).failReset = !requested ∧ (t.die (1 - d)).resetting = (s.die (1 - d)).resetting ∧
      (∀ l, s.homedOn d l = true → Tab.find t.home l = none) ∧ Reset t d 0 2048 ∧
      (∀ n, 8 * d ≤ n → n < 8 * d + 8 → (t.manager n).halted = true ∧ (t.manager n).handling = none ∧
        t.group? (privKey n) = some Group.privilegedReset)
  (∀ s d, d < 2 →
    (¬ (due s d d ∧ s.ctl.resetPending / 2 ^ (2 + d) % 2 = 0) → Happens .coreReset (.coreReset d) s fun t => t = s) ∧
    (due s d d → s.ctl.resetPending / 2 ^ (2 + d) % 2 = 0 → Happens .coreReset (.coreReset d) s fun t =>
      Teamless s t d ∧ Reset t d 0 2048 ∧ t.ctl.resetPending / 2 ^ d % 2 = 0 ∧ t.ctl.resetFailed = false ∧
      (t.die d).resetting = false) ∧
    (¬ due s d (2 + d) → Happens .uncoreReset (.uncoreReset d true) s fun t => t = s) ∧
    (due s d (2 + d) → Happens .uncoreReset (.uncoreReset d true) s fun t => Begun s t d true ∧
      t.ctl.resetPending / 2 ^ d % 2 = 0 ∧ t.ctl.resetPending / 2 ^ (2 + d) % 2 = 0) ∧
    ((s.die d).resetting = true ∨ (s.die d).lost = true → Happens .uncoreReset (.uncoreReset d false) s fun t => t = s) ∧
    ((s.die d).resetting = false → (s.die d).lost = false → Happens .uncoreReset (.uncoreReset d false) s fun t =>
      Begun s t d false ∧ (s.l2Room (64 * s.teams.length) → ∀ l h, (l, h) ∈ s.home → Tab.find s.home l = some h →
        s.homedOn d l = true → h.dirty = true →
        Tab.find t.badLines l = some ⟨2, 0, 0⟩)) ∧
    ((s.die d).resetting = false → Happens .uncoreResetComplete (.uncoreResetComplete d) s fun t => t = s) ∧
    ((s.die d).resetting = true → Happens .uncoreResetComplete (.uncoreResetComplete d) s fun t =>
      (t.die d).resetting = false ∧ (t.die d).mft = (s.die d).mirror + 2048 ∧ (t.die d).copies = [] ∧
      (∀ l c, (l, c) ∈ (t.die (1 - d)).copies → s.homedOn d l = false) ∧ Reset t d 0 2064 ∧ t.ctl.resetFailed = false ∧
      (∃ n, n ≤ 4 ∧ t.tcoff = s.die1.tcount.setWidth 32 - s.die0.tcount.setWidth 32 + BitVec.ofNat 32 n - 2) ∧
      ∀ b, s.remoteDev (b / 64 * 64) = none → memRead t.mem b = memRead s.mem b) ∧
    ((s.die d).lost = true → Happens .dieLost (.dieLost d) s fun t => t = s) ∧
    ((s.die d).lost = false → Happens .dieLost (.dieLost d) s fun t => (t.die d).lost = true ∧ Teamless s t d ∧
      (t.die (1 - d)).lost = (s.die (1 - d)).lost ∧ ((s.die d).resetting = true → t.ctl.resetFailed = true) ∧
      (∀ x, x ∈ t.moves → s.homeDie x.2.old ≠ d ∧ s.homeDie x.2.new ≠ d) ∧
      ∀ n, 8 * d ≤ n → n < 8 * d + 8 → t.group? (privKey n) = none)) ∧
  ∀ s, let runs : Prop := ∃ img, s.ctl.storedImage = some img ∧ s.bootable img = true
    ∀ us, Happens .packagePowerOnReset (.packagePowerOnReset us) s fun t =>
      (t.powered = true ↔ s.ctl.temp0 < 110 ∧ s.ctl.temp1 < 110 ∧ s.ctl.tempIo < 110) ∧
      t.ctl.withheld = s.ctl.withheld ∧ t.ctl.faulty = us ∧ t.csr.en = false ∧ t.die0.tcount = 0 ∧ t.die1.tcount = 0 ∧ t.die0.mft = 0 ∧ t.die1.mft = 0 ∧
      t.epoch = false ∧ t.home = [] ∧ t.lineMeta = [] ∧ (∀ c, (t.core c).lt = 0 ∧ (t.core c).l1 = []) ∧
      (∀ a, memRead t.mem a = if a < 2 ^ 51 then 0 else memRead s.mem a) ∧ t.teams = [] ∧ t.grids = [] ∧ t.contexts = [] ∧
      t.ctl.owner = 0 ∧ t.ctl.epoch = 0 ∧ t.ctl.attidx = s.ctl.attidx ∧ t.ctl.minVersion = s.ctl.minVersion ∧
      (runs → t.ctl.fwstat = 3 ∧ s.ctl.storedImage = some t.ctl.runningImage) ∧ (¬ runs → t.ctl.fwstat = 2) ∧
      (∃ n, n ≤ 4 ∧ t.tcoff = BitVec.ofNat 32 n - 2)

/-- R66, R84, R85, R281, R393, R394, R412 and R419: a walk that a resident group asks for fills the core's and the quad's TLB and
sets A, and D for a write; the walk-ahead translates the pages of a handle's tiles in the order in which they are copied; the
speculative translations set neither bit, and one that would fault is counted; and a record is delivered to a management core that
is halted or between records: its words in v0 to v15, the window at its group, the PC at the word after MCENTRY's header, which is
still to be checked, and the waiting records behind those of its queue. That a walk is one step (log 9), the entry that a full TLB drops
(log 10), which pages a group and a handle ask for (log 63), the window of a record without a group (log 47) and the header at MCENTRY
(log 99) are the model's choices. -/
def Obligations.WalkAndDeliveryEvents : Prop :=
  let Dropped (s t : State) (d : Nat) : Prop :=
    let up (n : Nat) : Nat := min (n + 1) (2 ^ 32 - 1)
    t = { s with csr := if d = 0 then { s.csr with specdrop0 := up s.csr.specdrop0 } else { s.csr with specdrop1 := up s.csr.specdrop1 } }
  (∀ s c x va acc, let may : Prop := canonical va = true ∧ s.wantsPage c x acc (va / 4096) = true ∧ s.frozenAt (s.asidOf x) va = false
    (¬ may → Happens .pageWalk (.pageWalk c x va acc) s fun t => t = s) ∧
    (∀ s1 r, walk s (dieOfCore c) x va acc false (some c) = (s1, r) → (∀ e, r ≠ .ok e) →
      Happens .pageWalk (.pageWalk c x va acc) s fun t => t = s) ∧
    (∀ s1 e, may → walk s (dieOfCore c) x va acc false (some c) = (s1, .ok e) →
      Happens .pageWalk (.pageWalk c x va acc) s fun t =>
        (t.core c).tlb.head? = some e ∧ (c < 2048 → (t.quad (quadOfCore c)).tlb.head? = some e) ∧ t.mem = s1.mem ∧
        e.accessed = true ∧ (acc = .store ∨ acc = .atomic → e.dirty = true) ∧ t.groups = s.groups ∧
        ∀ j, j ≠ c → t.core j = s.core j)) ∧
  (∀ s q x va acc, let may : Prop := s.walksNext q x acc (va / 4096) = true ∧ s.frozenAt (s.asidOf x) va = false
    (¬ may → Happens .walkAheadTranslation (.walkAheadTranslation q x va acc) s fun t => t = s) ∧
    (may → speculate s (q / 256) x va acc = none →
      Happens .walkAheadTranslation (.walkAheadTranslation q x va acc) s fun t => Dropped s t (q / 256)) ∧
    (∀ e, may → speculate s (q / 256) x va acc = some e →
      Happens .walkAheadTranslation (.walkAheadTranslation q x va acc) s fun t =>
        (t.quad q).ahead.head? = some e ∧ t = { s with quads := t.quads } ∧ (t.quad q).tlb = (s.quad q).tlb ∧
          ∀ j, j ≠ q → t.quad j = s.quad j)) ∧
  (∀ s d x va, let ahead : Bool := (speculate s d x va .load).isSome
    (s.frozenAt (s.asidOf x) va = true ∨ ahead = true →
      Happens .l2PrefetchTranslation (.l2PrefetchTranslation d x va) s fun t => t = s) ∧
    (s.frozenAt (s.asidOf x) va = false → ahead = false →
      Happens .l2PrefetchTranslation (.l2PrefetchTranslation d x va) s fun t => Dropped s t d)) ∧
  (∀ s n, let m := s.manager n
    let open_ : Prop := (m.halted = true ∨ m.open_ = true) ∧ s.csr.mptbase ≠ 0 ∧ (s.die (n / 8)).resetting = false ∧
      (m.again ≠ none ∨ m.queue ≠ [])
    (¬ open_ → Happens .recordDelivery (.recordDelivery n) s fun t => t = s) ∧
    (∀ r, open_ → r = (match m.again with | some a => a | none => m.queue.headD ⟨0, true, none⟩) →
      ∀ g, s.group? (privKey n) = some g → Happens .recordDelivery (.recordDelivery n) s fun t =>
        let H := s.csr.mcentry.toNat / 64 * 64
        (∃ g', t.group? (privKey n) = some g' ∧ (∀ i, i < 16 → g'.vreg i 0 = recWord r.record i) ∧
          g'.pcs = [BitVec.ofNat 32 (H + 4)] ∧ g'.unseen = [⟨H, 1⟩] ∧ ∀ i, 16 ≤ i → g'.vreg i 0 = g.vreg i 0) ∧
        (t.manager n).winsel =
          (if r.unit = true then 15 * 2 ^ 13 + recKey r.record % 2 ^ 13 else recKey r.record) ∧
        (t.manager n).halted = false ∧ (t.manager n).handling = some r ∧ t.mem = s.mem ∧
        (t.manager n).queue ++ (t.manager n).waiting = (if m.again = none then m.queue.tail else m.queue) ++ m.waiting ∧
        (∀ k q z, k ≠ privKey n → s.group? k = some q → q.suspension = some z → k = recKey r.record → z.record = r.record →
          t.group? k = some { q with suspension := some { z with delivered := true } }) ∧
        ∀ k, k ≠ privKey n → k ≠ recKey r.record → t.group? k = s.group? k))

end
end

