-- ==== Sys2Proof/Laws/Decode.lean ====
section
/-! SUPPORT. Formats: the fields of an encoded word are the fields that were encoded, and its opcode stands in bits 31..24. -/

namespace Sys2Proof

theorem FmtA.ofWord_toWord (f : FmtA) (op : Byte) : FmtA.ofWord (f.toWord op) = f := by
  cases f
  simp only [FmtA.ofWord, FmtA.toWord, FmtA.mk.injEq]
  refine ⟨?_, ?_, ?_, ?_⟩ <;> (ext i h; simp only [BitVec.getElem_extractLsb', BitVec.getLsbD_append]; grind)

theorem FmtA.hi_toWord (f : FmtA) (op : Byte) : (f.toWord op).extractLsb' 28 4 = op.extractLsb' 4 4 := by
  ext i h; simp only [FmtA.toWord, BitVec.getElem_extractLsb', BitVec.getLsbD_append]; grind

theorem FmtA.lo_toWord (f : FmtA) (op : Byte) : (f.toWord op).extractLsb' 24 4 = op.extractLsb' 0 4 := by
  ext i h; simp only [FmtA.toWord, BitVec.getElem_extractLsb', BitVec.getLsbD_append]; grind

theorem FmtB.ofWord_toWord (f : FmtB) (op : Byte) : FmtB.ofWord (f.toWord op) = f := by
  cases f
  simp only [FmtB.ofWord, FmtB.toWord, FmtB.mk.injEq]
  refine ⟨?_, ?_, ?_, ?_⟩ <;> (ext i h; simp only [BitVec.getElem_extractLsb', BitVec.getLsbD_append]; grind)

theorem FmtB.hi_toWord (f : FmtB) (op : Byte) : (f.toWord op).extractLsb' 28 4 = op.extractLsb' 4 4 := by
  ext i h; simp only [FmtB.toWord, BitVec.getElem_extractLsb', BitVec.getLsbD_append]; grind

theorem FmtB.lo_toWord (f : FmtB) (op : Byte) : (f.toWord op).extractLsb' 24 4 = op.extractLsb' 0 4 := by
  ext i h; simp only [FmtB.toWord, BitVec.getElem_extractLsb', BitVec.getLsbD_append]; grind

theorem FmtC.ofWord_toWord (f : FmtC) (op : Byte) : FmtC.ofWord (f.toWord op) = f := by
  cases f
  simp only [FmtC.ofWord, FmtC.toWord, FmtC.mk.injEq]
  refine ⟨?_, ?_, ?_⟩ <;> (ext i h; simp only [BitVec.getElem_extractLsb', BitVec.getLsbD_append]; grind)

theorem FmtC.hi_toWord (f : FmtC) (op : Byte) : (f.toWord op).extractLsb' 28 4 = op.extractLsb' 4 4 := by
  ext i h; simp only [FmtC.toWord, BitVec.getElem_extractLsb', BitVec.getLsbD_append]; grind

theorem FmtC.lo_toWord (f : FmtC) (op : Byte) : (f.toWord op).extractLsb' 24 4 = op.extractLsb' 0 4 := by
  ext i h; simp only [FmtC.toWord, BitVec.getElem_extractLsb', BitVec.getLsbD_append]; grind

theorem FmtE.ofWord_toWord (f : FmtE) (op : Byte) : FmtE.ofWord (f.toWord op) = f := by
  cases f
  simp only [FmtE.ofWord, FmtE.toWord, FmtE.mk.injEq]
  refine ⟨?_, ?_⟩ <;> (ext i h; simp only [BitVec.getElem_extractLsb', BitVec.getLsbD_append]; grind)

theorem FmtE.hi_toWord (f : FmtE) (op : Byte) : (f.toWord op).extractLsb' 28 4 = op.extractLsb' 4 4 := by
  ext i h; simp only [FmtE.toWord, BitVec.getElem_extractLsb', BitVec.getLsbD_append]; grind

theorem FmtE.lo_toWord (f : FmtE) (op : Byte) : (f.toWord op).extractLsb' 24 4 = op.extractLsb' 0 4 := by
  ext i h; simp only [FmtE.toWord, BitVec.getElem_extractLsb', BitVec.getLsbD_append]; grind

theorem FmtD.ofWord_toWord (f : FmtD) (op : Byte) : FmtD.ofWord (f.toWord op) = f := by
  cases f
  simp only [FmtD.ofWord, FmtD.toWord, FmtD.mk.injEq]
  refine ⟨?_, ?_, ?_, ?_, ?_, ?_⟩ <;> (ext i h; simp only [BitVec.getElem_extractLsb', BitVec.getLsbD_append]; grind)

theorem FmtD.hi_toWord (f : FmtD) (op : Byte) : (f.toWord op).extractLsb' 28 4 = op.extractLsb' 4 4 := by
  ext i h; simp only [FmtD.toWord, BitVec.getElem_extractLsb', BitVec.getLsbD_append]; grind

theorem FmtD.lo_toWord (f : FmtD) (op : Byte) : (f.toWord op).extractLsb' 24 4 = op.extractLsb' 0 4 := by
  ext i h; simp only [FmtD.toWord, BitVec.getElem_extractLsb', BitVec.getLsbD_append]; grind

theorem FmtDS.ofWord_toWord (f : FmtDS) (op : Byte) : FmtDS.ofWord (f.toWord op) = f := by
  cases f
  simp only [FmtDS.ofWord, FmtDS.toWord, FmtDS.mk.injEq]
  refine ⟨?_, ?_, ?_, ?_, ?_⟩ <;> (ext i h; simp only [BitVec.getElem_extractLsb', BitVec.getLsbD_append]; grind)

theorem FmtDS.hi_toWord (f : FmtDS) (op : Byte) : (f.toWord op).extractLsb' 28 4 = op.extractLsb' 4 4 := by
  ext i h; simp only [FmtDS.toWord, BitVec.getElem_extractLsb', BitVec.getLsbD_append]; grind

theorem FmtDS.lo_toWord (f : FmtDS) (op : Byte) : (f.toWord op).extractLsb' 24 4 = op.extractLsb' 0 4 := by
  ext i h; simp only [FmtDS.toWord, BitVec.getElem_extractLsb', BitVec.getLsbD_append]; grind

theorem FmtFence.ofWord_toWord (f : FmtFence) (op : Byte) : FmtFence.ofWord (f.toWord op) = f := by
  cases f
  simp only [FmtFence.ofWord, FmtFence.toWord, FmtFence.mk.injEq]
  refine ⟨?_, ?_, ?_, ?_, ?_⟩ <;> (ext i h; simp only [BitVec.getElem_extractLsb', BitVec.getLsbD_append]; grind)

theorem FmtFence.hi_toWord (f : FmtFence) (op : Byte) : (f.toWord op).extractLsb' 28 4 = op.extractLsb' 4 4 := by
  ext i h; simp only [FmtFence.toWord, BitVec.getElem_extractLsb', BitVec.getLsbD_append]; grind

theorem FmtFence.lo_toWord (f : FmtFence) (op : Byte) : (f.toWord op).extractLsb' 24 4 = op.extractLsb' 0 4 := by
  ext i h; simp only [FmtFence.toWord, BitVec.getElem_extractLsb', BitVec.getLsbD_append]; grind

theorem FmtF.ofWord_toWord (f : FmtF) (op : Byte) : FmtF.ofWord (f.toWord op) = f := by
  cases f
  simp only [FmtF.ofWord, FmtF.toWord, FmtF.mk.injEq]
  refine ⟨?_, ?_, ?_, ?_, ?_, ?_⟩ <;> (ext i h; simp only [BitVec.getElem_extractLsb', BitVec.getLsbD_append]; grind)

theorem FmtF.hi_toWord (f : FmtF) (op : Byte) : (f.toWord op).extractLsb' 28 4 = op.extractLsb' 4 4 := by
  ext i h; simp only [FmtF.toWord, BitVec.getElem_extractLsb', BitVec.getLsbD_append]; grind

theorem FmtF.lo_toWord (f : FmtF) (op : Byte) : (f.toWord op).extractLsb' 24 4 = op.extractLsb' 0 4 := by
  ext i h; simp only [FmtF.toWord, BitVec.getElem_extractLsb', BitVec.getLsbD_append]; grind

theorem FmtAtt.ofWord_toWord (f : FmtAtt) (op : Byte) : FmtAtt.ofWord (f.toWord op) = f := by
  cases f
  simp only [FmtAtt.ofWord, FmtAtt.toWord, FmtAtt.mk.injEq]
  refine ⟨?_, ?_, ?_, ?_, ?_⟩ <;> (ext i h; simp only [BitVec.getElem_extractLsb', BitVec.getLsbD_append]; grind)

theorem FmtAtt.hi_toWord (f : FmtAtt) (op : Byte) : (f.toWord op).extractLsb' 28 4 = op.extractLsb' 4 4 := by
  ext i h; simp only [FmtAtt.toWord, BitVec.getElem_extractLsb', BitVec.getLsbD_append]; grind

theorem FmtAtt.lo_toWord (f : FmtAtt) (op : Byte) : (f.toWord op).extractLsb' 24 4 = op.extractLsb' 0 4 := by
  ext i h; simp only [FmtAtt.toWord, BitVec.getElem_extractLsb', BitVec.getLsbD_append]; grind

theorem FmtG.ofWord_toWord (f : FmtG) (op : Byte) (m : BitVec 3) : FmtG.ofWord (f.toWord op m) = f := by
  cases f
  simp only [FmtG.ofWord, FmtG.toWord, FmtG.mk.injEq]
  refine ⟨?_, ?_, ?_, ?_, ?_⟩ <;> (ext i h; simp only [BitVec.getElem_extractLsb', BitVec.getLsbD_append]; grind)

theorem FmtG.hi_toWord (f : FmtG) (op : Byte) (m : BitVec 3) : (f.toWord op m).extractLsb' 28 4 = op.extractLsb' 4 4 := by
  ext i h; simp only [FmtG.toWord, BitVec.getElem_extractLsb', BitVec.getLsbD_append]; grind

theorem FmtG.lo_toWord (f : FmtG) (op : Byte) (m : BitVec 3) : (f.toWord op m).extractLsb' 24 4 = op.extractLsb' 0 4 := by
  ext i h; simp only [FmtG.toWord, BitVec.getElem_extractLsb', BitVec.getLsbD_append]; grind

theorem FmtG.m_toWord (f : FmtG) (op : Byte) (m : BitVec 3) : (f.toWord op m).extractLsb' 0 3 = m := by
  ext i h; simp only [FmtG.toWord, BitVec.getElem_extractLsb', BitVec.getLsbD_append]; grind

theorem FmtCopy.ofWord_toWord (f : FmtCopy) (op : Byte) : FmtCopy.ofWord (f.toWord op) = f := by
  cases f
  simp only [FmtCopy.ofWord, FmtCopy.toWord, FmtCopy.mk.injEq]
  refine ⟨?_, ?_, ?_, ?_, ?_, ?_, ?_⟩ <;> (ext i h; simp only [BitVec.getElem_extractLsb', BitVec.getLsbD_append]; grind)

theorem FmtCopy.hi_toWord (f : FmtCopy) (op : Byte) : (f.toWord op).extractLsb' 28 4 = op.extractLsb' 4 4 := by
  ext i h; simp only [FmtCopy.toWord, BitVec.getElem_extractLsb', BitVec.getLsbD_append]; grind

theorem FmtCopy.lo_toWord (f : FmtCopy) (op : Byte) : (f.toWord op).extractLsb' 24 4 = op.extractLsb' 0 4 := by
  ext i h; simp only [FmtCopy.toWord, BitVec.getElem_extractLsb', BitVec.getLsbD_append]; grind

theorem FmtBlock.ofWord_toWord (f : FmtBlock) (op : Byte) (m : BitVec 3) : FmtBlock.ofWord (f.toWord op m) = f := by
  cases f
  simp only [FmtBlock.ofWord, FmtBlock.toWord, FmtBlock.mk.injEq]
  refine ⟨?_, ?_, ?_⟩ <;> (ext i h; simp only [BitVec.getElem_extractLsb', BitVec.getLsbD_append]; grind)

theorem FmtBlock.hi_toWord (f : FmtBlock) (op : Byte) (m : BitVec 3) : (f.toWord op m).extractLsb' 28 4 = op.extractLsb' 4 4 := by
  ext i h; simp only [FmtBlock.toWord, BitVec.getElem_extractLsb', BitVec.getLsbD_append]; grind

theorem FmtBlock.lo_toWord (f : FmtBlock) (op : Byte) (m : BitVec 3) : (f.toWord op m).extractLsb' 24 4 = op.extractLsb' 0 4 := by
  ext i h; simp only [FmtBlock.toWord, BitVec.getElem_extractLsb', BitVec.getLsbD_append]; grind

theorem FmtBlock.m_toWord (f : FmtBlock) (op : Byte) (m : BitVec 3) : (f.toWord op m).extractLsb' 0 3 = m := by
  ext i h; simp only [FmtBlock.toWord, BitVec.getElem_extractLsb', BitVec.getLsbD_append]; grind

theorem FmtSys.ofWord_toWord (f : FmtSys) (op : Byte) (m : BitVec 7) : FmtSys.ofWord (f.toWord op m) = f := by
  cases f
  simp only [FmtSys.ofWord, FmtSys.toWord, FmtSys.mk.injEq]
  refine ⟨?_, ?_, ?_⟩ <;> (ext i h; simp only [BitVec.getElem_extractLsb', BitVec.getLsbD_append]; grind)

theorem FmtSys.hi_toWord (f : FmtSys) (op : Byte) (m : BitVec 7) : (f.toWord op m).extractLsb' 28 4 = op.extractLsb' 4 4 := by
  ext i h; simp only [FmtSys.toWord, BitVec.getElem_extractLsb', BitVec.getLsbD_append]; grind

theorem FmtSys.lo_toWord (f : FmtSys) (op : Byte) (m : BitVec 7) : (f.toWord op m).extractLsb' 24 4 = op.extractLsb' 0 4 := by
  ext i h; simp only [FmtSys.toWord, BitVec.getElem_extractLsb', BitVec.getLsbD_append]; grind

theorem FmtSys.m_toWord (f : FmtSys) (op : Byte) (m : BitVec 7) : (f.toWord op m).extractLsb' 0 7 = m := by
  ext i h; simp only [FmtSys.toWord, BitVec.getElem_extractLsb', BitVec.getLsbD_append]; grind

theorem FmtA.toWord_ofWord (w : Word) : (FmtA.ofWord w).toWord (w.extractLsb' 24 8) = w := by
  ext i h; simp only [FmtA.ofWord, FmtA.toWord, ← BitVec.getLsbD_eq_getElem, BitVec.getLsbD_append, BitVec.getLsbD_extractLsb']; grind

theorem FmtB.toWord_ofWord (w : Word) : (FmtB.ofWord w).toWord (w.extractLsb' 24 8) = w := by
  ext i h; simp only [FmtB.ofWord, FmtB.toWord, ← BitVec.getLsbD_eq_getElem, BitVec.getLsbD_append, BitVec.getLsbD_extractLsb']; grind

theorem FmtC.toWord_ofWord (w : Word) : (FmtC.ofWord w).toWord (w.extractLsb' 24 8) = w := by
  ext i h; simp only [FmtC.ofWord, FmtC.toWord, ← BitVec.getLsbD_eq_getElem, BitVec.getLsbD_append, BitVec.getLsbD_extractLsb']; grind

theorem FmtE.toWord_ofWord (w : Word) : (FmtE.ofWord w).toWord (w.extractLsb' 24 8) = w := by
  ext i h; simp only [FmtE.ofWord, FmtE.toWord, ← BitVec.getLsbD_eq_getElem, BitVec.getLsbD_append, BitVec.getLsbD_extractLsb']; grind

theorem FmtD.toWord_ofWord (w : Word) : (FmtD.ofWord w).toWord (w.extractLsb' 24 8) = w := by
  ext i h; simp only [FmtD.ofWord, FmtD.toWord, ← BitVec.getLsbD_eq_getElem, BitVec.getLsbD_append, BitVec.getLsbD_extractLsb']; grind

theorem FmtDS.toWord_ofWord (w : Word) : (FmtDS.ofWord w).toWord (w.extractLsb' 24 8) = w := by
  ext i h; simp only [FmtDS.ofWord, FmtDS.toWord, ← BitVec.getLsbD_eq_getElem, BitVec.getLsbD_append, BitVec.getLsbD_extractLsb']; grind

theorem FmtFence.zero_toWord (f : FmtFence) (op : Byte) : (f.toWord op).extractLsb' 7 7 = 0 := by
  ext i h; simp only [FmtFence.toWord, BitVec.getElem_extractLsb', BitVec.getLsbD_append]; grind

theorem FmtFence.toWord_ofWord (w : Word) (hz : w.extractLsb' 7 7 = 0) : (FmtFence.ofWord w).toWord (w.extractLsb' 24 8) = w := by
  simp only [FmtFence.toWord, ← hz]; ext i h; simp only [FmtFence.ofWord, ← BitVec.getLsbD_eq_getElem, BitVec.getLsbD_append, BitVec.getLsbD_extractLsb']; grind

theorem FmtF.toWord_ofWord (w : Word) : (FmtF.ofWord w).toWord (w.extractLsb' 24 8) = w := by
  ext i h; simp only [FmtF.ofWord, FmtF.toWord, ← BitVec.getLsbD_eq_getElem, BitVec.getLsbD_append, BitVec.getLsbD_extractLsb']; grind

theorem FmtAtt.zero_toWord (f : FmtAtt) (op : Byte) : (f.toWord op).extractLsb' 20 2 = 0 := by
  ext i h; simp only [FmtAtt.toWord, BitVec.getElem_extractLsb', BitVec.getLsbD_append]; grind

theorem FmtAtt.toWord_ofWord (w : Word) (hz : w.extractLsb' 20 2 = 0) : (FmtAtt.ofWord w).toWord (w.extractLsb' 24 8) = w := by
  simp only [FmtAtt.toWord, ← hz]; ext i h; simp only [FmtAtt.ofWord, ← BitVec.getLsbD_eq_getElem, BitVec.getLsbD_append, BitVec.getLsbD_extractLsb']; grind

theorem FmtG.toWord_ofWord (w : Word) : (FmtG.ofWord w).toWord (w.extractLsb' 24 8) (w.extractLsb' 0 3) = w := by
  ext i h; simp only [FmtG.ofWord, FmtG.toWord, ← BitVec.getLsbD_eq_getElem, BitVec.getLsbD_append, BitVec.getLsbD_extractLsb']; grind

theorem FmtCopy.zero_toWord (f : FmtCopy) (op : Byte) : (f.toWord op).extractLsb' 2 1 = 0 := by
  ext i h; simp only [FmtCopy.toWord, BitVec.getElem_extractLsb', BitVec.getLsbD_append]; grind

theorem FmtCopy.toWord_ofWord (w : Word) (hz : w.extractLsb' 2 1 = 0) : (FmtCopy.ofWord w).toWord (w.extractLsb' 24 8) = w := by
  simp only [FmtCopy.toWord, ← hz]; ext i h; simp only [FmtCopy.ofWord, ← BitVec.getLsbD_eq_getElem, BitVec.getLsbD_append, BitVec.getLsbD_extractLsb']; grind

theorem FmtBlock.zero_toWord (f : FmtBlock) (op : Byte) (m : BitVec 3) : (f.toWord op m).extractLsb' 15 6 = 0 := by
  ext i h; simp only [FmtBlock.toWord, BitVec.getElem_extractLsb', BitVec.getLsbD_append]; grind

theorem FmtBlock.toWord_ofWord (w : Word) (hz : w.extractLsb' 15 6 = 0) : (FmtBlock.ofWord w).toWord (w.extractLsb' 24 8) (w.extractLsb' 0 3) = w := by
  simp only [FmtBlock.toWord, ← hz]; ext i h; simp only [FmtBlock.ofWord, ← BitVec.getLsbD_eq_getElem, BitVec.getLsbD_append, BitVec.getLsbD_extractLsb']; grind

theorem FmtSys.toWord_ofWord (w : Word) : (FmtSys.ofWord w).toWord (w.extractLsb' 24 8) (w.extractLsb' 0 7) = w := by
  ext i h; simp only [FmtSys.ofWord, FmtSys.toWord, ← BitVec.getLsbD_eq_getElem, BitVec.getLsbD_append, BitVec.getLsbD_extractLsb']; grind

/-- An opcode by its two digits. -/
theorem opcode_eq (w : Word) (a b : Nat) (h : (w.extractLsb' 28 4).toNat = a) (l : (w.extractLsb' 24 4).toNat = b) :
    w.extractLsb' 24 8 = BitVec.ofNat 8 (16 * a + b) := by
  subst h l
  apply BitVec.eq_of_toNat_eq
  simp only [BitVec.extractLsb'_toNat, BitVec.toNat_ofNat, Nat.shiftRight_eq_div_pow]
  omega

end Sys2Proof
end

