-- ==== Sys2Proof/Laws/State.lean ====
section
/-! SUPPORT. What each update of one part of State leaves in every field: one lemma for each field and update. -/

namespace Sys2Proof.Machine

variable (s : State)

/-! ### onCore -/

@[simp] theorem State.onCore_powered (c : Nat) (f : Core → Core) : (s.onCore c f).powered = s.powered := rfl
@[simp] theorem State.onCore_agenda (c : Nat) (f : Core → Core) : (s.onCore c f).agenda = s.agenda := rfl
@[simp] theorem State.onCore_cur (c : Nat) (f : Core → Core) : (s.onCore c f).cur = s.cur := rfl
@[simp] theorem State.onCore_freeCtr (c : Nat) (f : Core → Core) : (s.onCore c f).freeCtr = s.freeCtr := rfl
@[simp] theorem State.onCore_idCtr (c : Nat) (f : Core → Core) : (s.onCore c f).idCtr = s.idCtr := rfl
@[simp] theorem State.onCore_hostReply (c : Nat) (f : Core → Core) : (s.onCore c f).hostReply = s.hostReply := rfl
@[simp] theorem State.onCore_mem (c : Nat) (f : Core → Core) : (s.onCore c f).mem = s.mem := rfl
@[simp] theorem State.onCore_lineMeta (c : Nat) (f : Core → Core) : (s.onCore c f).lineMeta = s.lineMeta := rfl
@[simp] theorem State.onCore_home (c : Nat) (f : Core → Core) : (s.onCore c f).home = s.home := rfl
@[simp] theorem State.onCore_badLines (c : Nat) (f : Core → Core) : (s.onCore c f).badLines = s.badLines := rfl
@[simp] theorem State.onCore_races (c : Nat) (f : Core → Core) : (s.onCore c f).races = s.races := rfl
@[simp] theorem State.onCore_awayFloor (c : Nat) (f : Core → Core) : (s.onCore c f).awayFloor = s.awayFloor := rfl
@[simp] theorem State.onCore_refusals (c : Nat) (f : Core → Core) : (s.onCore c f).refusals = s.refusals := rfl
@[simp] theorem State.onCore_stalls (c : Nat) (f : Core → Core) : (s.onCore c f).stalls = s.stalls := rfl
@[simp] theorem State.onCore_heldCharges (c : Nat) (f : Core → Core) : (s.onCore c f).heldCharges = s.heldCharges := rfl
@[simp] theorem State.onCore_tcoff (c : Nat) (f : Core → Core) : (s.onCore c f).tcoff = s.tcoff := rfl
@[simp] theorem State.onCore_epoch (c : Nat) (f : Core → Core) : (s.onCore c f).epoch = s.epoch := rfl
@[simp] theorem State.onCore_behind (c : Nat) (f : Core → Core) : (s.onCore c f).behind = s.behind := rfl
@[simp] theorem State.onCore_die0 (c : Nat) (f : Core → Core) : (s.onCore c f).die0 = s.die0 := rfl
@[simp] theorem State.onCore_die1 (c : Nat) (f : Core → Core) : (s.onCore c f).die1 = s.die1 := rfl
@[simp] theorem State.onCore_cores (c : Nat) (f : Core → Core) : (s.onCore c f).cores = Tab.put s.cores c (f (s.core c)) := rfl
@[simp] theorem State.onCore_parts (c : Nat) (f : Core → Core) : (s.onCore c f).parts = s.parts := rfl
@[simp] theorem State.onCore_quads (c : Nat) (f : Core → Core) : (s.onCore c f).quads = s.quads := rfl
@[simp] theorem State.onCore_groups (c : Nat) (f : Core → Core) : (s.onCore c f).groups = s.groups := rfl
@[simp] theorem State.onCore_teams (c : Nat) (f : Core → Core) : (s.onCore c f).teams = s.teams := rfl
@[simp] theorem State.onCore_saved (c : Nat) (f : Core → Core) : (s.onCore c f).saved = s.saved := rfl
@[simp] theorem State.onCore_grids (c : Nat) (f : Core → Core) : (s.onCore c f).grids = s.grids := rfl
@[simp] theorem State.onCore_manage (c : Nat) (f : Core → Core) : (s.onCore c f).manage = s.manage := rfl
@[simp] theorem State.onCore_contexts (c : Nat) (f : Core → Core) : (s.onCore c f).contexts = s.contexts := rfl
@[simp] theorem State.onCore_formers (c : Nat) (f : Core → Core) : (s.onCore c f).formers = s.formers := rfl
@[simp] theorem State.onCore_csr (c : Nat) (f : Core → Core) : (s.onCore c f).csr = s.csr := rfl
@[simp] theorem State.onCore_ctl (c : Nat) (f : Core → Core) : (s.onCore c f).ctl = s.ctl := rfl
@[simp] theorem State.onCore_window (c : Nat) (f : Core → Core) : (s.onCore c f).window = s.window := rfl
@[simp] theorem State.onCore_lastTrigger (c : Nat) (f : Core → Core) : (s.onCore c f).lastTrigger = s.lastTrigger := rfl
@[simp] theorem State.onCore_copies (c : Nat) (f : Core → Core) : (s.onCore c f).copies = s.copies := rfl
@[simp] theorem State.onCore_hold (c : Nat) (f : Core → Core) : (s.onCore c f).hold = s.hold := rfl
@[simp] theorem State.onCore_queues (c : Nat) (f : Core → Core) : (s.onCore c f).queues = s.queues := rfl
@[simp] theorem State.onCore_itemQueues (c : Nat) (f : Core → Core) : (s.onCore c f).itemQueues = s.itemQueues := rfl
@[simp] theorem State.onCore_colls (c : Nat) (f : Core → Core) : (s.onCore c f).colls = s.colls := rfl
@[simp] theorem State.onCore_sampling (c : Nat) (f : Core → Core) : (s.onCore c f).sampling = s.sampling := rfl
@[simp] theorem State.onCore_moves (c : Nat) (f : Core → Core) : (s.onCore c f).moves = s.moves := rfl
@[simp] theorem State.onCore_ops (c : Nat) (f : Core → Core) : (s.onCore c f).ops = s.ops := rfl
@[simp] theorem State.onCore_accesses (c : Nat) (f : Core → Core) : (s.onCore c f).accesses = s.accesses := rfl
@[simp] theorem State.onCore_cmds (c : Nat) (f : Core → Core) : (s.onCore c f).cmds = s.cmds := rfl
@[simp] theorem State.onCore_bindings (c : Nat) (f : Core → Core) : (s.onCore c f).bindings = s.bindings := rfl
@[simp] theorem State.onCore_ports (c : Nat) (f : Core → Core) : (s.onCore c f).ports = s.ports := rfl
@[simp] theorem State.onCore_deadDevices (c : Nat) (f : Core → Core) : (s.onCore c f).deadDevices = s.deadDevices := rfl

/-! ### onPart -/

@[simp] theorem State.onPart_powered (k : Nat) (f : Part → Part) : (s.onPart k f).powered = s.powered := rfl
@[simp] theorem State.onPart_agenda (k : Nat) (f : Part → Part) : (s.onPart k f).agenda = s.agenda := rfl
@[simp] theorem State.onPart_cur (k : Nat) (f : Part → Part) : (s.onPart k f).cur = s.cur := rfl
@[simp] theorem State.onPart_freeCtr (k : Nat) (f : Part → Part) : (s.onPart k f).freeCtr = s.freeCtr := rfl
@[simp] theorem State.onPart_idCtr (k : Nat) (f : Part → Part) : (s.onPart k f).idCtr = s.idCtr := rfl
@[simp] theorem State.onPart_hostReply (k : Nat) (f : Part → Part) : (s.onPart k f).hostReply = s.hostReply := rfl
@[simp] theorem State.onPart_mem (k : Nat) (f : Part → Part) : (s.onPart k f).mem = s.mem := rfl
@[simp] theorem State.onPart_lineMeta (k : Nat) (f : Part → Part) : (s.onPart k f).lineMeta = s.lineMeta := rfl
@[simp] theorem State.onPart_home (k : Nat) (f : Part → Part) : (s.onPart k f).home = s.home := rfl
@[simp] theorem State.onPart_badLines (k : Nat) (f : Part → Part) : (s.onPart k f).badLines = s.badLines := rfl
@[simp] theorem State.onPart_races (k : Nat) (f : Part → Part) : (s.onPart k f).races = s.races := rfl
@[simp] theorem State.onPart_awayFloor (k : Nat) (f : Part → Part) : (s.onPart k f).awayFloor = s.awayFloor := rfl
@[simp] theorem State.onPart_refusals (k : Nat) (f : Part → Part) : (s.onPart k f).refusals = s.refusals := rfl
@[simp] theorem State.onPart_stalls (k : Nat) (f : Part → Part) : (s.onPart k f).stalls = s.stalls := rfl
@[simp] theorem State.onPart_heldCharges (k : Nat) (f : Part → Part) : (s.onPart k f).heldCharges = s.heldCharges := rfl
@[simp] theorem State.onPart_tcoff (k : Nat) (f : Part → Part) : (s.onPart k f).tcoff = s.tcoff := rfl
@[simp] theorem State.onPart_epoch (k : Nat) (f : Part → Part) : (s.onPart k f).epoch = s.epoch := rfl
@[simp] theorem State.onPart_behind (k : Nat) (f : Part → Part) : (s.onPart k f).behind = s.behind := rfl
@[simp] theorem State.onPart_die0 (k : Nat) (f : Part → Part) : (s.onPart k f).die0 = s.die0 := rfl
@[simp] theorem State.onPart_die1 (k : Nat) (f : Part → Part) : (s.onPart k f).die1 = s.die1 := rfl
@[simp] theorem State.onPart_cores (k : Nat) (f : Part → Part) : (s.onPart k f).cores = s.cores := rfl
@[simp] theorem State.onPart_parts (k : Nat) (f : Part → Part) : (s.onPart k f).parts = Tab.put s.parts k (f (s.part k)) := rfl
@[simp] theorem State.onPart_quads (k : Nat) (f : Part → Part) : (s.onPart k f).quads = s.quads := rfl
@[simp] theorem State.onPart_groups (k : Nat) (f : Part → Part) : (s.onPart k f).groups = s.groups := rfl
@[simp] theorem State.onPart_teams (k : Nat) (f : Part → Part) : (s.onPart k f).teams = s.teams := rfl
@[simp] theorem State.onPart_saved (k : Nat) (f : Part → Part) : (s.onPart k f).saved = s.saved := rfl
@[simp] theorem State.onPart_grids (k : Nat) (f : Part → Part) : (s.onPart k f).grids = s.grids := rfl
@[simp] theorem State.onPart_manage (k : Nat) (f : Part → Part) : (s.onPart k f).manage = s.manage := rfl
@[simp] theorem State.onPart_contexts (k : Nat) (f : Part → Part) : (s.onPart k f).contexts = s.contexts := rfl
@[simp] theorem State.onPart_formers (k : Nat) (f : Part → Part) : (s.onPart k f).formers = s.formers := rfl
@[simp] theorem State.onPart_csr (k : Nat) (f : Part → Part) : (s.onPart k f).csr = s.csr := rfl
@[simp] theorem State.onPart_ctl (k : Nat) (f : Part → Part) : (s.onPart k f).ctl = s.ctl := rfl
@[simp] theorem State.onPart_window (k : Nat) (f : Part → Part) : (s.onPart k f).window = s.window := rfl
@[simp] theorem State.onPart_lastTrigger (k : Nat) (f : Part → Part) : (s.onPart k f).lastTrigger = s.lastTrigger := rfl
@[simp] theorem State.onPart_copies (k : Nat) (f : Part → Part) : (s.onPart k f).copies = s.copies := rfl
@[simp] theorem State.onPart_hold (k : Nat) (f : Part → Part) : (s.onPart k f).hold = s.hold := rfl
@[simp] theorem State.onPart_queues (k : Nat) (f : Part → Part) : (s.onPart k f).queues = s.queues := rfl
@[simp] theorem State.onPart_itemQueues (k : Nat) (f : Part → Part) : (s.onPart k f).itemQueues = s.itemQueues := rfl
@[simp] theorem State.onPart_colls (k : Nat) (f : Part → Part) : (s.onPart k f).colls = s.colls := rfl
@[simp] theorem State.onPart_sampling (k : Nat) (f : Part → Part) : (s.onPart k f).sampling = s.sampling := rfl
@[simp] theorem State.onPart_moves (k : Nat) (f : Part → Part) : (s.onPart k f).moves = s.moves := rfl
@[simp] theorem State.onPart_ops (k : Nat) (f : Part → Part) : (s.onPart k f).ops = s.ops := rfl
@[simp] theorem State.onPart_accesses (k : Nat) (f : Part → Part) : (s.onPart k f).accesses = s.accesses := rfl
@[simp] theorem State.onPart_cmds (k : Nat) (f : Part → Part) : (s.onPart k f).cmds = s.cmds := rfl
@[simp] theorem State.onPart_bindings (k : Nat) (f : Part → Part) : (s.onPart k f).bindings = s.bindings := rfl
@[simp] theorem State.onPart_ports (k : Nat) (f : Part → Part) : (s.onPart k f).ports = s.ports := rfl
@[simp] theorem State.onPart_deadDevices (k : Nat) (f : Part → Part) : (s.onPart k f).deadDevices = s.deadDevices := rfl

/-! ### onQuad -/

@[simp] theorem State.onQuad_powered (q : Nat) (f : Quad → Quad) : (s.onQuad q f).powered = s.powered := rfl
@[simp] theorem State.onQuad_agenda (q : Nat) (f : Quad → Quad) : (s.onQuad q f).agenda = s.agenda := rfl
@[simp] theorem State.onQuad_cur (q : Nat) (f : Quad → Quad) : (s.onQuad q f).cur = s.cur := rfl
@[simp] theorem State.onQuad_freeCtr (q : Nat) (f : Quad → Quad) : (s.onQuad q f).freeCtr = s.freeCtr := rfl
@[simp] theorem State.onQuad_idCtr (q : Nat) (f : Quad → Quad) : (s.onQuad q f).idCtr = s.idCtr := rfl
@[simp] theorem State.onQuad_hostReply (q : Nat) (f : Quad → Quad) : (s.onQuad q f).hostReply = s.hostReply := rfl
@[simp] theorem State.onQuad_mem (q : Nat) (f : Quad → Quad) : (s.onQuad q f).mem = s.mem := rfl
@[simp] theorem State.onQuad_lineMeta (q : Nat) (f : Quad → Quad) : (s.onQuad q f).lineMeta = s.lineMeta := rfl
@[simp] theorem State.onQuad_home (q : Nat) (f : Quad → Quad) : (s.onQuad q f).home = s.home := rfl
@[simp] theorem State.onQuad_badLines (q : Nat) (f : Quad → Quad) : (s.onQuad q f).badLines = s.badLines := rfl
@[simp] theorem State.onQuad_races (q : Nat) (f : Quad → Quad) : (s.onQuad q f).races = s.races := rfl
@[simp] theorem State.onQuad_awayFloor (q : Nat) (f : Quad → Quad) : (s.onQuad q f).awayFloor = s.awayFloor := rfl
@[simp] theorem State.onQuad_refusals (q : Nat) (f : Quad → Quad) : (s.onQuad q f).refusals = s.refusals := rfl
@[simp] theorem State.onQuad_stalls (q : Nat) (f : Quad → Quad) : (s.onQuad q f).stalls = s.stalls := rfl
@[simp] theorem State.onQuad_heldCharges (q : Nat) (f : Quad → Quad) : (s.onQuad q f).heldCharges = s.heldCharges := rfl
@[simp] theorem State.onQuad_tcoff (q : Nat) (f : Quad → Quad) : (s.onQuad q f).tcoff = s.tcoff := rfl
@[simp] theorem State.onQuad_epoch (q : Nat) (f : Quad → Quad) : (s.onQuad q f).epoch = s.epoch := rfl
@[simp] theorem State.onQuad_behind (q : Nat) (f : Quad → Quad) : (s.onQuad q f).behind = s.behind := rfl
@[simp] theorem State.onQuad_die0 (q : Nat) (f : Quad → Quad) : (s.onQuad q f).die0 = s.die0 := rfl
@[simp] theorem State.onQuad_die1 (q : Nat) (f : Quad → Quad) : (s.onQuad q f).die1 = s.die1 := rfl
@[simp] theorem State.onQuad_cores (q : Nat) (f : Quad → Quad) : (s.onQuad q f).cores = s.cores := rfl
@[simp] theorem State.onQuad_parts (q : Nat) (f : Quad → Quad) : (s.onQuad q f).parts = s.parts := rfl
@[simp] theorem State.onQuad_quads (q : Nat) (f : Quad → Quad) : (s.onQuad q f).quads = Tab.put s.quads q (f (s.quad q)) := rfl
@[simp] theorem State.onQuad_groups (q : Nat) (f : Quad → Quad) : (s.onQuad q f).groups = s.groups := rfl
@[simp] theorem State.onQuad_teams (q : Nat) (f : Quad → Quad) : (s.onQuad q f).teams = s.teams := rfl
@[simp] theorem State.onQuad_saved (q : Nat) (f : Quad → Quad) : (s.onQuad q f).saved = s.saved := rfl
@[simp] theorem State.onQuad_grids (q : Nat) (f : Quad → Quad) : (s.onQuad q f).grids = s.grids := rfl
@[simp] theorem State.onQuad_manage (q : Nat) (f : Quad → Quad) : (s.onQuad q f).manage = s.manage := rfl
@[simp] theorem State.onQuad_contexts (q : Nat) (f : Quad → Quad) : (s.onQuad q f).contexts = s.contexts := rfl
@[simp] theorem State.onQuad_formers (q : Nat) (f : Quad → Quad) : (s.onQuad q f).formers = s.formers := rfl
@[simp] theorem State.onQuad_csr (q : Nat) (f : Quad → Quad) : (s.onQuad q f).csr = s.csr := rfl
@[simp] theorem State.onQuad_ctl (q : Nat) (f : Quad → Quad) : (s.onQuad q f).ctl = s.ctl := rfl
@[simp] theorem State.onQuad_window (q : Nat) (f : Quad → Quad) : (s.onQuad q f).window = s.window := rfl
@[simp] theorem State.onQuad_lastTrigger (q : Nat) (f : Quad → Quad) : (s.onQuad q f).lastTrigger = s.lastTrigger := rfl
@[simp] theorem State.onQuad_copies (q : Nat) (f : Quad → Quad) : (s.onQuad q f).copies = s.copies := rfl
@[simp] theorem State.onQuad_hold (q : Nat) (f : Quad → Quad) : (s.onQuad q f).hold = s.hold := rfl
@[simp] theorem State.onQuad_queues (q : Nat) (f : Quad → Quad) : (s.onQuad q f).queues = s.queues := rfl
@[simp] theorem State.onQuad_itemQueues (q : Nat) (f : Quad → Quad) : (s.onQuad q f).itemQueues = s.itemQueues := rfl
@[simp] theorem State.onQuad_colls (q : Nat) (f : Quad → Quad) : (s.onQuad q f).colls = s.colls := rfl
@[simp] theorem State.onQuad_sampling (q : Nat) (f : Quad → Quad) : (s.onQuad q f).sampling = s.sampling := rfl
@[simp] theorem State.onQuad_moves (q : Nat) (f : Quad → Quad) : (s.onQuad q f).moves = s.moves := rfl
@[simp] theorem State.onQuad_ops (q : Nat) (f : Quad → Quad) : (s.onQuad q f).ops = s.ops := rfl
@[simp] theorem State.onQuad_accesses (q : Nat) (f : Quad → Quad) : (s.onQuad q f).accesses = s.accesses := rfl
@[simp] theorem State.onQuad_cmds (q : Nat) (f : Quad → Quad) : (s.onQuad q f).cmds = s.cmds := rfl
@[simp] theorem State.onQuad_bindings (q : Nat) (f : Quad → Quad) : (s.onQuad q f).bindings = s.bindings := rfl
@[simp] theorem State.onQuad_ports (q : Nat) (f : Quad → Quad) : (s.onQuad q f).ports = s.ports := rfl
@[simp] theorem State.onQuad_deadDevices (q : Nat) (f : Quad → Quad) : (s.onQuad q f).deadDevices = s.deadDevices := rfl

/-! ### onManager -/

@[simp] theorem State.onManager_powered (n : Nat) (f : Manage → Manage) : (s.onManager n f).powered = s.powered := rfl
@[simp] theorem State.onManager_agenda (n : Nat) (f : Manage → Manage) : (s.onManager n f).agenda = s.agenda := rfl
@[simp] theorem State.onManager_cur (n : Nat) (f : Manage → Manage) : (s.onManager n f).cur = s.cur := rfl
@[simp] theorem State.onManager_freeCtr (n : Nat) (f : Manage → Manage) : (s.onManager n f).freeCtr = s.freeCtr := rfl
@[simp] theorem State.onManager_idCtr (n : Nat) (f : Manage → Manage) : (s.onManager n f).idCtr = s.idCtr := rfl
@[simp] theorem State.onManager_hostReply (n : Nat) (f : Manage → Manage) : (s.onManager n f).hostReply = s.hostReply := rfl
@[simp] theorem State.onManager_mem (n : Nat) (f : Manage → Manage) : (s.onManager n f).mem = s.mem := rfl
@[simp] theorem State.onManager_lineMeta (n : Nat) (f : Manage → Manage) : (s.onManager n f).lineMeta = s.lineMeta := rfl
@[simp] theorem State.onManager_home (n : Nat) (f : Manage → Manage) : (s.onManager n f).home = s.home := rfl
@[simp] theorem State.onManager_badLines (n : Nat) (f : Manage → Manage) : (s.onManager n f).badLines = s.badLines := rfl
@[simp] theorem State.onManager_races (n : Nat) (f : Manage → Manage) : (s.onManager n f).races = s.races := rfl
@[simp] theorem State.onManager_awayFloor (n : Nat) (f : Manage → Manage) : (s.onManager n f).awayFloor = s.awayFloor := rfl
@[simp] theorem State.onManager_refusals (n : Nat) (f : Manage → Manage) : (s.onManager n f).refusals = s.refusals := rfl
@[simp] theorem State.onManager_stalls (n : Nat) (f : Manage → Manage) : (s.onManager n f).stalls = s.stalls := rfl
@[simp] theorem State.onManager_heldCharges (n : Nat) (f : Manage → Manage) : (s.onManager n f).heldCharges = s.heldCharges := rfl
@[simp] theorem State.onManager_tcoff (n : Nat) (f : Manage → Manage) : (s.onManager n f).tcoff = s.tcoff := rfl
@[simp] theorem State.onManager_epoch (n : Nat) (f : Manage → Manage) : (s.onManager n f).epoch = s.epoch := rfl
@[simp] theorem State.onManager_behind (n : Nat) (f : Manage → Manage) : (s.onManager n f).behind = s.behind := rfl
@[simp] theorem State.onManager_die0 (n : Nat) (f : Manage → Manage) : (s.onManager n f).die0 = s.die0 := rfl
@[simp] theorem State.onManager_die1 (n : Nat) (f : Manage → Manage) : (s.onManager n f).die1 = s.die1 := rfl
@[simp] theorem State.onManager_cores (n : Nat) (f : Manage → Manage) : (s.onManager n f).cores = s.cores := rfl
@[simp] theorem State.onManager_parts (n : Nat) (f : Manage → Manage) : (s.onManager n f).parts = s.parts := rfl
@[simp] theorem State.onManager_quads (n : Nat) (f : Manage → Manage) : (s.onManager n f).quads = s.quads := rfl
@[simp] theorem State.onManager_groups (n : Nat) (f : Manage → Manage) : (s.onManager n f).groups = s.groups := rfl
@[simp] theorem State.onManager_teams (n : Nat) (f : Manage → Manage) : (s.onManager n f).teams = s.teams := rfl
@[simp] theorem State.onManager_saved (n : Nat) (f : Manage → Manage) : (s.onManager n f).saved = s.saved := rfl
@[simp] theorem State.onManager_grids (n : Nat) (f : Manage → Manage) : (s.onManager n f).grids = s.grids := rfl
@[simp] theorem State.onManager_manage (n : Nat) (f : Manage → Manage) : (s.onManager n f).manage = Tab.put s.manage n (f (s.manager n)) := rfl
@[simp] theorem State.onManager_contexts (n : Nat) (f : Manage → Manage) : (s.onManager n f).contexts = s.contexts := rfl
@[simp] theorem State.onManager_formers (n : Nat) (f : Manage → Manage) : (s.onManager n f).formers = s.formers := rfl
@[simp] theorem State.onManager_csr (n : Nat) (f : Manage → Manage) : (s.onManager n f).csr = s.csr := rfl
@[simp] theorem State.onManager_ctl (n : Nat) (f : Manage → Manage) : (s.onManager n f).ctl = s.ctl := rfl
@[simp] theorem State.onManager_window (n : Nat) (f : Manage → Manage) : (s.onManager n f).window = s.window := rfl
@[simp] theorem State.onManager_lastTrigger (n : Nat) (f : Manage → Manage) : (s.onManager n f).lastTrigger = s.lastTrigger := rfl
@[simp] theorem State.onManager_copies (n : Nat) (f : Manage → Manage) : (s.onManager n f).copies = s.copies := rfl
@[simp] theorem State.onManager_hold (n : Nat) (f : Manage → Manage) : (s.onManager n f).hold = s.hold := rfl
@[simp] theorem State.onManager_queues (n : Nat) (f : Manage → Manage) : (s.onManager n f).queues = s.queues := rfl
@[simp] theorem State.onManager_itemQueues (n : Nat) (f : Manage → Manage) : (s.onManager n f).itemQueues = s.itemQueues := rfl
@[simp] theorem State.onManager_colls (n : Nat) (f : Manage → Manage) : (s.onManager n f).colls = s.colls := rfl
@[simp] theorem State.onManager_sampling (n : Nat) (f : Manage → Manage) : (s.onManager n f).sampling = s.sampling := rfl
@[simp] theorem State.onManager_moves (n : Nat) (f : Manage → Manage) : (s.onManager n f).moves = s.moves := rfl
@[simp] theorem State.onManager_ops (n : Nat) (f : Manage → Manage) : (s.onManager n f).ops = s.ops := rfl
@[simp] theorem State.onManager_accesses (n : Nat) (f : Manage → Manage) : (s.onManager n f).accesses = s.accesses := rfl
@[simp] theorem State.onManager_cmds (n : Nat) (f : Manage → Manage) : (s.onManager n f).cmds = s.cmds := rfl
@[simp] theorem State.onManager_bindings (n : Nat) (f : Manage → Manage) : (s.onManager n f).bindings = s.bindings := rfl
@[simp] theorem State.onManager_ports (n : Nat) (f : Manage → Manage) : (s.onManager n f).ports = s.ports := rfl
@[simp] theorem State.onManager_deadDevices (n : Nat) (f : Manage → Manage) : (s.onManager n f).deadDevices = s.deadDevices := rfl

/-! ### onContext -/

@[simp] theorem State.onContext_powered (x : Nat) (f : Context → Context) : (s.onContext x f).powered = s.powered := rfl
@[simp] theorem State.onContext_agenda (x : Nat) (f : Context → Context) : (s.onContext x f).agenda = s.agenda := rfl
@[simp] theorem State.onContext_cur (x : Nat) (f : Context → Context) : (s.onContext x f).cur = s.cur := rfl
@[simp] theorem State.onContext_freeCtr (x : Nat) (f : Context → Context) : (s.onContext x f).freeCtr = s.freeCtr := rfl
@[simp] theorem State.onContext_idCtr (x : Nat) (f : Context → Context) : (s.onContext x f).idCtr = s.idCtr := rfl
@[simp] theorem State.onContext_hostReply (x : Nat) (f : Context → Context) : (s.onContext x f).hostReply = s.hostReply := rfl
@[simp] theorem State.onContext_mem (x : Nat) (f : Context → Context) : (s.onContext x f).mem = s.mem := rfl
@[simp] theorem State.onContext_lineMeta (x : Nat) (f : Context → Context) : (s.onContext x f).lineMeta = s.lineMeta := rfl
@[simp] theorem State.onContext_home (x : Nat) (f : Context → Context) : (s.onContext x f).home = s.home := rfl
@[simp] theorem State.onContext_badLines (x : Nat) (f : Context → Context) : (s.onContext x f).badLines = s.badLines := rfl
@[simp] theorem State.onContext_races (x : Nat) (f : Context → Context) : (s.onContext x f).races = s.races := rfl
@[simp] theorem State.onContext_awayFloor (x : Nat) (f : Context → Context) : (s.onContext x f).awayFloor = s.awayFloor := rfl
@[simp] theorem State.onContext_refusals (x : Nat) (f : Context → Context) : (s.onContext x f).refusals = s.refusals := rfl
@[simp] theorem State.onContext_stalls (x : Nat) (f : Context → Context) : (s.onContext x f).stalls = s.stalls := rfl
@[simp] theorem State.onContext_heldCharges (x : Nat) (f : Context → Context) : (s.onContext x f).heldCharges = s.heldCharges := rfl
@[simp] theorem State.onContext_tcoff (x : Nat) (f : Context → Context) : (s.onContext x f).tcoff = s.tcoff := rfl
@[simp] theorem State.onContext_epoch (x : Nat) (f : Context → Context) : (s.onContext x f).epoch = s.epoch := rfl
@[simp] theorem State.onContext_behind (x : Nat) (f : Context → Context) : (s.onContext x f).behind = s.behind := rfl
@[simp] theorem State.onContext_die0 (x : Nat) (f : Context → Context) : (s.onContext x f).die0 = s.die0 := rfl
@[simp] theorem State.onContext_die1 (x : Nat) (f : Context → Context) : (s.onContext x f).die1 = s.die1 := rfl
@[simp] theorem State.onContext_cores (x : Nat) (f : Context → Context) : (s.onContext x f).cores = s.cores := rfl
@[simp] theorem State.onContext_parts (x : Nat) (f : Context → Context) : (s.onContext x f).parts = s.parts := rfl
@[simp] theorem State.onContext_quads (x : Nat) (f : Context → Context) : (s.onContext x f).quads = s.quads := rfl
@[simp] theorem State.onContext_groups (x : Nat) (f : Context → Context) : (s.onContext x f).groups = s.groups := rfl
@[simp] theorem State.onContext_teams (x : Nat) (f : Context → Context) : (s.onContext x f).teams = s.teams := rfl
@[simp] theorem State.onContext_saved (x : Nat) (f : Context → Context) : (s.onContext x f).saved = s.saved := rfl
@[simp] theorem State.onContext_grids (x : Nat) (f : Context → Context) : (s.onContext x f).grids = s.grids := rfl
@[simp] theorem State.onContext_manage (x : Nat) (f : Context → Context) : (s.onContext x f).manage = s.manage := rfl
@[simp] theorem State.onContext_contexts (x : Nat) (f : Context → Context) : (s.onContext x f).contexts = Tab.put s.contexts x (f (s.context x)) := rfl
@[simp] theorem State.onContext_formers (x : Nat) (f : Context → Context) : (s.onContext x f).formers = s.formers := rfl
@[simp] theorem State.onContext_csr (x : Nat) (f : Context → Context) : (s.onContext x f).csr = s.csr := rfl
@[simp] theorem State.onContext_ctl (x : Nat) (f : Context → Context) : (s.onContext x f).ctl = s.ctl := rfl
@[simp] theorem State.onContext_window (x : Nat) (f : Context → Context) : (s.onContext x f).window = s.window := rfl
@[simp] theorem State.onContext_lastTrigger (x : Nat) (f : Context → Context) : (s.onContext x f).lastTrigger = s.lastTrigger := rfl
@[simp] theorem State.onContext_copies (x : Nat) (f : Context → Context) : (s.onContext x f).copies = s.copies := rfl
@[simp] theorem State.onContext_hold (x : Nat) (f : Context → Context) : (s.onContext x f).hold = s.hold := rfl
@[simp] theorem State.onContext_queues (x : Nat) (f : Context → Context) : (s.onContext x f).queues = s.queues := rfl
@[simp] theorem State.onContext_itemQueues (x : Nat) (f : Context → Context) : (s.onContext x f).itemQueues = s.itemQueues := rfl
@[simp] theorem State.onContext_colls (x : Nat) (f : Context → Context) : (s.onContext x f).colls = s.colls := rfl
@[simp] theorem State.onContext_sampling (x : Nat) (f : Context → Context) : (s.onContext x f).sampling = s.sampling := rfl
@[simp] theorem State.onContext_moves (x : Nat) (f : Context → Context) : (s.onContext x f).moves = s.moves := rfl
@[simp] theorem State.onContext_ops (x : Nat) (f : Context → Context) : (s.onContext x f).ops = s.ops := rfl
@[simp] theorem State.onContext_accesses (x : Nat) (f : Context → Context) : (s.onContext x f).accesses = s.accesses := rfl
@[simp] theorem State.onContext_cmds (x : Nat) (f : Context → Context) : (s.onContext x f).cmds = s.cmds := rfl
@[simp] theorem State.onContext_bindings (x : Nat) (f : Context → Context) : (s.onContext x f).bindings = s.bindings := rfl
@[simp] theorem State.onContext_ports (x : Nat) (f : Context → Context) : (s.onContext x f).ports = s.ports := rfl
@[simp] theorem State.onContext_deadDevices (x : Nat) (f : Context → Context) : (s.onContext x f).deadDevices = s.deadDevices := rfl

/-! ### onPort -/

@[simp] theorem State.onPort_powered (p : Nat) (f : Port → Port) : (s.onPort p f).powered = s.powered := rfl
@[simp] theorem State.onPort_agenda (p : Nat) (f : Port → Port) : (s.onPort p f).agenda = s.agenda := rfl
@[simp] theorem State.onPort_cur (p : Nat) (f : Port → Port) : (s.onPort p f).cur = s.cur := rfl
@[simp] theorem State.onPort_freeCtr (p : Nat) (f : Port → Port) : (s.onPort p f).freeCtr = s.freeCtr := rfl
@[simp] theorem State.onPort_idCtr (p : Nat) (f : Port → Port) : (s.onPort p f).idCtr = s.idCtr := rfl
@[simp] theorem State.onPort_hostReply (p : Nat) (f : Port → Port) : (s.onPort p f).hostReply = s.hostReply := rfl
@[simp] theorem State.onPort_mem (p : Nat) (f : Port → Port) : (s.onPort p f).mem = s.mem := rfl
@[simp] theorem State.onPort_lineMeta (p : Nat) (f : Port → Port) : (s.onPort p f).lineMeta = s.lineMeta := rfl
@[simp] theorem State.onPort_home (p : Nat) (f : Port → Port) : (s.onPort p f).home = s.home := rfl
@[simp] theorem State.onPort_badLines (p : Nat) (f : Port → Port) : (s.onPort p f).badLines = s.badLines := rfl
@[simp] theorem State.onPort_races (p : Nat) (f : Port → Port) : (s.onPort p f).races = s.races := rfl
@[simp] theorem State.onPort_awayFloor (p : Nat) (f : Port → Port) : (s.onPort p f).awayFloor = s.awayFloor := rfl
@[simp] theorem State.onPort_refusals (p : Nat) (f : Port → Port) : (s.onPort p f).refusals = s.refusals := rfl
@[simp] theorem State.onPort_stalls (p : Nat) (f : Port → Port) : (s.onPort p f).stalls = s.stalls := rfl
@[simp] theorem State.onPort_heldCharges (p : Nat) (f : Port → Port) : (s.onPort p f).heldCharges = s.heldCharges := rfl
@[simp] theorem State.onPort_tcoff (p : Nat) (f : Port → Port) : (s.onPort p f).tcoff = s.tcoff := rfl
@[simp] theorem State.onPort_epoch (p : Nat) (f : Port → Port) : (s.onPort p f).epoch = s.epoch := rfl
@[simp] theorem State.onPort_behind (p : Nat) (f : Port → Port) : (s.onPort p f).behind = s.behind := rfl
@[simp] theorem State.onPort_die0 (p : Nat) (f : Port → Port) : (s.onPort p f).die0 = s.die0 := rfl
@[simp] theorem State.onPort_die1 (p : Nat) (f : Port → Port) : (s.onPort p f).die1 = s.die1 := rfl
@[simp] theorem State.onPort_cores (p : Nat) (f : Port → Port) : (s.onPort p f).cores = s.cores := rfl
@[simp] theorem State.onPort_parts (p : Nat) (f : Port → Port) : (s.onPort p f).parts = s.parts := rfl
@[simp] theorem State.onPort_quads (p : Nat) (f : Port → Port) : (s.onPort p f).quads = s.quads := rfl
@[simp] theorem State.onPort_groups (p : Nat) (f : Port → Port) : (s.onPort p f).groups = s.groups := rfl
@[simp] theorem State.onPort_teams (p : Nat) (f : Port → Port) : (s.onPort p f).teams = s.teams := rfl
@[simp] theorem State.onPort_saved (p : Nat) (f : Port → Port) : (s.onPort p f).saved = s.saved := rfl
@[simp] theorem State.onPort_grids (p : Nat) (f : Port → Port) : (s.onPort p f).grids = s.grids := rfl
@[simp] theorem State.onPort_manage (p : Nat) (f : Port → Port) : (s.onPort p f).manage = s.manage := rfl
@[simp] theorem State.onPort_contexts (p : Nat) (f : Port → Port) : (s.onPort p f).contexts = s.contexts := rfl
@[simp] theorem State.onPort_formers (p : Nat) (f : Port → Port) : (s.onPort p f).formers = s.formers := rfl
@[simp] theorem State.onPort_csr (p : Nat) (f : Port → Port) : (s.onPort p f).csr = s.csr := rfl
@[simp] theorem State.onPort_ctl (p : Nat) (f : Port → Port) : (s.onPort p f).ctl = s.ctl := rfl
@[simp] theorem State.onPort_window (p : Nat) (f : Port → Port) : (s.onPort p f).window = s.window := rfl
@[simp] theorem State.onPort_lastTrigger (p : Nat) (f : Port → Port) : (s.onPort p f).lastTrigger = s.lastTrigger := rfl
@[simp] theorem State.onPort_copies (p : Nat) (f : Port → Port) : (s.onPort p f).copies = s.copies := rfl
@[simp] theorem State.onPort_hold (p : Nat) (f : Port → Port) : (s.onPort p f).hold = s.hold := rfl
@[simp] theorem State.onPort_queues (p : Nat) (f : Port → Port) : (s.onPort p f).queues = s.queues := rfl
@[simp] theorem State.onPort_itemQueues (p : Nat) (f : Port → Port) : (s.onPort p f).itemQueues = s.itemQueues := rfl
@[simp] theorem State.onPort_colls (p : Nat) (f : Port → Port) : (s.onPort p f).colls = s.colls := rfl
@[simp] theorem State.onPort_sampling (p : Nat) (f : Port → Port) : (s.onPort p f).sampling = s.sampling := rfl
@[simp] theorem State.onPort_moves (p : Nat) (f : Port → Port) : (s.onPort p f).moves = s.moves := rfl
@[simp] theorem State.onPort_ops (p : Nat) (f : Port → Port) : (s.onPort p f).ops = s.ops := rfl
@[simp] theorem State.onPort_accesses (p : Nat) (f : Port → Port) : (s.onPort p f).accesses = s.accesses := rfl
@[simp] theorem State.onPort_cmds (p : Nat) (f : Port → Port) : (s.onPort p f).cmds = s.cmds := rfl
@[simp] theorem State.onPort_bindings (p : Nat) (f : Port → Port) : (s.onPort p f).bindings = s.bindings := rfl
@[simp] theorem State.onPort_ports (p : Nat) (f : Port → Port) : (s.onPort p f).ports = Tab.put s.ports p (f (s.port p)) := rfl
@[simp] theorem State.onPort_deadDevices (p : Nat) (f : Port → Port) : (s.onPort p f).deadDevices = s.deadDevices := rfl

/-! ### onGroup -/

@[simp] theorem State.onGroup_powered (k : Nat) (f : Group → Group) : (s.onGroup k f).powered = s.powered := rfl
@[simp] theorem State.onGroup_agenda (k : Nat) (f : Group → Group) : (s.onGroup k f).agenda = s.agenda := rfl
@[simp] theorem State.onGroup_cur (k : Nat) (f : Group → Group) : (s.onGroup k f).cur = s.cur := rfl
@[simp] theorem State.onGroup_freeCtr (k : Nat) (f : Group → Group) : (s.onGroup k f).freeCtr = s.freeCtr := rfl
@[simp] theorem State.onGroup_idCtr (k : Nat) (f : Group → Group) : (s.onGroup k f).idCtr = s.idCtr := rfl
@[simp] theorem State.onGroup_hostReply (k : Nat) (f : Group → Group) : (s.onGroup k f).hostReply = s.hostReply := rfl
@[simp] theorem State.onGroup_mem (k : Nat) (f : Group → Group) : (s.onGroup k f).mem = s.mem := rfl
@[simp] theorem State.onGroup_lineMeta (k : Nat) (f : Group → Group) : (s.onGroup k f).lineMeta = s.lineMeta := rfl
@[simp] theorem State.onGroup_home (k : Nat) (f : Group → Group) : (s.onGroup k f).home = s.home := rfl
@[simp] theorem State.onGroup_badLines (k : Nat) (f : Group → Group) : (s.onGroup k f).badLines = s.badLines := rfl
@[simp] theorem State.onGroup_races (k : Nat) (f : Group → Group) : (s.onGroup k f).races = s.races := rfl
@[simp] theorem State.onGroup_awayFloor (k : Nat) (f : Group → Group) : (s.onGroup k f).awayFloor = s.awayFloor := rfl
@[simp] theorem State.onGroup_refusals (k : Nat) (f : Group → Group) : (s.onGroup k f).refusals = s.refusals := rfl
@[simp] theorem State.onGroup_stalls (k : Nat) (f : Group → Group) : (s.onGroup k f).stalls = s.stalls := rfl
@[simp] theorem State.onGroup_heldCharges (k : Nat) (f : Group → Group) : (s.onGroup k f).heldCharges = s.heldCharges := rfl
@[simp] theorem State.onGroup_tcoff (k : Nat) (f : Group → Group) : (s.onGroup k f).tcoff = s.tcoff := rfl
@[simp] theorem State.onGroup_epoch (k : Nat) (f : Group → Group) : (s.onGroup k f).epoch = s.epoch := rfl
@[simp] theorem State.onGroup_behind (k : Nat) (f : Group → Group) : (s.onGroup k f).behind = s.behind := rfl
@[simp] theorem State.onGroup_die0 (k : Nat) (f : Group → Group) : (s.onGroup k f).die0 = s.die0 := rfl
@[simp] theorem State.onGroup_die1 (k : Nat) (f : Group → Group) : (s.onGroup k f).die1 = s.die1 := rfl
@[simp] theorem State.onGroup_cores (k : Nat) (f : Group → Group) : (s.onGroup k f).cores = s.cores := rfl
@[simp] theorem State.onGroup_parts (k : Nat) (f : Group → Group) : (s.onGroup k f).parts = s.parts := rfl
@[simp] theorem State.onGroup_quads (k : Nat) (f : Group → Group) : (s.onGroup k f).quads = s.quads := rfl
@[simp] theorem State.onGroup_groups (k : Nat) (f : Group → Group) : (s.onGroup k f).groups = Tab.alter s.groups k f := rfl
@[simp] theorem State.onGroup_teams (k : Nat) (f : Group → Group) : (s.onGroup k f).teams = s.teams := rfl
@[simp] theorem State.onGroup_saved (k : Nat) (f : Group → Group) : (s.onGroup k f).saved = s.saved := rfl
@[simp] theorem State.onGroup_grids (k : Nat) (f : Group → Group) : (s.onGroup k f).grids = s.grids := rfl
@[simp] theorem State.onGroup_manage (k : Nat) (f : Group → Group) : (s.onGroup k f).manage = s.manage := rfl
@[simp] theorem State.onGroup_contexts (k : Nat) (f : Group → Group) : (s.onGroup k f).contexts = s.contexts := rfl
@[simp] theorem State.onGroup_formers (k : Nat) (f : Group → Group) : (s.onGroup k f).formers = s.formers := rfl
@[simp] theorem State.onGroup_csr (k : Nat) (f : Group → Group) : (s.onGroup k f).csr = s.csr := rfl
@[simp] theorem State.onGroup_ctl (k : Nat) (f : Group → Group) : (s.onGroup k f).ctl = s.ctl := rfl
@[simp] theorem State.onGroup_window (k : Nat) (f : Group → Group) : (s.onGroup k f).window = s.window := rfl
@[simp] theorem State.onGroup_lastTrigger (k : Nat) (f : Group → Group) : (s.onGroup k f).lastTrigger = s.lastTrigger := rfl
@[simp] theorem State.onGroup_copies (k : Nat) (f : Group → Group) : (s.onGroup k f).copies = s.copies := rfl
@[simp] theorem State.onGroup_hold (k : Nat) (f : Group → Group) : (s.onGroup k f).hold = s.hold := rfl
@[simp] theorem State.onGroup_queues (k : Nat) (f : Group → Group) : (s.onGroup k f).queues = s.queues := rfl
@[simp] theorem State.onGroup_itemQueues (k : Nat) (f : Group → Group) : (s.onGroup k f).itemQueues = s.itemQueues := rfl
@[simp] theorem State.onGroup_colls (k : Nat) (f : Group → Group) : (s.onGroup k f).colls = s.colls := rfl
@[simp] theorem State.onGroup_sampling (k : Nat) (f : Group → Group) : (s.onGroup k f).sampling = s.sampling := rfl
@[simp] theorem State.onGroup_moves (k : Nat) (f : Group → Group) : (s.onGroup k f).moves = s.moves := rfl
@[simp] theorem State.onGroup_ops (k : Nat) (f : Group → Group) : (s.onGroup k f).ops = s.ops := rfl
@[simp] theorem State.onGroup_accesses (k : Nat) (f : Group → Group) : (s.onGroup k f).accesses = s.accesses := rfl
@[simp] theorem State.onGroup_cmds (k : Nat) (f : Group → Group) : (s.onGroup k f).cmds = s.cmds := rfl
@[simp] theorem State.onGroup_bindings (k : Nat) (f : Group → Group) : (s.onGroup k f).bindings = s.bindings := rfl
@[simp] theorem State.onGroup_ports (k : Nat) (f : Group → Group) : (s.onGroup k f).ports = s.ports := rfl
@[simp] theorem State.onGroup_deadDevices (k : Nat) (f : Group → Group) : (s.onGroup k f).deadDevices = s.deadDevices := rfl

/-! ### setGroup -/

@[simp] theorem State.setGroup_powered (k : Nat) (g : Group) : (s.setGroup k g).powered = s.powered := rfl
@[simp] theorem State.setGroup_agenda (k : Nat) (g : Group) : (s.setGroup k g).agenda = s.agenda := rfl
@[simp] theorem State.setGroup_cur (k : Nat) (g : Group) : (s.setGroup k g).cur = s.cur := rfl
@[simp] theorem State.setGroup_freeCtr (k : Nat) (g : Group) : (s.setGroup k g).freeCtr = s.freeCtr := rfl
@[simp] theorem State.setGroup_idCtr (k : Nat) (g : Group) : (s.setGroup k g).idCtr = s.idCtr := rfl
@[simp] theorem State.setGroup_hostReply (k : Nat) (g : Group) : (s.setGroup k g).hostReply = s.hostReply := rfl
@[simp] theorem State.setGroup_mem (k : Nat) (g : Group) : (s.setGroup k g).mem = s.mem := rfl
@[simp] theorem State.setGroup_lineMeta (k : Nat) (g : Group) : (s.setGroup k g).lineMeta = s.lineMeta := rfl
@[simp] theorem State.setGroup_home (k : Nat) (g : Group) : (s.setGroup k g).home = s.home := rfl
@[simp] theorem State.setGroup_badLines (k : Nat) (g : Group) : (s.setGroup k g).badLines = s.badLines := rfl
@[simp] theorem State.setGroup_races (k : Nat) (g : Group) : (s.setGroup k g).races = s.races := rfl
@[simp] theorem State.setGroup_awayFloor (k : Nat) (g : Group) : (s.setGroup k g).awayFloor = s.awayFloor := rfl
@[simp] theorem State.setGroup_refusals (k : Nat) (g : Group) : (s.setGroup k g).refusals = s.refusals := rfl
@[simp] theorem State.setGroup_stalls (k : Nat) (g : Group) : (s.setGroup k g).stalls = s.stalls := rfl
@[simp] theorem State.setGroup_heldCharges (k : Nat) (g : Group) : (s.setGroup k g).heldCharges = s.heldCharges := rfl
@[simp] theorem State.setGroup_tcoff (k : Nat) (g : Group) : (s.setGroup k g).tcoff = s.tcoff := rfl
@[simp] theorem State.setGroup_epoch (k : Nat) (g : Group) : (s.setGroup k g).epoch = s.epoch := rfl
@[simp] theorem State.setGroup_behind (k : Nat) (g : Group) : (s.setGroup k g).behind = s.behind := rfl
@[simp] theorem State.setGroup_die0 (k : Nat) (g : Group) : (s.setGroup k g).die0 = s.die0 := rfl
@[simp] theorem State.setGroup_die1 (k : Nat) (g : Group) : (s.setGroup k g).die1 = s.die1 := rfl
@[simp] theorem State.setGroup_cores (k : Nat) (g : Group) : (s.setGroup k g).cores = s.cores := rfl
@[simp] theorem State.setGroup_parts (k : Nat) (g : Group) : (s.setGroup k g).parts = s.parts := rfl
@[simp] theorem State.setGroup_quads (k : Nat) (g : Group) : (s.setGroup k g).quads = s.quads := rfl
@[simp] theorem State.setGroup_groups (k : Nat) (g : Group) : (s.setGroup k g).groups = Tab.put s.groups k g := rfl
@[simp] theorem State.setGroup_teams (k : Nat) (g : Group) : (s.setGroup k g).teams = s.teams := rfl
@[simp] theorem State.setGroup_saved (k : Nat) (g : Group) : (s.setGroup k g).saved = s.saved := rfl
@[simp] theorem State.setGroup_grids (k : Nat) (g : Group) : (s.setGroup k g).grids = s.grids := rfl
@[simp] theorem State.setGroup_manage (k : Nat) (g : Group) : (s.setGroup k g).manage = s.manage := rfl
@[simp] theorem State.setGroup_contexts (k : Nat) (g : Group) : (s.setGroup k g).contexts = s.contexts := rfl
@[simp] theorem State.setGroup_formers (k : Nat) (g : Group) : (s.setGroup k g).formers = s.formers := rfl
@[simp] theorem State.setGroup_csr (k : Nat) (g : Group) : (s.setGroup k g).csr = s.csr := rfl
@[simp] theorem State.setGroup_ctl (k : Nat) (g : Group) : (s.setGroup k g).ctl = s.ctl := rfl
@[simp] theorem State.setGroup_window (k : Nat) (g : Group) : (s.setGroup k g).window = s.window := rfl
@[simp] theorem State.setGroup_lastTrigger (k : Nat) (g : Group) : (s.setGroup k g).lastTrigger = s.lastTrigger := rfl
@[simp] theorem State.setGroup_copies (k : Nat) (g : Group) : (s.setGroup k g).copies = s.copies := rfl
@[simp] theorem State.setGroup_hold (k : Nat) (g : Group) : (s.setGroup k g).hold = s.hold := rfl
@[simp] theorem State.setGroup_queues (k : Nat) (g : Group) : (s.setGroup k g).queues = s.queues := rfl
@[simp] theorem State.setGroup_itemQueues (k : Nat) (g : Group) : (s.setGroup k g).itemQueues = s.itemQueues := rfl
@[simp] theorem State.setGroup_colls (k : Nat) (g : Group) : (s.setGroup k g).colls = s.colls := rfl
@[simp] theorem State.setGroup_sampling (k : Nat) (g : Group) : (s.setGroup k g).sampling = s.sampling := rfl
@[simp] theorem State.setGroup_moves (k : Nat) (g : Group) : (s.setGroup k g).moves = s.moves := rfl
@[simp] theorem State.setGroup_ops (k : Nat) (g : Group) : (s.setGroup k g).ops = s.ops := rfl
@[simp] theorem State.setGroup_accesses (k : Nat) (g : Group) : (s.setGroup k g).accesses = s.accesses := rfl
@[simp] theorem State.setGroup_cmds (k : Nat) (g : Group) : (s.setGroup k g).cmds = s.cmds := rfl
@[simp] theorem State.setGroup_bindings (k : Nat) (g : Group) : (s.setGroup k g).bindings = s.bindings := rfl
@[simp] theorem State.setGroup_ports (k : Nat) (g : Group) : (s.setGroup k g).ports = s.ports := rfl
@[simp] theorem State.setGroup_deadDevices (k : Nat) (g : Group) : (s.setGroup k g).deadDevices = s.deadDevices := rfl

/-! ### onOwn -/

@[simp] theorem State.onOwn_powered (k t : Nat) (f : Group → Group) : (s.onOwn k t f).powered = s.powered := rfl
@[simp] theorem State.onOwn_agenda (k t : Nat) (f : Group → Group) : (s.onOwn k t f).agenda = s.agenda := rfl
@[simp] theorem State.onOwn_cur (k t : Nat) (f : Group → Group) : (s.onOwn k t f).cur = s.cur := rfl
@[simp] theorem State.onOwn_freeCtr (k t : Nat) (f : Group → Group) : (s.onOwn k t f).freeCtr = s.freeCtr := rfl
@[simp] theorem State.onOwn_idCtr (k t : Nat) (f : Group → Group) : (s.onOwn k t f).idCtr = s.idCtr := rfl
@[simp] theorem State.onOwn_hostReply (k t : Nat) (f : Group → Group) : (s.onOwn k t f).hostReply = s.hostReply := rfl
@[simp] theorem State.onOwn_mem (k t : Nat) (f : Group → Group) : (s.onOwn k t f).mem = s.mem := rfl
@[simp] theorem State.onOwn_lineMeta (k t : Nat) (f : Group → Group) : (s.onOwn k t f).lineMeta = s.lineMeta := rfl
@[simp] theorem State.onOwn_home (k t : Nat) (f : Group → Group) : (s.onOwn k t f).home = s.home := rfl
@[simp] theorem State.onOwn_badLines (k t : Nat) (f : Group → Group) : (s.onOwn k t f).badLines = s.badLines := rfl
@[simp] theorem State.onOwn_races (k t : Nat) (f : Group → Group) : (s.onOwn k t f).races = s.races := rfl
@[simp] theorem State.onOwn_awayFloor (k t : Nat) (f : Group → Group) : (s.onOwn k t f).awayFloor = s.awayFloor := rfl
@[simp] theorem State.onOwn_refusals (k t : Nat) (f : Group → Group) : (s.onOwn k t f).refusals = s.refusals := rfl
@[simp] theorem State.onOwn_stalls (k t : Nat) (f : Group → Group) : (s.onOwn k t f).stalls = s.stalls := rfl
@[simp] theorem State.onOwn_heldCharges (k t : Nat) (f : Group → Group) : (s.onOwn k t f).heldCharges = s.heldCharges := rfl
@[simp] theorem State.onOwn_tcoff (k t : Nat) (f : Group → Group) : (s.onOwn k t f).tcoff = s.tcoff := rfl
@[simp] theorem State.onOwn_epoch (k t : Nat) (f : Group → Group) : (s.onOwn k t f).epoch = s.epoch := rfl
@[simp] theorem State.onOwn_behind (k t : Nat) (f : Group → Group) : (s.onOwn k t f).behind = s.behind := rfl
@[simp] theorem State.onOwn_die0 (k t : Nat) (f : Group → Group) : (s.onOwn k t f).die0 = s.die0 := rfl
@[simp] theorem State.onOwn_die1 (k t : Nat) (f : Group → Group) : (s.onOwn k t f).die1 = s.die1 := rfl
@[simp] theorem State.onOwn_cores (k t : Nat) (f : Group → Group) : (s.onOwn k t f).cores = s.cores := rfl
@[simp] theorem State.onOwn_parts (k t : Nat) (f : Group → Group) : (s.onOwn k t f).parts = s.parts := rfl
@[simp] theorem State.onOwn_quads (k t : Nat) (f : Group → Group) : (s.onOwn k t f).quads = s.quads := rfl
@[simp] theorem State.onOwn_groups (k t : Nat) (f : Group → Group) : (s.onOwn k t f).groups = Tab.alter s.groups k fun g => if g.team = t then f g else g := rfl
@[simp] theorem State.onOwn_teams (k t : Nat) (f : Group → Group) : (s.onOwn k t f).teams = s.teams := rfl
@[simp] theorem State.onOwn_saved (k t : Nat) (f : Group → Group) : (s.onOwn k t f).saved = s.saved := rfl
@[simp] theorem State.onOwn_grids (k t : Nat) (f : Group → Group) : (s.onOwn k t f).grids = s.grids := rfl
@[simp] theorem State.onOwn_manage (k t : Nat) (f : Group → Group) : (s.onOwn k t f).manage = s.manage := rfl
@[simp] theorem State.onOwn_contexts (k t : Nat) (f : Group → Group) : (s.onOwn k t f).contexts = s.contexts := rfl
@[simp] theorem State.onOwn_formers (k t : Nat) (f : Group → Group) : (s.onOwn k t f).formers = s.formers := rfl
@[simp] theorem State.onOwn_csr (k t : Nat) (f : Group → Group) : (s.onOwn k t f).csr = s.csr := rfl
@[simp] theorem State.onOwn_ctl (k t : Nat) (f : Group → Group) : (s.onOwn k t f).ctl = s.ctl := rfl
@[simp] theorem State.onOwn_window (k t : Nat) (f : Group → Group) : (s.onOwn k t f).window = s.window := rfl
@[simp] theorem State.onOwn_lastTrigger (k t : Nat) (f : Group → Group) : (s.onOwn k t f).lastTrigger = s.lastTrigger := rfl
@[simp] theorem State.onOwn_copies (k t : Nat) (f : Group → Group) : (s.onOwn k t f).copies = s.copies := rfl
@[simp] theorem State.onOwn_hold (k t : Nat) (f : Group → Group) : (s.onOwn k t f).hold = s.hold := rfl
@[simp] theorem State.onOwn_queues (k t : Nat) (f : Group → Group) : (s.onOwn k t f).queues = s.queues := rfl
@[simp] theorem State.onOwn_itemQueues (k t : Nat) (f : Group → Group) : (s.onOwn k t f).itemQueues = s.itemQueues := rfl
@[simp] theorem State.onOwn_colls (k t : Nat) (f : Group → Group) : (s.onOwn k t f).colls = s.colls := rfl
@[simp] theorem State.onOwn_sampling (k t : Nat) (f : Group → Group) : (s.onOwn k t f).sampling = s.sampling := rfl
@[simp] theorem State.onOwn_moves (k t : Nat) (f : Group → Group) : (s.onOwn k t f).moves = s.moves := rfl
@[simp] theorem State.onOwn_ops (k t : Nat) (f : Group → Group) : (s.onOwn k t f).ops = s.ops := rfl
@[simp] theorem State.onOwn_accesses (k t : Nat) (f : Group → Group) : (s.onOwn k t f).accesses = s.accesses := rfl
@[simp] theorem State.onOwn_cmds (k t : Nat) (f : Group → Group) : (s.onOwn k t f).cmds = s.cmds := rfl
@[simp] theorem State.onOwn_bindings (k t : Nat) (f : Group → Group) : (s.onOwn k t f).bindings = s.bindings := rfl
@[simp] theorem State.onOwn_ports (k t : Nat) (f : Group → Group) : (s.onOwn k t f).ports = s.ports := rfl
@[simp] theorem State.onOwn_deadDevices (k t : Nat) (f : Group → Group) : (s.onOwn k t f).deadDevices = s.deadDevices := rfl

/-! ### onTeam -/

@[simp] theorem State.onTeam_powered (t : Nat) (f : Team → Team) : (s.onTeam t f).powered = s.powered := rfl
@[simp] theorem State.onTeam_agenda (t : Nat) (f : Team → Team) : (s.onTeam t f).agenda = s.agenda := rfl
@[simp] theorem State.onTeam_cur (t : Nat) (f : Team → Team) : (s.onTeam t f).cur = s.cur := rfl
@[simp] theorem State.onTeam_freeCtr (t : Nat) (f : Team → Team) : (s.onTeam t f).freeCtr = s.freeCtr := rfl
@[simp] theorem State.onTeam_idCtr (t : Nat) (f : Team → Team) : (s.onTeam t f).idCtr = s.idCtr := rfl
@[simp] theorem State.onTeam_hostReply (t : Nat) (f : Team → Team) : (s.onTeam t f).hostReply = s.hostReply := rfl
@[simp] theorem State.onTeam_mem (t : Nat) (f : Team → Team) : (s.onTeam t f).mem = s.mem := rfl
@[simp] theorem State.onTeam_lineMeta (t : Nat) (f : Team → Team) : (s.onTeam t f).lineMeta = s.lineMeta := rfl
@[simp] theorem State.onTeam_home (t : Nat) (f : Team → Team) : (s.onTeam t f).home = s.home := rfl
@[simp] theorem State.onTeam_badLines (t : Nat) (f : Team → Team) : (s.onTeam t f).badLines = s.badLines := rfl
@[simp] theorem State.onTeam_races (t : Nat) (f : Team → Team) : (s.onTeam t f).races = s.races := rfl
@[simp] theorem State.onTeam_awayFloor (t : Nat) (f : Team → Team) : (s.onTeam t f).awayFloor = s.awayFloor := rfl
@[simp] theorem State.onTeam_refusals (t : Nat) (f : Team → Team) : (s.onTeam t f).refusals = s.refusals := rfl
@[simp] theorem State.onTeam_stalls (t : Nat) (f : Team → Team) : (s.onTeam t f).stalls = s.stalls := rfl
@[simp] theorem State.onTeam_heldCharges (t : Nat) (f : Team → Team) : (s.onTeam t f).heldCharges = s.heldCharges := rfl
@[simp] theorem State.onTeam_tcoff (t : Nat) (f : Team → Team) : (s.onTeam t f).tcoff = s.tcoff := rfl
@[simp] theorem State.onTeam_epoch (t : Nat) (f : Team → Team) : (s.onTeam t f).epoch = s.epoch := rfl
@[simp] theorem State.onTeam_behind (t : Nat) (f : Team → Team) : (s.onTeam t f).behind = s.behind := rfl
@[simp] theorem State.onTeam_die0 (t : Nat) (f : Team → Team) : (s.onTeam t f).die0 = s.die0 := rfl
@[simp] theorem State.onTeam_die1 (t : Nat) (f : Team → Team) : (s.onTeam t f).die1 = s.die1 := rfl
@[simp] theorem State.onTeam_cores (t : Nat) (f : Team → Team) : (s.onTeam t f).cores = s.cores := rfl
@[simp] theorem State.onTeam_parts (t : Nat) (f : Team → Team) : (s.onTeam t f).parts = s.parts := rfl
@[simp] theorem State.onTeam_quads (t : Nat) (f : Team → Team) : (s.onTeam t f).quads = s.quads := rfl
@[simp] theorem State.onTeam_groups (t : Nat) (f : Team → Team) : (s.onTeam t f).groups = s.groups := rfl
@[simp] theorem State.onTeam_teams (t : Nat) (f : Team → Team) : (s.onTeam t f).teams = Tab.alter s.teams t f := rfl
@[simp] theorem State.onTeam_saved (t : Nat) (f : Team → Team) : (s.onTeam t f).saved = s.saved := rfl
@[simp] theorem State.onTeam_grids (t : Nat) (f : Team → Team) : (s.onTeam t f).grids = s.grids := rfl
@[simp] theorem State.onTeam_manage (t : Nat) (f : Team → Team) : (s.onTeam t f).manage = s.manage := rfl
@[simp] theorem State.onTeam_contexts (t : Nat) (f : Team → Team) : (s.onTeam t f).contexts = s.contexts := rfl
@[simp] theorem State.onTeam_formers (t : Nat) (f : Team → Team) : (s.onTeam t f).formers = s.formers := rfl
@[simp] theorem State.onTeam_csr (t : Nat) (f : Team → Team) : (s.onTeam t f).csr = s.csr := rfl
@[simp] theorem State.onTeam_ctl (t : Nat) (f : Team → Team) : (s.onTeam t f).ctl = s.ctl := rfl
@[simp] theorem State.onTeam_window (t : Nat) (f : Team → Team) : (s.onTeam t f).window = s.window := rfl
@[simp] theorem State.onTeam_lastTrigger (t : Nat) (f : Team → Team) : (s.onTeam t f).lastTrigger = s.lastTrigger := rfl
@[simp] theorem State.onTeam_copies (t : Nat) (f : Team → Team) : (s.onTeam t f).copies = s.copies := rfl
@[simp] theorem State.onTeam_hold (t : Nat) (f : Team → Team) : (s.onTeam t f).hold = s.hold := rfl
@[simp] theorem State.onTeam_queues (t : Nat) (f : Team → Team) : (s.onTeam t f).queues = s.queues := rfl
@[simp] theorem State.onTeam_itemQueues (t : Nat) (f : Team → Team) : (s.onTeam t f).itemQueues = s.itemQueues := rfl
@[simp] theorem State.onTeam_colls (t : Nat) (f : Team → Team) : (s.onTeam t f).colls = s.colls := rfl
@[simp] theorem State.onTeam_sampling (t : Nat) (f : Team → Team) : (s.onTeam t f).sampling = s.sampling := rfl
@[simp] theorem State.onTeam_moves (t : Nat) (f : Team → Team) : (s.onTeam t f).moves = s.moves := rfl
@[simp] theorem State.onTeam_ops (t : Nat) (f : Team → Team) : (s.onTeam t f).ops = s.ops := rfl
@[simp] theorem State.onTeam_accesses (t : Nat) (f : Team → Team) : (s.onTeam t f).accesses = s.accesses := rfl
@[simp] theorem State.onTeam_cmds (t : Nat) (f : Team → Team) : (s.onTeam t f).cmds = s.cmds := rfl
@[simp] theorem State.onTeam_bindings (t : Nat) (f : Team → Team) : (s.onTeam t f).bindings = s.bindings := rfl
@[simp] theorem State.onTeam_ports (t : Nat) (f : Team → Team) : (s.onTeam t f).ports = s.ports := rfl
@[simp] theorem State.onTeam_deadDevices (t : Nat) (f : Team → Team) : (s.onTeam t f).deadDevices = s.deadDevices := rfl

/-! ### onGrid -/

@[simp] theorem State.onGrid_powered (n : Nat) (f : Grid → Grid) : (s.onGrid n f).powered = s.powered := rfl
@[simp] theorem State.onGrid_agenda (n : Nat) (f : Grid → Grid) : (s.onGrid n f).agenda = s.agenda := rfl
@[simp] theorem State.onGrid_cur (n : Nat) (f : Grid → Grid) : (s.onGrid n f).cur = s.cur := rfl
@[simp] theorem State.onGrid_freeCtr (n : Nat) (f : Grid → Grid) : (s.onGrid n f).freeCtr = s.freeCtr := rfl
@[simp] theorem State.onGrid_idCtr (n : Nat) (f : Grid → Grid) : (s.onGrid n f).idCtr = s.idCtr := rfl
@[simp] theorem State.onGrid_hostReply (n : Nat) (f : Grid → Grid) : (s.onGrid n f).hostReply = s.hostReply := rfl
@[simp] theorem State.onGrid_mem (n : Nat) (f : Grid → Grid) : (s.onGrid n f).mem = s.mem := rfl
@[simp] theorem State.onGrid_lineMeta (n : Nat) (f : Grid → Grid) : (s.onGrid n f).lineMeta = s.lineMeta := rfl
@[simp] theorem State.onGrid_home (n : Nat) (f : Grid → Grid) : (s.onGrid n f).home = s.home := rfl
@[simp] theorem State.onGrid_badLines (n : Nat) (f : Grid → Grid) : (s.onGrid n f).badLines = s.badLines := rfl
@[simp] theorem State.onGrid_races (n : Nat) (f : Grid → Grid) : (s.onGrid n f).races = s.races := rfl
@[simp] theorem State.onGrid_awayFloor (n : Nat) (f : Grid → Grid) : (s.onGrid n f).awayFloor = s.awayFloor := rfl
@[simp] theorem State.onGrid_refusals (n : Nat) (f : Grid → Grid) : (s.onGrid n f).refusals = s.refusals := rfl
@[simp] theorem State.onGrid_stalls (n : Nat) (f : Grid → Grid) : (s.onGrid n f).stalls = s.stalls := rfl
@[simp] theorem State.onGrid_heldCharges (n : Nat) (f : Grid → Grid) : (s.onGrid n f).heldCharges = s.heldCharges := rfl
@[simp] theorem State.onGrid_tcoff (n : Nat) (f : Grid → Grid) : (s.onGrid n f).tcoff = s.tcoff := rfl
@[simp] theorem State.onGrid_epoch (n : Nat) (f : Grid → Grid) : (s.onGrid n f).epoch = s.epoch := rfl
@[simp] theorem State.onGrid_behind (n : Nat) (f : Grid → Grid) : (s.onGrid n f).behind = s.behind := rfl
@[simp] theorem State.onGrid_die0 (n : Nat) (f : Grid → Grid) : (s.onGrid n f).die0 = s.die0 := rfl
@[simp] theorem State.onGrid_die1 (n : Nat) (f : Grid → Grid) : (s.onGrid n f).die1 = s.die1 := rfl
@[simp] theorem State.onGrid_cores (n : Nat) (f : Grid → Grid) : (s.onGrid n f).cores = s.cores := rfl
@[simp] theorem State.onGrid_parts (n : Nat) (f : Grid → Grid) : (s.onGrid n f).parts = s.parts := rfl
@[simp] theorem State.onGrid_quads (n : Nat) (f : Grid → Grid) : (s.onGrid n f).quads = s.quads := rfl
@[simp] theorem State.onGrid_groups (n : Nat) (f : Grid → Grid) : (s.onGrid n f).groups = s.groups := rfl
@[simp] theorem State.onGrid_teams (n : Nat) (f : Grid → Grid) : (s.onGrid n f).teams = s.teams := rfl
@[simp] theorem State.onGrid_saved (n : Nat) (f : Grid → Grid) : (s.onGrid n f).saved = s.saved := rfl
@[simp] theorem State.onGrid_grids (n : Nat) (f : Grid → Grid) : (s.onGrid n f).grids = Tab.alter s.grids n f := rfl
@[simp] theorem State.onGrid_manage (n : Nat) (f : Grid → Grid) : (s.onGrid n f).manage = s.manage := rfl
@[simp] theorem State.onGrid_contexts (n : Nat) (f : Grid → Grid) : (s.onGrid n f).contexts = s.contexts := rfl
@[simp] theorem State.onGrid_formers (n : Nat) (f : Grid → Grid) : (s.onGrid n f).formers = s.formers := rfl
@[simp] theorem State.onGrid_csr (n : Nat) (f : Grid → Grid) : (s.onGrid n f).csr = s.csr := rfl
@[simp] theorem State.onGrid_ctl (n : Nat) (f : Grid → Grid) : (s.onGrid n f).ctl = s.ctl := rfl
@[simp] theorem State.onGrid_window (n : Nat) (f : Grid → Grid) : (s.onGrid n f).window = s.window := rfl
@[simp] theorem State.onGrid_lastTrigger (n : Nat) (f : Grid → Grid) : (s.onGrid n f).lastTrigger = s.lastTrigger := rfl
@[simp] theorem State.onGrid_copies (n : Nat) (f : Grid → Grid) : (s.onGrid n f).copies = s.copies := rfl
@[simp] theorem State.onGrid_hold (n : Nat) (f : Grid → Grid) : (s.onGrid n f).hold = s.hold := rfl
@[simp] theorem State.onGrid_queues (n : Nat) (f : Grid → Grid) : (s.onGrid n f).queues = s.queues := rfl
@[simp] theorem State.onGrid_itemQueues (n : Nat) (f : Grid → Grid) : (s.onGrid n f).itemQueues = s.itemQueues := rfl
@[simp] theorem State.onGrid_colls (n : Nat) (f : Grid → Grid) : (s.onGrid n f).colls = s.colls := rfl
@[simp] theorem State.onGrid_sampling (n : Nat) (f : Grid → Grid) : (s.onGrid n f).sampling = s.sampling := rfl
@[simp] theorem State.onGrid_moves (n : Nat) (f : Grid → Grid) : (s.onGrid n f).moves = s.moves := rfl
@[simp] theorem State.onGrid_ops (n : Nat) (f : Grid → Grid) : (s.onGrid n f).ops = s.ops := rfl
@[simp] theorem State.onGrid_accesses (n : Nat) (f : Grid → Grid) : (s.onGrid n f).accesses = s.accesses := rfl
@[simp] theorem State.onGrid_cmds (n : Nat) (f : Grid → Grid) : (s.onGrid n f).cmds = s.cmds := rfl
@[simp] theorem State.onGrid_bindings (n : Nat) (f : Grid → Grid) : (s.onGrid n f).bindings = s.bindings := rfl
@[simp] theorem State.onGrid_ports (n : Nat) (f : Grid → Grid) : (s.onGrid n f).ports = s.ports := rfl
@[simp] theorem State.onGrid_deadDevices (n : Nat) (f : Grid → Grid) : (s.onGrid n f).deadDevices = s.deadDevices := rfl

/-! ### onDie -/

@[simp] theorem State.onDie_powered (d : Nat) (f : Die → Die) : (s.onDie d f).powered = s.powered := by
  unfold State.onDie; split <;> rfl
@[simp] theorem State.onDie_agenda (d : Nat) (f : Die → Die) : (s.onDie d f).agenda = s.agenda := by
  unfold State.onDie; split <;> rfl
@[simp] theorem State.onDie_cur (d : Nat) (f : Die → Die) : (s.onDie d f).cur = s.cur := by
  unfold State.onDie; split <;> rfl
@[simp] theorem State.onDie_freeCtr (d : Nat) (f : Die → Die) : (s.onDie d f).freeCtr = s.freeCtr := by
  unfold State.onDie; split <;> rfl
@[simp] theorem State.onDie_idCtr (d : Nat) (f : Die → Die) : (s.onDie d f).idCtr = s.idCtr := by
  unfold State.onDie; split <;> rfl
@[simp] theorem State.onDie_hostReply (d : Nat) (f : Die → Die) : (s.onDie d f).hostReply = s.hostReply := by
  unfold State.onDie; split <;> rfl
@[simp] theorem State.onDie_mem (d : Nat) (f : Die → Die) : (s.onDie d f).mem = s.mem := by
  unfold State.onDie; split <;> rfl
@[simp] theorem State.onDie_lineMeta (d : Nat) (f : Die → Die) : (s.onDie d f).lineMeta = s.lineMeta := by
  unfold State.onDie; split <;> rfl
@[simp] theorem State.onDie_home (d : Nat) (f : Die → Die) : (s.onDie d f).home = s.home := by
  unfold State.onDie; split <;> rfl
@[simp] theorem State.onDie_badLines (d : Nat) (f : Die → Die) : (s.onDie d f).badLines = s.badLines := by
  unfold State.onDie; split <;> rfl
@[simp] theorem State.onDie_races (d : Nat) (f : Die → Die) : (s.onDie d f).races = s.races := by
  unfold State.onDie; split <;> rfl
@[simp] theorem State.onDie_awayFloor (d : Nat) (f : Die → Die) : (s.onDie d f).awayFloor = s.awayFloor := by
  unfold State.onDie; split <;> rfl
@[simp] theorem State.onDie_refusals (d : Nat) (f : Die → Die) : (s.onDie d f).refusals = s.refusals := by
  unfold State.onDie; split <;> rfl
@[simp] theorem State.onDie_stalls (d : Nat) (f : Die → Die) : (s.onDie d f).stalls = s.stalls := by
  unfold State.onDie; split <;> rfl
@[simp] theorem State.onDie_heldCharges (d : Nat) (f : Die → Die) : (s.onDie d f).heldCharges = s.heldCharges := by
  unfold State.onDie; split <;> rfl
@[simp] theorem State.onDie_tcoff (d : Nat) (f : Die → Die) : (s.onDie d f).tcoff = s.tcoff := by
  unfold State.onDie; split <;> rfl
@[simp] theorem State.onDie_epoch (d : Nat) (f : Die → Die) : (s.onDie d f).epoch = s.epoch := by
  unfold State.onDie; split <;> rfl
@[simp] theorem State.onDie_behind (d : Nat) (f : Die → Die) : (s.onDie d f).behind = s.behind := by
  unfold State.onDie; split <;> rfl
@[simp] theorem State.onDie_die0 (d : Nat) (f : Die → Die) : (s.onDie d f).die0 = if d = 0 then f s.die0 else s.die0 := by
  unfold State.onDie; split <;> rfl
@[simp] theorem State.onDie_die1 (d : Nat) (f : Die → Die) : (s.onDie d f).die1 = if d = 0 then s.die1 else f s.die1 := by
  unfold State.onDie; split <;> rfl
@[simp] theorem State.onDie_cores (d : Nat) (f : Die → Die) : (s.onDie d f).cores = s.cores := by
  unfold State.onDie; split <;> rfl
@[simp] theorem State.onDie_parts (d : Nat) (f : Die → Die) : (s.onDie d f).parts = s.parts := by
  unfold State.onDie; split <;> rfl
@[simp] theorem State.onDie_quads (d : Nat) (f : Die → Die) : (s.onDie d f).quads = s.quads := by
  unfold State.onDie; split <;> rfl
@[simp] theorem State.onDie_groups (d : Nat) (f : Die → Die) : (s.onDie d f).groups = s.groups := by
  unfold State.onDie; split <;> rfl
@[simp] theorem State.onDie_teams (d : Nat) (f : Die → Die) : (s.onDie d f).teams = s.teams := by
  unfold State.onDie; split <;> rfl
@[simp] theorem State.onDie_saved (d : Nat) (f : Die → Die) : (s.onDie d f).saved = s.saved := by
  unfold State.onDie; split <;> rfl
@[simp] theorem State.onDie_grids (d : Nat) (f : Die → Die) : (s.onDie d f).grids = s.grids := by
  unfold State.onDie; split <;> rfl
@[simp] theorem State.onDie_manage (d : Nat) (f : Die → Die) : (s.onDie d f).manage = s.manage := by
  unfold State.onDie; split <;> rfl
@[simp] theorem State.onDie_contexts (d : Nat) (f : Die → Die) : (s.onDie d f).contexts = s.contexts := by
  unfold State.onDie; split <;> rfl
@[simp] theorem State.onDie_formers (d : Nat) (f : Die → Die) : (s.onDie d f).formers = s.formers := by
  unfold State.onDie; split <;> rfl
@[simp] theorem State.onDie_csr (d : Nat) (f : Die → Die) : (s.onDie d f).csr = s.csr := by
  unfold State.onDie; split <;> rfl
@[simp] theorem State.onDie_ctl (d : Nat) (f : Die → Die) : (s.onDie d f).ctl = s.ctl := by
  unfold State.onDie; split <;> rfl
@[simp] theorem State.onDie_window (d : Nat) (f : Die → Die) : (s.onDie d f).window = s.window := by
  unfold State.onDie; split <;> rfl
@[simp] theorem State.onDie_lastTrigger (d : Nat) (f : Die → Die) : (s.onDie d f).lastTrigger = s.lastTrigger := by
  unfold State.onDie; split <;> rfl
@[simp] theorem State.onDie_copies (d : Nat) (f : Die → Die) : (s.onDie d f).copies = s.copies := by
  unfold State.onDie; split <;> rfl
@[simp] theorem State.onDie_hold (d : Nat) (f : Die → Die) : (s.onDie d f).hold = s.hold := by
  unfold State.onDie; split <;> rfl
@[simp] theorem State.onDie_queues (d : Nat) (f : Die → Die) : (s.onDie d f).queues = s.queues := by
  unfold State.onDie; split <;> rfl
@[simp] theorem State.onDie_itemQueues (d : Nat) (f : Die → Die) : (s.onDie d f).itemQueues = s.itemQueues := by
  unfold State.onDie; split <;> rfl
@[simp] theorem State.onDie_colls (d : Nat) (f : Die → Die) : (s.onDie d f).colls = s.colls := by
  unfold State.onDie; split <;> rfl
@[simp] theorem State.onDie_sampling (d : Nat) (f : Die → Die) : (s.onDie d f).sampling = s.sampling := by
  unfold State.onDie; split <;> rfl
@[simp] theorem State.onDie_moves (d : Nat) (f : Die → Die) : (s.onDie d f).moves = s.moves := by
  unfold State.onDie; split <;> rfl
@[simp] theorem State.onDie_ops (d : Nat) (f : Die → Die) : (s.onDie d f).ops = s.ops := by
  unfold State.onDie; split <;> rfl
@[simp] theorem State.onDie_accesses (d : Nat) (f : Die → Die) : (s.onDie d f).accesses = s.accesses := by
  unfold State.onDie; split <;> rfl
@[simp] theorem State.onDie_cmds (d : Nat) (f : Die → Die) : (s.onDie d f).cmds = s.cmds := by
  unfold State.onDie; split <;> rfl
@[simp] theorem State.onDie_bindings (d : Nat) (f : Die → Die) : (s.onDie d f).bindings = s.bindings := by
  unfold State.onDie; split <;> rfl
@[simp] theorem State.onDie_ports (d : Nat) (f : Die → Die) : (s.onDie d f).ports = s.ports := by
  unfold State.onDie; split <;> rfl
@[simp] theorem State.onDie_deadDevices (d : Nat) (f : Die → Die) : (s.onDie d f).deadDevices = s.deadDevices := by
  unfold State.onDie; split <;> rfl

/-! ### fresh -/

@[simp] theorem State.fresh_fst : s.fresh.1 = s.idCtr := rfl
@[simp] theorem State.fresh_powered : s.fresh.2.powered = s.powered := rfl
@[simp] theorem State.fresh_agenda : s.fresh.2.agenda = s.agenda := rfl
@[simp] theorem State.fresh_cur : s.fresh.2.cur = s.cur := rfl
@[simp] theorem State.fresh_freeCtr : s.fresh.2.freeCtr = s.freeCtr := rfl
@[simp] theorem State.fresh_idCtr : s.fresh.2.idCtr = s.idCtr + 1 := rfl
@[simp] theorem State.fresh_hostReply : s.fresh.2.hostReply = s.hostReply := rfl
@[simp] theorem State.fresh_mem : s.fresh.2.mem = s.mem := rfl
@[simp] theorem State.fresh_lineMeta : s.fresh.2.lineMeta = s.lineMeta := rfl
@[simp] theorem State.fresh_home : s.fresh.2.home = s.home := rfl
@[simp] theorem State.fresh_badLines : s.fresh.2.badLines = s.badLines := rfl
@[simp] theorem State.fresh_races : s.fresh.2.races = s.races := rfl
@[simp] theorem State.fresh_awayFloor : s.fresh.2.awayFloor = s.awayFloor := rfl
@[simp] theorem State.fresh_refusals : s.fresh.2.refusals = s.refusals := rfl
@[simp] theorem State.fresh_stalls : s.fresh.2.stalls = s.stalls := rfl
@[simp] theorem State.fresh_heldCharges : s.fresh.2.heldCharges = s.heldCharges := rfl
@[simp] theorem State.fresh_tcoff : s.fresh.2.tcoff = s.tcoff := rfl
@[simp] theorem State.fresh_epoch : s.fresh.2.epoch = s.epoch := rfl
@[simp] theorem State.fresh_behind : s.fresh.2.behind = s.behind := rfl
@[simp] theorem State.fresh_die0 : s.fresh.2.die0 = s.die0 := rfl
@[simp] theorem State.fresh_die1 : s.fresh.2.die1 = s.die1 := rfl
@[simp] theorem State.fresh_cores : s.fresh.2.cores = s.cores := rfl
@[simp] theorem State.fresh_parts : s.fresh.2.parts = s.parts := rfl
@[simp] theorem State.fresh_quads : s.fresh.2.quads = s.quads := rfl
@[simp] theorem State.fresh_groups : s.fresh.2.groups = s.groups := rfl
@[simp] theorem State.fresh_teams : s.fresh.2.teams = s.teams := rfl
@[simp] theorem State.fresh_saved : s.fresh.2.saved = s.saved := rfl
@[simp] theorem State.fresh_grids : s.fresh.2.grids = s.grids := rfl
@[simp] theorem State.fresh_manage : s.fresh.2.manage = s.manage := rfl
@[simp] theorem State.fresh_contexts : s.fresh.2.contexts = s.contexts := rfl
@[simp] theorem State.fresh_formers : s.fresh.2.formers = s.formers := rfl
@[simp] theorem State.fresh_csr : s.fresh.2.csr = s.csr := rfl
@[simp] theorem State.fresh_ctl : s.fresh.2.ctl = s.ctl := rfl
@[simp] theorem State.fresh_window : s.fresh.2.window = s.window := rfl
@[simp] theorem State.fresh_lastTrigger : s.fresh.2.lastTrigger = s.lastTrigger := rfl
@[simp] theorem State.fresh_copies : s.fresh.2.copies = s.copies := rfl
@[simp] theorem State.fresh_hold : s.fresh.2.hold = s.hold := rfl
@[simp] theorem State.fresh_queues : s.fresh.2.queues = s.queues := rfl
@[simp] theorem State.fresh_itemQueues : s.fresh.2.itemQueues = s.itemQueues := rfl
@[simp] theorem State.fresh_colls : s.fresh.2.colls = s.colls := rfl
@[simp] theorem State.fresh_sampling : s.fresh.2.sampling = s.sampling := rfl
@[simp] theorem State.fresh_moves : s.fresh.2.moves = s.moves := rfl
@[simp] theorem State.fresh_ops : s.fresh.2.ops = s.ops := rfl
@[simp] theorem State.fresh_accesses : s.fresh.2.accesses = s.accesses := rfl
@[simp] theorem State.fresh_cmds : s.fresh.2.cmds = s.cmds := rfl
@[simp] theorem State.fresh_bindings : s.fresh.2.bindings = s.bindings := rfl
@[simp] theorem State.fresh_ports : s.fresh.2.ports = s.ports := rfl
@[simp] theorem State.fresh_deadDevices : s.fresh.2.deadDevices = s.deadDevices := rfl

end Sys2Proof.Machine
end

