-- ==== Sys2Proof/Laws/Tab.lean ====
section
/-! SUPPORT. Reads after writes of a sparse table, and its rising order. -/

namespace Sys2Proof.Machine

variable {α : Type}

@[simp] theorem Tab.find_nil (k : Nat) : Tab.find ([] : List (Nat × α)) k = none := rfl

theorem Tab.find_put (t : List (Nat × α)) (k : Nat) (v : α) (j : Nat) :
    Tab.find (Tab.put t k v) j = if j = k then some v else Tab.find t j := by
  induction t with
  | nil => simp [Tab.put, Tab.find]
  | cons x t ih =>
    obtain ⟨i, w⟩ := x
    by_cases h1 : k < i
    · simp [Tab.put, h1, Tab.find]
    · by_cases h2 : k = i
      · subst h2
        by_cases h3 : j = k <;> simp [Tab.put, Tab.find, h3]
      · by_cases h3 : j = i
        · subst h3
          simp [Tab.put, h1, h2, Tab.find, Ne.symm h2]
        · simp [Tab.put, h1, h2, Tab.find, h3, ih]

@[simp] theorem Tab.find_put_self (t : List (Nat × α)) (k : Nat) (v : α) : Tab.find (Tab.put t k v) k = some v := by
  simp [Tab.find_put]

theorem Tab.find_put_ne (t : List (Nat × α)) {k j : Nat} (v : α) (h : j ≠ k) :
    Tab.find (Tab.put t k v) j = Tab.find t j := by
  simp [Tab.find_put, h]

theorem Tab.find_del (t : List (Nat × α)) (k j : Nat) :
    Tab.find (Tab.del t k) j = if j = k then none else Tab.find t j := by
  induction t with
  | nil => simp [Tab.del, Tab.find]
  | cons x t ih =>
    obtain ⟨i, w⟩ := x
    by_cases h2 : k = i
    · subst h2
      by_cases h3 : j = k
      · subst h3; simpa [Tab.del] using ih
      · simp [Tab.del, Tab.find, ih, h3]
    · by_cases h3 : j = i
      · subst h3
        simp [Tab.del, h2, Tab.find, Ne.symm h2]
      · simp [Tab.del, h2, Tab.find, h3, ih]

theorem Tab.get_put (t : List (Nat × α)) (k : Nat) (v : α) (j : Nat) (d : α) :
    Tab.get (Tab.put t k v) j d = if j = k then v else Tab.get t j d := by
  unfold Tab.get
  rw [Tab.find_put]
  split <;> rfl

theorem Tab.find_alter (t : List (Nat × α)) (k : Nat) (f : α → α) (j : Nat) :
    Tab.find (Tab.alter t k f) j = if j = k then (Tab.find t k).map f else Tab.find t j := by
  unfold Tab.alter
  split
  · next h => by_cases hj : j = k <;> simp [hj, h]
  · next v h => simp [Tab.find_put, h]

theorem Tab.find_filter_key (t : List (Nat × α)) (p : Nat → Bool) (j : Nat) :
    Tab.find (t.filter fun c => p c.1) j = if p j then Tab.find t j else none := by
  induction t with
  | nil => simp [Tab.find]
  | cons x t ih =>
    obtain ⟨i, w⟩ := x
    by_cases hp : p i
    · by_cases hj : j = i
      · subst hj; simp [hp, Tab.find]
      · simp [hp, Tab.find, hj, ih]
    · by_cases hj : j = i
      · subst hj; simp [hp, ih]
      · simp [hp, Tab.find, hj, ih]

/-- The numbers rise strictly, as a relation of all pairs. -/
theorem Tab.sorted_iff (t : List (Nat × α)) : Tab.sorted t = true ↔ t.Pairwise fun x y => x.1 < y.1 := by
  induction t with
  | nil => simp [Tab.sorted]
  | cons x t ih =>
    obtain ⟨i, w⟩ := x
    cases t with
    | nil => simp [Tab.sorted]
    | cons y u =>
      obtain ⟨j, z⟩ := y
      rw [Tab.sorted, Bool.and_eq_true, ih, decide_eq_true_eq]
      constructor
      · rintro ⟨h1, h2⟩
        refine List.pairwise_cons.2 ⟨fun c hc => ?_, h2⟩
        rcases List.mem_cons.1 hc with rfl | hc
        · exact h1
        · exact Nat.lt_trans h1 ((List.pairwise_cons.1 h2).1 c hc)
      · intro h
        exact ⟨(List.pairwise_cons.1 h).1 (j, z) (by simp), (List.pairwise_cons.1 h).2⟩

theorem Tab.mem_put (t : List (Nat × α)) (k : Nat) (v : α) (c : Nat × α) (h : c ∈ Tab.put t k v) :
    c = (k, v) ∨ c ∈ t := by
  induction t with
  | nil => simpa [Tab.put] using h
  | cons x t ih =>
    obtain ⟨i, w⟩ := x
    unfold Tab.put at h
    split at h
    · simpa using h
    · split at h
      · rcases List.mem_cons.1 h with h | h
        · exact .inl h
        · exact .inr (List.mem_cons_of_mem _ h)
      · rcases List.mem_cons.1 h with h | h
        · exact .inr (by simp [h])
        · exact (ih h).imp_right (List.mem_cons_of_mem _)

theorem Tab.mem_del (t : List (Nat × α)) (k : Nat) (c : Nat × α) (h : c ∈ Tab.del t k) : c ∈ t := by
  induction t with
  | nil => simp [Tab.del] at h
  | cons x t ih =>
    obtain ⟨i, w⟩ := x
    unfold Tab.del at h
    split at h
    · exact List.mem_cons_of_mem _ (ih h)
    · rcases List.mem_cons.1 h with h | h
      · simp [h]
      · exact List.mem_cons_of_mem _ (ih h)

theorem Tab.sorted_put (t : List (Nat × α)) (k : Nat) (v : α) (h : Tab.sorted t = true) :
    Tab.sorted (Tab.put t k v) = true := by
  rw [Tab.sorted_iff] at h ⊢
  induction t with
  | nil => simp [Tab.put]
  | cons x t ih =>
    obtain ⟨i, w⟩ := x
    have h' := List.pairwise_cons.1 h
    unfold Tab.put
    split
    · next hk =>
      refine List.pairwise_cons.2 ⟨fun c hc => ?_, h⟩
      rcases List.mem_cons.1 hc with rfl | hc
      · exact hk
      · exact Nat.lt_trans hk (h'.1 c hc)
    · split
      · next hk => subst hk; exact List.pairwise_cons.2 ⟨h'.1, h'.2⟩
      · next h1 h2 =>
        refine List.pairwise_cons.2 ⟨fun c hc => ?_, ih h'.2⟩
        rcases Tab.mem_put t k v c hc with rfl | hc
        · show i < k; omega
        · exact h'.1 c hc

theorem Tab.sorted_del (t : List (Nat × α)) (k : Nat) (h : Tab.sorted t = true) : Tab.sorted (Tab.del t k) = true := by
  rw [Tab.sorted_iff] at h ⊢
  induction t with
  | nil => simp [Tab.del]
  | cons x t ih =>
    obtain ⟨i, w⟩ := x
    have h' := List.pairwise_cons.1 h
    unfold Tab.del
    split
    · exact ih h'.2
    · exact List.pairwise_cons.2 ⟨fun c hc => h'.1 c (Tab.mem_del t k c hc), ih h'.2⟩

theorem Tab.sorted_filter (t : List (Nat × α)) (p : Nat × α → Bool) (h : Tab.sorted t = true) :
    Tab.sorted (t.filter p) = true := by
  rw [Tab.sorted_iff] at h ⊢
  exact h.filter p

end Sys2Proof.Machine
end

