-- ==== Sys2Proof/Laws/Files.lean ====
section
/-! SUPPORT. What writes no group's file: stores, walks, fault records and taking an exception, the advance of lanes and
the end of an issue. -/

namespace Sys2Proof.Machine

/-! ### Functions that leave the table of groups -/

@[simp] theorem State.poke_groups (s : State) (pa n v : Nat) : (s.poke pa n v).groups = s.groups := by
  unfold State.poke; dsimp only; split <;> rfl

@[simp] theorem State.takeLine_groups (s : State) (l : Nat) : (s.takeLine l).groups = s.groups := by
  unfold State.takeLine; split <;> rfl

@[simp] theorem State.raiseAway_groups (s : State) (n : Nat) : (s.raiseAway n).groups = s.groups := rfl

@[simp] theorem State.dropLine_groups (s : State) (l : Nat) : (s.dropLine l).groups = s.groups := rfl

@[simp] theorem State.evictHome_groups (s : State) (l : Nat) : (s.evictHome l).groups = s.groups := by
  unfold State.evictHome; split
  · rfl
  · dsimp only; split <;> simp

@[simp] theorem State.makeRoom_groups (s : State) (d : Nat) : (s.makeRoom d).groups = s.groups := by
  unfold State.makeRoom; dsimp only; split
  · rfl
  · split <;> simp

@[simp] theorem State.roomFor_groups (s : State) (l : Nat) : (s.roomFor l).groups = s.groups := by
  unfold State.roomFor; split <;> simp

@[simp] theorem State.setHome_groups (s : State) (l : Nat) (h : HomeLine) : (s.setHome l h).groups = s.groups := by
  simp [State.setHome]

@[simp] theorem State.setMeta_groups (s : State) (l : Nat) (v : BitVec 16) : (s.setMeta l v).groups = s.groups := rfl

@[simp] theorem homeStamp_groups (s : State) (l T : Nat) : (homeStamp s l T).1.groups = s.groups := by
  simp only [homeStamp, State.setHome_groups]; split <;> simp

@[simp] theorem State.repairBytes_groups (s : State) (w pa n : Nat) : (s.repairBytes w pa n).groups = s.groups := by
  unfold State.repairBytes; dsimp only; split <;> rfl

@[simp] theorem State.deviceStore_groups (s : State) (T pa n v : Nat) : (s.deviceStore T pa n v).groups = s.groups := by
  unfold State.deviceStore; split
  · unfold State.storeAway; split <;> simp
  · simp

/-- What every step of a fold leaves, the fold leaves. -/
theorem foldl_groups {α : Type} (f : State → α → State) (h : ∀ s x, (f s x).groups = s.groups) (l : List α) (s : State) :
    (l.foldl f s).groups = s.groups := by
  induction l generalizing s with
  | nil => rfl
  | cons x t ih => rw [List.foldl_cons, ih, h]

@[simp] theorem State.deviceBytes_groups (s : State) (T pa : Nat) (bs : List Byte) :
    (s.deviceBytes T pa bs).groups = s.groups :=
  foldl_groups _ (fun _ _ => State.deviceStore_groups ..) _ _

@[simp] theorem State.cacheTable_groups (s : State) (d asid va level t : Nat) :
    (s.cacheTable d asid va level t).groups = s.groups := by
  unfold State.cacheTable; split <;> simp

@[simp] theorem homeRenew_groups (s : State) (l T : Nat) : (homeRenew s l T).1.groups = s.groups := by
  simp [homeRenew]

@[simp] theorem State.entryLoad_groups (s : State) (who : Option Nat) (ea : Nat) : (s.entryLoad who ea).groups = s.groups := by
  unfold State.entryLoad; split
  · rfl
  · dsimp only; split <;> split <;> simp

@[simp] theorem walkGo_groups (who : Option Nat) (d asid va l : Nat) :
    ∀ (tbl : Nat) (s : State), (walkGo who d asid va l tbl s).1.groups = s.groups := by
  induction l with
  | zero => intro tbl s; simp [walkGo]
  | succ l ih =>
    intro tbl s
    unfold walkGo; dsimp only
    split
    · rw [ih]; simp
    · split
      · rw [ih]; simp
      · simp

@[simp] theorem walkFrom_groups (s : State) (who : Option Nat) (d x va : Nat) : (walkFrom s who d x va).1.groups = s.groups := by
  unfold walkFrom; split <;> simp

@[simp] theorem pickEntry_groups (s : State) (ea pte : Nat) : (pickEntry s ea pte).1.groups = s.groups := by
  unfold pickEntry; dsimp only; split
  · split <;> rfl
  · rfl

@[simp] theorem walk_groups (s : State) (d x va : Nat) (acc : AccessKind) (b : Bool) (who : Option Nat) :
    (walk s d x va acc b who).1.groups = s.groups := by
  have h := walkFrom_groups s who d x va
  unfold walk
  split
  · rename_i hw; rw [hw] at h; exact h
  · rename_i hw; rw [hw] at h; exact h
  · rename_i s1 ea0 pte0 level hw
    rw [hw] at h; dsimp only at h
    have hp : (if level = 0 then pickEntry s1 ea0 pte0 else (s1, .ok (ea0, pte0))).1.groups = s.groups := by split <;> simp [h]
    generalize (if level = 0 then pickEntry s1 ea0 pte0 else (s1, .ok (ea0, pte0))) = p at hp ⊢
    obtain ⟨s2, r⟩ := p
    cases r with
    | error r => exact hp
    | ok q =>
      obtain ⟨ea, pte⟩ := q
      dsimp only at hp ⊢
      split
      · exact hp
      · split
        · exact hp
        · dsimp only
          generalize (if b = true then pte else _) = new
          split <;> simp [hp]

@[simp] theorem translate_groups (s : State) (c x va : Nat) (acc : AccessKind) :
    (translate s c x va acc).1.groups = s.groups := by
  unfold translate
  dsimp only
  split
  · rfl
  · split
    · rfl
    · split
      · split <;> rfl
      · split
        · split <;> rfl
        · have h := walk_groups s (dieOfCore c) x va acc false (some c)
          split
          · rename_i s1 e hw; rw [hw] at h; dsimp only at h ⊢; split <;> simpa using h
          · exact h

@[simp] theorem fetch_groups (s : State) (c x off : Nat) (acc : AccessKind) : (fetch s c x off acc).1.groups = s.groups := by
  have h := translate_groups s c x (s.codeVa x off) acc
  unfold fetch; dsimp only; split
  · rename_i s1 e hw; rw [hw] at h; exact h
  · rename_i s1 r _ hw; rw [hw] at h; exact h

@[simp] theorem fetchCode_groups (s : State) (k off : Nat) : (fetchCode s k off).1.groups = s.groups := by simp [fetchCode]

@[simp] theorem translateWalk_groups (s : State) (x va : Nat) (acc : AccessKind) :
    (translateWalk s x va acc).1.groups = s.groups := by
  unfold translateWalk; split
  · rfl
  · split <;> simp

@[simp] theorem State.noteBlock_groups (s : State) (pa : Nat) (u : RaceUse) : (s.noteBlock pa u).groups = s.groups := by
  unfold State.noteBlock; dsimp only; split <;> rfl

@[simp] theorem State.noteSpan_groups (s : State) (ag : Agent) (dom pa n : Nat) (w : Bool) :
    (s.noteSpan ag dom pa n w).groups = s.groups := foldl_groups _ (fun _ _ => State.noteBlock_groups ..) _ _

@[simp] theorem State.pinBy_groups (s : State) (ag : Agent) (dom pa : Nat) : (s.pinBy ag dom pa).groups = s.groups := by
  unfold State.pinBy; dsimp only; split <;> simp

@[simp] theorem State.refuse_groups (s : State) (ag : Agent) (p : Pin) : (s.refuse ag p).1.groups = s.groups := by
  unfold State.refuse; dsimp only; repeat' split
  all_goals rfl

@[simp] theorem State.meetLine_groups (s : State) (ag : Agent) (w b : Bool) (va pa : Nat) :
    (s.meetLine ag w b va pa).1.groups = s.groups := by
  unfold State.meetLine; split
  · rfl
  · split
    · rfl
    · dsimp only; split
      · rfl
      · split
        · simp
        · split <;> simp

@[simp] theorem meetLines_groups (ag : Agent) (w : Bool) (va pa n m : Nat) :
    ∀ s : State, (meetLines ag w va pa n m s).1.groups = s.groups := by
  induction m with
  | zero => intro s; rfl
  | succ m ih =>
    intro s
    unfold meetLines; dsimp only
    split
    · rename_i s1 hw
      rw [ih, ← State.meetLine_groups s ag w _ _ _, hw]
    · exact State.meetLine_groups ..

@[simp] theorem reach_groups (s : State) (x va n : Nat) (acc : AccessKind) : (reach s x va n acc).1.groups = s.groups := by
  have h := translateWalk_groups s x va acc
  unfold reach; dsimp only
  generalize translateWalk s x va acc = p at h ⊢
  obtain ⟨s1, r⟩ := p
  cases r with
  | ok e =>
    dsimp only at h ⊢
    have h2 := meetLines_groups (ioAgent x) (acc = .store) va (e.phys va) n (ceilDiv (e.phys va % 64 + n) 64) s1
    split
    · rename_i hw; rw [hw] at h2; simpa [h] using h2
    · rename_i hw; rw [hw] at h2; dsimp only at h2 ⊢; split <;> simp [h2, h]
  | _ => exact h

@[simp] theorem readVirt_groups (s : State) (x va n : Nat) : (readVirt s x va n).1.groups = s.groups := by
  have h := reach_groups s x va n .load
  unfold readVirt
  split <;> (rename_i hw; rw [hw] at h; exact h)

@[simp] theorem writeVirt_groups (s : State) (x va n v : Nat) : (writeVirt s x va n v).1.groups = s.groups := by
  have h := reach_groups s x va n .store
  unfold writeVirt
  split <;> (rename_i hw; rw [hw] at h; simpa using h)

@[simp] theorem State.chargeRequest_groups (s : State) (x rec code : Nat) :
    (s.chargeRequest x rec code).groups = s.groups := by
  have h := readVirt_groups s x (rec + 12) 2
  unfold State.chargeRequest
  split
  · rename_i s1 hw; rw [hw] at h
    have h2 := writeVirt_groups s1 x (rec + 12) 2 code
    split
    · rename_i hw2; rw [hw2] at h2; exact h2.trans h
    · rename_i hw2; rw [hw2] at h2; split <;> exact h2.trans h
  · rename_i hw; rw [hw] at h; exact h
  · rename_i hw; rw [hw] at h; exact h

@[simp] theorem State.ringWrite_groups (s : State) (u : Source) (b : Nat) : (s.ringWrite u b).1.groups = s.groups := by
  unfold State.ringWrite; dsimp only; split <;> simp

@[simp] theorem State.enqueueRecord_groups (s : State) (d : Delivery) : (s.enqueueRecord d).groups = s.groups := by
  unfold State.enqueueRecord State.enqueueAt; dsimp only
  split
  · simp
  · split <;> simp

@[simp] theorem State.sendRecord_groups (s : State) (u : Source) (b : Nat) : (s.sendRecord u b).1.groups = s.groups := by
  simp [State.sendRecord]

@[simp] theorem State.report_groups (s : State) (u : Source) (r : Report) : (s.report u r).1.groups = s.groups := by
  simp [State.report]

/-! ### Functions that leave every group's file -/

@[simp] theorem State.fileOf_groups {s t : State} (h : t.groups = s.groups) (j : Nat) : t.fileOf j = s.fileOf j := by
  simp [State.fileOf, State.group?, h]

/-- Changing a group outside its file leaves every file. -/
theorem State.onGroup_fileOf (s : State) (k : Nat) (f : Group → Group) (h : ∀ g, (f g).file = g.file) (j : Nat) :
    (s.onGroup k f).fileOf j = s.fileOf j := by
  simp only [State.fileOf, State.group?, State.onGroup_groups, Tab.find_alter]
  split
  · rename_i hj; subst hj; cases Tab.find s.groups j <;> simp [h]
  · rfl

/-- The same, from a state whose files are known. -/
theorem State.onGroup_fileOf_of {s : State} {k j : Nat} {f : Group → Group} {x : Option File} (h : s.fileOf j = x)
    (hf : ∀ g, (f g).file = g.file) : (s.onGroup k f).fileOf j = x := (s.onGroup_fileOf k f hf j).trans h

theorem Tab.find_map {α β : Type} (t : List (Nat × α)) (f : α → β) (j : Nat) :
    Tab.find (t.map fun x => (x.1, f x.2)) j = (Tab.find t j).map f := by
  induction t with
  | nil => rfl
  | cons x t ih => simp only [List.map_cons, Tab.find]; split <;> simp [ih]

theorem State.mapGroups_fileOf {s t : State} (f : Group → Group) (ht : t.groups = s.groups.map fun x => (x.1, f x.2))
    (h : ∀ g, (f g).file = g.file) (j : Nat) : t.fileOf j = s.fileOf j := by
  simp only [State.fileOf, State.group?, ht, Tab.find_map]
  cases Tab.find s.groups j <;> simp [h]

theorem State.endTurn_fileOf (s : State) (k j : Nat) : (s.endTurn k).fileOf j = s.fileOf j := by
  unfold State.endTurn; dsimp only
  split
  · rfl
  · split
    · exact State.onGroup_fileOf_of rfl fun _ => rfl
    · rfl

theorem State.tbarCheck_fileOf (s : State) (t j : Nat) : (s.tbarCheck t).fileOf j = s.fileOf j := by
  unfold State.tbarCheck
  split
  · rfl
  · split
    · exact State.mapGroups_fileOf (s := s) (Group.wake t _) rfl (fun g => by unfold Group.wake; split <;> rfl) j
    · rfl

theorem State.onTeam_fileOf (s : State) (t : Nat) (f : Team → Team) (j : Nat) : (s.onTeam t f).fileOf j = s.fileOf j := rfl

theorem State.groupExit_fileOf (s : State) (k j : Nat) : (s.groupExit k).fileOf j = s.fileOf j := by
  unfold State.groupExit
  split
  · rfl
  · split
    · rfl
    · rw [State.tbarCheck_fileOf, State.onTeam_fileOf]
      exact State.onGroup_fileOf_of (State.endTurn_fileOf ..) fun _ => rfl

theorem State.exitCheck_fileOf (s : State) (k j : Nat) : (s.exitCheck k).fileOf j = s.fileOf j := by
  unfold State.exitCheck
  split
  · rfl
  · split
    · exact State.groupExit_fileOf ..
    · rfl

theorem State.overtake_fileOf (s : State) (k : Nat) (m : Word) (rs : List Nat) (j : Nat) :
    (s.overtake k m rs).fileOf j = s.fileOf j := rfl

theorem State.afterIssue_fileOf (s : State) (u : Issue) (j : Nat) : (s.afterIssue u).fileOf j = s.fileOf j := by
  unfold State.afterIssue; dsimp only
  split
  · rfl
  · split
    · exact State.exitCheck_fileOf ..
    · split
      · rw [State.exitCheck_fileOf]; rfl
      · split
        · rw [State.endTurn_fileOf, State.exitCheck_fileOf]; rfl
        · rw [State.exitCheck_fileOf]; rfl

theorem Group.setCounter_file (g : Group) (c v : Nat) : (g.setCounter c v).file = g.file := by
  unfold Group.setCounter; split
  · rfl
  · split
    · rfl
    · split <;> rfl

theorem State.complete_fileOf (s : State) (k c op j : Nat) : (s.complete k c op).fileOf j = s.fileOf j := by
  unfold State.complete
  refine State.onGroup_fileOf _ _ _ (fun g => ?_) j
  split
  · rfl
  · exact Group.setCounter_file ..

theorem State.lanesDone_fileOf (s : State) (op : Nat) (m : Word) (j : Nat) : (s.lanesDone op m).fileOf j = s.fileOf j := by
  unfold State.lanesDone
  split
  · rfl
  · dsimp only
    split
    · rw [State.complete_fileOf]; rfl
    · rfl

theorem State.foldl_fileOf {α : Type} (f : State → α → State) (h : ∀ s x j, (f s x).fileOf j = s.fileOf j)
    (l : List α) (s : State) (j : Nat) : (l.foldl f s).fileOf j = s.fileOf j := by
  induction l generalizing s with
  | nil => rfl
  | cons x t ih => rw [List.foldl_cons, ih, h]

theorem State.unbusy_fileOf (s : State) (k op j : Nat) : (s.unbusy k op).fileOf j = s.fileOf j :=
  State.onGroup_fileOf s k (fun g => { g with busy := Tab.del g.busy op }) (fun _ => rfl) j

theorem State.dropLog_fileOf (s : State) (k j : Nat) : (s.dropLog k).fileOf j = s.fileOf j := by
  unfold State.dropLog; dsimp only
  rw [State.foldl_fileOf _ fun _ _ _ => (State.lanesDone_fileOf ..).trans (State.unbusy_fileOf ..)]; rfl

theorem State.withdrawQdeq_fileOf (s : State) (k j : Nat) : (s.withdrawQdeq k).fileOf j = s.fileOf j := by
  unfold State.withdrawQdeq; dsimp only; split <;> rfl

theorem State.cancelGroup_fileOf (s : State) (k j : Nat) : (s.cancelGroup k).fileOf j = s.fileOf j := by
  unfold State.cancelGroup
  split
  · rfl
  · split
    · rfl
    · split
      · rw [State.dropLog_fileOf]
        exact State.onGroup_fileOf_of rfl fun _ => rfl
      · rw [State.groupExit_fileOf, State.dropLog_fileOf, State.withdrawQdeq_fileOf]
        exact State.onGroup_fileOf_of rfl fun _ => rfl

theorem State.dropSaved_fileOf (s : State) (f : Saved → Bool) (j : Nat) : (s.dropSaved f).fileOf j = s.fileOf j := by
  unfold State.dropSaved; dsimp only
  exact (State.foldl_fileOf _ (fun s x j => by rfl) _ _ j).trans rfl

theorem State.markEnded_groups (s : State) (ids : List Nat) : (s.markEnded ids).groups = s.groups :=
  foldl_groups (fun s id => s.onTeam id fun t => { t with ended := true }) (fun _ _ => rfl) ids s

theorem State.endSlot_fileOf (s : State) (grid slot j : Nat) : (s.endSlot grid slot).fileOf j = s.fileOf j := by
  have h1 (ks : List Nat) : (ks.foldl (fun s k => s.cancelGroup k) s).fileOf j = s.fileOf j :=
    State.foldl_fileOf _ (fun s k j => State.cancelGroup_fileOf s k j) ks s j
  have h2 (s1 : State) (h : s1.fileOf j = s.fileOf j) (cs : Tab Cmd) (ids : List Nat) (f : Grid → Grid) :
      (({ s1 with cmds := cs }.markEnded ids).onGrid grid f).fileOf j = s.fileOf j :=
    (State.fileOf_groups (State.markEnded_groups _ _) j).trans h
  unfold State.endSlot; dsimp only
  rw [State.dropSaved_fileOf]
  exact h2 _ (h1 _) _ _ _

theorem State.charge_fileOf (s : State) (k : Nat) (r : Report) (j : Nat) : (s.charge k r).fileOf j = s.fileOf j := by
  unfold State.charge
  split
  · rfl
  · split
    · rfl
    · dsimp only
      rw [State.endSlot_fileOf, State.fileOf_groups (s := s) (by simp)]

@[simp] theorem State.clearSecond_fileOf (s : State) (p j : Nat) : (s.clearSecond p).fileOf j = s.fileOf j := by
  unfold State.clearSecond; split <;> rfl

theorem State.suspend_fileOf (s : State) (k : Nat) (r : Report) (j : Nat) : (s.suspend k r).fileOf j = s.fileOf j := by
  unfold State.suspend; dsimp only
  refine State.onGroup_fileOf_of ?_ fun g => ?_
  · rw [State.clearSecond_fileOf, State.endTurn_fileOf, State.fileOf_groups (s := s) (by simp)]
  · split <;> rfl

/-- An exception of a group that is none of the privileged ones leaves every group's file (R388, R389, R400). -/
theorem State.takeFault_fileOf (s : State) (k : Nat) (r : Report) (h : k < 0x20000) (j : Nat) :
    (s.takeFault k r).fileOf j = s.fileOf j := by
  unfold State.takeFault
  rw [if_neg (by omega)]
  split
  · exact State.suspend_fileOf ..
  · split
    · exact State.charge_fileOf ..
    · exact State.suspend_fileOf ..
  · exact State.fileOf_groups (by simp) j

theorem State.fetchFault_fileOf (s : State) (k off : Nat) (x : Xlat) (h : k < 0x20000) (j : Nat) :
    (s.fetchFault k off x).fileOf j = s.fileOf j := by
  unfold State.fetchFault State.fetchFails; dsimp only
  split
  · rfl
  · rename_i r _
    have h1 : (if r.code = 0x0401 ∧ k < 0x20000 then (s.report (s.sourceOf k) r).1 else s.takeFault k r).fileOf j = s.fileOf j := by
      split
      · exact State.fileOf_groups (by simp) j
      · exact State.takeFault_fileOf _ _ _ h _
    simp only [Bool.and_eq_true, decide_eq_true_eq]
    rw [if_neg (by omega)]
    exact State.onGroup_fileOf_of h1 fun _ => rfl

theorem State.arriveSeq_fileOf (s : State) (k : Nat) (m : Word) (H : Nat) (h : k < 0x20000) (j : Nat) :
    (s.arriveSeq k m H).fileOf j = s.fileOf j := by
  have hg := fetchCode_groups s k H
  have bad (s1 : State) (h1 : s1.groups = s.groups) (r : Report) :
      ((s1.onGroup k fun g => g.setPcs m fun _ => BitVec.ofNat 32 H).takeFault k r).fileOf j = s.fileOf j :=
    (State.takeFault_fileOf _ _ _ h _).trans (State.onGroup_fileOf_of (State.fileOf_groups h1 j) fun _ => rfl)
  unfold State.arriveSeq; dsimp only
  split
  · rename_i hw; rw [hw] at hg
    rw [State.fetchFault_fileOf _ _ _ _ h]
    exact State.onGroup_fileOf_of (State.fileOf_groups hg j) fun _ => rfl
  · rename_i hw; rw [hw] at hg
    split
    · exact bad _ hg _
    · split
      · exact bad _ hg _
      · split
        · exact bad _ hg _
        · exact State.onGroup_fileOf_of (State.fileOf_groups hg j) fun _ => rfl

/-- The advance of lanes leaves every group's file, unless the management core's own group meets a fault (R39, R398). -/
theorem State.advance_fileOf (s : State) (u : Issue) (m : Word)
    (h : u.pc.toNat ≠ u.hdr + 4 * hdrCount u.head ∨ u.grp < 0x20000) (j : Nat) :
    (s.advance u m).fileOf j = s.fileOf j := by
  unfold State.advance
  split
  · rfl
  · split
    · rename_i hp; exact State.arriveSeq_fileOf _ _ _ _ (h.resolve_left (by simpa using hp)) j
    · exact State.onGroup_fileOf_of rfl fun _ => rfl

/-! ### Registers from the file -/

/-- Registers, predicates and guards of two groups with one file agree. -/
theorem Group.file_eq {g g' : Group} (h : g'.file = g.file) :
    (∀ r l, g'.vreg r l = g.vreg r l) ∧ (∀ u, g'.ureg u = g.ureg u) ∧ (∀ p, g'.predMask p = g.predMask p) ∧
      g'.guards = g.guards := by
  simp only [Group.file, File.mk.injEq] at h
  obtain ⟨h1, h2, -, -, -, h3, h4, h5, h6, -⟩ := h
  refine ⟨fun r l => ?_, fun u => ?_, fun p => ?_, h6⟩
  · simp only [Group.vreg, Group.vrow, h1, h2, h3]
  · simp only [Group.ureg, h4]
  · simp only [Group.predMask, h5]

end Sys2Proof.Machine
end

