-- ==== Sys2Proof/Laws/Group.lean ====
section
/-! SUPPORT. Registers and predicates of a group after each of its writers: what was written, and that the rest stays. -/

namespace Sys2Proof.Machine

variable (g : Group)

/-! ### Counting an issue and setting PCs leave the register file alone -/

@[simp] theorem Group.countIssue_vregs : g.countIssue.vregs = g.vregs := rfl
@[simp] theorem Group.countIssue_uregs : g.countIssue.uregs = g.uregs := rfl
@[simp] theorem Group.countIssue_preds : g.countIssue.preds = g.preds := rfl
@[simp] theorem Group.countIssue_guards : g.countIssue.guards = g.guards := rfl
@[simp] theorem Group.countIssue_pcs : g.countIssue.pcs = g.pcs := rfl
@[simp] theorem Group.countIssue_vreg (r l : Nat) : g.countIssue.vreg r l = g.vreg r l := rfl
@[simp] theorem Group.countIssue_ureg (u : Nat) : g.countIssue.ureg u = g.ureg u := rfl
@[simp] theorem Group.countIssue_reg (f l : Nat) : g.countIssue.reg f l = g.reg f l := rfl
@[simp] theorem Group.countIssue_predMask (p : Nat) : g.countIssue.predMask p = g.predMask p := rfl
@[simp] theorem Group.countIssue_pred (p l : Nat) : g.countIssue.pred p l = g.pred p l := rfl
@[simp] theorem Group.countIssue_guardMask (n : Nat) : g.countIssue.guardMask n = g.guardMask n := rfl

theorem Group.countIssue_regN (f l n : Nat) : g.countIssue.regN f l n = g.regN f l n := by
  induction n generalizing f with
  | zero => rfl
  | succ n ih => simp [Group.regN, ih]

@[simp] theorem Group.countIssue_pair (f l : Nat) : g.countIssue.pair f l = g.pair f l := by
  simp [Group.pair, Group.countIssue_regN]

@[simp] theorem Group.setPcs_vregs (m : Word) (f : Nat → Word) : (g.setPcs m f).vregs = g.vregs := rfl
@[simp] theorem Group.setPcs_uregs (m : Word) (f : Nat → Word) : (g.setPcs m f).uregs = g.uregs := rfl
@[simp] theorem Group.setPcs_preds (m : Word) (f : Nat → Word) : (g.setPcs m f).preds = g.preds := rfl
@[simp] theorem Group.setPcs_guards (m : Word) (f : Nat → Word) : (g.setPcs m f).guards = g.guards := rfl

/-! ### Rows -/

theorem Group.setRow_vrow_same (m : Word) (r : Nat) (f : Nat → Word) :
    (g.setRow m r f).vrow r = (List.range 32).map fun l => if m.getLsbD l then f l else g.vreg r l := by
  simp [Group.setRow, Group.vrow]

/-- A written register holds the new word in the lanes of the mask and its old word in the others. -/
theorem Group.setRow_vreg_same (m : Word) (r : Nat) (f : Nat → Word) {l : Nat} (h : l < 32) :
    (g.setRow m r f).vreg r l = if m.getLsbD l then f l else g.vreg r l := by
  rw [Group.vreg, Group.setRow_vrow_same]
  simp [h]

/-- Another register keeps its words. -/
theorem Group.setRow_vreg_other (m : Word) (r : Nat) (f : Nat → Word) {q : Nat} (h : q ≠ r) (l : Nat) :
    (g.setRow m r f).vreg q l = g.vreg q l := by
  simp [Group.setRow, Group.vreg, Group.vrow, Tab.find_put, h]

@[simp] theorem Group.setRow_uregs (m : Word) (r : Nat) (f : Nat → Word) : (g.setRow m r f).uregs = g.uregs := rfl
@[simp] theorem Group.setRow_preds (m : Word) (r : Nat) (f : Nat → Word) : (g.setRow m r f).preds = g.preds := rfl
@[simp] theorem Group.setRow_guards (m : Word) (r : Nat) (f : Nat → Word) : (g.setRow m r f).guards = g.guards := rfl
@[simp] theorem Group.setRow_pcs (m : Word) (r : Nat) (f : Nat → Word) : (g.setRow m r f).pcs = g.pcs := rfl

/-- The low word of a written pair. -/
theorem Group.setPair_vreg_low (m : Word) (r : Nat) (f : Nat → DWord) {l : Nat} (h : l < 32) :
    (g.setPair m r f).vreg r l = if m.getLsbD l then (f l).extractLsb' 0 32 else g.vreg r l := by
  rw [Group.setPair, Group.setRow_vreg_other _ _ _ _ (by omega), Group.setRow_vreg_same _ _ _ _ h]

/-- The high word of a written pair. -/
theorem Group.setPair_vreg_high (m : Word) (r : Nat) (f : Nat → DWord) {l : Nat} (h : l < 32) :
    (g.setPair m r f).vreg (r + 1) l = if m.getLsbD l then (f l).extractLsb' 32 32 else g.vreg (r + 1) l := by
  rw [Group.setPair, Group.setRow_vreg_same _ _ _ _ h, Group.setRow_vreg_other _ _ _ _ (by omega)]

theorem Group.setPair_vreg_other (m : Word) (r : Nat) (f : Nat → DWord) {q : Nat} (h : q ≠ r) (h' : q ≠ r + 1) (l : Nat) :
    (g.setPair m r f).vreg q l = g.vreg q l := by
  rw [Group.setPair, Group.setRow_vreg_other _ _ _ _ h', Group.setRow_vreg_other _ _ _ _ h]

@[simp] theorem Group.setPair_uregs (m : Word) (r : Nat) (f : Nat → DWord) : (g.setPair m r f).uregs = g.uregs := rfl
@[simp] theorem Group.setPair_preds (m : Word) (r : Nat) (f : Nat → DWord) : (g.setPair m r f).preds = g.preds := rfl
@[simp] theorem Group.setPair_guards (m : Word) (r : Nat) (f : Nat → DWord) : (g.setPair m r f).guards = g.guards := rfl
@[simp] theorem Group.setPair_pcs (m : Word) (r : Nat) (f : Nat → DWord) : (g.setPair m r f).pcs = g.pcs := rfl

/-! ### Uniform registers -/

theorem Group.setU_ureg (u v : Nat) (w : Word) : (g.setU u w).ureg v = if v = u then w else g.ureg v := by
  simp only [Group.setU, Group.ureg, Tab.get_put]

@[simp] theorem Group.setU_vregs (u : Nat) (w : Word) : (g.setU u w).vregs = g.vregs := rfl
@[simp] theorem Group.setU_preds (u : Nat) (w : Word) : (g.setU u w).preds = g.preds := rfl
@[simp] theorem Group.setU_guards (u : Nat) (w : Word) : (g.setU u w).guards = g.guards := rfl
@[simp] theorem Group.setU_pcs (u : Nat) (w : Word) : (g.setU u w).pcs = g.pcs := rfl

/-! ### Predicates -/

theorem Group.setPred_predMask (p q : Nat) (m v : Word) :
    (g.setPred p m v).predMask q = if q = p then (g.predMask p &&& ~~~ m) ||| (v &&& m) else g.predMask q := by
  simp only [Group.setPred, Group.predMask, Tab.get_put]

@[simp] theorem Group.setPred_vregs (p : Nat) (m v : Word) : (g.setPred p m v).vregs = g.vregs := rfl
@[simp] theorem Group.setPred_uregs (p : Nat) (m v : Word) : (g.setPred p m v).uregs = g.uregs := rfl
@[simp] theorem Group.setPred_guards (p : Nat) (m v : Word) : (g.setPred p m v).guards = g.guards := rfl

theorem Group.setRel_predMask_other (now lat p q : Nat) (m : Word) (rel : Nat → Bool) (h : q ≠ p) :
    (g.setRel now lat p m rel).predMask q = g.predMask q := by
  unfold Group.setRel
  by_cases hm : m = 0
  · simp [hm]
  · have := g.setPred_predMask p q m (maskOf ((lanesOf m).filter rel))
    simp only [hm, if_false, h] at *
    exact this

@[simp] theorem Group.setRel_vregs (now lat p : Nat) (m : Word) (rel : Nat → Bool) :
    (g.setRel now lat p m rel).vregs = g.vregs := by
  unfold Group.setRel; split <;> rfl
@[simp] theorem Group.setRel_uregs (now lat p : Nat) (m : Word) (rel : Nat → Bool) :
    (g.setRel now lat p m rel).uregs = g.uregs := by
  unfold Group.setRel; split <;> rfl
@[simp] theorem Group.setRel_guards (now lat p : Nat) (m : Word) (rel : Nat → Bool) :
    (g.setRel now lat p m rel).guards = g.guards := by
  unfold Group.setRel; split <;> rfl

/-! ### Lane masks -/

theorem getLsbD_pow (k l : Nat) : (BitVec.ofNat 32 (2 ^ k)).getLsbD l = (decide (l < 32) && decide (l = k)) := by
  simp only [BitVec.getLsbD_ofNat, Nat.testBit_two_pow]
  by_cases h : l = k
  · subst h; simp
  · simp [h, Ne.symm h]

/-- A lane is in the mask of a list when the list names it. -/
theorem getLsbD_maskOf (ls : List Nat) (l : Nat) : (maskOf ls).getLsbD l = (decide (l < 32) && decide (l ∈ ls)) := by
  suffices H : ∀ (ls : List Nat) (m : Word),
      (ls.foldl (fun m l => m ||| BitVec.ofNat 32 (2 ^ l)) m).getLsbD l = (m.getLsbD l || (decide (l < 32) && decide (l ∈ ls))) by
    simpa [maskOf] using H ls 0
  intro ls
  induction ls with
  | nil => simp
  | cons x t ih =>
    intro m
    rw [List.foldl_cons, ih, BitVec.getLsbD_or, getLsbD_pow]
    cases m.getLsbD l <;> cases decide (l < 32) <;> by_cases h1 : l = x <;> simp [h1]

theorem mem_lanesOf (m : Word) (l : Nat) : l ∈ lanesOf m ↔ l < 32 ∧ m.getLsbD l = true := by
  simp [lanesOf]

/-- A predicate written by a relation of the lanes: the relation in the lanes of the mask, the old value in the others. -/
theorem Group.setRel_pred_same (now lat p : Nat) (m : Word) (rel : Nat → Bool) (l : Nat) (hl : l < 32) :
    (g.setRel now lat p m rel).pred p l = if m.getLsbD l then rel l else g.pred p l := by
  unfold Group.setRel
  by_cases hm : m = 0
  · simp [hm]
  · have h := g.setPred_predMask p p m (maskOf ((lanesOf m).filter rel))
    simp only [hm, if_false, Group.pred]
    simp only [if_pos] at h
    have h2 : Group.predMask
        { g.setPred p m (maskOf ((lanesOf m).filter rel)) with
          predBusy := Tab.put (g.setPred p m (maskOf ((lanesOf m).filter rel))).predBusy p (now + lat) } p =
        (g.setPred p m (maskOf ((lanesOf m).filter rel))).predMask p := rfl
    rw [h2, h, BitVec.getLsbD_or, BitVec.getLsbD_and, BitVec.getLsbD_and, getLsbD_maskOf]
    rw [BitVec.getLsbD_not]
    cases hb : m.getLsbD l <;>
      simp only [hl, hb, List.mem_filter, mem_lanesOf, decide_true, Bool.true_and, Bool.not_false, Bool.not_true,
        Bool.and_true, Bool.and_false, Bool.or_false, Bool.false_or, true_and, and_true, Bool.false_eq_true,
        if_true, if_false, Bool.decide_eq_true]

/-- A lane that stands at a PC. -/
theorem Group.getLsbD_lanesAt (pc : Word) (l : Nat) :
    (g.lanesAt pc).getLsbD l = (decide (l < 32) && decide (g.pcs[l]? = some pc)) := by
  rw [Group.lanesAt, getLsbD_maskOf]
  congr 1
  simp only [List.mem_filter, List.mem_range, decide_eq_true_eq, decide_eq_decide, and_iff_right_iff_imp]
  intro h
  exact (List.getElem?_eq_some_iff.1 h).1

/-- A mask that is not empty has a lane. -/
theorem exists_lane {m : Word} (h : m ≠ 0) : ∃ l, l < 32 ∧ m.getLsbD l = true := by
  by_contra hc
  refine h (BitVec.eq_of_getLsbD_eq fun i hi => ?_)
  cases hb : m.getLsbD i with
  | false => simp
  | true => exact absurd ⟨i, hi, hb⟩ hc

/-- Every lane of a mask whose lanes stand at a PC stands there. -/
theorem Group.standing {m pc : Word} (h : m &&& ~~~ (g.lanesAt pc) = 0) {l : Nat} (hl : m.getLsbD l = true) :
    g.pcs[l]? = some pc := by
  have h1 := congrArg (fun x : Word => x.getLsbD l) h
  have h32 : l < 32 := BitVec.lt_of_getLsbD hl
  have h0 : (0 : Word).getLsbD l = false := by simp
  simp only [BitVec.getLsbD_and, BitVec.getLsbD_not, hl, Group.getLsbD_lanesAt, h32, decide_true, Bool.true_and, h0] at h1
  simpa using h1

/-- PCs after `setPcs`. -/
theorem Group.setPcs_pcs (m : Word) (f : Nat → Word) {l : Nat} (hl : l < g.pcs.length) :
    (g.setPcs m f).pcs[l]? = if m.getLsbD l then some (f l) else g.pcs[l]? := by
  simp only [Group.setPcs, List.getElem?_map, List.getElem?_range hl, Option.map_some]
  split
  · rfl
  · rw [List.getElem?_eq_getElem hl]; rfl

theorem Group.setPcs_length (m : Word) (f : Nat → Word) : (g.setPcs m f).pcs.length = g.pcs.length := by
  simp [Group.setPcs]

/-- A group with a lane at a PC other than 0xFFFF_FFFF has not exited. -/
theorem Group.not_allExited {l : Nat} {w : Word} (h : g.pcs[l]? = some w) (hw : w ≠ exitedPc) : g.allExited = false := by
  rw [← Bool.not_eq_true, Group.allExited, List.all_eq_true]
  intro hc
  exact hw (of_decide_eq_true (hc w (List.mem_of_getElem? h)))

/-- The word after a word at a multiple of 4 is not 0xFFFF_FFFF. -/
theorem next_ne_exited {pc : Word} (h : pc.toNat % 4 = 0) : pc + 4 ≠ exitedPc := by
  intro hc
  have h1 := congrArg BitVec.toNat hc
  have h2 : (4 : Word).toNat = 4 := rfl
  have h3 : exitedPc.toNat = 4294967295 := rfl
  rw [BitVec.toNat_add, h2, h3] at h1
  omega

end Sys2Proof.Machine
end

