-- ==== Sys2Proof/Laws/Issue.lean ====
section
/-! SUPPORT. The issue of a word: what `issue` answers when the word issues, and what each shape of lane instruction then
leaves in the issuing group. -/

namespace Sys2Proof.Machine

/-- The state in which the body of a word that issues begins: what it overtakes is marked, and it counts toward lookaheads
(R158, R160). -/
def State.begun (s : State) (i : Instr) (g : Group) : State :=
  (s.overtaken i s.cur (s.admitted g)).setGroup s.cur.grp g.countIssue

/-- When the word issues, `issue` runs its body once and finishes as the body says. -/
theorem issue_of {i : Instr} {s : State} {g : Group} (h : Issues i s g) (body : State → Group → Word → Eff) :
    issue i s body =
      match body (s.begun i g) g.countIssue (s.admitted g) with
      | .ok s2 => .next (s2.finish s.cur)
      | .jump s2 => .next (s2.afterIssue s.cur)
      | .trap code mask addr i0 i1 => .next (s.takeFault s.cur.grp ⟨code, 0, s.cur.pc.toNat, mask, addr, i0, i1⟩)
      | .hold => .next s.holdWord
      | .stall f => .next (f s).holdWord := by
  obtain ⟨h1, h2, h3, h4, h5, h6⟩ := h
  unfold issue
  simp only [h1, h2, h3, h4, h5, h6, decide_false, ne_eq, not_true_eq_false, Bool.or_false, Bool.false_eq_true,
    if_false]
  rfl

theorem State.setGroup_group (s : State) (k : Nat) (g : Group) (j : Nat) :
    (s.setGroup k g).group? j = if j = k then some g else s.group? j := by
  simp only [State.group?, State.setGroup_groups, Tab.find_put]

theorem State.setGroup_fileOf (s : State) (k : Nat) (g : Group) (j : Nat) :
    (s.setGroup k g).fileOf j = if j = k then some g.file else s.fileOf j := by
  simp only [State.fileOf, State.setGroup_group]; split <;> rfl

/-- Finishing a word leaves every group's file (R199, R200). -/
theorem State.finish_fileOf (s : State) (u : Issue)
    (h : u.pc.toNat ≠ u.hdr + 4 * hdrCount u.head ∨ u.grp < 0x20000) (j : Nat) :
    (s.finish u).fileOf j = s.fileOf j := by
  unfold State.finish
  rw [State.afterIssue_fileOf, State.advance_fileOf _ _ _ h]

theorem State.overtaken_groups (s : State) (i : Instr) (u : Issue) (m : Word) : (s.overtaken i u m).groups = s.groups := by
  unfold State.overtaken; dsimp only; split <;> rfl

@[simp] theorem State.overtaken_group (s : State) (i : Instr) (u : Issue) (m : Word) (j : Nat) :
    (s.overtaken i u m).group? j = s.group? j := by simp only [State.group?, State.overtaken_groups]

@[simp] theorem State.overtaken_fileOf (s : State) (i : Instr) (u : Issue) (m : Word) (j : Nat) :
    (s.overtaken i u m).fileOf j = s.fileOf j := by simp only [State.fileOf, State.overtaken_group]

@[simp] theorem State.overtaken_cur (s : State) (i : Instr) (u : Issue) (m : Word) : (s.overtaken i u m).cur = s.cur := by
  unfold State.overtaken; dsimp only; split <;> rfl

@[simp] theorem State.overtaken_cycles (s : State) (i : Instr) (u : Issue) (m : Word) (d : Nat) :
    (s.overtaken i u m).cycles d = s.cycles d := by
  unfold State.overtaken; dsimp only; split <;> rfl

@[simp] theorem State.begun_cur (s : State) (i : Instr) (g : Group) : (s.begun i g).cur = s.cur := by simp [State.begun]

@[simp] theorem State.begun_cycles (s : State) (i : Instr) (g : Group) (d : Nat) : (s.begun i g).cycles d = s.cycles d :=
  State.overtaken_cycles ..

@[simp] theorem State.begun_group (s : State) (i : Instr) (g : Group) (j : Nat) :
    (s.begun i g).group? j = if j = s.cur.grp then some g.countIssue else s.group? j := by
  rw [State.begun, State.setGroup_group, State.overtaken_group]

@[simp] theorem State.begun_fileOf (s : State) (i : Instr) (g : Group) (j : Nat) :
    (s.begun i g).fileOf j = if j = s.cur.grp then some g.file else s.fileOf j := by
  rw [State.begun, State.setGroup_fileOf, State.overtaken_fileOf]; rfl

/-- A state of known file holds a group with that file. -/
theorem State.group_of_fileOf {t : State} {k : Nat} {x : File} (h : t.fileOf k = some x) :
    ∃ g', t.group? k = some g' ∧ g'.file = x := by
  simpa [State.fileOf] using h

/-- A word whose body changes the issuing group alone, and advances: the next state holds the group's new file, and every
other group's file is as before. -/
theorem issue_withGroup {i : Instr} {s : State} {g g2 : Group} (h : Issues i s g) (hp : s.plainAdvance)
    {body : State → Group → Word → Eff}
    (hb : body (s.begun i g) g.countIssue (s.admitted g) = .ok ((s.begun i g).setGroup s.cur.grp g2)) :
    ∃ t g', issue i s body = .next t ∧ t.group? s.cur.grp = some g' ∧ g'.file = g2.file ∧
      ∀ j, j ≠ s.cur.grp → t.fileOf j = s.fileOf j := by
  rw [issue_of h, hb]
  dsimp only
  have hf : ∀ j, (((s.begun i g).setGroup s.cur.grp g2).finish s.cur).fileOf j =
      if j = s.cur.grp then some g2.file else s.fileOf j := by
    intro j
    rw [State.finish_fileOf _ _ hp, State.setGroup_fileOf, State.begun_fileOf]
    split <;> rfl
  obtain ⟨g', h1, h2⟩ := State.group_of_fileOf ((hf s.cur.grp).trans (if_pos rfl))
  exact ⟨_, g', rfl, h1, h2, fun j hj => (hf j).trans (if_neg hj)⟩

/-- A word whose body changes nothing, and advances. -/
theorem issue_same {i : Instr} {s : State} {g : Group} (h : Issues i s g) (hp : s.plainAdvance)
    {body : State → Group → Word → Eff} (hb : body (s.begun i g) g.countIssue (s.admitted g) = .ok (s.begun i g)) :
    ∃ t g', issue i s body = .next t ∧ t.group? s.cur.grp = some g' ∧ g'.file = g.file ∧
      ∀ j, j ≠ s.cur.grp → t.fileOf j = s.fileOf j := by
  rw [issue_of h, hb]
  dsimp only
  have hf : ∀ j, ((s.begun i g).finish s.cur).fileOf j = if j = s.cur.grp then some g.file else s.fileOf j := by
    intro j
    rw [State.finish_fileOf _ _ hp, State.begun_fileOf]
  obtain ⟨g', h1, h2⟩ := State.group_of_fileOf ((hf s.cur.grp).trans (if_pos rfl))
  exact ⟨_, g', rfl, h1, h2, fun j hj => (hf j).trans (if_neg hj)⟩

/-! ### Shapes -/

/-- A lane instruction with a vector destination (R172). -/
theorem laneOp_of {i : Instr} {d : BitVec 7} {s : State} {g : Group} (f : Group → Nat → Word) (h : Issues i s g)
    (hp : s.plainAdvance) (hf : ∀ l, f g.countIssue l = f g l) :
    ∃ t g', laneOp i d s f = .next t ∧ t.group? s.cur.grp = some g' ∧
      g'.file = (g.setRow (s.admitted g) d.toNat (f g)).file ∧ ∀ j, j ≠ s.cur.grp → t.fileOf j = s.fileOf j := by
  have hb : f g.countIssue = f g := funext hf
  obtain ⟨t, g', h1, h2, h3, h4⟩ :=
    issue_withGroup (g2 := g.countIssue.setRow (s.admitted g) d.toNat (f g)) (body := fun s g m =>
      s.withGroup (g.setRow m d.toNat (f g))) h hp (by simp only [State.withGroup, State.begun_cur, hb])
  exact ⟨t, g', h1, h2, h3, h4⟩

/-- A lane instruction with a vector pair as destination (R153, R172). -/
theorem pairOp_of {i : Instr} {d : BitVec 7} {s : State} {g : Group} (f : Group → Nat → DWord) (h : Issues i s g)
    (hp : s.plainAdvance) (hf : ∀ l, f g.countIssue l = f g l) :
    ∃ t g', pairOp i d s f = .next t ∧ t.group? s.cur.grp = some g' ∧
      g'.file = (g.setPair (s.admitted g) d.toNat (f g)).file ∧ ∀ j, j ≠ s.cur.grp → t.fileOf j = s.fileOf j := by
  have hb : f g.countIssue = f g := funext hf
  obtain ⟨t, g', h1, h2, h3, h4⟩ :=
    issue_withGroup (g2 := g.countIssue.setPair (s.admitted g) d.toNat (f g)) (body := fun s g m =>
      s.withGroup (g.setPair m d.toNat (f g))) h hp (by simp only [State.withGroup, State.begun_cur, hb])
  exact ⟨t, g', h1, h2, h3, h4⟩

/-- A lane instruction with a predicate destination (R192). -/
theorem predOp_of {i : Instr} {d : BitVec 7} {lat : Nat} {s : State} {g : Group} (rel : Group → Nat → Bool)
    (h : Issues i s g) (hp : s.plainAdvance) (hf : ∀ l, rel g.countIssue l = rel g l) :
    ∃ t g', predOp i d lat s rel = .next t ∧ t.group? s.cur.grp = some g' ∧
      g'.file = (g.setRel (s.cycles (dieOfCore (keyCore s.cur.grp))) lat d.toNat (s.admitted g) (rel g)).file ∧
      ∀ j, j ≠ s.cur.grp → t.fileOf j = s.fileOf j := by
  have hb : rel g.countIssue = rel g := funext hf
  obtain ⟨t, g', h1, h2, h3, h4⟩ :=
    issue_withGroup (g2 := g.countIssue.setRel (s.cycles (dieOfCore (keyCore s.cur.grp))) lat d.toNat (s.admitted g) (rel g))
      (body := fun s g m =>
        s.withGroup (g.setRel (s.cycles (dieOfCore (keyCore s.cur.grp))) lat d.toNat m (rel g))) h hp (by simp only [State.withGroup, State.begun_cur, State.begun_cycles, hb])
  refine ⟨t, g', h1, h2, h3.trans ?_, h4⟩
  unfold Group.setRel
  split <;> rfl

/-- A uniform instruction (R183). -/
theorem uniformOp_of {i : Instr} {s : State} {g : Group} (f : Group → Nat → Group) (h : Issues i s g)
    (hp : s.plainAdvance) :
    ∃ t g', uniformOp i s f = .next t ∧ t.group? s.cur.grp = some g' ∧
      g'.file = (if (s.admitted g).getLsbD (lowestLane s.cur.active) then f g.countIssue (lowestLane s.cur.active) else g).file ∧
      ∀ j, j ≠ s.cur.grp → t.fileOf j = s.fileOf j := by
  unfold uniformOp
  cases hl : (s.admitted g).getLsbD (lowestLane s.cur.active) with
  | true =>
    simp only [if_true]
    exact issue_withGroup h hp (by simp only [State.withGroup, State.begun_cur, hl, if_true])
  | false =>
    simp only [Bool.false_eq_true, if_false]
    exact issue_same h hp (by simp only [State.begun_cur, hl, Bool.false_eq_true, if_false])

/-- An instruction that combines the participating lanes (R196). -/
theorem combine_of {i : Instr} {d : BitVec 7} {s : State} {g : Group} (f : Group → Word → Nat → Word) (h : Issues i s g)
    (hp : s.plainAdvance) (hf : ∀ m l, f g.countIssue m l = f g m l) (hm : s.admitted g ≠ 0) :
    ∃ t g', combine i d s f = .next t ∧ t.group? s.cur.grp = some g' ∧
      g'.file = (g.setRow (s.admitted g) d.toNat (f g (s.admitted g))).file ∧
      ∀ j, j ≠ s.cur.grp → t.fileOf j = s.fileOf j := by
  have hb : f g.countIssue = f g := funext fun m => funext (hf m)
  obtain ⟨t, g', h1, h2, h3, h4⟩ :=
    issue_withGroup (g2 := g.countIssue.setRow (s.admitted g) d.toNat (f g (s.admitted g))) (body := fun s g m =>
      if m = 0 then .ok s else s.withGroup (g.setRow m d.toNat (f g m))) h hp (by simp only [State.withGroup, State.begun_cur, hm, if_false, hb])
  exact ⟨t, g', h1, h2, h3, h4⟩

/-! ### The advance inside a clause -/

/-- Before the last word of a clause an issue that exits no group moves PCs and counts the turn, and does nothing else. -/
theorem State.advance_mid (s : State) (u : Issue) (m : Word) (h : u.pc.toNat ≠ u.hdr + 4 * hdrCount u.head) (hm : m ≠ 0) :
    s.advance u m = s.onGroup u.grp fun g => g.setPcs m fun _ => u.pc + 4 := by
  unfold State.advance
  rw [if_neg hm, if_neg h]

/-- The state after a word inside its clause: the active lanes at the next word, and an issue of the primary port counted
into the turn (R39, R44). -/
def State.moved (s : State) (u : Issue) : State :=
  let s1 := s.onGroup u.grp fun g => g.setPcs u.active fun _ => u.pc + 4
  if 0x20000 ≤ u.grp || u.second then s1
  else s1.onPart (partOf u.grp) fun p => { p with turn := p.turn.map fun t => { t with issues := t.issues + 1 } }

theorem State.onGroup_group (s : State) (k : Nat) (f : Group → Group) (j : Nat) :
    (s.onGroup k f).group? j = if j = k then (s.group? j).map f else s.group? j := by
  simp only [State.group?, State.onGroup_groups, Tab.find_alter]
  split
  · rename_i h; subst h; cases Tab.find s.groups j <;> rfl
  · rfl

@[simp] theorem State.moved_group (s : State) (u : Issue) (j : Nat) :
    (s.moved u).group? j = if j = u.grp then (s.group? j).map fun g => g.setPcs u.active fun _ => u.pc + 4 else s.group? j := by
  unfold State.moved; dsimp only; split <;> exact State.onGroup_group ..

/-- Before the last word of a clause, a group that goes on advances and does nothing else (R39, R44, R199). -/
theorem State.finish_inClause {s2 : State} {u : Issue} {g2 : Group} (h4 : u.pc.toNat % 4 = 0)
    (hm : u.pc.toNat ≠ u.hdr + 4 * hdrCount u.head) (ha : u.active ≠ 0) (hg : s2.group? u.grp = some g2)
    (hs : u.active &&& ~~~ (g2.lanesAt u.pc) = 0) (he : g2.exited = false) (hb : g2.block = .none)
    (hz : g2.suspension = none) : s2.finish u = s2.moved u := by
  unfold State.finish
  rw [State.advance_mid _ _ _ hm ha]
  obtain ⟨l, -, hl⟩ := exists_lane ha
  have hpc := g2.standing hs hl
  have hlen : l < g2.pcs.length := (List.getElem?_eq_some_iff.1 hpc).1
  have hne : (g2.setPcs u.active fun _ => u.pc + 4).allExited = false :=
    Group.not_allExited _ (l := l) (by rw [Group.setPcs_pcs _ _ _ hlen, if_pos hl]) (next_ne_exited h4)
  have hgm : (s2.onGroup u.grp fun g => g.setPcs u.active fun _ => u.pc + 4).group? u.grp =
      some (g2.setPcs u.active fun _ => u.pc + 4) := by
    rw [State.onGroup_group, if_pos rfl, hg]; rfl
  have hec : ∀ s : State, s.group? u.grp = some (g2.setPcs u.active fun _ => u.pc + 4) → s.exitCheck u.grp = s := by
    intro s h
    unfold State.exitCheck
    simp only [h, hne, Bool.false_and, Bool.false_eq_true, if_false]
  unfold State.afterIssue State.moved
  dsimp only
  by_cases hk : 0x20000 ≤ u.grp
  · simp only [hk, if_true, decide_true, Bool.true_or]
  · simp only [hk, if_false, decide_false, Bool.false_or]
    by_cases h2 : u.second = true
    · simp only [h2, if_true]
      exact hec _ hgm
    · have hgp : ((s2.onGroup u.grp fun g => g.setPcs u.active fun _ => u.pc + 4).onPart (partOf u.grp) fun p =>
          { p with turn := p.turn.map fun t => { t with issues := t.issues + 1 } }).group? u.grp =
          some (g2.setPcs u.active fun _ => u.pc + 4) := hgm
      have h5 : (g2.setPcs u.active fun _ => u.pc + 4).exited = false := he
      have h6 : (g2.setPcs u.active fun _ => u.pc + 4).block = .none := hb
      have h7 : (g2.setPcs u.active fun _ => u.pc + 4).suspension = none := hz
      rw [if_neg h2, if_neg h2, hec _ hgp, hgp]
      dsimp only
      rw [if_neg]
      simp only [h5, h6, h7, hm, decide_false, Option.isSome_none, Bool.or_false, Bool.and_false, ne_eq, not_true_eq_false,
        Bool.false_eq_true, not_false_eq_true]

/-- A word inside its clause whose body leaves its group running completes in the state that its body gives, moved on. -/
theorem issue_inClause {i : Instr} {s s2 : State} {g g2 : Group} (h : Issues i s g) (hc : s.inClause)
    {body : State → Group → Word → Eff} (hb : body (s.begun i g) g.countIssue (s.admitted g) = .ok s2)
    (hg : s2.group? s.cur.grp = some g2) (hp : g2.pcs = g.pcs) (he : g2.exited = false) (hbl : g2.block = .none)
    (hz : g2.suspension = none) : issue i s body = .next (s2.moved s.cur) := by
  rw [issue_of h, hb]
  dsimp only
  rw [State.finish_inClause hc.1 hc.2 h.active hg ?_ he hbl hz]
  have := h.standing
  simpa only [Group.lanesAt, hp] using this

/-- A group that can issue has not exited, is not blocked and is not suspended. -/
theorem Group.running {g : Group} {pc : Word} (h : g.stopped pc = false) :
    g.exited = false ∧ g.block = .none ∧ g.suspension = none := by
  simp only [Group.stopped, Bool.or_eq_false_iff, decide_eq_false_iff_not, ne_eq, not_not] at h
  exact ⟨h.1.1.1, h.1.2, by simpa using h.1.1.2⟩

end Sys2Proof.Machine
end

