-- ==== Sys2Proof/Laws/Lane.lean ====
section
/-! SUPPORT. From the shape of a lane instruction's meaning to the claim shapes of Safety. -/

namespace Sys2Proof.Machine

/-- Groups of one file differ in nothing that `OnlyWrites` compares. -/
theorem OnlyWrites.of_file {g g1 g' : Group} {vs us ps : List Nat} (h : g'.file = g1.file) (ho : OnlyWrites g g1 vs us ps) :
    OnlyWrites g g' vs us ps := by
  obtain ⟨h1, h2, h3, h4⟩ := Group.file_eq h
  simp only [Group.file, File.mk.injEq] at h
  obtain ⟨-, -, -, -, -, -, -, -, -, h5, -, h6, h7, h8⟩ := h
  exact ⟨fun r hr l => (h1 r l).trans (ho.vregs r hr l), fun u hu => (h2 u).trans (ho.uregs u hu),
    fun p hp => (h3 p).trans (ho.preds p hp), h4.trans ho.guards, h5.trans ho.pri, h6.trans ho.latch, h7.trans ho.qctx,
    h8.trans ho.tag⟩

theorem OnlyWrites.setRow (g : Group) (m : Word) (d : Nat) (f : Nat → Word) : OnlyWrites g (g.setRow m d f) [d] [] [] :=
  ⟨fun r hr l => g.setRow_vreg_other m d f (by simpa using hr) l, fun _ _ => rfl, fun _ _ => rfl, rfl, rfl, rfl, rfl, rfl⟩

theorem OnlyWrites.setPair (g : Group) (m : Word) (d : Nat) (f : Nat → DWord) :
    OnlyWrites g (g.setPair m d f) [d, d + 1] [] [] :=
  ⟨fun r hr l => by
      simp only [List.mem_cons, List.not_mem_nil, or_false, not_or] at hr
      exact g.setPair_vreg_other m d f hr.1 hr.2 l,
    fun _ _ => rfl, fun _ _ => rfl, rfl, rfl, rfl, rfl, rfl⟩

theorem OnlyWrites.setRel (g : Group) (now lat p : Nat) (m : Word) (rel : Nat → Bool) :
    OnlyWrites g (g.setRel now lat p m rel) [] [] [p] := by
  refine ⟨fun r _ l => ?_, fun u _ => ?_, fun q hq => ?_, ?_, ?_, ?_, ?_, ?_⟩
  · unfold Group.setRel; split <;> rfl
  · unfold Group.setRel; split <;> rfl
  · exact g.setRel_predMask_other now lat p q m rel (by simpa using hq)
  all_goals unfold Group.setRel; split <;> rfl

theorem OnlyWrites.setU (g : Group) (u : Nat) (w : Word) : OnlyWrites g (g.setU u w) [] [u] [] :=
  ⟨fun _ _ _ => rfl, fun v hv => by rw [Group.setU_ureg, if_neg (by simpa using hv)], fun _ _ => rfl, rfl, rfl, rfl, rfl, rfl⟩

theorem OnlyWrites.refl (g : Group) (vs us ps : List Nat) : OnlyWrites g g vs us ps :=
  ⟨fun _ _ _ => rfl, fun _ _ => rfl, fun _ _ => rfl, rfl, rfl, rfl, rfl, rfl⟩

/-- A meaning of the shape `laneOp` writes what its function gives. -/
theorem LaneWrites.of {i : Instr} {d : BitVec 7} {f : Group → Nat → Word} {val : State → Group → Nat → Word}
    (he : ∀ s, exec i s = laneOp i d s f) (hf : ∀ g l, f (Group.countIssue g) l = f g l)
    (hv : ∀ s g l, Issues i s g → l < 32 → val s g l = f g l) : LaneWrites i d.toNat val := by
  intro s g h hp
  obtain ⟨t, g', h1, h2, h3, h4⟩ := laneOp_of f h hp (hf g)
  refine ⟨t, g', (he s).trans h1, h2, ⟨fun l hl => ?_, (OnlyWrites.setRow ..).of_file h3⟩, h4⟩
  rw [(Group.file_eq h3).1, Group.setRow_vreg_same _ _ _ _ hl, hv s g l h hl]

/-- A meaning of the shape `pairOp` writes what its function gives. -/
theorem PairWrites.of {i : Instr} {d : BitVec 7} {f val : Group → Nat → DWord}
    (he : ∀ s, exec i s = pairOp i d s f) (hf : ∀ g l, f (Group.countIssue g) l = f g l)
    (hv : ∀ g l, val g l = f g l) : PairWrites i d.toNat val := by
  intro s g h hp
  obtain ⟨t, g', h1, h2, h3, h4⟩ := pairOp_of f h hp (hf g)
  refine ⟨t, g', (he s).trans h1, h2, ⟨fun l hl => ⟨?_, ?_⟩, (OnlyWrites.setPair ..).of_file h3⟩, h4⟩
  · rw [(Group.file_eq h3).1, Group.setPair_vreg_low _ _ _ _ hl, hv]
  · rw [(Group.file_eq h3).1, Group.setPair_vreg_high _ _ _ _ hl, hv]

theorem Group.pred_of_predMask {g g' : Group} {p : Nat} (h : g'.predMask p = g.predMask p) (l : Nat) :
    g'.pred p l = g.pred p l := by
  simp only [Group.pred, h]

/-- A meaning of the shape `predOp` writes what its relation gives. -/
theorem PredWrites.of {i : Instr} {d : BitVec 7} {lat : Nat} {f : Group → Nat → Bool} {rel : State → Group → Nat → Bool}
    (he : ∀ s, exec i s = predOp i d lat s f) (hf : ∀ g l, f (Group.countIssue g) l = f g l)
    (hv : ∀ s g l, l < 32 → rel s g l = f g l) : PredWrites i d.toNat rel := by
  intro s g h hp
  obtain ⟨t, g', h1, h2, h3, h4⟩ := predOp_of (lat := lat) (d := d) f h hp (hf g)
  refine ⟨t, g', (he s).trans h1, h2, ⟨fun l hl => ?_, (OnlyWrites.setRel ..).of_file h3⟩, h4⟩
  rw [Group.pred_of_predMask ((Group.file_eq h3).2.2.1 _), Group.setRel_pred_same _ _ _ _ _ _ _ hl, hv s g l hl]

/-- A uniform instruction that writes one register writes what its function gives. -/
theorem UniformWrites.of {i : Instr} {u : Nat} {f val : Group → Nat → Word}
    (he : ∀ s, exec i s = uniformOp i s fun g l => g.setU u (f g l)) (hf : ∀ g l, f (Group.countIssue g) l = f g l)
    (hv : ∀ g l, val g l = f g l) : UniformWrites i u val := by
  intro s g h hp
  obtain ⟨t, g', h1, h2, h3, h4⟩ := uniformOp_of (fun g l => g.setU u (f g l)) h hp
  refine ⟨t, g', (he s).trans h1, h2, ?_, h4⟩
  split at h3
  · rename_i hl
    rw [if_pos hl, (Group.file_eq h3).2.1, Group.setU_ureg, if_pos rfl, hv, hf]
    exact ⟨rfl, (OnlyWrites.setU g u _).of_file (g1 := g.setU u (f g (lowestLane s.cur.active))) (h3.trans (by rw [hf]; rfl))⟩
  · rename_i hl
    rw [if_neg hl, (Group.file_eq h3).2.1]
    exact ⟨rfl, (OnlyWrites.refl g _ _ _).of_file h3⟩

end Sys2Proof.Machine
end

