-- ==== Sys2Proof/Laws/Frame.lean ====
section
/-! SUPPORT. What the issue of a word inside its clause leaves as it was. -/

namespace Sys2Proof.Machine

theorem Untouched.refl (k : Nat) (s : State) : Untouched k s s :=
  ⟨fun _ => rfl, rfl, rfl, rfl, rfl, rfl, rfl, rfl, rfl, rfl, rfl, rfl, rfl, fun _ _ => rfl⟩

theorem Untouched.trans {k : Nat} {s t u : State} (h1 : Untouched k s t) (h2 : Untouched k t u) : Untouched k s u where
  mem a := (h2.mem a).trans (h1.mem a)
  lineMeta := h2.lineMeta.trans h1.lineMeta
  home := h2.home.trans h1.home
  csr := h2.csr.trans h1.csr
  ctl := h2.ctl.trans h1.ctl
  contexts := h2.contexts.trans h1.contexts
  die0 := h2.die0.trans h1.die0
  die1 := h2.die1.trans h1.die1
  cores := h2.cores.trans h1.cores
  quads := h2.quads.trans h1.quads
  teams := h2.teams.trans h1.teams
  grids := h2.grids.trans h1.grids
  manage := h2.manage.trans h1.manage
  groups j hj := (h2.groups j hj).trans (h1.groups j hj)

theorem Untouched.setGroup (k : Nat) (s : State) (g : Group) : Untouched k s (s.setGroup k g) :=
  ⟨fun _ => rfl, rfl, rfl, rfl, rfl, rfl, rfl, rfl, rfl, rfl, rfl, rfl, rfl, fun j hj => by
    rw [State.setGroup_group, if_neg hj]⟩

theorem Untouched.onGroup (k : Nat) (s : State) (f : Group → Group) : Untouched k s (s.onGroup k f) :=
  ⟨fun _ => rfl, rfl, rfl, rfl, rfl, rfl, rfl, rfl, rfl, rfl, rfl, rfl, rfl, fun j hj => by
    rw [State.onGroup_group, if_neg hj]⟩

theorem Untouched.onPart (k p : Nat) (s : State) (f : Part → Part) : Untouched k s (s.onPart p f) :=
  ⟨fun _ => rfl, rfl, rfl, rfl, rfl, rfl, rfl, rfl, rfl, rfl, rfl, rfl, rfl, fun _ _ => rfl⟩

theorem Untouched.overtake (k : Nat) (s : State) (m : Word) (rs : List Nat) : Untouched k s (s.overtake k m rs) :=
  ⟨fun _ => rfl, rfl, rfl, rfl, rfl, rfl, rfl, rfl, rfl, rfl, rfl, rfl, rfl, fun _ _ => rfl⟩

theorem Untouched.moved (s : State) (u : Issue) : Untouched u.grp s (s.moved u) := by
  unfold State.moved
  dsimp only
  split
  · exact Untouched.onGroup ..
  · exact (Untouched.onGroup ..).trans (Untouched.onPart ..)

theorem Untouched.begun (s : State) (i : Instr) (g : Group) : Untouched s.cur.grp s (s.begun i g) := by
  refine Untouched.trans (t := s.overtaken i s.cur (s.admitted g)) ?_ (Untouched.setGroup ..)
  unfold State.overtaken
  dsimp only
  split
  · exact Untouched.overtake ..
  · exact Untouched.refl ..

theorem Untouched.endTurn (s : State) (k : Nat) : Untouched k s (s.endTurn k) := by
  unfold State.endTurn
  dsimp only
  split
  · exact Untouched.refl ..
  · split
    · exact (Untouched.onPart ..).trans (Untouched.onGroup ..)
    · exact Untouched.refl ..

/-- The PCs of the group of a word inside its clause. -/
theorem PcsAre.moved {s : State} {g g2 : Group} (hp : g2.pcs = g.pcs) :
    PcsAre s g (g2.setPcs s.cur.active fun _ => s.cur.pc + 4) 0 fun _ => 0 := by
  refine ⟨by rw [Group.setPcs_length, hp], fun l hl => ?_⟩
  have h0 : (0 : Word).getLsbD l = false := by simp
  rw [Group.setPcs_pcs _ _ _ (hp ▸ hl), hp, h0]
  rfl

/-- A word inside its clause that changes its own group alone, outside its PCs and what makes it run: the next state, its
frame, and the group in it. -/
theorem issue_withGroup_inClause {i : Instr} {s : State} {g g2 : Group} (h : Issues i s g) (hc : s.inClause)
    {body : State → Group → Word → Eff}
    (hb : body (s.begun i g) g.countIssue (s.admitted g) = .ok ((s.begun i g).setGroup s.cur.grp g2))
    (hp : g2.pcs = g.pcs) (he : g2.exited = g.exited) (hbl : g2.block = g.block) (hz : g2.suspension = g.suspension) :
    ∃ t, issue i s body = .next t ∧ Untouched s.cur.grp s t ∧
      t.group? s.cur.grp = some (g2.setPcs s.cur.active fun _ => s.cur.pc + 4) := by
  obtain ⟨r1, r2, r3⟩ := Group.running h.ready
  have hg : ((s.begun i g).setGroup s.cur.grp g2).group? s.cur.grp = some g2 := by
    rw [State.setGroup_group, if_pos rfl]
  refine ⟨_, issue_inClause h hc hb hg hp (he.trans r1) (hbl.trans r2) (hz.trans r3), ?_, ?_⟩
  · exact ((Untouched.begun s i g).trans (Untouched.setGroup _ _ g2)).trans (Untouched.moved _ s.cur)
  · rw [State.moved_group, if_pos rfl, hg]; rfl

/-- The same for a word that changes nothing. -/
theorem issue_same_inClause {i : Instr} {s : State} {g : Group} (h : Issues i s g) (hc : s.inClause)
    {body : State → Group → Word → Eff} (hb : body (s.begun i g) g.countIssue (s.admitted g) = .ok (s.begun i g)) :
    ∃ t, issue i s body = .next t ∧ Untouched s.cur.grp s t ∧
      t.group? s.cur.grp = some (g.countIssue.setPcs s.cur.active fun _ => s.cur.pc + 4) := by
  obtain ⟨r1, r2, r3⟩ := Group.running h.ready
  have hg : (s.begun i g).group? s.cur.grp = some g.countIssue := by rw [State.begun_group, if_pos rfl]
  refine ⟨_, issue_inClause h hc hb hg rfl r1 r2 r3, ?_, ?_⟩
  · exact (Untouched.begun s i g).trans (Untouched.moved _ s.cur)
  · rw [State.moved_group, if_pos rfl, hg]; rfl

end Sys2Proof.Machine
end

