-- ==== Sys2Proof/Laws/Record.lean ====
section
/-! SUPPORT. Fields of records: a field of a record packed from fields that do not overlap, and the fields of a fault
record. -/

namespace Sys2Proof.Machine

theorem packFields_nil : packFields [] = 0 := rfl

theorem packFields_cons (f : Nat × Nat × Nat) (fs : List (Nat × Nat × Nat)) :
    packFields (f :: fs) = (f.2.2 % 2 ^ f.2.1) * 2 ^ f.1 + packFields fs := by
  have H : ∀ (fs : List (Nat × Nat × Nat)) (a : Nat),
      fs.foldl (fun acc f => acc + (f.2.2 % 2 ^ f.2.1) * 2 ^ f.1) a = a + packFields fs := by
    intro fs
    induction fs with
    | nil => intro a; rfl
    | cons x t ih =>
      intro a
      rw [List.foldl_cons, ih]
      conv_rhs => rw [packFields, List.foldl_cons, ih]
      omega
  conv_lhs => rw [packFields, List.foldl_cons, H]
  omega

theorem packFields_perm {fs gs : List (Nat × Nat × Nat)} (h : fs.Perm gs) : packFields fs = packFields gs := by
  induction h with
  | nil => rfl
  | cons x _ ih => rw [packFields_cons, packFields_cons, ih]
  | swap x y l => simp only [packFields_cons]; omega
  | trans _ _ h1 h2 => exact h1.trans h2

/-- A record whose fields start at `lo` or above is a multiple of 2^lo. -/
theorem packFields_dvd (fs : List (Nat × Nat × Nat)) (lo : Nat) (h : ∀ f ∈ fs, lo ≤ f.1) : 2 ^ lo ∣ packFields fs := by
  induction fs with
  | nil => exact Dvd.intro 0 rfl
  | cons x t ih =>
    rw [packFields_cons]
    exact Nat.dvd_add (Dvd.dvd.mul_left (pow_dvd_pow 2 (h x List.mem_cons_self)) _)
      (ih fun f hf => h f (List.mem_cons_of_mem _ hf))

/-- A field of a record whose fields are listed in rising order and do not overlap. -/
theorem bits_packFields (fs : List (Nat × Nat × Nat)) (h : fs.Pairwise fun a b => a.1 + a.2.1 ≤ b.1)
    (f : Nat × Nat × Nat) (hf : f ∈ fs) : bits (packFields fs) f.1 f.2.1 = f.2.2 % 2 ^ f.2.1 := by
  induction fs with
  | nil => cases hf
  | cons x t ih =>
    rw [List.pairwise_cons] at h
    rw [packFields_cons]
    obtain ⟨K, hK⟩ := packFields_dvd t (x.1 + x.2.1) h.1
    have hx : x.2.2 % 2 ^ x.2.1 < 2 ^ x.2.1 := Nat.mod_lt _ (Nat.two_pow_pos _)
    rcases List.mem_cons.1 hf with rfl | hf
    · rw [hK, pow_add, mul_assoc, mul_comm _ (2 ^ f.1), ← Nat.mul_add, bits, Nat.mul_div_cancel_left _ (Nat.two_pow_pos _),
        Nat.add_mul_mod_self_left, Nat.mod_mod]
    · rw [← ih h.2 hf, bits, bits, hK]
      have hs : x.2.2 % 2 ^ x.2.1 * 2 ^ x.1 < 2 ^ (x.1 + x.2.1) := by
        rw [pow_add, mul_comm]; exact Nat.mul_lt_mul_of_pos_left hx (Nat.two_pow_pos _)
      have hle := h.1 f hf
      obtain ⟨d, hd⟩ := Nat.exists_eq_add_of_le hle
      rw [hd, pow_add _ _ d, ← Nat.div_div_eq_div_mul, ← Nat.div_div_eq_div_mul, Nat.add_mul_div_left _ _ (Nat.two_pow_pos _),
        Nat.div_eq_of_lt hs, Nat.zero_add, Nat.mul_div_cancel_left _ (Nat.two_pow_pos _)]

/-- The fields of a fault record with its sequence number, in rising order (R390). -/
def recordFields (s : State) (u : Source) (r : Report) (seq : Nat) : List (Nat × Nat × Nat) :=
  [(32, 32, seq), (72, 4, r.disp), (80, 16, r.code), (105, 4, u.place), (109, 2, u.part), (111, 11, u.core), (122, 6, u.ctx),
    (128, 12, u.slot.getD 0), (140, 1, if u.slot.isSome then 1 else 0), (144, 48, s.time0 u.die), (192, 32, r.mask),
    (224, 32, r.pc), (256, 64, if u.slot.isSome then u.req else 0), (320, 64, r.addr), (384, 64, r.info0), (448, 64, r.info1)]

theorem recordBits_fields (s : State) (u : Source) (r : Report) (seq : Nat) :
    recordBits s u r + seq % 2 ^ 32 * 2 ^ 32 = packFields (recordFields s u r seq) := by
  simp only [recordBits, recordFields, packFields_cons, packFields_nil]
  omega

/-- Every field of a fault record reads as it was given, cut to its width (R390). -/
theorem recordField (s : State) (u : Source) (r : Report) (seq : Nat) (f : Nat × Nat × Nat) (hf : f ∈ recordFields s u r seq) :
    bits (recordBits s u r + seq % 2 ^ 32 * 2 ^ 32) f.1 f.2.1 = f.2.2 % 2 ^ f.2.1 := by
  rw [recordBits_fields]
  refine bits_packFields _ ?_ f hf
  simp [recordFields]

/-- What ringWrite hands on is the record with the sequence number that FRHEAD gives it (R390, R391). -/
theorem State.ringWrite_record (s : State) (u : Source) (b : Nat) :
    (s.ringWrite u b).2 = b + (s.context u.ctx).frhead % 2 ^ 32 * 2 ^ 32 := by
  unfold State.ringWrite; dsimp only; split <;> rfl

/-- The record that a report writes. -/
theorem State.report_record (s : State) (u : Source) (r : Report) :
    (s.report u r).2 = recordBits s u r + (s.context u.ctx).frhead % 2 ^ 32 * 2 ^ 32 := by
  simp only [State.report, State.sendRecord, State.ringWrite_record]

end Sys2Proof.Machine
end

