-- ==== Sys2Proof/Laws/Words.lean ====
section
/-! SUPPORT. Every word goes through `issue`: for each word row, the body that its meaning gives to `issue` exists. -/

namespace Sys2Proof.Machine

/-- The meaning of a word at a state is an issue of some body. -/
def IsIssue (i : Instr) (s : State) : Prop := ∃ body, exec i s = issue i s body

theorem IsIssue.of {i : Instr} {s : State} {body : State → Group → Word → Eff} (h : exec i s = issue i s body) : IsIssue i s :=
  ⟨body, h⟩

theorem isIssue_nop (f : FmtA) (s : State) : IsIssue (.nop f) s := IsIssue.of (by show execNop f s = _; unfold execNop; rfl)
theorem isIssue_iadd (f : FmtA) (s : State) : IsIssue (.iadd f) s := IsIssue.of (by show execIadd f s = _; unfold execIadd lane2 laneOp; rfl)
theorem isIssue_isub (f : FmtA) (s : State) : IsIssue (.isub f) s := IsIssue.of (by show execIsub f s = _; unfold execIsub lane2 laneOp; rfl)
theorem isIssue_iadd64 (f : FmtA) (s : State) : IsIssue (.iadd64 f) s := IsIssue.of (by show execIadd64 f s = _; unfold execIadd64 pair2 pairOp; rfl)
theorem isIssue_isub64 (f : FmtA) (s : State) : IsIssue (.isub64 f) s := IsIssue.of (by show execIsub64 f s = _; unfold execIsub64 pair2 pairOp; rfl)
theorem isIssue_imul (f : FmtA) (s : State) : IsIssue (.imul f) s := IsIssue.of (by show execImul f s = _; unfold execImul lane2 laneOp; rfl)
theorem isIssue_imulhiS (f : FmtA) (s : State) : IsIssue (.imulhiS f) s := IsIssue.of (by show execImulhiS f s = _; unfold execImulhiS lane2 laneOp; rfl)
theorem isIssue_imulhiU (f : FmtA) (s : State) : IsIssue (.imulhiU f) s := IsIssue.of (by show execImulhiU f s = _; unfold execImulhiU lane2 laneOp; rfl)
theorem isIssue_imad (f : FmtA) (s : State) : IsIssue (.imad f) s := IsIssue.of (by show execImad f s = _; unfold execImad lane3 laneOp; rfl)
theorem isIssue_imadwS (f : FmtA) (s : State) : IsIssue (.imadwS f) s := IsIssue.of (by show execImadwS f s = _; unfold execImadwS pairOp; rfl)
theorem isIssue_imadwU (f : FmtA) (s : State) : IsIssue (.imadwU f) s := IsIssue.of (by show execImadwU f s = _; unfold execImadwU pairOp; rfl)
theorem isIssue_idivS (f : FmtA) (s : State) : IsIssue (.idivS f) s := IsIssue.of (by show execIdivS f s = _; unfold execIdivS lane2 laneOp; rfl)
theorem isIssue_idivU (f : FmtA) (s : State) : IsIssue (.idivU f) s := IsIssue.of (by show execIdivU f s = _; unfold execIdivU lane2 laneOp; rfl)
theorem isIssue_iremS (f : FmtA) (s : State) : IsIssue (.iremS f) s := IsIssue.of (by show execIremS f s = _; unfold execIremS lane2 laneOp; rfl)
theorem isIssue_iremU (f : FmtA) (s : State) : IsIssue (.iremU f) s := IsIssue.of (by show execIremU f s = _; unfold execIremU lane2 laneOp; rfl)
theorem isIssue_iminS (f : FmtA) (s : State) : IsIssue (.iminS f) s := IsIssue.of (by show execIminS f s = _; unfold execIminS lane2 laneOp; rfl)
theorem isIssue_iminU (f : FmtA) (s : State) : IsIssue (.iminU f) s := IsIssue.of (by show execIminU f s = _; unfold execIminU lane2 laneOp; rfl)
theorem isIssue_imaxS (f : FmtA) (s : State) : IsIssue (.imaxS f) s := IsIssue.of (by show execImaxS f s = _; unfold execImaxS lane2 laneOp; rfl)
theorem isIssue_imaxU (f : FmtA) (s : State) : IsIssue (.imaxU f) s := IsIssue.of (by show execImaxU f s = _; unfold execImaxU lane2 laneOp; rfl)
theorem isIssue_iabs (f : FmtA) (s : State) : IsIssue (.iabs f) s := IsIssue.of (by show execIabs f s = _; unfold execIabs lane1 laneOp; rfl)
theorem isIssue_ineg (f : FmtA) (s : State) : IsIssue (.ineg f) s := IsIssue.of (by show execIneg f s = _; unfold execIneg lane1 laneOp; rfl)
theorem isIssue_and (f : FmtA) (s : State) : IsIssue (.and f) s := IsIssue.of (by show execAnd f s = _; unfold execAnd lane2 laneOp; rfl)
theorem isIssue_or (f : FmtA) (s : State) : IsIssue (.or f) s := IsIssue.of (by show execOr f s = _; unfold execOr lane2 laneOp; rfl)
theorem isIssue_xor (f : FmtA) (s : State) : IsIssue (.xor f) s := IsIssue.of (by show execXor f s = _; unfold execXor lane2 laneOp; rfl)
theorem isIssue_andn (f : FmtA) (s : State) : IsIssue (.andn f) s := IsIssue.of (by show execAndn f s = _; unfold execAndn lane2 laneOp; rfl)
theorem isIssue_not (f : FmtA) (s : State) : IsIssue (.not f) s := IsIssue.of (by show execNot f s = _; unfold execNot lane1 laneOp; rfl)
theorem isIssue_shl (f : FmtA) (s : State) : IsIssue (.shl f) s := IsIssue.of (by show execShl f s = _; unfold execShl lane2 laneOp; rfl)
theorem isIssue_shrU (f : FmtA) (s : State) : IsIssue (.shrU f) s := IsIssue.of (by show execShrU f s = _; unfold execShrU lane2 laneOp; rfl)
theorem isIssue_shrS (f : FmtA) (s : State) : IsIssue (.shrS f) s := IsIssue.of (by show execShrS f s = _; unfold execShrS lane2 laneOp; rfl)
theorem isIssue_rotl (f : FmtA) (s : State) : IsIssue (.rotl f) s := IsIssue.of (by show execRotl f s = _; unfold execRotl lane2 laneOp; rfl)
theorem isIssue_shli (f : FmtB) (s : State) : IsIssue (.shli f) s := IsIssue.of (by show execShli f s = _; unfold execShli laneI laneOp; rfl)
theorem isIssue_shriU (f : FmtB) (s : State) : IsIssue (.shriU f) s := IsIssue.of (by show execShriU f s = _; unfold execShriU laneI laneOp; rfl)
theorem isIssue_shriS (f : FmtB) (s : State) : IsIssue (.shriS f) s := IsIssue.of (by show execShriS f s = _; unfold execShriS laneI laneOp; rfl)
theorem isIssue_iaddi (f : FmtB) (s : State) : IsIssue (.iaddi f) s := IsIssue.of (by show execIaddi f s = _; unfold execIaddi laneI laneOp; rfl)
theorem isIssue_movi (f : FmtC) (s : State) : IsIssue (.movi f) s := IsIssue.of (by show execMovi f s = _; unfold execMovi laneOp; rfl)
theorem isIssue_movhi (f : FmtC) (s : State) : IsIssue (.movhi f) s := IsIssue.of (by show execMovhi f s = _; unfold execMovhi laneOp; rfl)
theorem isIssue_ldk (f : FmtC) (s : State) : IsIssue (.ldk f) s := IsIssue.of (by show execLdk f s = _; unfold execLdk; rfl)
theorem isIssue_mov (f : FmtA) (s : State) : IsIssue (.mov f) s := IsIssue.of (by show execMov f s = _; unfold execMov lane1 laneOp; rfl)
theorem isIssue_sel (f : FmtA) (s : State) : IsIssue (.sel f) s := IsIssue.of (by show execSel f s = _; unfold execSel; rfl)
theorem isIssue_popc (f : FmtA) (s : State) : IsIssue (.popc f) s := IsIssue.of (by show execPopc f s = _; unfold execPopc lane1 laneOp; rfl)
theorem isIssue_clz (f : FmtA) (s : State) : IsIssue (.clz f) s := IsIssue.of (by show execClz f s = _; unfold execClz lane1 laneOp; rfl)
theorem isIssue_brev (f : FmtA) (s : State) : IsIssue (.brev f) s := IsIssue.of (by show execBrev f s = _; unfold execBrev lane1 laneOp; rfl)
theorem isIssue_bfeU (f : FmtA) (s : State) : IsIssue (.bfeU f) s := IsIssue.of (by show execBfeU f s = _; unfold execBfeU lane2 laneOp; rfl)
theorem isIssue_bfeS (f : FmtA) (s : State) : IsIssue (.bfeS f) s := IsIssue.of (by show execBfeS f s = _; unfold execBfeS lane2 laneOp; rfl)
theorem isIssue_bfi (f : FmtA) (s : State) : IsIssue (.bfi f) s := IsIssue.of (by show execBfi f s = _; unfold execBfi lane3 laneOp; rfl)
theorem isIssue_lea (f : FmtB) (s : State) : IsIssue (.lea f) s := IsIssue.of (by show execLea f s = _; unfold execLea pairOp; rfl)
theorem isIssue_idot4Sb (f : FmtA) (s : State) : IsIssue (.idot4Sb f) s := IsIssue.of (by show execIdot4Sb f s = _; unfold execIdot4Sb lane3 laneOp; rfl)
theorem isIssue_idot4Ub (f : FmtA) (s : State) : IsIssue (.idot4Ub f) s := IsIssue.of (by show execIdot4Ub f s = _; unfold execIdot4Ub lane3 laneOp; rfl)
theorem isIssue_b3ext (f : FmtB) (s : State) : IsIssue (.b3ext f) s := IsIssue.of (by show execB3ext f s = _; unfold execB3ext laneI laneOp; rfl)
theorem isIssue_umov (f : FmtA) (s : State) : IsIssue (.umov f) s := IsIssue.of (by show execUmov f s = _; unfold execUmov uniformOp; rfl)
theorem isIssue_umovi (f : FmtC) (s : State) : IsIssue (.umovi f) s := IsIssue.of (by show execUmovi f s = _; unfold execUmovi uniformOp; rfl)
theorem isIssue_uadd (f : FmtA) (s : State) : IsIssue (.uadd f) s := IsIssue.of (by show execUadd f s = _; unfold execUadd uniformOp; rfl)
theorem isIssue_ulea (f : FmtB) (s : State) : IsIssue (.ulea f) s := IsIssue.of (by show execUlea f s = _; unfold execUlea uniformOp; rfl)
theorem isIssue_fadd (f : FmtA) (s : State) : IsIssue (.fadd f) s := IsIssue.of (by show execFadd f s = _; unfold execFadd lane2 laneOp; rfl)
theorem isIssue_fsub (f : FmtA) (s : State) : IsIssue (.fsub f) s := IsIssue.of (by show execFsub f s = _; unfold execFsub lane2 laneOp; rfl)
theorem isIssue_fmul (f : FmtA) (s : State) : IsIssue (.fmul f) s := IsIssue.of (by show execFmul f s = _; unfold execFmul lane2 laneOp; rfl)
theorem isIssue_ffma (f : FmtA) (s : State) : IsIssue (.ffma f) s := IsIssue.of (by show execFfma f s = _; unfold execFfma lane3 laneOp; rfl)
theorem isIssue_fmin (f : FmtA) (s : State) : IsIssue (.fmin f) s := IsIssue.of (by show execFmin f s = _; unfold execFmin lane2 laneOp; rfl)
theorem isIssue_fmax (f : FmtA) (s : State) : IsIssue (.fmax f) s := IsIssue.of (by show execFmax f s = _; unfold execFmax lane2 laneOp; rfl)
theorem isIssue_fabs (f : FmtA) (s : State) : IsIssue (.fabs f) s := IsIssue.of (by show execFabs f s = _; unfold execFabs lane1 laneOp; rfl)
theorem isIssue_fneg (f : FmtA) (s : State) : IsIssue (.fneg f) s := IsIssue.of (by show execFneg f s = _; unfold execFneg lane1 laneOp; rfl)
theorem isIssue_fdiv (f : FmtA) (s : State) : IsIssue (.fdiv f) s := IsIssue.of (by show execFdiv f s = _; unfold execFdiv lane2 laneOp; rfl)
theorem isIssue_fsqrt (f : FmtA) (s : State) : IsIssue (.fsqrt f) s := IsIssue.of (by show execFsqrt f s = _; unfold execFsqrt lane1 laneOp; rfl)
theorem isIssue_frcp (f : FmtA) (s : State) : IsIssue (.frcp f) s := IsIssue.of (by show execFrcp f s = _; unfold execFrcp lane1 laneOp; rfl)
theorem isIssue_frsq (f : FmtA) (s : State) : IsIssue (.frsq f) s := IsIssue.of (by show execFrsq f s = _; unfold execFrsq lane1 laneOp; rfl)
theorem isIssue_fex2 (f : FmtA) (s : State) : IsIssue (.fex2 f) s := IsIssue.of (by show execFex2 f s = _; unfold execFex2 lane1 laneOp; rfl)
theorem isIssue_flg2 (f : FmtA) (s : State) : IsIssue (.flg2 f) s := IsIssue.of (by show execFlg2 f s = _; unfold execFlg2 lane1 laneOp; rfl)
theorem isIssue_fsint (f : FmtA) (s : State) : IsIssue (.fsint f) s := IsIssue.of (by show execFsint f s = _; unfold execFsint lane1 laneOp; rfl)
theorem isIssue_fcost (f : FmtA) (s : State) : IsIssue (.fcost f) s := IsIssue.of (by show execFcost f s = _; unfold execFcost lane1 laneOp; rfl)
theorem isIssue_frnd (f : FmtB) (s : State) : IsIssue (.frnd f) s := IsIssue.of (by show execFrnd f s = _; unfold execFrnd laneI laneOp; rfl)
theorem isIssue_fldexp (f : FmtA) (s : State) : IsIssue (.fldexp f) s := IsIssue.of (by show execFldexp f s = _; unfold execFldexp lane2 laneOp; rfl)
theorem isIssue_fexpo (f : FmtA) (s : State) : IsIssue (.fexpo f) s := IsIssue.of (by show execFexpo f s = _; unfold execFexpo lane1 laneOp; rfl)
theorem isIssue_fclass (f : FmtA) (s : State) : IsIssue (.fclass f) s := IsIssue.of (by show execFclass f s = _; unfold execFclass lane1 laneOp; rfl)
theorem isIssue_hadd2 (f : FmtA) (s : State) : IsIssue (.hadd2 f) s := IsIssue.of (by show execHadd2 f s = _; unfold execHadd2 lane3 laneOp; rfl)
theorem isIssue_hmul2 (f : FmtA) (s : State) : IsIssue (.hmul2 f) s := IsIssue.of (by show execHmul2 f s = _; unfold execHmul2 lane3 laneOp; rfl)
theorem isIssue_hfma2 (f : FmtA) (s : State) : IsIssue (.hfma2 f) s := IsIssue.of (by show execHfma2 f s = _; unfold execHfma2 lane3 laneOp; rfl)
theorem isIssue_badd2 (f : FmtA) (s : State) : IsIssue (.badd2 f) s := IsIssue.of (by show execBadd2 f s = _; unfold execBadd2 lane3 laneOp; rfl)
theorem isIssue_bmul2 (f : FmtA) (s : State) : IsIssue (.bmul2 f) s := IsIssue.of (by show execBmul2 f s = _; unfold execBmul2 lane3 laneOp; rfl)
theorem isIssue_bfma2 (f : FmtA) (s : State) : IsIssue (.bfma2 f) s := IsIssue.of (by show execBfma2 f s = _; unfold execBfma2 lane3 laneOp; rfl)
theorem isIssue_dadd (f : FmtA) (s : State) : IsIssue (.dadd f) s := IsIssue.of (by show execDadd f s = _; unfold execDadd pair2 pairOp; rfl)
theorem isIssue_dmul (f : FmtA) (s : State) : IsIssue (.dmul f) s := IsIssue.of (by show execDmul f s = _; unfold execDmul pair2 pairOp; rfl)
theorem isIssue_dfma (f : FmtA) (s : State) : IsIssue (.dfma f) s := IsIssue.of (by show execDfma f s = _; unfold execDfma pairOp; rfl)
theorem isIssue_cvtF32Sw (f : FmtA) (s : State) : IsIssue (.cvtF32Sw f) s := IsIssue.of (by show execCvtF32Sw f s = _; unfold execCvtF32Sw lane1 laneOp; rfl)
theorem isIssue_cvtF32Uw (f : FmtA) (s : State) : IsIssue (.cvtF32Uw f) s := IsIssue.of (by show execCvtF32Uw f s = _; unfold execCvtF32Uw lane1 laneOp; rfl)
theorem isIssue_cvtSwF32 (f : FmtA) (s : State) : IsIssue (.cvtSwF32 f) s := IsIssue.of (by show execCvtSwF32 f s = _; unfold execCvtSwF32 lane1 laneOp; rfl)
theorem isIssue_cvtUwF32 (f : FmtA) (s : State) : IsIssue (.cvtUwF32 f) s := IsIssue.of (by show execCvtUwF32 f s = _; unfold execCvtUwF32 lane1 laneOp; rfl)
theorem isIssue_cvtF16x2F32 (f : FmtA) (s : State) : IsIssue (.cvtF16x2F32 f) s := IsIssue.of (by show execCvtF16x2F32 f s = _; unfold execCvtF16x2F32 lane2 laneOp; rfl)
theorem isIssue_cvtBf16x2F32 (f : FmtA) (s : State) : IsIssue (.cvtBf16x2F32 f) s := IsIssue.of (by show execCvtBf16x2F32 f s = _; unfold execCvtBf16x2F32 lane2 laneOp; rfl)
theorem isIssue_cvtF32F16 (f : FmtB) (s : State) : IsIssue (.cvtF32F16 f) s := IsIssue.of (by show execCvtF32F16 f s = _; unfold execCvtF32F16 laneI laneOp; rfl)
theorem isIssue_cvtF32Bf16 (f : FmtB) (s : State) : IsIssue (.cvtF32Bf16 f) s := IsIssue.of (by show execCvtF32Bf16 f s = _; unfold execCvtF32Bf16 laneI laneOp; rfl)
theorem isIssue_cvtE4m3x2F32 (f : FmtA) (s : State) : IsIssue (.cvtE4m3x2F32 f) s := IsIssue.of (by show execCvtE4m3x2F32 f s = _; unfold execCvtE4m3x2F32 lane3 laneOp; rfl)
theorem isIssue_cvtE5m2x2F32 (f : FmtA) (s : State) : IsIssue (.cvtE5m2x2F32 f) s := IsIssue.of (by show execCvtE5m2x2F32 f s = _; unfold execCvtE5m2x2F32 lane3 laneOp; rfl)
theorem isIssue_cvtF32E4m3 (f : FmtB) (s : State) : IsIssue (.cvtF32E4m3 f) s := IsIssue.of (by show execCvtF32E4m3 f s = _; unfold execCvtF32E4m3 laneI laneOp; rfl)
theorem isIssue_cvtF32E5m2 (f : FmtB) (s : State) : IsIssue (.cvtF32E5m2 f) s := IsIssue.of (by show execCvtF32E5m2 f s = _; unfold execCvtF32E5m2 laneI laneOp; rfl)
theorem isIssue_cvtF64F32 (f : FmtA) (s : State) : IsIssue (.cvtF64F32 f) s := IsIssue.of (by show execCvtF64F32 f s = _; unfold execCvtF64F32 pairOp; rfl)
theorem isIssue_cvtF32F64 (f : FmtA) (s : State) : IsIssue (.cvtF32F64 f) s := IsIssue.of (by show execCvtF32F64 f s = _; unfold execCvtF32F64 laneOp; rfl)
theorem isIssue_qfp4 (f : FmtA) (s : State) : IsIssue (.qfp4 f) s := IsIssue.of (by show execQfp4 f s = _; unfold execQfp4; rfl)
theorem isIssue_dqfp4 (f : FmtA) (s : State) : IsIssue (.dqfp4 f) s := IsIssue.of (by show execDqfp4 f s = _; unfold execDqfp4 lane1 laneOp; rfl)
theorem isIssue_icmpEq (f : FmtA) (s : State) : IsIssue (.icmpEq f) s := IsIssue.of (by show execIcmpEq f s = _; unfold execIcmpEq cmp2 predOp; rfl)
theorem isIssue_icmpNe (f : FmtA) (s : State) : IsIssue (.icmpNe f) s := IsIssue.of (by show execIcmpNe f s = _; unfold execIcmpNe cmp2 predOp; rfl)
theorem isIssue_icmpLtS (f : FmtA) (s : State) : IsIssue (.icmpLtS f) s := IsIssue.of (by show execIcmpLtS f s = _; unfold execIcmpLtS cmp2 predOp; rfl)
theorem isIssue_icmpLeS (f : FmtA) (s : State) : IsIssue (.icmpLeS f) s := IsIssue.of (by show execIcmpLeS f s = _; unfold execIcmpLeS cmp2 predOp; rfl)
theorem isIssue_icmpLtU (f : FmtA) (s : State) : IsIssue (.icmpLtU f) s := IsIssue.of (by show execIcmpLtU f s = _; unfold execIcmpLtU cmp2 predOp; rfl)
theorem isIssue_icmpLeU (f : FmtA) (s : State) : IsIssue (.icmpLeU f) s := IsIssue.of (by show execIcmpLeU f s = _; unfold execIcmpLeU cmp2 predOp; rfl)
theorem isIssue_fcmpEq (f : FmtA) (s : State) : IsIssue (.fcmpEq f) s := IsIssue.of (by show execFcmpEq f s = _; unfold execFcmpEq cmp2 predOp; rfl)
theorem isIssue_fcmpNe (f : FmtA) (s : State) : IsIssue (.fcmpNe f) s := IsIssue.of (by show execFcmpNe f s = _; unfold execFcmpNe cmp2 predOp; rfl)
theorem isIssue_fcmpLt (f : FmtA) (s : State) : IsIssue (.fcmpLt f) s := IsIssue.of (by show execFcmpLt f s = _; unfold execFcmpLt cmp2 predOp; rfl)
theorem isIssue_fcmpLe (f : FmtA) (s : State) : IsIssue (.fcmpLe f) s := IsIssue.of (by show execFcmpLe f s = _; unfold execFcmpLe cmp2 predOp; rfl)
theorem isIssue_fcmpUo (f : FmtA) (s : State) : IsIssue (.fcmpUo f) s := IsIssue.of (by show execFcmpUo f s = _; unfold execFcmpUo cmp2 predOp; rfl)
theorem isIssue_pand (f : FmtA) (s : State) : IsIssue (.pand f) s := IsIssue.of (by show execPand f s = _; unfold execPand pred2 predOp; rfl)
theorem isIssue_por (f : FmtA) (s : State) : IsIssue (.por f) s := IsIssue.of (by show execPor f s = _; unfold execPor pred2 predOp; rfl)
theorem isIssue_pxor (f : FmtA) (s : State) : IsIssue (.pxor f) s := IsIssue.of (by show execPxor f s = _; unfold execPxor pred2 predOp; rfl)
theorem isIssue_pnot (f : FmtA) (s : State) : IsIssue (.pnot f) s := IsIssue.of (by show execPnot f s = _; unfold execPnot predOp; rfl)
theorem isIssue_gset (f : FmtB) (s : State) : IsIssue (.gset f) s := IsIssue.of (by show execGset f s = _; unfold execGset; rfl)
theorem isIssue_shflIdx (f : FmtA) (s : State) : IsIssue (.shflIdx f) s := IsIssue.of (by show execShflIdx f s = _; unfold execShflIdx shuffle laneOp; rfl)
theorem isIssue_shflUp (f : FmtB) (s : State) : IsIssue (.shflUp f) s := IsIssue.of (by show execShflUp f s = _; unfold execShflUp shuffle laneOp; rfl)
theorem isIssue_shflDn (f : FmtB) (s : State) : IsIssue (.shflDn f) s := IsIssue.of (by show execShflDn f s = _; unfold execShflDn shuffle laneOp; rfl)
theorem isIssue_shflXor (f : FmtB) (s : State) : IsIssue (.shflXor f) s := IsIssue.of (by show execShflXor f s = _; unfold execShflXor shuffle laneOp; rfl)
theorem isIssue_voteAll (f : FmtA) (s : State) : IsIssue (.voteAll f) s := IsIssue.of (by show execVoteAll f s = _; unfold execVoteAll; rfl)
theorem isIssue_voteAny (f : FmtA) (s : State) : IsIssue (.voteAny f) s := IsIssue.of (by show execVoteAny f s = _; unfold execVoteAny; rfl)
theorem isIssue_voteBal (f : FmtA) (s : State) : IsIssue (.voteBal f) s := IsIssue.of (by show execVoteBal f s = _; unfold execVoteBal combine; rfl)
theorem isIssue_matchLanes (f : FmtA) (s : State) : IsIssue (.matchLanes f) s := IsIssue.of (by show execMatchLanes f s = _; unfold execMatchLanes combine; rfl)
theorem isIssue_reduxAdd (f : FmtA) (s : State) : IsIssue (.reduxAdd f) s := IsIssue.of (by show execReduxAdd f s = _; unfold execReduxAdd combine; rfl)
theorem isIssue_reduxMinS (f : FmtA) (s : State) : IsIssue (.reduxMinS f) s := IsIssue.of (by show execReduxMinS f s = _; unfold execReduxMinS combine; rfl)
theorem isIssue_reduxMaxS (f : FmtA) (s : State) : IsIssue (.reduxMaxS f) s := IsIssue.of (by show execReduxMaxS f s = _; unfold execReduxMaxS combine; rfl)
theorem isIssue_sreg (f : FmtC) (s : State) : IsIssue (.sreg f) s := IsIssue.of (by show execSreg f s = _; unfold execSreg; rfl)
theorem isIssue_p2v (f : FmtB) (s : State) : IsIssue (.p2v f) s := IsIssue.of (by show execP2v f s = _; unfold execP2v laneOp; rfl)
theorem isIssue_v2p (f : FmtB) (s : State) : IsIssue (.v2p f) s := IsIssue.of (by show execV2p f s = _; unfold execV2p; rfl)
theorem isIssue_lanemask (f : FmtB) (s : State) : IsIssue (.lanemask f) s := IsIssue.of (by show execLanemask f s = _; unfold execLanemask laneOp; rfl)
theorem isIssue_bra (f : FmtE) (s : State) : IsIssue (.bra f) s := IsIssue.of (by show execBra f s = _; unfold execBra; rfl)
theorem isIssue_brx (f : FmtA) (s : State) : IsIssue (.brx f) s := IsIssue.of (by show execBrx f s = _; unfold execBrx; rfl)
theorem isIssue_call (f : FmtE) (s : State) : IsIssue (.call f) s := IsIssue.of (by show execCall f s = _; unfold execCall; rfl)
theorem isIssue_ret (f : FmtA) (s : State) : IsIssue (.ret f) s := IsIssue.of (by show execRet f s = _; unfold execRet; rfl)
theorem isIssue_exit (f : FmtA) (s : State) : IsIssue (.exit f) s := IsIssue.of (by show execExit f s = _; unfold execExit; rfl)
theorem isIssue_yield (f : FmtA) (s : State) : IsIssue (.yield f) s := IsIssue.of (by show execYield f s = _; unfold execYield once; rfl)
theorem isIssue_setpri (f : FmtB) (s : State) : IsIssue (.setpri f) s := IsIssue.of (by show execSetpri f s = _; unfold execSetpri once; rfl)
theorem isIssue_launch (f : FmtA) (s : State) : IsIssue (.launch f) s := IsIssue.of (by show execLaunch f s = _; unfold execLaunch; rfl)
theorem isIssue_waitch (f : FmtA) (s : State) : IsIssue (.waitch f) s := IsIssue.of (by show execWaitch f s = _; unfold execWaitch once; rfl)
theorem isIssue_tbarSync (f : FmtA) (s : State) : IsIssue (.tbarSync f) s := IsIssue.of (by show execTbarSync f s = _; unfold execTbarSync; rfl)
theorem isIssue_tbarArv (f : FmtA) (s : State) : IsIssue (.tbarArv f) s := IsIssue.of (by show execTbarArv f s = _; unfold execTbarArv; rfl)
theorem isIssue_trap (f : FmtC) (s : State) : IsIssue (.trap f) s := IsIssue.of (by show execTrap f s = _; unfold execTrap; rfl)
theorem isIssue_bkpt (f : FmtA) (s : State) : IsIssue (.bkpt f) s := IsIssue.of (by show execBkpt f s = _; unfold execBkpt; rfl)
theorem isIssue_sleep (f : FmtA) (s : State) : IsIssue (.sleep f) s := IsIssue.of (by show execSleep f s = _; unfold execSleep once; rfl)
theorem isIssue_ldUb (f : FmtD) (s : State) : IsIssue (.ldUb f) s := IsIssue.of (by show execLdUb f s = _; unfold execLdUb memIssue; rfl)
theorem isIssue_ldSb (f : FmtD) (s : State) : IsIssue (.ldSb f) s := IsIssue.of (by show execLdSb f s = _; unfold execLdSb memIssue; rfl)
theorem isIssue_ldUh (f : FmtD) (s : State) : IsIssue (.ldUh f) s := IsIssue.of (by show execLdUh f s = _; unfold execLdUh memIssue; rfl)
theorem isIssue_ldSh (f : FmtD) (s : State) : IsIssue (.ldSh f) s := IsIssue.of (by show execLdSh f s = _; unfold execLdSh memIssue; rfl)
theorem isIssue_ldW (f : FmtD) (s : State) : IsIssue (.ldW f) s := IsIssue.of (by show execLdW f s = _; unfold execLdW memIssue; rfl)
theorem isIssue_ldD (f : FmtD) (s : State) : IsIssue (.ldD f) s := IsIssue.of (by show execLdD f s = _; unfold execLdD memIssue; rfl)
theorem isIssue_ldQ (f : FmtD) (s : State) : IsIssue (.ldQ f) s := IsIssue.of (by show execLdQ f s = _; unfold execLdQ memIssue; rfl)
theorem isIssue_stB (f : FmtD) (s : State) : IsIssue (.stB f) s := IsIssue.of (by show execStB f s = _; unfold execStB memIssue; rfl)
theorem isIssue_stH (f : FmtD) (s : State) : IsIssue (.stH f) s := IsIssue.of (by show execStH f s = _; unfold execStH memIssue; rfl)
theorem isIssue_stW (f : FmtD) (s : State) : IsIssue (.stW f) s := IsIssue.of (by show execStW f s = _; unfold execStW memIssue; rfl)
theorem isIssue_stD (f : FmtD) (s : State) : IsIssue (.stD f) s := IsIssue.of (by show execStD f s = _; unfold execStD memIssue; rfl)
theorem isIssue_stQ (f : FmtD) (s : State) : IsIssue (.stQ f) s := IsIssue.of (by show execStQ f s = _; unfold execStQ memIssue; rfl)
theorem isIssue_ldaW (f : FmtD) (s : State) : IsIssue (.ldaW f) s := IsIssue.of (by show execLdaW f s = _; unfold execLdaW memIssue; rfl)
theorem isIssue_ldaD (f : FmtD) (s : State) : IsIssue (.ldaD f) s := IsIssue.of (by show execLdaD f s = _; unfold execLdaD memIssue; rfl)
theorem isIssue_stlW (f : FmtD) (s : State) : IsIssue (.stlW f) s := IsIssue.of (by show execStlW f s = _; unfold execStlW memIssue; rfl)
theorem isIssue_stlD (f : FmtD) (s : State) : IsIssue (.stlD f) s := IsIssue.of (by show execStlD f s = _; unfold execStlD memIssue; rfl)
theorem isIssue_ldsW (f : FmtDS) (s : State) : IsIssue (.ldsW f) s := IsIssue.of (by show execLdsW f s = _; unfold execLdsW spadIssue; rfl)
theorem isIssue_ldsD (f : FmtDS) (s : State) : IsIssue (.ldsD f) s := IsIssue.of (by show execLdsD f s = _; unfold execLdsD spadIssue; rfl)
theorem isIssue_ldsQ (f : FmtDS) (s : State) : IsIssue (.ldsQ f) s := IsIssue.of (by show execLdsQ f s = _; unfold execLdsQ spadIssue; rfl)
theorem isIssue_stsW (f : FmtDS) (s : State) : IsIssue (.stsW f) s := IsIssue.of (by show execStsW f s = _; unfold execStsW spadIssue; rfl)
theorem isIssue_stsD (f : FmtDS) (s : State) : IsIssue (.stsD f) s := IsIssue.of (by show execStsD f s = _; unfold execStsD spadIssue; rfl)
theorem isIssue_stsQ (f : FmtDS) (s : State) : IsIssue (.stsQ f) s := IsIssue.of (by show execStsQ f s = _; unfold execStsQ spadIssue; rfl)
theorem isIssue_atomAdd (f : FmtD) (s : State) : IsIssue (.atomAdd f) s := IsIssue.of (by show execAtomAdd f s = _; unfold execAtomAdd memIssue; rfl)
theorem isIssue_atomAdd64 (f : FmtD) (s : State) : IsIssue (.atomAdd64 f) s := IsIssue.of (by show execAtomAdd64 f s = _; unfold execAtomAdd64 memIssue; rfl)
theorem isIssue_atomMinS (f : FmtD) (s : State) : IsIssue (.atomMinS f) s := IsIssue.of (by show execAtomMinS f s = _; unfold execAtomMinS memIssue; rfl)
theorem isIssue_atomMaxS (f : FmtD) (s : State) : IsIssue (.atomMaxS f) s := IsIssue.of (by show execAtomMaxS f s = _; unfold execAtomMaxS memIssue; rfl)
theorem isIssue_atomAnd (f : FmtD) (s : State) : IsIssue (.atomAnd f) s := IsIssue.of (by show execAtomAnd f s = _; unfold execAtomAnd memIssue; rfl)
theorem isIssue_atomOr (f : FmtD) (s : State) : IsIssue (.atomOr f) s := IsIssue.of (by show execAtomOr f s = _; unfold execAtomOr memIssue; rfl)
theorem isIssue_atomXchg (f : FmtD) (s : State) : IsIssue (.atomXchg f) s := IsIssue.of (by show execAtomXchg f s = _; unfold execAtomXchg memIssue; rfl)
theorem isIssue_atomCas (f : FmtD) (s : State) : IsIssue (.atomCas f) s := IsIssue.of (by show execAtomCas f s = _; unfold execAtomCas memIssue; rfl)
theorem isIssue_atomFadd (f : FmtD) (s : State) : IsIssue (.atomFadd f) s := IsIssue.of (by show execAtomFadd f s = _; unfold execAtomFadd memIssue; rfl)
theorem isIssue_fence (f : FmtFence) (s : State) : IsIssue (.fence f) s := IsIssue.of (by show execFence f s = _; unfold execFence; rfl)
theorem isIssue_mmaE2m1 (f : FmtF) (s : State) : IsIssue (.mmaE2m1 f) s := IsIssue.of (by show execMmaE2m1 f s = _; unfold execMmaE2m1 mma; rfl)
theorem isIssue_mmaE4m3 (f : FmtF) (s : State) : IsIssue (.mmaE4m3 f) s := IsIssue.of (by show execMmaE4m3 f s = _; unfold execMmaE4m3 mma; rfl)
theorem isIssue_mmaE5m2 (f : FmtF) (s : State) : IsIssue (.mmaE5m2 f) s := IsIssue.of (by show execMmaE5m2 f s = _; unfold execMmaE5m2 mma; rfl)
theorem isIssue_mmaBf16 (f : FmtF) (s : State) : IsIssue (.mmaBf16 f) s := IsIssue.of (by show execMmaBf16 f s = _; unfold execMmaBf16 mma; rfl)
theorem isIssue_mmaF16 (f : FmtF) (s : State) : IsIssue (.mmaF16 f) s := IsIssue.of (by show execMmaF16 f s = _; unfold execMmaF16 mma; rfl)
theorem isIssue_mmaI8 (f : FmtF) (s : State) : IsIssue (.mmaI8 f) s := IsIssue.of (by show execMmaI8 f s = _; unfold execMmaI8 mma; rfl)
theorem isIssue_accmv (f : FmtF) (s : State) : IsIssue (.accmv f) s := IsIssue.of (by show execAccmv f s = _; unfold execAccmv; rfl)
theorem isIssue_accrd (f : FmtF) (s : State) : IsIssue (.accrd f) s := IsIssue.of (by show execAccrd f s = _; unfold execAccrd; rfl)
theorem isIssue_accwr (f : FmtF) (s : State) : IsIssue (.accwr f) s := IsIssue.of (by show execAccwr f s = _; unfold execAccwr; rfl)
theorem isIssue_atqk (f : FmtAtt) (s : State) : IsIssue (.atqk f) s := IsIssue.of (by show execAtqk f s = _; unfold execAtqk; rfl)
theorem isIssue_atsm (f : FmtAtt) (s : State) : IsIssue (.atsm f) s := IsIssue.of (by show execAtsm f s = _; unfold execAtsm; rfl)
theorem isIssue_atpv (f : FmtAtt) (s : State) : IsIssue (.atpv f) s := IsIssue.of (by show execAtpv f s = _; unfold execAtpv; rfl)
theorem isIssue_atfn (f : FmtAtt) (s : State) : IsIssue (.atfn f) s := IsIssue.of (by show execAtfn f s = _; unfold execAtfn; rfl)
theorem isIssue_hbindSpad (f : FmtG) (s : State) : IsIssue (.hbindSpad f) s := IsIssue.of (by show execHbindSpad f s = _; unfold execHbindSpad cmdIssue; rfl)
theorem isIssue_hbindRec (f : FmtG) (s : State) : IsIssue (.hbindRec f) s := IsIssue.of (by show execHbindRec f s = _; unfold execHbindRec cmdIssue; rfl)
theorem isIssue_hbindOff (f : FmtG) (s : State) : IsIssue (.hbindOff f) s := IsIssue.of (by show execHbindOff f s = _; unfold execHbindOff cmdIssue; rfl)
theorem isIssue_hbindSeek (f : FmtG) (s : State) : IsIssue (.hbindSeek f) s := IsIssue.of (by show execHbindSeek f s = _; unfold execHbindSeek cmdIssue; rfl)
theorem isIssue_tcopy (f : FmtCopy) (s : State) : IsIssue (.tcopy f) s := IsIssue.of (by show execTcopy f s = _; unfold execTcopy copyIssue cmdIssue; rfl)
theorem isIssue_tstore (f : FmtCopy) (s : State) : IsIssue (.tstore f) s := IsIssue.of (by show execTstore f s = _; unfold execTstore copyIssue cmdIssue; rfl)
theorem isIssue_xbarInit (f : FmtG) (s : State) : IsIssue (.xbarInit f) s := IsIssue.of (by show execXbarInit f s = _; unfold execXbarInit plainCmd cmdIssue; rfl)
theorem isIssue_xbarArv (f : FmtG) (s : State) : IsIssue (.xbarArv f) s := IsIssue.of (by show execXbarArv f s = _; unfold execXbarArv plainCmd cmdIssue; rfl)
theorem isIssue_xbarArvExp (f : FmtG) (s : State) : IsIssue (.xbarArvExp f) s := IsIssue.of (by show execXbarArvExp f s = _; unfold execXbarArvExp plainCmd cmdIssue; rfl)
theorem isIssue_xbarArvAck (f : FmtG) (s : State) : IsIssue (.xbarArvAck f) s := IsIssue.of (by show execXbarArvAck f s = _; unfold execXbarArvAck plainCmd cmdIssue; rfl)
theorem isIssue_xbarWait (f : FmtBlock) (s : State) : IsIssue (.xbarWait f) s := IsIssue.of (by show execXbarWait f s = _; unfold execXbarWait cmdIssue; rfl)
theorem isIssue_qdeq (f : FmtBlock) (s : State) : IsIssue (.qdeq f) s := IsIssue.of (by show execQdeq f s = _; unfold execQdeq cmdIssue; rfl)
theorem isIssue_qdeqTry (f : FmtG) (s : State) : IsIssue (.qdeqTry f) s := IsIssue.of (by show execQdeqTry f s = _; unfold execQdeqTry plainCmd cmdIssue; rfl)
theorem isIssue_qenq (f : FmtG) (s : State) : IsIssue (.qenq f) s := IsIssue.of (by show execQenq f s = _; unfold execQenq qenqIssue cmdIssue; rfl)
theorem isIssue_qenqTry (f : FmtG) (s : State) : IsIssue (.qenqTry f) s := IsIssue.of (by show execQenqTry f s = _; unfold execQenqTry qenqIssue cmdIssue; rfl)
theorem isIssue_treeFork (f : FmtG) (s : State) : IsIssue (.treeFork f) s := IsIssue.of (by show execTreeFork f s = _; unfold execTreeFork plainCmd cmdIssue; rfl)
theorem isIssue_treePrune (f : FmtG) (s : State) : IsIssue (.treePrune f) s := IsIssue.of (by show execTreePrune f s = _; unfold execTreePrune plainCmd cmdIssue; rfl)
theorem isIssue_treeCommit (f : FmtG) (s : State) : IsIssue (.treeCommit f) s := IsIssue.of (by show execTreeCommit f s = _; unfold execTreeCommit plainCmd cmdIssue; rfl)
theorem isIssue_treeAppend (f : FmtG) (s : State) : IsIssue (.treeAppend f) s := IsIssue.of (by show execTreeAppend f s = _; unfold execTreeAppend tokenCmd cmdIssue; rfl)
theorem isIssue_treeAdopt (f : FmtG) (s : State) : IsIssue (.treeAdopt f) s := IsIssue.of (by show execTreeAdopt f s = _; unfold execTreeAdopt tokenCmd cmdIssue; rfl)
theorem isIssue_treeQctx (f : FmtG) (s : State) : IsIssue (.treeQctx f) s := IsIssue.of (by show execTreeQctx f s = _; unfold execTreeQctx plainCmd cmdIssue; rfl)
theorem isIssue_treeQuery (f : FmtG) (s : State) : IsIssue (.treeQuery f) s := IsIssue.of (by show execTreeQuery f s = _; unfold execTreeQuery plainCmd cmdIssue; rfl)
theorem isIssue_kvbindKp (f : FmtG) (s : State) : IsIssue (.kvbindKp f) s := IsIssue.of (by show execKvbindKp f s = _; unfold execKvbindKp kvIssue cmdIssue; rfl)
theorem isIssue_kvbindVp (f : FmtG) (s : State) : IsIssue (.kvbindVp f) s := IsIssue.of (by show execKvbindVp f s = _; unfold execKvbindVp kvIssue cmdIssue; rfl)
theorem isIssue_kvbindKt (f : FmtG) (s : State) : IsIssue (.kvbindKt f) s := IsIssue.of (by show execKvbindKt f s = _; unfold execKvbindKt kvIssue cmdIssue; rfl)
theorem isIssue_kvbindVt (f : FmtG) (s : State) : IsIssue (.kvbindVt f) s := IsIssue.of (by show execKvbindVt f s = _; unfold execKvbindVt kvIssue cmdIssue; rfl)
theorem isIssue_kvbindWk (f : FmtG) (s : State) : IsIssue (.kvbindWk f) s := IsIssue.of (by show execKvbindWk f s = _; unfold execKvbindWk kvIssue cmdIssue; rfl)
theorem isIssue_kvbindWv (f : FmtG) (s : State) : IsIssue (.kvbindWv f) s := IsIssue.of (by show execKvbindWv f s = _; unfold execKvbindWv kvIssue cmdIssue; rfl)
theorem isIssue_sampleSubmit (f : FmtG) (s : State) : IsIssue (.sampleSubmit f) s := IsIssue.of (by show execSampleSubmit f s = _; unfold execSampleSubmit plainCmd cmdIssue; rfl)
theorem isIssue_sampleVerify (f : FmtG) (s : State) : IsIssue (.sampleVerify f) s := IsIssue.of (by show execSampleVerify f s = _; unfold execSampleVerify plainCmd cmdIssue; rfl)
theorem isIssue_collAllred (f : FmtG) (s : State) : IsIssue (.collAllred f) s := IsIssue.of (by show execCollAllred f s = _; unfold execCollAllred plainCmd cmdIssue; rfl)
theorem isIssue_collAllgath (f : FmtG) (s : State) : IsIssue (.collAllgath f) s := IsIssue.of (by show execCollAllgath f s = _; unfold execCollAllgath plainCmd cmdIssue; rfl)
theorem isIssue_collRedscat (f : FmtG) (s : State) : IsIssue (.collRedscat f) s := IsIssue.of (by show execCollRedscat f s = _; unfold execCollRedscat plainCmd cmdIssue; rfl)
theorem isIssue_collHistmrg (f : FmtG) (s : State) : IsIssue (.collHistmrg f) s := IsIssue.of (by show execCollHistmrg f s = _; unfold execCollHistmrg plainCmd cmdIssue; rfl)
theorem isIssue_csrrd (f : FmtSys) (s : State) : IsIssue (.csrrd f) s := IsIssue.of (by show execCsrrd f s = _; unfold execCsrrd; rfl)
theorem isIssue_csrwr (f : FmtSys) (s : State) : IsIssue (.csrwr f) s := IsIssue.of (by show execCsrwr f s = _; unfold execCsrwr; rfl)
theorem isIssue_eret (f : FmtSys) (s : State) : IsIssue (.eret f) s := IsIssue.of (by show execEret f s = _; unfold execEret; rfl)
theorem isIssue_tlbinv (f : FmtSys) (s : State) : IsIssue (.tlbinv f) s := IsIssue.of (by show execTlbinv f s = _; unfold execTlbinv; rfl)
theorem isIssue_winrd (f : FmtSys) (s : State) : IsIssue (.winrd f) s := IsIssue.of (by show execWinrd f s = _; unfold execWinrd; rfl)
theorem isIssue_winwr (f : FmtSys) (s : State) : IsIssue (.winwr f) s := IsIssue.of (by show execWinwr f s = _; unfold execWinwr; rfl)
theorem isIssue_ctxsave (f : FmtSys) (s : State) : IsIssue (.ctxsave f) s := IsIssue.of (by show execCtxsave f s = _; unfold execCtxsave; rfl)
theorem isIssue_ctxload (f : FmtSys) (s : State) : IsIssue (.ctxload f) s := IsIssue.of (by show execCtxload f s = _; unfold execCtxload; rfl)
theorem isIssue_halt (f : FmtSys) (s : State) : IsIssue (.halt f) s := IsIssue.of (by show execHalt f s = _; unfold execHalt; rfl)
theorem isIssue_reservedOpcode (w : Word) (s : State) : IsIssue (.reservedOpcode w) s := IsIssue.of (by show execReservedOpcode w s = _; unfold execReservedOpcode; rfl)

/-- Every instruction word is issued by `issue`; so its encoding check, its holds and its advance are those of `issue`. -/
theorem exec_isIssue (i : Instr) (s : State) (h : isWord i = true) : IsIssue i s := by
  cases i
  case nop f => exact isIssue_nop f s
  case iadd f => exact isIssue_iadd f s
  case isub f => exact isIssue_isub f s
  case iadd64 f => exact isIssue_iadd64 f s
  case isub64 f => exact isIssue_isub64 f s
  case imul f => exact isIssue_imul f s
  case imulhiS f => exact isIssue_imulhiS f s
  case imulhiU f => exact isIssue_imulhiU f s
  case imad f => exact isIssue_imad f s
  case imadwS f => exact isIssue_imadwS f s
  case imadwU f => exact isIssue_imadwU f s
  case idivS f => exact isIssue_idivS f s
  case idivU f => exact isIssue_idivU f s
  case iremS f => exact isIssue_iremS f s
  case iremU f => exact isIssue_iremU f s
  case iminS f => exact isIssue_iminS f s
  case iminU f => exact isIssue_iminU f s
  case imaxS f => exact isIssue_imaxS f s
  case imaxU f => exact isIssue_imaxU f s
  case iabs f => exact isIssue_iabs f s
  case ineg f => exact isIssue_ineg f s
  case and f => exact isIssue_and f s
  case or f => exact isIssue_or f s
  case xor f => exact isIssue_xor f s
  case andn f => exact isIssue_andn f s
  case not f => exact isIssue_not f s
  case shl f => exact isIssue_shl f s
  case shrU f => exact isIssue_shrU f s
  case shrS f => exact isIssue_shrS f s
  case rotl f => exact isIssue_rotl f s
  case shli f => exact isIssue_shli f s
  case shriU f => exact isIssue_shriU f s
  case shriS f => exact isIssue_shriS f s
  case iaddi f => exact isIssue_iaddi f s
  case movi f => exact isIssue_movi f s
  case movhi f => exact isIssue_movhi f s
  case ldk f => exact isIssue_ldk f s
  case mov f => exact isIssue_mov f s
  case sel f => exact isIssue_sel f s
  case popc f => exact isIssue_popc f s
  case clz f => exact isIssue_clz f s
  case brev f => exact isIssue_brev f s
  case bfeU f => exact isIssue_bfeU f s
  case bfeS f => exact isIssue_bfeS f s
  case bfi f => exact isIssue_bfi f s
  case lea f => exact isIssue_lea f s
  case idot4Sb f => exact isIssue_idot4Sb f s
  case idot4Ub f => exact isIssue_idot4Ub f s
  case b3ext f => exact isIssue_b3ext f s
  case umov f => exact isIssue_umov f s
  case umovi f => exact isIssue_umovi f s
  case uadd f => exact isIssue_uadd f s
  case ulea f => exact isIssue_ulea f s
  case fadd f => exact isIssue_fadd f s
  case fsub f => exact isIssue_fsub f s
  case fmul f => exact isIssue_fmul f s
  case ffma f => exact isIssue_ffma f s
  case fmin f => exact isIssue_fmin f s
  case fmax f => exact isIssue_fmax f s
  case fabs f => exact isIssue_fabs f s
  case fneg f => exact isIssue_fneg f s
  case fdiv f => exact isIssue_fdiv f s
  case fsqrt f => exact isIssue_fsqrt f s
  case frcp f => exact isIssue_frcp f s
  case frsq f => exact isIssue_frsq f s
  case fex2 f => exact isIssue_fex2 f s
  case flg2 f => exact isIssue_flg2 f s
  case fsint f => exact isIssue_fsint f s
  case fcost f => exact isIssue_fcost f s
  case frnd f => exact isIssue_frnd f s
  case fldexp f => exact isIssue_fldexp f s
  case fexpo f => exact isIssue_fexpo f s
  case fclass f => exact isIssue_fclass f s
  case hadd2 f => exact isIssue_hadd2 f s
  case hmul2 f => exact isIssue_hmul2 f s
  case hfma2 f => exact isIssue_hfma2 f s
  case badd2 f => exact isIssue_badd2 f s
  case bmul2 f => exact isIssue_bmul2 f s
  case bfma2 f => exact isIssue_bfma2 f s
  case dadd f => exact isIssue_dadd f s
  case dmul f => exact isIssue_dmul f s
  case dfma f => exact isIssue_dfma f s
  case cvtF32Sw f => exact isIssue_cvtF32Sw f s
  case cvtF32Uw f => exact isIssue_cvtF32Uw f s
  case cvtSwF32 f => exact isIssue_cvtSwF32 f s
  case cvtUwF32 f => exact isIssue_cvtUwF32 f s
  case cvtF16x2F32 f => exact isIssue_cvtF16x2F32 f s
  case cvtBf16x2F32 f => exact isIssue_cvtBf16x2F32 f s
  case cvtF32F16 f => exact isIssue_cvtF32F16 f s
  case cvtF32Bf16 f => exact isIssue_cvtF32Bf16 f s
  case cvtE4m3x2F32 f => exact isIssue_cvtE4m3x2F32 f s
  case cvtE5m2x2F32 f => exact isIssue_cvtE5m2x2F32 f s
  case cvtF32E4m3 f => exact isIssue_cvtF32E4m3 f s
  case cvtF32E5m2 f => exact isIssue_cvtF32E5m2 f s
  case cvtF64F32 f => exact isIssue_cvtF64F32 f s
  case cvtF32F64 f => exact isIssue_cvtF32F64 f s
  case qfp4 f => exact isIssue_qfp4 f s
  case dqfp4 f => exact isIssue_dqfp4 f s
  case icmpEq f => exact isIssue_icmpEq f s
  case icmpNe f => exact isIssue_icmpNe f s
  case icmpLtS f => exact isIssue_icmpLtS f s
  case icmpLeS f => exact isIssue_icmpLeS f s
  case icmpLtU f => exact isIssue_icmpLtU f s
  case icmpLeU f => exact isIssue_icmpLeU f s
  case fcmpEq f => exact isIssue_fcmpEq f s
  case fcmpNe f => exact isIssue_fcmpNe f s
  case fcmpLt f => exact isIssue_fcmpLt f s
  case fcmpLe f => exact isIssue_fcmpLe f s
  case fcmpUo f => exact isIssue_fcmpUo f s
  case pand f => exact isIssue_pand f s
  case por f => exact isIssue_por f s
  case pxor f => exact isIssue_pxor f s
  case pnot f => exact isIssue_pnot f s
  case gset f => exact isIssue_gset f s
  case shflIdx f => exact isIssue_shflIdx f s
  case shflUp f => exact isIssue_shflUp f s
  case shflDn f => exact isIssue_shflDn f s
  case shflXor f => exact isIssue_shflXor f s
  case voteAll f => exact isIssue_voteAll f s
  case voteAny f => exact isIssue_voteAny f s
  case voteBal f => exact isIssue_voteBal f s
  case matchLanes f => exact isIssue_matchLanes f s
  case reduxAdd f => exact isIssue_reduxAdd f s
  case reduxMinS f => exact isIssue_reduxMinS f s
  case reduxMaxS f => exact isIssue_reduxMaxS f s
  case sreg f => exact isIssue_sreg f s
  case p2v f => exact isIssue_p2v f s
  case v2p f => exact isIssue_v2p f s
  case lanemask f => exact isIssue_lanemask f s
  case bra f => exact isIssue_bra f s
  case brx f => exact isIssue_brx f s
  case call f => exact isIssue_call f s
  case ret f => exact isIssue_ret f s
  case exit f => exact isIssue_exit f s
  case yield f => exact isIssue_yield f s
  case setpri f => exact isIssue_setpri f s
  case launch f => exact isIssue_launch f s
  case waitch f => exact isIssue_waitch f s
  case tbarSync f => exact isIssue_tbarSync f s
  case tbarArv f => exact isIssue_tbarArv f s
  case trap f => exact isIssue_trap f s
  case bkpt f => exact isIssue_bkpt f s
  case sleep f => exact isIssue_sleep f s
  case ldUb f => exact isIssue_ldUb f s
  case ldSb f => exact isIssue_ldSb f s
  case ldUh f => exact isIssue_ldUh f s
  case ldSh f => exact isIssue_ldSh f s
  case ldW f => exact isIssue_ldW f s
  case ldD f => exact isIssue_ldD f s
  case ldQ f => exact isIssue_ldQ f s
  case stB f => exact isIssue_stB f s
  case stH f => exact isIssue_stH f s
  case stW f => exact isIssue_stW f s
  case stD f => exact isIssue_stD f s
  case stQ f => exact isIssue_stQ f s
  case ldaW f => exact isIssue_ldaW f s
  case ldaD f => exact isIssue_ldaD f s
  case stlW f => exact isIssue_stlW f s
  case stlD f => exact isIssue_stlD f s
  case ldsW f => exact isIssue_ldsW f s
  case ldsD f => exact isIssue_ldsD f s
  case ldsQ f => exact isIssue_ldsQ f s
  case stsW f => exact isIssue_stsW f s
  case stsD f => exact isIssue_stsD f s
  case stsQ f => exact isIssue_stsQ f s
  case atomAdd f => exact isIssue_atomAdd f s
  case atomAdd64 f => exact isIssue_atomAdd64 f s
  case atomMinS f => exact isIssue_atomMinS f s
  case atomMaxS f => exact isIssue_atomMaxS f s
  case atomAnd f => exact isIssue_atomAnd f s
  case atomOr f => exact isIssue_atomOr f s
  case atomXchg f => exact isIssue_atomXchg f s
  case atomCas f => exact isIssue_atomCas f s
  case atomFadd f => exact isIssue_atomFadd f s
  case fence f => exact isIssue_fence f s
  case mmaE2m1 f => exact isIssue_mmaE2m1 f s
  case mmaE4m3 f => exact isIssue_mmaE4m3 f s
  case mmaE5m2 f => exact isIssue_mmaE5m2 f s
  case mmaBf16 f => exact isIssue_mmaBf16 f s
  case mmaF16 f => exact isIssue_mmaF16 f s
  case mmaI8 f => exact isIssue_mmaI8 f s
  case accmv f => exact isIssue_accmv f s
  case accrd f => exact isIssue_accrd f s
  case accwr f => exact isIssue_accwr f s
  case atqk f => exact isIssue_atqk f s
  case atsm f => exact isIssue_atsm f s
  case atpv f => exact isIssue_atpv f s
  case atfn f => exact isIssue_atfn f s
  case hbindSpad f => exact isIssue_hbindSpad f s
  case hbindRec f => exact isIssue_hbindRec f s
  case hbindOff f => exact isIssue_hbindOff f s
  case hbindSeek f => exact isIssue_hbindSeek f s
  case tcopy f => exact isIssue_tcopy f s
  case tstore f => exact isIssue_tstore f s
  case xbarInit f => exact isIssue_xbarInit f s
  case xbarArv f => exact isIssue_xbarArv f s
  case xbarArvExp f => exact isIssue_xbarArvExp f s
  case xbarArvAck f => exact isIssue_xbarArvAck f s
  case xbarWait f => exact isIssue_xbarWait f s
  case qdeq f => exact isIssue_qdeq f s
  case qdeqTry f => exact isIssue_qdeqTry f s
  case qenq f => exact isIssue_qenq f s
  case qenqTry f => exact isIssue_qenqTry f s
  case treeFork f => exact isIssue_treeFork f s
  case treePrune f => exact isIssue_treePrune f s
  case treeCommit f => exact isIssue_treeCommit f s
  case treeAppend f => exact isIssue_treeAppend f s
  case treeAdopt f => exact isIssue_treeAdopt f s
  case treeQctx f => exact isIssue_treeQctx f s
  case treeQuery f => exact isIssue_treeQuery f s
  case kvbindKp f => exact isIssue_kvbindKp f s
  case kvbindVp f => exact isIssue_kvbindVp f s
  case kvbindKt f => exact isIssue_kvbindKt f s
  case kvbindVt f => exact isIssue_kvbindVt f s
  case kvbindWk f => exact isIssue_kvbindWk f s
  case kvbindWv f => exact isIssue_kvbindWv f s
  case sampleSubmit f => exact isIssue_sampleSubmit f s
  case sampleVerify f => exact isIssue_sampleVerify f s
  case collAllred f => exact isIssue_collAllred f s
  case collAllgath f => exact isIssue_collAllgath f s
  case collRedscat f => exact isIssue_collRedscat f s
  case collHistmrg f => exact isIssue_collHistmrg f s
  case csrrd f => exact isIssue_csrrd f s
  case csrwr f => exact isIssue_csrwr f s
  case eret f => exact isIssue_eret f s
  case tlbinv f => exact isIssue_tlbinv f s
  case winrd f => exact isIssue_winrd f s
  case winwr f => exact isIssue_winwr f s
  case ctxsave f => exact isIssue_ctxsave f s
  case ctxload f => exact isIssue_ctxload f s
  case halt f => exact isIssue_halt f s
  case reservedOpcode w => exact isIssue_reservedOpcode w s
  all_goals cases h

end Sys2Proof.Machine
end

