-- ==== Sys2Proof/Laws/Fault.lean ====
section
/-! SUPPORT. Taking an exception that suspends its group (R389, R390, R394, R400). -/

namespace Sys2Proof.Machine

theorem State.group_of_groups {s t : State} (h : t.groups = s.groups) (k : Nat) : t.group? k = s.group? k := by
  simp only [State.group?, h]

/-- What the end of a turn leaves of a group: all but its wait count. -/
theorem State.endTurn_group (s : State) (k j : Nat) :
    (s.endTurn k).group? j = s.group? j ∨ (s.endTurn k).group? j = (s.group? j).map fun g => { g with wait := 0 } := by
  unfold State.endTurn; dsimp only
  split
  · exact .inl rfl
  · split
    · rw [State.onGroup_group]
      split
      · exact .inr rfl
      · exact .inl rfl
    · exact .inl rfl

theorem State.onPart_part (s : State) (p : Nat) (f : Part → Part) (q : Nat) :
    (s.onPart p f).part q = if q = p then f (s.part p) else s.part q := by
  simp only [State.part, State.onPart_parts, Tab.get_put]

theorem State.onGroup_part (s : State) (k : Nat) (f : Group → Group) (q : Nat) : (s.onGroup k f).part q = s.part q := rfl

/-- A group that is none of the privileged ones holds no turn after `endTurn`. -/
theorem State.endTurn_noTurn (s : State) (k : Nat) (h : k < 0x20000) : (s.endTurn k).noTurn k := by
  intro u hu
  unfold State.endTurn at hu; dsimp only at hu
  split at hu
  · rename_i hn; rw [hn] at hu; cases hu
  · rename_i t ht
    split at hu
    · rw [State.onGroup_part, State.onPart_part, if_pos rfl] at hu
      cases hu
    · rename_i hc
      rw [ht] at hu
      cases hu
      intro he
      exact hc (by simp [he, h])

@[simp] theorem State.clearSecond_group (s : State) (p j : Nat) : (s.clearSecond p).group? j = s.group? j := by
  unfold State.clearSecond; split <;> rfl

/-- Clearing the second port's chance leaves every turn. -/
theorem State.clearSecond_turn (s : State) (p q : Nat) : ((s.clearSecond p).part q).turn = (s.part q).turn := by
  unfold State.clearSecond
  split
  · rfl
  · rw [State.onPart_part]
    split
    · subst_vars; rfl
    · rfl

/-- A group that can issue stands in no suspension (R394). -/
theorem Group.suspension_of_ready {g : Group} {pc : Word} (h : g.stopped pc = false) : g.suspension = none := by
  simp only [Group.stopped, Bool.or_eq_false_iff] at h
  simpa using h.1.1.2

/-- The record that a suspension holds (R390). -/
theorem State.suspend_group {s : State} {k : Nat} {g : Group} (r : Report) (hg : s.group? k = some g)
    (hs : g.suspension = none) :
    ∃ g', (s.suspend k r).group? k = some g' ∧ g'.pcs = g.pcs ∧ g'.file = g.file ∧ g'.exited = g.exited ∧
      g'.block = g.block ∧
      g'.suspension = some ⟨r.code, BitVec.ofNat 32 r.mask, BitVec.ofNat 32 r.pc, false,
        (s.report (s.sourceOf k) { r with disp := 0 }).2⟩ := by
  have h1 : (s.report (s.sourceOf k) { r with disp := 0 }).1.group? k = some g :=
    (State.group_of_groups (State.report_groups ..) k).trans hg
  unfold State.suspend; dsimp only
  rw [State.onGroup_group, if_pos rfl, State.clearSecond_group]
  rcases State.endTurn_group (s.report (s.sourceOf k) { r with disp := 0 }).1 k k with h2 | h2
  · rw [h2, h1]; simp [hs]; rfl
  · rw [h2, h1]; simp [hs]; rfl

/-- A group takes an exception whose disposition is to suspend it. -/
theorem State.takeFault_suspends {s : State} {k : Nat} {g : Group} (r : Report) (hg : s.group? k = some g)
    (hs : g.suspension = none) (hk : k < 0x20000)
    (hd : disposition r.code = 0) (hc : r.code < 2 ^ 16) :
    ∃ g', (s.takeFault k r).group? k = some g' ∧ g'.pcs = g.pcs ∧ g'.file = g.file ∧
      SuspendedAs (s.takeFault k r) k g' r.code (BitVec.ofNat 32 r.mask) (BitVec.ofNat 32 r.pc) (r.info0 % 2 ^ 64)
        (r.info1 % 2 ^ 64) := by
  have he : s.takeFault k r = s.suspend k r := by
    unfold State.takeFault
    rw [if_neg (by omega), hd]
    rfl
  obtain ⟨g', h1, h2, h3, -, -, h4⟩ := State.suspend_group r hg hs
  refine ⟨g', he ▸ h1, h2, h3, ⟨_, h4, rfl, rfl, rfl, rfl, ?_⟩, ?_⟩
  · have hf := recordField s (s.sourceOf k) { r with disp := 0 } (s.context (s.sourceOf k).ctx).frhead
    rw [State.report_record]
    refine ⟨?_, ?_, ?_, ?_, ?_, ?_⟩
    · exact (hf (80, 16, r.code) (by simp [recordFields])).trans (Nat.mod_eq_of_lt hc)
    · exact hf (72, 4, 0) (by simp [recordFields])
    · exact (hf (192, 32, r.mask) (by simp [recordFields])).trans (by simp)
    · exact (hf (224, 32, r.pc) (by simp [recordFields])).trans (by simp)
    · exact hf (384, 64, r.info0) (by simp [recordFields])
    · exact hf (448, 64, r.info1) (by simp [recordFields])
  · rw [he]
    intro u hu
    unfold State.suspend at hu; dsimp only at hu
    rw [State.onGroup_part, State.clearSecond_turn] at hu
    exact State.endTurn_noTurn _ k hk u hu

/-- A presented word that fails its encoding check takes the illegal-instruction exception (R402). -/
theorem exec_illegal {i : Instr} {s : State} {g : Group} {r : Nat × Nat} (hw : isWord i = true) (h : Presented i s g)
    (hr : issueCheck s.freeCtr i s.cur g = some r) :
    exec i s = .next (s.takeFault s.cur.grp
      ⟨0x0103, 0, s.cur.pc.toNat, s.cur.active.toNat, 0, s.cur.word.toNat, reasonInfo r⟩) := by
  obtain ⟨body, he⟩ := exec_isIssue i s hw
  obtain ⟨h1, h2, h3, h4, h5⟩ := h
  rw [he]
  unfold issue
  simp only [h1, h2, h3, h4, h5, hr, decide_false, ne_eq, not_true_eq_false, Bool.or_false, Bool.false_eq_true, if_false]

end Sys2Proof.Machine
end

