-- ==== Sys2Proof/Laws/Fetch.lean ====
section
/-! SUPPORT. Fetches and accesses that the core's own TLB serves, and the word that four bytes spell. -/

namespace Sys2Proof.Machine

/-- A translation that the core's own TLB serves changes nothing (R84). -/
theorem translate_hit (s : State) (c x va : Nat) (acc : AccessKind) (e : TlbEntry) (hc : canonical va = true)
    (hf : s.frozenAt (s.asidOf x) va = false)
    (he : (tlbFind (s.core c).tlb (s.asidOf x) va).filter (·.serves acc) = some e)
    (hp : permFault e acc (s.regionOf x va) = none) : Machine.translate s c x va acc = (s, .ok e) := by
  unfold Machine.translate
  dsimp only
  rw [if_neg (by simp [hc]), hf, if_neg (by simp), he]
  dsimp only
  rw [hp]

/-- The sign-extended form of an address is canonical (R62). -/
theorem canonical_a64 (va : Nat) : canonical (a64 va) = true := by
  unfold canonical
  simp only [Bool.or_eq_true]
  rw [decide_eq_true_eq, decide_eq_true_eq]
  unfold a64 bits
  split <;> omega

/-- Addresses of code are canonical (R62, R70). -/
theorem canonical_codeVa (s : State) (x off : Nat) : canonical (s.codeVa x off) = true := canonical_a64 _

/-- A code word whose page the TLB serves is fetched without a change of state (R70, R84). -/
theorem fetchCode_hit (s : State) (k off : Nat) (w : Word) (h : s.codeHit k off w) : fetchCode s k off = (s, .ok w) := by
  obtain ⟨hf, e, he, hp, hr, rfl⟩ := h
  unfold fetchCode fetch; dsimp only
  rw [translate_hit s _ _ _ _ e (canonical_codeVa ..) hf he hp]
  simp only [readAt, hr]; rfl

/-- The four bytes of a word spell it again, lowest first (R3). -/
theorem bytes_of_word (w : Word) : w.extractLsb' 24 8 ++ w.extractLsb' 16 8 ++ w.extractLsb' 8 8 ++ w.extractLsb' 0 8 = w := by
  ext i h; simp only [← BitVec.getLsbD_eq_getElem, BitVec.getLsbD_append, BitVec.getLsbD_extractLsb']; grind

/-- The instruction of a fetched word is the decoder's. -/
theorem wordInstr_eq (w : Word) : wordInstr w = decodeWord w := by simp only [wordInstr, decodeBytes, bytes_of_word]

end Sys2Proof.Machine
end

