-- ==== Sys2Proof/Laws/Memory.lean ====
section
/-! SUPPORT. Physical memory: reads after writes, and the canonical form that every memory operation keeps. -/

namespace Sys2Proof.Machine

theorem memRead_memWrite (m : List Host.Cell) (a : Nat) (v : Byte) (b : Nat) :
    memRead (memWrite m a v) b = if b = a ∧ a < 2 ^ 52 then v else memRead m b := by
  unfold memWrite memRead
  by_cases ha : a < 2 ^ 52
  · rw [if_pos ha]
    have e : (Tab.find (if v = 0 then Tab.del m a else Tab.put m a v) b).getD 0 = if b = a then v else (Tab.find m b).getD 0 := by
      by_cases hv : v = 0
      · rw [if_pos hv, Tab.find_del]; split <;> simp [hv]
      · rw [if_neg hv, Tab.find_put]; split <;> rfl
    rw [e]
    by_cases hb : b = a
    · rw [if_pos hb, if_pos ⟨hb, ha⟩]
    · rw [if_neg hb, if_neg fun c => hb c.1]
  · rw [if_neg ha, if_neg fun c => ha c.2]

theorem memRead_memWrite_self (m : List Host.Cell) (a : Nat) (v : Byte) (h : a < 2 ^ 52) :
    memRead (memWrite m a v) a = v := by
  rw [memRead_memWrite, if_pos ⟨rfl, h⟩]

theorem memRead_memWrite_ne (m : List Host.Cell) (a : Nat) (v : Byte) (b : Nat) (h : b ≠ a) :
    memRead (memWrite m a v) b = memRead m b := by
  rw [memRead_memWrite, if_neg fun c => h c.1]

theorem memRead_memWriteLE (m : List Host.Cell) (a n v b : Nat) :
    memRead (memWriteLE m a n v) b =
      if a ≤ b ∧ b < a + n ∧ b < 2 ^ 52 then BitVec.ofNat 8 (v / 256 ^ (b - a)) else memRead m b := by
  induction n generalizing m a v with
  | zero => simp [memWriteLE]; omega
  | succ n ih =>
    rw [memWriteLE, ih, memRead_memWrite]
    by_cases h1 : a + 1 ≤ b ∧ b < a + 1 + n ∧ b < 2 ^ 52
    · have e : b - a = (b - (a + 1)) + 1 := by omega
      rw [if_pos h1, if_pos (by omega), e, Nat.pow_succ', Nat.div_div_eq_div_mul]
    · rw [if_neg h1]
      by_cases h2 : b = a ∧ a < 2 ^ 52
      · obtain ⟨rfl, h3⟩ := h2
        rw [if_pos ⟨rfl, h3⟩, if_pos (by omega)]
        simp
      · rw [if_neg h2, if_neg (by omega)]

theorem memRead_memWriteLE_outside (m : List Host.Cell) (a n v b : Nat) (h : b < a ∨ a + n ≤ b) :
    memRead (memWriteLE m a n v) b = memRead m b := by
  rw [memRead_memWriteLE, if_neg (by omega)]

/-- Reading back what has been stored (R3). -/
theorem readBytes_memWriteLE (m : List Host.Cell) (a n v : Nat) (h : a + n ≤ 2 ^ 52) :
    readBytes (memRead (memWriteLE m a n v)) a n = v % 256 ^ n := by
  have key : ∀ k b, a ≤ b → b + k ≤ a + n →
      readBytes (memRead (memWriteLE m a n v)) b k = v / 256 ^ (b - a) % 256 ^ k := by
    intro k
    induction k with
    | zero => intro b _ _; simp [readBytes, Nat.mod_one]
    | succ k ih =>
      intro b h1 h2
      have e : b + 1 - a = (b - a) + 1 := by omega
      rw [readBytes, memRead_memWriteLE, if_pos (by omega), ih (b + 1) (by omega) (by omega), e, Nat.pow_succ,
        ← Nat.div_div_eq_div_mul, BitVec.toNat_ofNat, Nat.pow_succ 256 k, Nat.mul_comm (256 ^ k) 256, Nat.mod_mul]
  have := key n a (Nat.le_refl a) (Nat.le_refl _)
  simpa using this

theorem memWf_memWrite (m : List Host.Cell) (a : Nat) (v : Byte) (h : memWf m = true) : memWf (memWrite m a v) = true := by
  unfold memWf at h ⊢
  rw [Bool.and_eq_true, List.all_eq_true] at h ⊢
  unfold memWrite
  split
  · next ha =>
    split
    · exact ⟨Tab.sorted_del _ _ h.1, fun c hc => h.2 c (Tab.mem_del _ _ _ hc)⟩
    · next hv =>
      refine ⟨Tab.sorted_put _ _ _ h.1, fun c hc => ?_⟩
      rcases Tab.mem_put _ _ _ _ hc with rfl | hc
      · simp only [decide_eq_true_eq, ne_eq, Bool.and_eq_true]; exact ⟨ha, hv⟩
      · exact h.2 c hc
  · exact h

theorem memWf_memWriteLE (m : List Host.Cell) (a n v : Nat) (h : memWf m = true) : memWf (memWriteLE m a n v) = true := by
  induction n generalizing m a v with
  | zero => exact h
  | succ n ih => exact ih _ _ _ (memWf_memWrite _ _ _ h)

theorem memWf_filter (m : List Host.Cell) (p : Host.Cell → Bool) (h : memWf m = true) : memWf (m.filter p) = true := by
  unfold memWf at h ⊢
  rw [Bool.and_eq_true, List.all_eq_true] at h ⊢
  exact ⟨Tab.sorted_filter _ _ h.1, fun c hc => h.2 c (List.mem_filter.1 hc).1⟩

theorem State.poke_memWf (s : State) (pa n v : Nat) (h : memWf s.mem = true) : memWf (s.poke pa n v).mem = true := by
  unfold State.poke; dsimp only; split
  · exact h
  · exact memWf_memWriteLE _ _ _ _ h

theorem State.pokeBytes_memWf (bs : List Byte) (s : State) (pa : Nat) (h : memWf s.mem = true) :
    memWf (s.pokeBytes pa bs).mem = true := by
  induction bs generalizing s pa with
  | nil => exact h
  | cons b t ih => exact ih _ _ (State.poke_memWf _ _ _ _ h)

/-- A store changes no byte outside what it stores to. -/
theorem State.poke_outside (s : State) (pa n v b : Nat) (h : b < s.norm pa ∨ s.norm pa + n ≤ b) :
    memRead (s.poke pa n v).mem b = memRead s.mem b := by
  unfold State.poke; dsimp only; split
  · rfl
  · exact memRead_memWriteLE_outside _ _ _ _ _ h

end Sys2Proof.Machine
end

