-- ==== Sys2Proof/Tests/Slice0.lean ====
section
/-! SUPPORT. Tests of the model: the decoding of every instruction word, a word written out from the encoding tables of the
manual; ill-formed terms that the checks refuse; results that the manual's examples give; and, for every statement about the
machine, states that meet its hypotheses. -/

set_option Elab.async false

namespace Sys2Proof.Tests

open Sys2Proof Sys2Proof.Machine

/-! ### States of the tests -/

/-- A word placed before a group of core 0, or of management core 0, and latched there in all the group's lanes. -/
def latched (i : Instr) : State :=
  let w : Word := (encode i).getD 0
  let sys := w.toNat / 2 ^ 24 = 0xDC
  let s := placeWord State.reset w.toNat
  { s with
    agenda := []
    cur := { grp := if sys then privKey 0 else 0, pc := 4, active := if sys then 1 else 0xFFFFFFFF, word := w, second := false
             hdr := 0, head := BitVec.ofNat 32 (headerFor (w.toNat / 2 ^ 24)), event := none, held := false } }

/-- The state with an entry in the TLB of the group's core that maps the lowest GiB onto itself. -/
def warm (s : State) : State :=
  let e : TlbEntry := { asid := if s.cur.grp = 0 then 1 else 0, va := 0, size := 2 ^ 30, pa := 0, rd := true, wr := true
                        ex := true, dup := false, accessed := true, dirty := true }
  s.onCore (keyCore s.cur.grp) fun c => { c with tlb := [e] }

/-- The state with the issuing group changed. -/
def grp (s : State) (f : Group → Group) : State := s.onGroup s.cur.grp f

/-- The state with team 0 changed. -/
def tm (s : State) (f : Team → Team) : State := { s with teams := Tab.alter s.teams 0 f }

/-- Vector register `r` of the issuing group holds `v` in every lane. -/
def vec (s : State) (r : Nat) (v : Word) : State :=
  grp s fun g => { g with vregs := Tab.put g.vregs r (List.replicate 32 v) }

/-- The issuing group. -/
def me (s : State) : Group := (s.group? s.cur.grp).getD (placeGroup false)

/-- The word of an instruction issues (`Issues`). -/
def issues (i : Instr) (s : State) : Bool :=
  let g := me s
  s.group? s.cur.grp = some g && s.cur.active ≠ 0 && s.cur.active &&& ~~~ (g.lanesAt s.cur.pc) = 0 && !g.stopped s.cur.pc &&
    !g.mustWait i && (issueCheck s.freeCtr i s.cur g).isNone

/-- The word is presented (`Presented`). -/
def presented (i : Instr) (s : State) : Bool :=
  let g := me s
  s.group? s.cur.grp = some g && s.cur.active ≠ 0 && s.cur.active &&& ~~~ (g.lanesAt s.cur.pc) = 0 && !g.stopped s.cur.pc &&
    !g.mustWait i

/-- The word issues inside its clause in at least one lane. -/
def ready (i : Instr) (s : State) : Bool :=
  issues i s && s.admitted (me s) ≠ 0 && s.cur.pc.toNat % 4 = 0 && s.cur.pc.toNat ≠ s.cur.hdr + 4 * hdrCount s.cur.head &&
    encode i = some s.cur.word

theorem issues_spec (i : Instr) (s : State) (h : issues i s = true) : Issues i s (me s) := by
  simp only [issues, Bool.and_eq_true, decide_eq_true_eq, Bool.not_eq_true', Option.isNone_iff_eq_none] at h
  obtain ⟨⟨⟨⟨⟨h1, h2⟩, h3⟩, h4⟩, h5⟩, h6⟩ := h
  exact ⟨h1, h2, h3, h4, h5, h6⟩

theorem presented_spec (i : Instr) (s : State) (h : presented i s = true) : Presented i s (me s) := by
  simp only [presented, Bool.and_eq_true, decide_eq_true_eq, Bool.not_eq_true'] at h
  obtain ⟨⟨⟨⟨h1, h2⟩, h3⟩, h4⟩, h5⟩ := h
  exact ⟨h1, h2, h3, h4, h5⟩

/-- What `ready` says, in the words of the statements. -/
theorem ready_spec (i : Instr) (s : State) (h : ready i s = true) :
    Issues i s (me s) ∧ s.admitted (me s) ≠ 0 ∧ s.inClause ∧ s.plainAdvance ∧ s.latched i := by
  simp only [ready, Bool.and_eq_true, decide_eq_true_eq] at h
  obtain ⟨⟨⟨⟨h1, h2⟩, h3⟩, h4⟩, h5⟩ := h
  exact ⟨issues_spec _ _ h1, h2, ⟨h3, h4⟩, .inl h4, h5⟩

/-- An access of the issuing group translates through its core's TLB to `pa` (`dataHit`). -/
def hits (s : State) (va : Nat) (acc : AccessKind) (pa : Nat) : Bool :=
  let k := s.cur.grp
  canonical va && !s.frozenAt (s.asidOf (s.spaceOf k)) va &&
    match (tlbFind (s.core (keyCore k)).tlb (s.asidOf (s.spaceOf k)) va).filter (·.serves acc) with
    | some e => (permFault e acc (s.regionOf (s.spaceOf k) va)).isNone && pa == e.phys va
    | none => false

theorem hits_spec (s : State) (va : Nat) (acc : AccessKind) (pa : Nat) (h : hits s va acc pa = true) :
    s.dataHit s.cur.grp va acc pa := by
  unfold hits at h
  simp only [Bool.and_eq_true, Bool.not_eq_true'] at h
  obtain ⟨⟨h0, h1⟩, h2⟩ := h
  split at h2
  · rename_i e he
    simp only [Bool.and_eq_true, Option.isNone_iff_eq_none, beq_iff_eq] at h2
    exact ⟨h0, h1, e, he, h2.1, h2.2⟩
  · simp at h2

/-- The event `e` is in progress in `s`. -/
def during (s : State) (e : Event) : State := { s with cur := { s.cur with event := some e } }

/-! ### Decoding: words written out from the encodings of R151, R161 and R176 to R278 -/

theorem test_decode_a_0 :
    decodeWord 0x004C4257 = .nop ⟨2, 49, 4, 87⟩ ∧
    decodeWord 0x01F390F4 = .iadd ⟨7, 78, 33, 116⟩ ∧
    decodeWord 0x029ADF11 = .isub ⟨4, 107, 62, 17⟩ ∧
    decodeWord 0x03222DAE = .iadd64 ⟨1, 8, 91, 46⟩ ∧
    decodeWord 0x04C97C4B = .isub64 ⟨6, 37, 120, 75⟩ ∧
    decodeWord 0x05708AE8 = .imul ⟨3, 66, 21, 104⟩ ∧
    decodeWord 0x0617D905 = .imulhiS ⟨0, 95, 50, 5⟩ ∧
    decodeWord 0x07BF27A2 = .imulhiU ⟨5, 124, 79, 34⟩ ∧
    decodeWord 0x0846763F = .imad ⟨2, 25, 108, 63⟩ ∧
    decodeWord 0x09ED84DC = .imadwS ⟨7, 54, 9, 92⟩ ∧
    decodeWord 0x0A94D379 = .imadwU ⟨4, 83, 38, 121⟩ ∧
    decodeWord 0x0B3C2196 = .idivS ⟨1, 112, 67, 22⟩ ∧
    decodeWord 0x0CC37033 = .idivU ⟨6, 13, 96, 51⟩ ∧
    decodeWord 0x0D6ABED0 = .iremS ⟨3, 42, 125, 80⟩ ∧
    decodeWord 0x0E11CD6D = .iremU ⟨0, 71, 26, 109⟩ ∧
    decodeWord 0x0FB91B8A = .iminS ⟨5, 100, 55, 10⟩ ∧
    decodeWord 0x10406A27 = .iminU ⟨2, 1, 84, 39⟩ ∧
    decodeWord 0x11E7B8C4 = .imaxS ⟨7, 30, 113, 68⟩ ∧
    decodeWord 0x128EC761 = .imaxU ⟨4, 59, 14, 97⟩ ∧
    decodeWord 0x133615FE = .iabs ⟨1, 88, 43, 126⟩ := by decide

theorem test_decode_a_1 :
    decodeWord 0x14DD641B = .ineg ⟨6, 117, 72, 27⟩ ∧
    decodeWord 0x1564B2B8 = .and ⟨3, 18, 101, 56⟩ ∧
    decodeWord 0x160BC155 = .or ⟨0, 47, 2, 85⟩ ∧
    decodeWord 0x17B30FF2 = .xor ⟨5, 76, 31, 114⟩ ∧
    decodeWord 0x185A5E0F = .andn ⟨2, 105, 60, 15⟩ ∧
    decodeWord 0x19E1ACAC = .not ⟨7, 6, 89, 44⟩ ∧
    decodeWord 0x1A88FB49 = .shl ⟨4, 35, 118, 73⟩ ∧
    decodeWord 0x1B3009E6 = .shrU ⟨1, 64, 19, 102⟩ ∧
    decodeWord 0x1CD75803 = .shrS ⟨6, 93, 48, 3⟩ ∧
    decodeWord 0x1D7EA6A0 = .rotl ⟨3, 122, 77, 32⟩ ∧
    decodeWord 0x25789A88 = .mov ⟨3, 98, 53, 8⟩ ∧
    decodeWord 0x261FE925 = .sel ⟨0, 127, 82, 37⟩ ∧
    decodeWord 0x27A737C2 = .popc ⟨5, 28, 111, 66⟩ ∧
    decodeWord 0x284E465F = .clz ⟨2, 57, 12, 95⟩ ∧
    decodeWord 0x29F594FC = .brev ⟨7, 86, 41, 124⟩ ∧
    decodeWord 0x2A9CE319 = .bfeU ⟨4, 115, 70, 25⟩ ∧
    decodeWord 0x2B2431B6 = .bfeS ⟨1, 16, 99, 54⟩ ∧
    decodeWord 0x2CCB4053 = .bfi ⟨6, 45, 0, 83⟩ ∧
    decodeWord 0x2E19DD0D = .idot4Sb ⟨0, 103, 58, 13⟩ ∧
    decodeWord 0x2FA12BAA = .idot4Ub ⟨5, 4, 87, 42⟩ := by decide

theorem test_decode_a_2 :
    decodeWord 0x31EF88E4 = .umov ⟨7, 62, 17, 100⟩ ∧
    decodeWord 0x333E259E = .uadd ⟨1, 120, 75, 30⟩ ∧
    decodeWord 0x406C82D8 = .fadd ⟨3, 50, 5, 88⟩ ∧
    decodeWord 0x4113D175 = .fsub ⟨0, 79, 34, 117⟩ ∧
    decodeWord 0x42BB1F92 = .fmul ⟨5, 108, 63, 18⟩ ∧
    decodeWord 0x43426E2F = .ffma ⟨2, 9, 92, 47⟩ ∧
    decodeWord 0x44E9BCCC = .fmin ⟨7, 38, 121, 76⟩ ∧
    decodeWord 0x4590CB69 = .fmax ⟨4, 67, 22, 105⟩ ∧
    decodeWord 0x46381986 = .fabs ⟨1, 96, 51, 6⟩ ∧
    decodeWord 0x47DF6823 = .fneg ⟨6, 125, 80, 35⟩ ∧
    decodeWord 0x4866B6C0 = .fdiv ⟨3, 26, 109, 64⟩ ∧
    decodeWord 0x490DC55D = .fsqrt ⟨0, 55, 10, 93⟩ ∧
    decodeWord 0x4AB513FA = .frcp ⟨5, 84, 39, 122⟩ ∧
    decodeWord 0x4B5C6217 = .frsq ⟨2, 113, 68, 23⟩ ∧
    decodeWord 0x4CE3B0B4 = .fex2 ⟨7, 14, 97, 52⟩ ∧
    decodeWord 0x4D8AFF51 = .flg2 ⟨4, 43, 126, 81⟩ ∧
    decodeWord 0x4E320DEE = .fsint ⟨1, 72, 27, 110⟩ ∧
    decodeWord 0x4FD95C0B = .fcost ⟨6, 101, 56, 11⟩ ∧
    decodeWord 0x5107F945 = .fldexp ⟨0, 31, 114, 69⟩ ∧
    decodeWord 0x52AF07E2 = .fexpo ⟨5, 60, 15, 98⟩ := by decide

theorem test_decode_a_3 :
    decodeWord 0x5356567F = .fclass ⟨2, 89, 44, 127⟩ ∧
    decodeWord 0x54FDA49C = .hadd2 ⟨7, 118, 73, 28⟩ ∧
    decodeWord 0x5584F339 = .hmul2 ⟨4, 19, 102, 57⟩ ∧
    decodeWord 0x562C01D6 = .hfma2 ⟨1, 48, 3, 86⟩ ∧
    decodeWord 0x57D35073 = .badd2 ⟨6, 77, 32, 115⟩ ∧
    decodeWord 0x587A9E90 = .bmul2 ⟨3, 106, 61, 16⟩ ∧
    decodeWord 0x5901ED2D = .bfma2 ⟨0, 7, 90, 45⟩ ∧
    decodeWord 0x5AA93BCA = .dadd ⟨5, 36, 119, 74⟩ ∧
    decodeWord 0x5B504A67 = .dmul ⟨2, 65, 20, 103⟩ ∧
    decodeWord 0x5CF79884 = .dfma ⟨7, 94, 49, 4⟩ ∧
    decodeWord 0x5D9EE721 = .cvtF32Sw ⟨4, 123, 78, 33⟩ ∧
    decodeWord 0x5E2635BE = .cvtF32Uw ⟨1, 24, 107, 62⟩ ∧
    decodeWord 0x5FCD445B = .cvtSwF32 ⟨6, 53, 8, 91⟩ ∧
    decodeWord 0x607492F8 = .cvtUwF32 ⟨3, 82, 37, 120⟩ ∧
    decodeWord 0x611BE115 = .cvtF16x2F32 ⟨0, 111, 66, 21⟩ ∧
    decodeWord 0x62A32FB2 = .cvtBf16x2F32 ⟨5, 12, 95, 50⟩ ∧
    decodeWord 0x6598DB09 = .cvtE4m3x2F32 ⟨4, 99, 54, 9⟩ ∧
    decodeWord 0x662029A6 = .cvtE5m2x2F32 ⟨1, 0, 83, 38⟩ ∧
    decodeWord 0x6915D57D = .cvtF64F32 ⟨0, 87, 42, 125⟩ ∧
    decodeWord 0x6ABD239A = .cvtF32F64 ⟨5, 116, 71, 26⟩ := by decide

theorem test_decode_a_4 :
    decodeWord 0x6B447237 = .qfp4 ⟨2, 17, 100, 55⟩ ∧
    decodeWord 0x6CEB80D4 = .dqfp4 ⟨7, 46, 1, 84⟩ ∧
    decodeWord 0x7092CF71 = .icmpEq ⟨4, 75, 30, 113⟩ ∧
    decodeWord 0x713A1D8E = .icmpNe ⟨1, 104, 59, 14⟩ ∧
    decodeWord 0x72C16C2B = .icmpLtS ⟨6, 5, 88, 43⟩ ∧
    decodeWord 0x7368BAC8 = .icmpLeS ⟨3, 34, 117, 72⟩ ∧
    decodeWord 0x740FC965 = .icmpLtU ⟨0, 63, 18, 101⟩ ∧
    decodeWord 0x75B71782 = .icmpLeU ⟨5, 92, 47, 2⟩ ∧
    decodeWord 0x765E661F = .fcmpEq ⟨2, 121, 76, 31⟩ ∧
    decodeWord 0x77E5B4BC = .fcmpNe ⟨7, 22, 105, 60⟩ ∧
    decodeWord 0x788CC359 = .fcmpLt ⟨4, 51, 6, 89⟩ ∧
    decodeWord 0x793411F6 = .fcmpLe ⟨1, 80, 35, 118⟩ ∧
    decodeWord 0x7ADB6013 = .fcmpUo ⟨6, 109, 64, 19⟩ ∧
    decodeWord 0x7B62AEB0 = .pand ⟨3, 10, 93, 48⟩ ∧
    decodeWord 0x7C09FD4D = .por ⟨0, 39, 122, 77⟩ ∧
    decodeWord 0x7DB10BEA = .pxor ⟨5, 68, 23, 106⟩ ∧
    decodeWord 0x7E585A07 = .pnot ⟨2, 97, 52, 7⟩ ∧
    decodeWord 0x8086F741 = .shflIdx ⟨4, 27, 110, 65⟩ ∧
    decodeWord 0x8403F135 = .voteAll ⟨0, 15, 98, 53⟩ ∧
    decodeWord 0x85AB3FD2 = .voteAny ⟨5, 44, 127, 82⟩ := by decide

theorem test_decode_a_5 :
    decodeWord 0x86524E6F = .voteBal ⟨2, 73, 28, 111⟩ ∧
    decodeWord 0x87F99C8C = .matchLanes ⟨7, 102, 57, 12⟩ ∧
    decodeWord 0x8880EB29 = .reduxAdd ⟨4, 3, 86, 41⟩ ∧
    decodeWord 0x892839C6 = .reduxMinS ⟨1, 32, 115, 70⟩ ∧
    decodeWord 0x8ACF4863 = .reduxMaxS ⟨6, 61, 16, 99⟩ ∧
    decodeWord 0x919ADF11 = .brx ⟨4, 107, 62, 17⟩ ∧
    decodeWord 0x93C97C4B = .ret ⟨6, 37, 120, 75⟩ ∧
    decodeWord 0x94708AE8 = .exit ⟨3, 66, 21, 104⟩ ∧
    decodeWord 0x9517D905 = .yield ⟨0, 95, 50, 5⟩ ∧
    decodeWord 0x9746763F = .launch ⟨2, 25, 108, 63⟩ ∧
    decodeWord 0x98ED84DC = .waitch ⟨7, 54, 9, 92⟩ ∧
    decodeWord 0x9994D379 = .tbarSync ⟨4, 83, 38, 121⟩ ∧
    decodeWord 0x9A3C2196 = .tbarArv ⟨1, 112, 67, 22⟩ ∧
    decodeWord 0x9C6ABED0 = .bkpt ⟨3, 42, 125, 80⟩ ∧
    decodeWord 0x9D11CD6D = .sleep ⟨0, 71, 26, 109⟩ := by decide

theorem test_decode_b_0 :
    decodeWord 0x1E05F53D = .shli ⟨0, 23, 106, 61⟩ ∧
    decodeWord 0x1FAD03DA = .shriU ⟨5, 52, 7, 90⟩ ∧
    decodeWord 0x20545277 = .shriS ⟨2, 81, 36, 119⟩ ∧
    decodeWord 0x21FBA094 = .iaddi ⟨7, 110, 65, 20⟩ ∧
    decodeWord 0x2D728EF0 = .lea ⟨3, 74, 29, 112⟩ ∧
    decodeWord 0x30487A47 = .b3ext ⟨2, 33, 116, 71⟩ ∧
    decodeWord 0x34C5743B = .ulea ⟨6, 21, 104, 59⟩ ∧
    decodeWord 0x5060AAA8 = .frnd ⟨3, 2, 85, 40⟩ ∧
    decodeWord 0x634A7E4F = .cvtF32F16 ⟨2, 41, 124, 79⟩ ∧
    decodeWord 0x64F18CEC = .cvtF32Bf16 ⟨7, 70, 25, 108⟩ ∧
    decodeWord 0x67C77843 = .cvtF32E4m3 ⟨6, 29, 112, 67⟩ ∧
    decodeWord 0x686E86E0 = .cvtF32E5m2 ⟨3, 58, 13, 96⟩ ∧
    decodeWord 0x7FFFA8A4 = .gset ⟨7, 126, 81, 36⟩ ∧
    decodeWord 0x812E05DE = .shflUp ⟨1, 56, 11, 94⟩ ∧
    decodeWord 0x82D5547B = .shflDn ⟨6, 85, 40, 123⟩ ∧
    decodeWord 0x837CA298 = .shflXor ⟨3, 114, 69, 24⟩ ∧
    decodeWord 0x8C1DE51D = .p2v ⟨0, 119, 74, 29⟩ ∧
    decodeWord 0x8DA533BA = .v2p ⟨5, 20, 103, 58⟩ ∧
    decodeWord 0x8E4C4257 = .lanemask ⟨2, 49, 4, 87⟩ ∧
    decodeWord 0x96BF27A2 = .setpri ⟨5, 124, 79, 34⟩ := by decide

theorem test_decode_c_0 :
    decodeWord 0x2282E49E = .movi ⟨4, 11, 9374⟩ ∧
    decodeWord 0x232A24BB = .movhi ⟨1, 40, 9403⟩ ∧
    decodeWord 0x24D164D8 = .ldk ⟨6, 69, 9432⟩ ∧
    decodeWord 0x3296E66E = .umovi ⟨4, 91, 9838⟩ ∧
    decodeWord 0x8B76AEED = .sreg ⟨3, 90, 12013⟩ ∧
    decodeWord 0x9BC370A0 = .trap ⟨6, 13, 12448⟩ := by decide

theorem test_decode_e_0 :
    decodeWord 0x90F00F0E = .bra ⟨7, 1052430⟩ ∧
    decodeWord 0x92300F48 = .call ⟨1, 1052488⟩ := by decide

theorem test_decode_d_0 :
    decodeWord 0xA0B91B96 = .ldUb ⟨5, 100, 55, 2, 3, 0⟩ ∧
    decodeWord 0xA1406A78 = .ldSb ⟨2, 1, 84, 15, 0, 0⟩ ∧
    decodeWord 0xA2E7B8E2 = .ldUh ⟨7, 30, 113, 12, 1, 0⟩ ∧
    decodeWord 0xA38EC74C = .ldSh ⟨4, 59, 14, 9, 2, 0⟩ ∧
    decodeWord 0xA43615B6 = .ldW ⟨1, 88, 43, 6, 3, 0⟩ ∧
    decodeWord 0xA5DD6418 = .ldD ⟨6, 117, 72, 3, 0, 0⟩ ∧
    decodeWord 0xA664B282 = .ldQ ⟨3, 18, 101, 0, 1, 0⟩ ∧
    decodeWord 0xA70BC16C = .stB ⟨0, 47, 2, 13, 2, 0⟩ ∧
    decodeWord 0xA8B30FD6 = .stH ⟨5, 76, 31, 10, 3, 0⟩ ∧
    decodeWord 0xA95A5E38 = .stW ⟨2, 105, 60, 7, 0, 0⟩ ∧
    decodeWord 0xAAE1ACA2 = .stD ⟨7, 6, 89, 4, 1, 0⟩ ∧
    decodeWord 0xAB88FB0C = .stQ ⟨4, 35, 118, 1, 2, 0⟩ ∧
    decodeWord 0xAC3009F6 = .ldaW ⟨1, 64, 19, 14, 3, 0⟩ ∧
    decodeWord 0xADD75858 = .ldaD ⟨6, 93, 48, 11, 0, 0⟩ ∧
    decodeWord 0xAE7EA6C2 = .stlW ⟨3, 122, 77, 8, 1, 0⟩ ∧
    decodeWord 0xAF05F52C = .stlD ⟨0, 23, 106, 5, 2, 0⟩ ∧
    decodeWord 0xB6789A83 = .atomAdd ⟨3, 98, 53, 0, 1, 1⟩ ∧
    decodeWord 0xB71FE96D = .atomAdd64 ⟨0, 127, 82, 13, 2, 1⟩ ∧
    decodeWord 0xB8A737D7 = .atomMinS ⟨5, 28, 111, 10, 3, 1⟩ ∧
    decodeWord 0xB94E4639 = .atomMaxS ⟨2, 57, 12, 7, 0, 1⟩ := by decide

theorem test_decode_d_1 :
    decodeWord 0xBAF594A3 = .atomAnd ⟨7, 86, 41, 4, 1, 1⟩ ∧
    decodeWord 0xBB9CE30D = .atomOr ⟨4, 115, 70, 1, 2, 1⟩ ∧
    decodeWord 0xBC2431F7 = .atomXchg ⟨1, 16, 99, 14, 3, 1⟩ ∧
    decodeWord 0xBDCB4059 = .atomCas ⟨6, 45, 0, 11, 0, 1⟩ ∧
    decodeWord 0xBE728EC3 = .atomFadd ⟨3, 74, 29, 8, 1, 1⟩ := by decide

theorem test_decode_ds_0 :
    decodeWord 0xB0AD03E5 = .ldsW ⟨5, 52, 7, 6, 5⟩ ∧
    decodeWord 0xB1545232 = .ldsD ⟨2, 81, 36, 3, 2⟩ ∧
    decodeWord 0xB2FBA08F = .ldsQ ⟨7, 110, 65, 0, 15⟩ ∧
    decodeWord 0xB382EF5C = .stsW ⟨4, 11, 94, 5, 12⟩ ∧
    decodeWord 0xB42A3DA9 = .stsD ⟨1, 40, 123, 2, 9⟩ ∧
    decodeWord 0xB5D14C76 = .stsQ ⟨6, 69, 24, 7, 6⟩ := by decide

theorem test_decode_fence_0 :
    decodeWord 0xBF19C078 = .fence ⟨0, 103, 1, 3, 8⟩ := by decide

theorem test_decode_f_0 :
    decodeWord 0xC0154D10 = .mmaE2m1 ⟨0, 0, 1, 42, 13, 16⟩ ∧
    decodeWord 0xC1A8EA2D = .mmaE4m3 ⟨1, 0, 2, 71, 10, 45⟩ ∧
    decodeWord 0xC27C874A = .mmaE5m2 ⟨0, 1, 3, 100, 7, 74⟩ ∧
    decodeWord 0xC3C02467 = .mmaBf16 ⟨1, 1, 0, 1, 4, 103⟩ ∧
    decodeWord 0xC413C184 = .mmaF16 ⟨0, 0, 1, 30, 1, 132⟩ ∧
    decodeWord 0xC5A77EA1 = .mmaI8 ⟨1, 0, 2, 59, 30, 161⟩ ∧
    decodeWord 0xC67B1BBE = .accmv ⟨0, 1, 3, 88, 27, 190⟩ ∧
    decodeWord 0xC7CEB8DB = .accrd ⟨1, 1, 0, 117, 24, 219⟩ ∧
    decodeWord 0xC81255F8 = .accwr ⟨0, 0, 1, 18, 21, 248⟩ := by decide

theorem test_decode_att_0 :
    decodeWord 0xC98B9FC2 = .atqk ⟨1, 0, 92, 31, 194⟩ ∧
    decodeWord 0xCA4F3CDF = .atsm ⟨0, 1, 121, 28, 223⟩ ∧
    decodeWord 0xCBC2D9FC = .atpv ⟨1, 1, 22, 25, 252⟩ ∧
    decodeWord 0xCC067619 = .atfn ⟨0, 0, 51, 22, 25⟩ := by decide

theorem test_decode_g_0 :
    decodeWord 0xD0DC4FB0 = .hbindSpad ⟨6, 3, 8, 19, 118⟩ ∧
    decodeWord 0xD062C099 = .hbindRec ⟨3, 0, 5, 16, 19⟩ ∧
    decodeWord 0xD0093582 = .hbindOff ⟨0, 1, 2, 13, 48⟩ ∧
    decodeWord 0xD0B7AA6B = .hbindSeek ⟨5, 2, 15, 10, 77⟩ ∧
    decodeWord 0xD38B0520 = .xbarInit ⟨4, 1, 6, 1, 36⟩ ∧
    decodeWord 0xD431FA08 = .xbarArv ⟨1, 2, 3, 30, 65⟩ ∧
    decodeWord 0xD4D86EF1 = .xbarArvExp ⟨6, 3, 0, 27, 94⟩ ∧
    decodeWord 0xD466E3DA = .xbarArvAck ⟨3, 0, 13, 24, 123⟩ ∧
    decodeWord 0xD65A3E91 = .qdeqTry ⟨2, 3, 4, 15, 82⟩ ∧
    decodeWord 0xD7E0B378 = .qenq ⟨7, 0, 1, 12, 111⟩ ∧
    decodeWord 0xD78F2461 = .qenqTry ⟨4, 1, 14, 9, 12⟩ ∧
    decodeWord 0xD8359948 = .treeFork ⟨1, 2, 11, 6, 41⟩ ∧
    decodeWord 0xD8DC0E31 = .treePrune ⟨6, 3, 8, 3, 70⟩ ∧
    decodeWord 0xD862831A = .treeCommit ⟨3, 0, 5, 0, 99⟩ ∧
    decodeWord 0xD8097403 = .treeAppend ⟨0, 1, 2, 29, 0⟩ ∧
    decodeWord 0xD8B7E8EC = .treeAdopt ⟨5, 2, 15, 26, 29⟩ ∧
    decodeWord 0xD85E5DD5 = .treeQctx ⟨2, 3, 12, 23, 58⟩ ∧
    decodeWord 0xD8E4D2BE = .treeQuery ⟨7, 0, 9, 20, 87⟩ ∧
    decodeWord 0xD98B47A0 = .kvbindKp ⟨4, 1, 6, 17, 116⟩ ∧
    decodeWord 0xD931B889 = .kvbindVp ⟨1, 2, 3, 14, 17⟩ := by decide

theorem test_decode_g_1 :
    decodeWord 0xD9D82D72 = .kvbindKt ⟨6, 3, 0, 11, 46⟩ ∧
    decodeWord 0xD966A25B = .kvbindVt ⟨3, 0, 13, 8, 75⟩ ∧
    decodeWord 0xD90D1744 = .kvbindWk ⟨0, 1, 10, 5, 104⟩ ∧
    decodeWord 0xD9B3882D = .kvbindWv ⟨5, 2, 7, 2, 5⟩ ∧
    decodeWord 0xDA5A7D10 = .sampleSubmit ⟨2, 3, 4, 31, 34⟩ ∧
    decodeWord 0xDAE0F1F9 = .sampleVerify ⟨7, 0, 1, 28, 63⟩ ∧
    decodeWord 0xDB8F66E0 = .collAllred ⟨4, 1, 14, 25, 92⟩ ∧
    decodeWord 0xDB35DBC9 = .collAllgath ⟨1, 2, 11, 22, 121⟩ ∧
    decodeWord 0xDBDC4CB2 = .collRedscat ⟨6, 3, 8, 19, 22⟩ ∧
    decodeWord 0xDB62C19B = .collHistmrg ⟨3, 0, 5, 16, 51⟩ := by decide

theorem test_decode_copy_0 :
    decodeWord 0xD15E1F51 = .tcopy ⟨2, 3, 12, 7, 106, 0, 1⟩ ∧
    decodeWord 0xD2E49039 = .tstore ⟨7, 0, 9, 4, 7, 0, 1⟩ := by decide

theorem test_decode_block_0 :
    decodeWord 0xD5003F90 = .xbarWait ⟨0, 15, 114⟩ ∧
    decodeWord 0xD6A03078 = .qdeq ⟨5, 12, 15⟩ := by decide

theorem test_decode_sys_0 :
    decodeWord 0xDC15D500 = .csrrd ⟨0, 87, 42⟩ ∧
    decodeWord 0xDCBD2381 = .csrwr ⟨5, 116, 71⟩ ∧
    decodeWord 0xDC447202 = .eret ⟨2, 17, 100⟩ ∧
    decodeWord 0xDCEB8083 = .tlbinv ⟨7, 46, 1⟩ ∧
    decodeWord 0xDC92CF04 = .winrd ⟨4, 75, 30⟩ ∧
    decodeWord 0xDC3A1D85 = .winwr ⟨1, 104, 59⟩ ∧
    decodeWord 0xDCC16C06 = .ctxsave ⟨6, 5, 88⟩ ∧
    decodeWord 0xDC68BA87 = .ctxload ⟨3, 34, 117⟩ ∧
    decodeWord 0xDC0FC908 = .halt ⟨0, 63, 18⟩ := by decide

/-! ### Well-formedness: a term that each check refuses -/

theorem test_illformed_registers :
    (Instr.iadd ⟨0, 96, 1, 2⟩).wellFormed = false ∧ (Instr.iadd64 ⟨0, 3, 4, 6⟩).wellFormed = false ∧
    (Instr.iadd64 ⟨0, 2, 5, 6⟩).wellFormed = false ∧ (Instr.ldQ ⟨0, 6, 8, 0, 0, 0⟩).wellFormed = false ∧
    (Instr.umov ⟨0, 95, 1, 0⟩).wellFormed = false ∧ (Instr.ulea ⟨0, 97, 1, 0⟩).wellFormed = false ∧
    (Instr.accmv ⟨0, 0, 0, 95, 0, 0⟩).wellFormed = false ∧ (Instr.mmaBf16 ⟨0, 0, 0, 96, 0, 0⟩).wellFormed = false ∧
    (Instr.mmaBf16 ⟨0, 0, 0, 2, 0, 0⟩).wellFormed = false ∧ (Instr.mmaE2m1 ⟨0, 0, 0, 80, 0, 0⟩).wellFormed = false ∧
    (Instr.accrd ⟨0, 0, 0, 97, 0, 0⟩).wellFormed = false ∧ (Instr.accrd ⟨0, 0, 0, 6, 0, 0⟩).wellFormed = false ∧
    (Instr.accrd ⟨0, 0, 0, 84, 0, 0⟩).wellFormed = false ∧ (Instr.stQ ⟨0, 126, 8, 0, 0, 0⟩).wellFormed = false ∧
    (encodingCheck (.iadd ⟨0, 40, 1, 2⟩) 40 false) = some (4, 40) := by decide +kernel

theorem test_illformed_predicates_blocks_handles_tiles :
    (Instr.icmpEq ⟨0, 96, 1, 2⟩).wellFormed = false ∧ (Instr.pand ⟨0, 1, 96, 2⟩).wellFormed = false ∧
    (Instr.p2v ⟨0, 1, 65, 32⟩).wellFormed = false ∧ (Instr.v2p ⟨0, 65, 1, 32⟩).wellFormed = false ∧
    (Instr.hbindRec ⟨0, 0, 0, 0, 3⟩).wellFormed = false ∧ (Instr.sampleSubmit ⟨0, 0, 0, 0, 90⟩).wellFormed = false ∧
    (Instr.tcopy ⟨0, 0, 0, 0, 127, 0, 0⟩).wellFormed = false ∧ (Instr.mmaF16 ⟨0, 0, 2, 0, 31, 0⟩).wellFormed = false ∧
    (Instr.mmaF16 ⟨0, 0, 3, 0, 29, 0⟩).wellFormed = false ∧ (Instr.atqk ⟨0, 0, 0, 0, 1⟩).wellFormed = false ∧
    (Instr.atsm ⟨0, 0, 96, 0, 1⟩).wellFormed = false ∧
    encodingCheck (.eret ⟨0, 0, 0⟩) 96 false = some (10, 0) := by decide +kernel

theorem test_illformed_fields :
    (Instr.lea ⟨0, 2, 3, 5⟩).wellFormed = false ∧ (Instr.ulea ⟨0, 98, 3, 5⟩).wellFormed = false ∧
    (Instr.b3ext ⟨0, 1, 2, 5⟩).wellFormed = false ∧ (Instr.b3ext ⟨0, 1, 2, 32⟩).wellFormed = false ∧
    (Instr.frnd ⟨0, 1, 2, 4⟩).wellFormed = false ∧ (Instr.cvtF32F16 ⟨0, 1, 2, 2⟩).wellFormed = false ∧
    (Instr.gset ⟨0, 0, 1, 0⟩).wellFormed = false ∧ (Instr.gset ⟨0, 8, 1, 0⟩).wellFormed = false ∧
    (Instr.gset ⟨1, 1, 1, 0⟩).wellFormed = false ∧ (Instr.gset ⟨0, 1, 1, 4⟩).wellFormed = false ∧
    (Instr.gset ⟨0, 1, 96, 1⟩).wellFormed = false ∧ (Instr.shflUp ⟨0, 1, 2, 96⟩).wellFormed = false ∧
    (Instr.p2v ⟨0, 1, 2, 0⟩).wellFormed = false ∧ (Instr.v2p ⟨0, 1, 2, 33⟩).wellFormed = false ∧
    (Instr.lanemask ⟨0, 1, 0, 5⟩).wellFormed = false ∧ (Instr.sreg ⟨0, 1, 3⟩).wellFormed = false ∧
    (Instr.setpri ⟨0, 0, 0, 8⟩).wellFormed = false ∧ (Instr.fence ⟨0, 1, 0, 0, 1⟩).wellFormed = false ∧
    (Instr.fence ⟨0, 1, 0, 1, 5⟩).wellFormed = false ∧ (Instr.accmv ⟨0, 0, 2, 96, 0, 0⟩).wellFormed = false ∧
    (Instr.accrd ⟨0, 0, 3, 0, 0, 0⟩).wellFormed = false ∧ (Instr.accwr ⟨0, 0, 3, 0, 0, 0⟩).wellFormed = false ∧
    (Instr.reservedOpcode 0x35000000).wellFormed = false := by decide +kernel

theorem test_illformed_events :
    (Event.turnGrant 2048 0).unitsExist = false ∧ (Event.turnTimeLimit 0 4).unitsExist = false ∧
    (Event.recordDelivery 16).unitsExist = false ∧ (Event.pageWalk 0 64 0 .load).unitsExist = false ∧
    (Event.walkAheadTranslation 512 0 0 .load).unitsExist = false ∧ (Event.boardPass 512).unitsExist = false ∧
    (Event.ltTick 2).unitsExist = false ∧ (Event.fabricRead 256 0 0 false none).unitsExist = false ∧
    (Event.hostAccess (.readMem (2 ^ 40) 1)).unitsExist = false ∧ (Event.hostAccess (.readWindow (2 ^ 20) 1)).unitsExist = false ∧
    (Event.hostAccess (.readControl 65536)).unitsExist = false ∧ (Event.l2Eviction (2 ^ 46)).unitsExist = false ∧
    (Event.launchTrigger 4096 0).unitsExist = false ∧ (Event.batchFormerStep 64).unitsExist = false ∧
    (Event.guardResolve 2048 false).unitsExist = false ∧ (Event.csrWrite 0 128 0).unitsExist = false ∧
    (Event.ownerWrite 0 0).unitsExist = false ∧ (Event.versionSelect 4 0x18 0).unitsExist = false ∧
    (Event.thermalThrottle 3 95).unitsExist = false ∧ (Event.structureFailed (.quad 512)).unitsExist = false ∧
    (Event.structureFailed (.pseudoChannel 16)).unitsExist = false ∧ (Event.structureFailed (.linkLane 36)).unitsExist = false ∧
    (Event.pchanCopyComplete 16).unitsExist = false ∧ (Event.linkTraining 36 0 0).unitsExist = false ∧
    (Event.deviceDeadDeclared 256).unitsExist = false ∧ (Event.l2PrefetchTranslation 2 0 0).unitsExist = false := by decide +kernel

/-! ### States that meet the hypotheses of the statements -/

/-- Words of IntegerResults issue. -/
theorem test_meets_integer_results :
    ([.iadd ⟨1, 4, 8, 12⟩, .isub ⟨1, 4, 8, 12⟩, .imul ⟨1, 4, 8, 12⟩, .imulhiS ⟨1, 4, 8, 12⟩,
      .imulhiU ⟨1, 4, 8, 12⟩, .imad ⟨1, 4, 8, 12⟩, .iminS ⟨1, 4, 8, 12⟩, .iminU ⟨1, 4, 8, 12⟩,
      .imaxS ⟨1, 4, 8, 12⟩, .imaxU ⟨1, 4, 8, 12⟩, .iabs ⟨1, 4, 8, 12⟩, .ineg ⟨1, 4, 8, 12⟩,
      .idot4Sb ⟨1, 4, 8, 12⟩, .idot4Ub ⟨1, 4, 8, 12⟩, .iadd64 ⟨1, 4, 8, 12⟩, .isub64 ⟨1, 4, 8, 12⟩] : List Instr).all (fun i => ready i (latched i)) = true := by decide +kernel

/-- Words of IntegerResults issue. -/
theorem test_meets_integer_results_2 :
    ([.imadwS ⟨1, 4, 8, 12⟩, .imadwU ⟨1, 4, 8, 12⟩, .lea ⟨1, 4, 8, 1⟩, .bfeU ⟨1, 4, 8, 12⟩,
      .bfeS ⟨1, 4, 8, 12⟩, .bfi ⟨1, 4, 8, 12⟩, .b3ext ⟨1, 4, 8, 1⟩, .iaddi ⟨1, 4, 8, 1⟩,
      .movi ⟨1, 4, 5⟩, .movhi ⟨1, 4, 5⟩, .mov ⟨1, 4, 8, 12⟩, .sel ⟨1, 4, 8, 12⟩] : List Instr).all (fun i => ready i (latched i)) = true := by decide +kernel

/-- Words of DivisionResults issue. -/
theorem test_meets_division_results :
    ([.idivU ⟨1, 4, 8, 12⟩, .iremU ⟨1, 4, 8, 12⟩, .idivS ⟨1, 4, 8, 12⟩, .iremS ⟨1, 4, 8, 12⟩] : List Instr).all (fun i => ready i (latched i)) = true := by decide +kernel

/-- Words of LogicShiftResults issue. -/
theorem test_meets_logic_shift_results :
    ([.and ⟨1, 4, 8, 12⟩, .or ⟨1, 4, 8, 12⟩, .xor ⟨1, 4, 8, 12⟩, .andn ⟨1, 4, 8, 12⟩,
      .not ⟨1, 4, 8, 12⟩, .shl ⟨1, 4, 8, 12⟩, .shrU ⟨1, 4, 8, 12⟩, .shrS ⟨1, 4, 8, 12⟩,
      .rotl ⟨1, 4, 8, 12⟩, .shli ⟨1, 4, 8, 1⟩, .shriU ⟨1, 4, 8, 1⟩, .shriS ⟨1, 4, 8, 1⟩,
      .popc ⟨1, 4, 8, 12⟩, .clz ⟨1, 4, 8, 12⟩, .brev ⟨1, 4, 8, 12⟩] : List Instr).all (fun i => ready i (latched i)) = true := by decide +kernel

/-- Words of UniformResults issue. -/
theorem test_meets_uniform_results :
    ([.umov ⟨1, 100, 8, 12⟩, .umovi ⟨1, 100, 5⟩, .uadd ⟨1, 100, 8, 12⟩, .ulea ⟨1, 100, 8, 1⟩] : List Instr).all (fun i => ready i (latched i)) = true := by decide +kernel

/-- Words of FloatResults issue. -/
theorem test_meets_float_results :
    ([.fadd ⟨1, 4, 8, 12⟩, .fsub ⟨1, 4, 8, 12⟩, .fmul ⟨1, 4, 8, 12⟩, .ffma ⟨1, 4, 8, 12⟩,
      .fmin ⟨1, 4, 8, 12⟩, .fmax ⟨1, 4, 8, 12⟩, .fabs ⟨1, 4, 8, 12⟩, .fneg ⟨1, 4, 8, 12⟩,
      .fdiv ⟨1, 4, 8, 12⟩, .fsqrt ⟨1, 4, 8, 12⟩, .frcp ⟨1, 4, 8, 12⟩, .frsq ⟨1, 4, 8, 12⟩,
      .fex2 ⟨1, 4, 8, 12⟩, .flg2 ⟨1, 4, 8, 12⟩, .fsint ⟨1, 4, 8, 12⟩, .fcost ⟨1, 4, 8, 12⟩] : List Instr).all (fun i => ready i (latched i)) = true := by decide +kernel

/-- Words of FloatResults issue. -/
theorem test_meets_float_results_2 :
    ([.frnd ⟨1, 4, 8, 1⟩, .fldexp ⟨1, 4, 8, 12⟩, .fexpo ⟨1, 4, 8, 12⟩, .fclass ⟨1, 4, 8, 12⟩,
      .hadd2 ⟨1, 4, 8, 12⟩, .hmul2 ⟨1, 4, 8, 12⟩, .hfma2 ⟨1, 4, 8, 12⟩, .badd2 ⟨1, 4, 8, 12⟩,
      .bmul2 ⟨1, 4, 8, 12⟩, .bfma2 ⟨1, 4, 8, 12⟩, .dadd ⟨1, 4, 8, 12⟩, .dmul ⟨1, 4, 8, 12⟩,
      .dfma ⟨1, 4, 8, 12⟩] : List Instr).all (fun i => ready i (latched i)) = true := by decide +kernel

/-- Words of ConversionResults issue. -/
theorem test_meets_conversion_results :
    ([.cvtF32Sw ⟨1, 4, 8, 12⟩, .cvtF32Uw ⟨1, 4, 8, 12⟩, .cvtSwF32 ⟨1, 4, 8, 12⟩, .cvtUwF32 ⟨1, 4, 8, 12⟩,
      .cvtF16x2F32 ⟨1, 4, 8, 12⟩, .cvtBf16x2F32 ⟨1, 4, 8, 12⟩, .cvtF32F16 ⟨1, 4, 8, 1⟩, .cvtF32Bf16 ⟨1, 4, 8, 1⟩,
      .cvtE4m3x2F32 ⟨1, 4, 8, 12⟩, .cvtE5m2x2F32 ⟨1, 4, 8, 12⟩, .cvtF32E4m3 ⟨1, 4, 8, 1⟩, .cvtF32E5m2 ⟨1, 4, 8, 1⟩,
      .cvtF64F32 ⟨1, 4, 8, 12⟩, .cvtF32F64 ⟨1, 4, 8, 12⟩, .qfp4 ⟨1, 4, 8, 12⟩, .dqfp4 ⟨1, 4, 8, 12⟩] : List Instr).all (fun i => ready i (latched i)) = true := by decide +kernel

/-- Words of CompareResults issue. -/
theorem test_meets_compare_results :
    ([.icmpEq ⟨1, 4, 8, 12⟩, .icmpNe ⟨1, 4, 8, 12⟩, .icmpLtS ⟨1, 4, 8, 12⟩, .icmpLeS ⟨1, 4, 8, 12⟩,
      .icmpLtU ⟨1, 4, 8, 12⟩, .icmpLeU ⟨1, 4, 8, 12⟩, .fcmpEq ⟨1, 4, 8, 12⟩, .fcmpNe ⟨1, 4, 8, 12⟩,
      .fcmpLt ⟨1, 4, 8, 12⟩, .fcmpLe ⟨1, 4, 8, 12⟩, .fcmpUo ⟨1, 4, 8, 12⟩] : List Instr).all (fun i => ready i (latched i)) = true := by decide +kernel

/-- Words of PredicateResults issue. -/
theorem test_meets_predicate_results :
    ([.pand ⟨1, 4, 8, 12⟩, .por ⟨1, 4, 8, 12⟩, .pxor ⟨1, 4, 8, 12⟩, .pnot ⟨1, 4, 8, 12⟩,
      .gset ⟨0, 3, 4, 1⟩, .p2v ⟨1, 4, 8, 1⟩, .v2p ⟨1, 4, 8, 1⟩, .lanemask ⟨1, 4, 8, 1⟩,
      .shflIdx ⟨1, 4, 8, 12⟩, .shflUp ⟨1, 4, 8, 1⟩, .shflDn ⟨1, 4, 8, 1⟩, .shflXor ⟨1, 4, 8, 1⟩,
      .voteAll ⟨1, 4, 8, 12⟩, .voteAny ⟨1, 4, 8, 12⟩, .voteBal ⟨1, 4, 8, 12⟩, .matchLanes ⟨1, 4, 8, 12⟩] : List Instr).all (fun i => ready i (latched i)) = true := by decide +kernel

/-- Words of PredicateResults issue. -/
theorem test_meets_predicate_results_2 :
    ([.reduxAdd ⟨1, 4, 8, 12⟩, .reduxMinS ⟨1, 4, 8, 12⟩, .reduxMaxS ⟨1, 4, 8, 12⟩] : List Instr).all (fun i => ready i (latched i)) = true := by decide +kernel

/-- Words of SpecialRegisterResults issue. -/
theorem test_meets_special_register_results :
    ([.sreg ⟨1, 4, 5⟩] : List Instr).all (fun i => ready i (latched i)) = true := by decide +kernel

/-- Words of TurnWords issue. -/
theorem test_meets_turn_words :
    ([.nop ⟨1, 4, 8, 12⟩, .yield ⟨1, 4, 8, 12⟩, .setpri ⟨1, 4, 8, 1⟩, .sleep ⟨1, 4, 8, 12⟩] : List Instr).all (fun i => ready i (latched i)) = true := by decide +kernel

/-- Words of ExitEndsLanes issue. -/
theorem test_meets_exit_ends_lanes :
    ([.exit ⟨1, 4, 8, 12⟩] : List Instr).all (fun i => ready i (latched i)) = true := by decide +kernel

/-- Words of TrapsSuspend issue. -/
theorem test_meets_traps_suspend :
    ([.trap ⟨1, 4, 5⟩, .bkpt ⟨1, 4, 8, 12⟩] : List Instr).all (fun i => ready i (latched i)) = true := by decide +kernel

/-- Words of CsrWords issue. -/
theorem test_meets_csr_words :
    ([.csrrd ⟨1, 4, 8⟩, .csrwr ⟨1, 4, 8⟩] : List Instr).all (fun i => ready i (latched i)) = true := by decide +kernel

/-- The code word at an offset, read through the TLB of the issuing group's core (`codeHit`). -/
def codeWord (s : State) (off : Nat) : Option Word :=
  let va := s.codeVa (s.spaceOf s.cur.grp) off
  if hits s va .fetch va && (s.spanFault va 4 false).isNone then some (BitVec.ofNat 32 (s.peekLE va 4)) else none

theorem codeWord_spec (s : State) (off : Nat) (w : Word) (h : codeWord s off = some w) : s.codeHit s.cur.grp off w := by
  unfold codeWord at h
  simp only at h
  split at h
  · rename_i hh
    simp only [Bool.and_eq_true, Option.isNone_iff_eq_none] at hh
    obtain ⟨-, h1, e, h2, h3, h4⟩ := hits_spec _ _ _ _ hh.1
    simp only [Option.some.injEq] at h
    exact ⟨h1, e, h2, h3, h4 ▸ hh.2, by rw [← h, ← h4]⟩
  · simp at h

/-- Every lane of a branch meets a good header (`goodTarget`). -/
def lands (s : State) (H : Nat) : Bool :=
  H % 4 = 0 && H < 2 ^ 32 && match codeWord s (H / 64 * 64), codeWord s H with
    | some h0, some h => !hdrData h0 && !hdrData h && ((hdrReason h (H % 64 / 4) true).isNone &&
      (s.group? s.cur.grp).all fun g => !g.fetchWait.contains (H / 64 * 64))
    | _, _ => false

theorem lands_spec (s : State) (H : Nat) (h : lands s H = true) : s.goodTarget s.cur.grp H := by
  unfold lands at h
  simp only [Bool.and_eq_true, decide_eq_true_eq] at h
  obtain ⟨⟨h1, h2⟩, h3⟩ := h
  split at h3
  · rename_i h0 w e0 e1
    simp only [Bool.and_eq_true, Bool.not_eq_true', Option.isNone_iff_eq_none] at h3
    refine ⟨h1, h2, h0, w, codeWord_spec _ _ _ e0, h3.1.1, codeWord_spec _ _ _ e1, h3.1.2, h3.2.1, fun g hg hm => ?_⟩
    have h4 := h3.2.2
    rw [hg] at h4
    simp [hm] at h4
  · simp at h3

/-- The word latched, with the block at offset 64 a clause of its own. -/
def withBlock (i : Instr) : State :=
  let s := warm (latched i)
  { s with mem := memWriteLE s.mem 0x10040 64 (headerFor 0) }

/-- A branch to the block at 64: by offset 15 from the word at 4, or through a register. -/
theorem test_meets_branches :
    ([.bra ⟨0, 15⟩, .call ⟨0, 15⟩, .brx ⟨0, 0, 8, 0⟩, .ret ⟨0, 0, 8, 0⟩] : List Instr).all (fun i =>
      let s := vec (withBlock i) 8 64
      ready i s && lands s 64 && (s.cur.pc + 4 * (15 : BitVec 21).signExtend 32).toNat = 64 && ((me s).reg 8 31).toNat = 64) = true := by
  decide +kernel

/-- EXIT by all lanes, by lane 31 alone, and by none. -/
theorem test_meets_exit :
    let i := Instr.exit ⟨1, 0, 0, 0⟩
    let p (w : Word) := grp (latched i) fun g => { g with guards := [(1, ⟨5, false⟩)], preds := [(5, w)] }
    ready i (latched i) = true ∧ ready i (p 0x80000000) = true ∧
    (p 0x80000000).admitted (me (p 0x80000000)) = 0x80000000 ∧ issues i (p 0) = true ∧ (p 0).admitted (me (p 0)) = 0 := by
  decide +kernel

/-- SLEEP of 0, of 1,048,576 and of more cycles. -/
theorem test_meets_sleep :
    let i := Instr.sleep ⟨0, 0, 8, 0⟩
    ([0, 1048576, 0xFFFFFFFF] : List Word).all (fun v =>
      let s := vec (latched i) 8 v
      ready i s && s.cur.grp < 0x20000 && (s.admitted (me s)).getLsbD (lowestLane s.cur.active)) = true := by decide +kernel

/-- A word whose destination is no vector register, and one whose source pair is odd. -/
theorem test_meets_illegal_instruction :
    ([.iadd ⟨3, 96, 1, 2⟩, .ldW ⟨0, 4, 9, 0, 0, 0⟩] : List Instr).all (fun i =>
      let s := latched i
      presented i s && s.cur.grp < 0x20000 && (issueCheck s.freeCtr i s.cur (me s)).isSome && isWord i) = true := by decide +kernel

/-- Unassigned words: the first and last opcode of each reserved range, and reserved sub-operations. -/
theorem test_meets_reserved_words :
    ([0x35000000, 0x3FFFFFFF, 0x6D000000, 0x8F000000, 0x9E000000, 0x9F000000, 0xCD000000, 0xDD000000, 0xDF000000, 0xE0000000,
      0xFFFFFFFF, 0xD5080000, 0xD6008000] : List Word).all (fun w =>
      let i := Instr.reservedOpcode w
      let s := latched i
      presented i s && s.cur.word = w && decodeWord w = i && s.cur.grp < 0x20000 &&
        (classAdmits (hdrClass s.cur.head) (w.toNat / 2 ^ 24) || opcodeReserved (w.toNat / 2 ^ 24) || 0xE0 ≤ w.toNat / 2 ^ 24)) = true := by decide +kernel

/-- A word of format SYS before a group that is not privileged. -/
theorem test_meets_sys_outside_privileged :
    ([.halt ⟨0, 0, 0⟩, .csrrd ⟨0, 4, 16⟩, .tlbinv ⟨0, 4, 6⟩] : List Instr).all (fun i =>
      let s0 := latched (.nop ⟨0, 0, 0, 0⟩)
      let s := { s0 with cur := { s0.cur with word := (encode i).getD 0, head := BitVec.ofNat 32 (headerFor 0xDC) } }
      presented i s && s.cur.grp < 0x20000 && !(me s).privileged && hdrClass s.cur.head = 4 && s.cur.word.toNat / 2 ^ 24 = 0xDC &&
        (opnds i).contains Opnd.sys && (opnds i).flatMap (Opnd.faults (me s).regs true) = []) = true := by decide +kernel

/-- The memory words at address 0, and at the top of the lowest GiB, with the first and the second way of counting. -/
theorem test_meets_memory_words :
    ([(Instr.ldUb, AccessKind.load, 1), (.ldSb, .load, 1), (.ldUh, .load, 2), (.ldSh, .load, 2), (.ldW, .load, 4), (.ldD, .load, 8),
      (.ldQ, .load, 16), (.stB, .store, 1), (.stH, .store, 2), (.stW, .store, 4), (.stD, .store, 8), (.stQ, .store, 16),
      (.ldaW, .load, 4), (.ldaD, .load, 8), (.stlW, .store, 4), (.stlD, .store, 8), (.atomAdd, .atomic, 4), (.atomAdd64, .atomic, 8),
      (.atomMinS, .atomic, 4), (.atomMaxS, .atomic, 4), (.atomAnd, .atomic, 4), (.atomOr, .atomic, 4), (.atomXchg, .atomic, 4),
      (.atomCas, .atomic, 4), (.atomFadd, .atomic, 4)] : List ((FmtD → Instr) × AccessKind × Nat)).all (fun (mk, kind, n) =>
      let i := mk ⟨1, 4, 8, 2, 1, 1⟩
      let s := warm (latched i)
      let top := 2 ^ 30 - n
      let z := vec (warm (latched (mk ⟨1, 4, 8, 15, 0, 0⟩))) 8 (BitVec.ofNat 32 top)
      let off := grp s fun g => { g with guards := [(1, ⟨5, false⟩)] }
      ready i s && (s.freeEntry (partOf s.cur.grp)).isSome && (me s).canCount 1 && !s.hasLog s.cur.grp &&
        hits s 0 kind 0 && (lanesOf (s.admitted (me s))).all (fun l => (me s).regN 8 l 2 = 0) &&
        ready (mk ⟨1, 4, 8, 15, 0, 0⟩) z && hits z top kind top && canonical top && top % n = 0 && (me z).regN 8 31 2 = top &&
        issues i off && off.admitted (me off) = 0) = true := by decide +kernel

/-- Global addresses: the lowest that is not canonical, and one that is no multiple of the access size. -/
theorem test_meets_memory_traps :
    ([(Instr.ldUb, 1), (.ldUh, 2), (.ldW, 4), (.ldD, 8), (.ldQ, 16), (.stB, 1), (.stH, 2), (.stW, 4), (.stD, 8), (.stQ, 16), (.ldaW, 4),
      (.ldaD, 8), (.stlW, 4), (.stlD, 8), (.atomAdd, 4), (.atomAdd64, 8), (.atomMinS, 4), (.atomMaxS, 4), (.atomAnd, 4), (.atomOr, 4),
      (.atomXchg, 4), (.atomCas, 4), (.atomFadd, 4), (.ldSb, 1), (.ldSh, 2)] : List ((FmtD → Instr) × Nat)).all (fun (mk, n) =>
      let i := mk ⟨1, 4, 8, 2, 1, 1⟩
      let nc := vec (latched i) 9 0x01000000
      let mis := vec (latched i) 8 (BitVec.ofNat 32 (n - 1))
      let va (s : State) (l : Nat) := (me s).regN 8 l 2
      ready i nc && nc.cur.grp < 0x20000 && !canonical (va nc 0) && canonical (2 ^ 56 - 1) && va nc 0 = 2 ^ 56 &&
        ready i mis && canonical (va mis 0) && (n = 1 || va mis 0 % n ≠ 0)) = true := by decide +kernel

/-- Scratchpad addresses: the last that fits, the first beyond the allocation, and one that is no multiple of the size. -/
theorem test_meets_scratchpad :
    ([(Instr.ldsW, false, 4), (.ldsD, false, 8), (.ldsQ, false, 16), (.stsW, true, 4), (.stsD, true, 8), (.stsQ, true, 16)] :
      List ((FmtDS → Instr) × Bool × Nat)).all (fun (mk, st, n) =>
      let i := mk ⟨1, 4, 8, 1, 0⟩
      let fit := vec (latched i) 8 (BitVec.ofNat 32 (4096 - n))
      let out := vec (latched i) 8 4096
      let mis := vec (latched i) 8 1
      ready i fit && (fit.teamOf fit.cur.grp).isSome && (fit.freeEntry (partOf fit.cur.grp)).isSome && !fit.hasLog fit.cur.grp &&
        fit.accesses.isEmpty && (me fit).fences.isEmpty && fit.spadCause fit.cur.grp (4096 - n) n st = 0 && (4096 - n) % n = 0 &&
        ready i out && out.spadCause out.cur.grp 4096 n st ≠ 0 && ready i mis && 1 % n ≠ 0) = true := by decide +kernel

theorem test_meets_ldk :
    let i := Instr.ldk ⟨0, 4, 5⟩
    let s := warm (latched i)
    ready i s = true ∧ s.spanFault 0x10018 4 false = none ∧
      hits s (s.codeVa (s.spaceOf s.cur.grp) (s.cur.pc + 4 * (5 : BitVec 14).signExtend 32).toNat) .ldk 0x10018 = true := by
  decide +kernel

/-- An access of lane 0 of the issuing group, of instruction 0. -/
def flies (s : State) (kind : AccessKind) : State :=
  { s with
    idCtr := 2
    accesses := [(1, ⟨0, s.cur.grp, 0, 0xA4, kind, 64, 64, 4, 0, 0, false, false, false, 4, 2, false, [], 0, 0, .waiting⟩)] }

/-- FENCE without and with the widening bit when nothing is outstanding; an acquire fence behind a load, and a full one behind a
store; and the completion of a fence in progress. -/
theorem test_meets_fence :
    ([.fence ⟨0, 4, 0, 3, 2⟩, .fence ⟨0, 4, 1, 1, 4⟩] : List Instr).all (fun i =>
      let s := { latched i with home := [(7, { wts := 1, rts := 2, dirty := true, pin := some ⟨0, 0, 0⟩ })] }
      ready i s && s.quiet s.cur.grp && s.accesses.isEmpty && (s.freeEntry (partOf s.cur.grp)).isSome) = true ∧
    ([(.fence ⟨0, 4, 0, 1, 2⟩, .load), (.fence ⟨0, 4, 1, 3, 4⟩, .store)] : List (Instr × AccessKind)).all (fun (i, k) =>
      let s := flies (latched i) k
      ready i s && !s.hasLog s.cur.grp && (s.freeEntry (partOf s.cur.grp)).isSome && 0 < s.idCtr && (k ≠ .store || i ≠ .fence ⟨0, 4, 0, 1, 2⟩)) =
      true ∧
    (let s := grp (latched (.nop ⟨0, 0, 0, 0⟩)) fun g => { g with fences := [(5, ⟨1, 4, 3, 2, false, []⟩)] }
     s.powered = true ∧ Tab.find (me s).fences 5 = some ⟨1, 4, 3, 2, false, []⟩ ∧ s.accesses = [] ∧ s.hasLog 0 = false) := by decide +kernel

/-- R112: two teams have raced at TEAM on a word; a full fence of one at PKG ends the race once the other's has been performed. -/
theorem test_fence_ends_race :
    let use (team : Nat) (d : Option Nat) : RaceUse := ⟨some team, 0, 0, 0, false, true, 0xF, d, none⟩
    let after (i : Instr) (d : Option Nat) : Nat :=
      match exec i { latched i with races := [(4, ⟨[1, 2], [use 0 none, use 1 d]⟩)] } with
      | .next t => (t.races.flatMap (·.2.uses)).length
      | _ => 9
    after (.fence ⟨0, 4, 0, 3, 2⟩) (some 2) = 0 ∧ after (.fence ⟨0, 4, 0, 3, 2⟩) none = 2 ∧
    after (.fence ⟨0, 4, 0, 3, 2⟩) (some 0) = 2 ∧ after (.fence ⟨0, 4, 0, 3, 0⟩) (some 2) = 2 ∧
    after (.fence ⟨0, 4, 0, 2, 2⟩) (some 2) = 2 := by decide +kernel

/-- A barrier of two groups and of one, and a group that has arrived already. -/
theorem test_meets_team_barriers :
    ([.tbarSync ⟨0, 0, 0, 0⟩, .tbarArv ⟨0, 0, 0, 0⟩] : List Instr).all (fun i =>
      let one := latched i
      let two := tm one fun t => { t with expected := 2 }
      let again := tm one fun t => { t with expected := 2, arrived := [0] }
      let t (s : State) := (s.team? 0).getD noTeam
      ([one, two, again].all fun s => ready i s && !s.cur.second && s.cur.grp < 0x20000 && !(me s).privileged && (s.team? 0).isSome &&
        (me s).team = 0 && (s.admitted (me s)).getLsbD (lowestLane s.cur.active) && s.quiet s.cur.grp) &&
        (t one).arrived.length + 1 = (t one).expected && !(t one).arrived.contains 0 &&
        one.groups.all (fun x => x.2.team ≠ 0 || x.2.block ≠ .tbarArv (t one).phase) &&
        (t two).arrived.length + 1 ≠ (t two).expected && !(t two).arrived.contains 0 && (t again).arrived.contains 0) = true := by
  decide +kernel

/-- WAITCH with no child left, with one of two still there, and behind a LAUNCH that is not answered. -/
theorem test_meets_waitch :
    let i := Instr.waitch ⟨0, 0, 0, 0⟩
    let done := tm (latched i) fun t => { t with children := [5] }
    let s := tm (latched i) fun t => { t with children := [5, 0] }
    let early := grp (latched i) fun g => { g with launches := [(1, ⟨0, 64, 4, 0, 4⟩)] }
    (ready i early = true ∧ early.launching 0 = true ∧ done.launching 0 = false ∧ s.launching 0 = false ∧ early.cur.second = false) ∧ ready i done = true ∧ (done.grid? 5).isNone = true ∧ ready i s = true ∧ (s.grid? 5).isNone = true ∧ (s.grid? 0).isSome = true ∧
      s.cur.second = false ∧ (s.team? 0).isSome = true := by decide +kernel

/-- LAUNCH at depths 9 and 10, with 4,095 and 4,096 children, of a misaligned record, of a record of zeros, and of a record of one
team with no parameters and no completion record. -/
theorem test_meets_launch :
    let i := Instr.launch ⟨0, 4, 8, 0⟩
    let s := warm (latched i)
    let at_ (d : Nat) : State := { s with grids := Tab.alter s.grids 0 fun g => { g with depth := d } }
    let kids (n : Nat) : State := s.onContext 0 fun c => { c with children := n }
    let mis := vec s 8 255
    let rec_ : State := vec { at_ 9 with mem := memWriteLE s.mem 0x400 256 placeRecord } 8 0x400
    let leads (s : State) : Bool := ready i s && (me s).gid = 0 && !(me s).privileged && s.storesDone s.cur.grp s.idCtr && (s.team? 0).isSome &&
      (s.grid? 0).isSome && (s.admitted (me s)).getLsbD (lowestLane s.cur.active)
    ([at_ 9, at_ 10, kids 4095, kids 4096, mis, vec s 8 0x800, rec_].all leads) = true ∧
    ((at_ 10).grid? 0).map (·.depth) = some 10 ∧ ((kids 4096).context 0).children = 4096 ∧ (me mis).regN 8 0 2 % 256 = 255 ∧
    hits s 0x800 .load 0x800 = true ∧ s.spanFault 0x800 256 false = none ∧ (recordRefusal s (s.peekLE 0x800 256) 0 none).isSome = true ∧
    hits rec_ 0x400 .load 0x400 = true ∧ rec_.spanFault 0x400 256 false = none ∧ recordRefusal rec_ (rec_.peekLE 0x400 256) 0 none = none ∧
    recKind (rec_.peekLE 0x400 256) ≠ 2 ∧ recCompletion (rec_.peekLE 0x400 256) = 0 := by decide +kernel

/-- LAUNCH behind a store of its group. -/
theorem test_meets_launch_deferred :
    let i := Instr.launch ⟨0, 4, 8, 0⟩
    let s := flies (warm (latched i)) .store
    ready i s = true ∧ s.storesDone s.cur.grp s.idCtr = false ∧ (me s).gid = 0 ∧ (s.grid? 0).map (·.depth) = some 0 ∧
      (s.context 0).children = 0 ∧ (me s).regN 8 0 2 = 0 := by decide +kernel

/-- LAUNCH by a group that is not group 0. -/
theorem test_meets_launch_other_group :
    let i := Instr.launch ⟨0, 4, 8, 0⟩
    let s := grp (latched i) fun g => { g with gid := 1 }
    ready i s = true ∧ (me s).gid ≠ 0 := by decide +kernel

/-- Handles 2 to 5 of team 0 hold canonical tiles of a type; uniform register 4 holds a tile number. -/
def tiles (s : State) (ty u : Nat) : State :=
  let s1 := tm s fun t => { t with handles := (List.range 4).map fun j => (2 + j, Handle.spad (2048 * j) ty 0 0) }
  grp s1 fun g => { g with uregs := Tab.put g.uregs 4 (BitVec.ofNat 32 u) }

/-- Matrix words whose tiles end at the window's last, with one, two and four B handles, with and without a held latch. -/
theorem test_meets_matrix_words :
    ([(Instr.mmaE2m1, 1), (.mmaE4m3, 2), (.mmaE5m2, 3), (.mmaBf16, 5), (.mmaF16, 6), (.mmaI8, 4)] :
      List ((FmtF → Instr) × Nat)).all (fun (mk, ty) =>
      ([0, 2, 3] : List (BitVec 2)).all fun f =>
        let i := mk ⟨1, 1, f, 8, 2, 16⟩
        let s := tiles (latched i) ty 0
        let hs := (List.range (if f = 2 then 2 else if f = 3 then 4 else 1)).map (2 + ·)
        let ops := smallOps f.toNat s.cur.active
        ready i s && ops ≠ [] && hs.all (fun h => !s.bindPending 0 h && matrixOk ty h ((s.teamFor (me s)).handle h)) &&
          ops.all (fun o => 16 + o.2.2 < (s.teamFor (me s)).winW) && !streams (s.teamFor (me s)) hs && s.boardRoom 0 ops.length) = true := by
  decide +kernel

/-- Accumulator words at the window's last tile. -/
theorem test_meets_accumulator_words :
    ([.accmv ⟨1, 1, 1, 100, 0, 31⟩, .accrd ⟨1, 0, 0, 8, 0, 31⟩, .accrd ⟨0, 0, 2, 8, 0, 31⟩, .accwr ⟨0, 0, 0, 8, 0, 31⟩,
      .accwr ⟨1, 0, 1, 8, 0, 31⟩] : List Instr).all (fun i =>
      let s := tiles (latched i) 5 31
      ready i s && s.boardRoom 0 1 && (s.teamFor (me s)).winW = 32 && ((me s).ureg 4).toNat % 256 = 31) = true := by decide +kernel

/-- Attention words whose tiles end at the window's last, with a K binding, and with V bindings of one and of two handles. -/
theorem test_meets_attention_words :
    let base (i : Instr) (h2 h3 : Handle) : State :=
      tm (tiles (latched i) 5 24) fun t => { t with handles := [(2, h2), (3, h3)] }
    let room (i : Instr) (s : State) (hs ts : List Nat) (ok : HandleTest) : Bool :=
      ready i s && hs.all (fun h => !s.bindPending 0 h && ok h ((s.teamFor (me s)).handle h) && h < 32) &&
        ts.all (fun n => n < (s.teamFor (me s)).winW) && !s.storesPending s.cur.grp &&
        s.boardRoom 0 (quarters s.cur.active).length && (quarters s.cur.active).length = 4
    let qk := Instr.atqk ⟨0, 1, 8, 2, 24⟩
    let sm := Instr.atsm ⟨0, 0, 100, 0, 24⟩
    let pv := Instr.atpv ⟨0, 0, 100, 2, 28⟩
    let fn := Instr.atfn ⟨0, 0, 100, 0, 28⟩
    let k := base qk (.kvRead 0 0 5 0 0) (.unbound 0)
    let v1 := base pv (.kvRead 0 1 2 0 0) (.unbound 0)
    let v2 := base pv (.kvRead 0 1 5 0 0) (.kvRead 0 1 5 0 1)
    room qk k [2] ([0, 1, 2, 3].map fun q => 24 + 2 * q) (kvOk false) = true ∧
    room sm (base sm (.unbound 0) (.unbound 0)) [] [31] (fun _ _ => true) = true ∧
    pvHandles (v1.teamFor (me v1)) 2 = [2] ∧ room pv v1 [2] [24, 31] (pairOk (v1.teamFor (me v1)) 2) = true ∧
    pvHandles (v2.teamFor (me v2)) 2 = [2, 3] ∧ room pv v2 [2, 3] [24, 31] (pairOk (v2.teamFor (me v2)) 2) = true ∧
    room fn (base fn (.unbound 0) (.unbound 0)) [] [24, 31] (fun _ _ => true) = true ∧ ((me v1).ureg 4).toNat % 256 = 24 := by
  decide +kernel

/-- A tile just above the window in quarter 3, an unbound handle, and a handle of another type. -/
theorem test_meets_binding_traps :
    ([(Instr.mmaE2m1, 1), (.mmaE4m3, 2), (.mmaE5m2, 3), (.mmaBf16, 5), (.mmaF16, 6), (.mmaI8, 4)] :
      List ((FmtF → Instr) × Nat)).all (fun (mk, ty) =>
      let high := mk ⟨0, 0, 0, 8, 2, 29⟩
      let low := mk ⟨0, 0, 1, 8, 7, 28⟩
      let other := mk ⟨0, 0, 0, 8, 2, 28⟩
      let a := tiles (latched high) ty 0
      let b := tiles (latched low) ty 0
      let c := tiles (latched other) (ty % 6 + 1) 0
      let fits (s : State) : Bool := !s.bindPending 0 2 && s.cur.grp < 0x20000 && (s.teamFor (me s)).winW = 32
      ready high a && fits a && (quarters a.cur.active) = [0, 1, 2, 3] && ready low b && fits b &&
        (b.teamFor (me b)).handle 7 = .unbound 0 && ready other c && fits c &&
        !matrixOk ty 2 ((c.teamFor (me c)).handle 2) && ((c.teamFor (me c)).handle 2).type < 8) = true := by decide +kernel

/-- Engine commands with an empty queue and with one of 15, admitted and not. -/
theorem test_meets_engine_commands :
    ([.hbindSpad ⟨1, 1, 2, 3, 8⟩, .hbindRec ⟨1, 1, 2, 3, 8⟩, .hbindOff ⟨1, 0, 2, 3, 8⟩, .hbindSeek ⟨1, 1, 2, 3, 8⟩,
      .tcopy ⟨1, 1, 2, 3, 8, 1, 0⟩, .tstore ⟨1, 1, 2, 3, 8, 0, 1⟩, .xbarInit ⟨1, 1, 2, 3, 8⟩, .xbarArv ⟨1, 1, 2, 3, 8⟩,
      .xbarArvExp ⟨1, 1, 2, 3, 8⟩, .xbarArvAck ⟨1, 1, 2, 3, 8⟩, .xbarWait ⟨1, 3, 8⟩, .qdeq ⟨1, 3, 8⟩, .qdeqTry ⟨1, 3, 2, 3, 8⟩,
      .qenq ⟨1, 1, 2, 3, 8⟩, .qenqTry ⟨1, 1, 2, 3, 8⟩, .treeFork ⟨1, 1, 2, 3, 8⟩, .treePrune ⟨1, 1, 2, 3, 8⟩,
      .treeCommit ⟨1, 1, 2, 3, 8⟩, .treeAppend ⟨1, 1, 2, 3, 8⟩, .treeAdopt ⟨1, 1, 2, 3, 8⟩, .treeQctx ⟨1, 1, 2, 3, 8⟩,
      .treeQuery ⟨1, 1, 2, 3, 8⟩, .kvbindKp ⟨1, 1, 2, 3, 8⟩, .kvbindVp ⟨1, 1, 2, 3, 8⟩, .kvbindKt ⟨1, 1, 2, 3, 8⟩,
      .kvbindVt ⟨1, 1, 2, 3, 8⟩, .kvbindWk ⟨1, 1, 2, 3, 8⟩, .kvbindWv ⟨1, 1, 2, 3, 8⟩, .sampleSubmit ⟨1, 1, 2, 3, 8⟩,
      .sampleVerify ⟨1, 1, 2, 3, 8⟩, .collAllred ⟨1, 1, 2, 3, 8⟩, .collAllgath ⟨1, 1, 2, 3, 8⟩, .collRedscat ⟨1, 1, 2, 3, 8⟩,
      .collHistmrg ⟨1, 1, 2, 3, 8⟩] : List Instr).all (fun i =>
      let s := tm (latched i) fun t => { t with handles := [(3, .record 0 0 5 0 0 0)] }
      let full := s.onCore 0 fun c => { c with tileQ := (List.range 15).map (100 + ·), uncoreQ := (List.range 15).map (200 + ·) }
      let off := grp s fun g => { g with guards := [(1, ⟨5, false⟩)] }
      let fits (s : State) : Bool := !s.bindPending 0 3 && !s.hasLog s.cur.grp && (me s).canCount 3 &&
        ((me s).guardInFlight 1 (s.cycles 0)).isNone && ((s.core 0).queue true).length < 16 && ((s.core 0).queue false).length < 16
      ready i s && fits s && ready i full && fits full && ((full.core 0).queue true).length = 15 && ((s.teamFor (me s)).handle 3).kind = 1 &&
        issues i off && fits off && !(off.admitted (me off)).getLsbD (lowestLane off.cur.active)) = true := by decide +kernel

/-- TSTORE through a write binding. -/
theorem test_meets_tstore_binding :
    let i := Instr.tstore ⟨1, 1, 2, 3, 8, 0, 1⟩
    let s := tm (latched i) fun t => { t with handles := [(3, .kvWrite 0 4 5 0)] }
    ready i s = true ∧ ((s.teamFor (me s)).handle 3).kind = 3 := by decide +kernel

/-- A word of format SYS before management core 0, whose window names group 0, suspended with a code at the word at 4. -/
def handler (i : Instr) (z : Option Suspension) : State :=
  let w : Word := (encode i).getD 0
  let s := placeWord (placeWord State.reset 0) w.toNat
  let s1 := { s with
    agenda := []
    cur := { grp := privKey 0, pc := 4, active := 1, word := w, second := false, hdr := 0
             head := BitVec.ofNat 32 (headerFor 0xDC), event := none, held := false } }
  s1.onGroup 0 fun g => { g with suspension := z }

/-- A suspension of all lanes at the word at 4. -/
def held (code : Nat) : Option Suspension := some ⟨code, 0xFFFFFFFF, 4, true, 0⟩

/-- The word of a management core issues, and its window names group 0. -/
def named (i : Instr) (s : State) : Bool :=
  ready i s && 0x20000 ≤ s.cur.grp && (s.manager (s.cur.grp - 0x20000)).winsel = 0 &&
    sectorOfCore (keyCore 0) = s.cur.grp - 0x20000 && (s.group? 0).isSome

theorem test_meets_handler_returns :
    let i := Instr.eret ⟨0, 0, 0⟩
    let ok (code : Nat) : Bool := named i (handler i (held code)) &&
      !(((handler i (held code)).group? 0).getD (placeGroup false)).allExited && !(handler i (held code)).groupWaits 0
    let s := handler i (held 0x0110)
    ok 0x0103 = true ∧ ok 0x0110 = true ∧ ok 0x0111 = true ∧ named (.halt ⟨0, 0, 0⟩) (handler (.halt ⟨0, 0, 0⟩) none) = true ∧
      (clauseAt (codeReader s 0) 4).map (fun x => decide (4 ≠ x.1 + 4 * hdrCount x.2)) = some true := by decide +kernel

/-- Window words at the first and the last datum of each space, and at a group that is not suspended. -/
theorem test_meets_window_words :
    ([0, 0x05FF8000, 0x10000000, 0x11F00000, 0x20000000, 0x202F8000, 0x30000000, 0x300F8000, 0x40100000, 0x40700000] : List Word).all
      (fun a => ([.winrd ⟨0, 4, 8⟩, .winwr ⟨0, 4, 8⟩] : List Instr).all fun i =>
        let s := vec (handler i (held 0x0110)) 8 a
        let n := vec (handler i none) 8 a
        named i s && ((s.group? 0).any fun g => g.suspension.isSome) && ((me s).reg 8 0) = a &&
          named i n && ((n.group? 0).any fun g => g.suspension.isNone) && a.toNat / 2 ^ 28 ≠ 6) = true := by decide +kernel

/-- TLBINV of each scope. -/
theorem test_meets_tlbinv :
    ([0x00000001, 0x00010001, 0x00020001, 0x00030001] : List Word).all (fun v =>
      let i := Instr.tlbinv ⟨0, 4, 8⟩
      let s := vec (warm (latched i)) 4 v
      ready i s && !s.inflight (v.toNat / 2 ^ 16 % 4) (v.toNat % 2 ^ 16) 0) = true := by decide +kernel

/-- CTXSAVE and CTXLOAD at the lowest area and at the last of the GiB that the TLB maps. -/
theorem test_meets_context_save_and_load :
    ([(.ctxsave ⟨0, 4, 8⟩, .store), (.ctxload ⟨0, 4, 8⟩, .load)] : List (Instr × AccessKind)).all (fun (i, k) =>
      ([0, 0x3FFFF800] : List Nat).all fun a =>
        let s := vec (warm (latched i)) 8 (BitVec.ofNat 32 a)
        ready i s && 0x20000 ≤ s.cur.grp && (me s).regN 8 0 2 = a && hits s a k a && a + 2048 ≤ 2 ^ 40 && s.badLines.isEmpty &&
          !s.die0.lost && !s.die1.lost) = true := by decide +kernel

/-- A fault ring of 64 records with room for one, a full one, and one that is off. -/
theorem test_meets_fault_ring :
    let on (c : Context) : Bool := 6 ≤ c.frsize && c.frsize ≤ 16 && (c.frhead + 2 ^ 32 - c.frtail) % 2 ^ 32 < 2 ^ c.frsize
    on { Context.reset with frsize := 6, frhead := 63 } = true ∧ on { Context.reset with frsize := 6, frhead := 64 } = false ∧
      on { Context.reset with frsize := 16, frhead := 5, frtail := 0xFFFFFFFF } = true ∧
      on { Context.reset with frsize := 5 } = false ∧ on { Context.reset with frsize := 17 } = false := by decide +kernel

/-- A port, a management core, an event and an empty agenda before a step. -/
theorem test_meets_steps :
    let p := warm (State.reset.withFetchWord 32 0x22015234)
    let g := me p
    let m := let s := State.reset.withFetchWord 32 0xDC000008; warm { s with cur := { s.cur with grp := privKey 0 } }
    (p.powered = true ∧ p.agenda = [.primary 0 0] ∧ ((p.part (partKey 0 0)).turn.any fun u => u.issues < 24 && p.cycles 0 < u.start + 256 &&
      mkKey 0 0 u.place = 0) = true ∧ (p.group? 0).isSome = true ∧ g.minPc = some 4 ∧ g.stopped 4 = false ∧ g.lanesAt 4 ≠ 0 ∧
      (clauseAt (codeReader p.taken 0) 4).map (fun x => g.waitMet x.2) = some true ∧ codeWord p.taken 4 = some 0x22015234) ∧
    (m.powered = true ∧ m.agenda = [.manage 0] ∧ (m.manager 0).halted = false ∧ (m.manager 0).open_ = false ∧ (me m).minPc = some 4 ∧
      (me m).lanesAt 4 ≠ 0 ∧ (me m).stopped 4 = false ∧
      (clauseAt (codeReader m.taken (privKey 0)) 4).map (fun x => (me m).waitMet x.2) = some true ∧
      codeWord m.taken 4 = some 0xDC000008) := by decide +kernel

/-! ### Events: for each clause of the statements about them, a state that meets its hypotheses, at the bounds where it has any -/

/-- Group 0 of team 0 of grid 0 on core 0 before a NOP, with its turn, and an event in progress. -/
def at_ (e : Event) : State := during { placeWord State.reset 0 with agenda := [] } e

/-- TCOUNT of die 0 and die 1. -/
def ticks (s : State) (n : Nat) : State :=
  { s with die0 := { s.die0 with tcount := BitVec.ofNat 64 n }, die1 := { s.die1 with tcount := BitVec.ofNat 64 n } }

/-- Partition 0 of core 0 has issued `n` words in its turn, which started at cycle 0. -/
def issued (s : State) (n : Nat) : State := { s with parts := [(0, { Part.reset with turn := some ⟨0, n, 0⟩ })] }

/-- Turns: none, with a group that was ready when the partition became free and with one that has become so since; no ready group; a
turn held; 256 cycles and fewer; 24 issues and 23; and a group whose word is not held. -/
theorem test_meets_turn_events :
    let s := { at_ (.turnGrant 0 0) with parts := [] }.onGroup 0 fun g => { g with ready := true }
    let late := ticks { s with parts := [(0, { Part.reset with freed := 255 })] } 135
    let old (t : State) : Bool := (t.readyGroups 0 0).any fun x => t.cycles 0 - (t.part 0).freed ≤ x.2.wait
    s.cur.event = some (.turnGrant 0 0) ∧ (s.part (partKey 0 0)).turn = none ∧ s.readyGroups 0 0 ≠ [] ∧
    late.cycles 0 = 256 ∧ late.readyGroups 0 0 ≠ [] ∧ old late = false ∧ old (late.onGroup 0 fun g => { g with wait := 1 }) = true ∧
    ({ at_ (.turnGrant 0 0) with parts := [] }).readyGroups 0 0 = [] ∧
    (let g := me (warm s)
     g.minPc = some 4 ∧ g.unseen = [] ∧ g.stopped 4 = false ∧ g.lanesAt 4 ≠ 0 ∧ codeWord (warm s) 4 = some 0 ∧
      (clauseAt (codeReader (warm s) 0) 4).map (fun x => (x.1, g.waitMet x.2)) = some (0, true) ∧
      (match clauseAt (codeReader (warm s) 0) 4 with
        | some (h, hw) => match exec (decodeWord 0) { warm s with cur := ⟨0, 4, g.lanesAt 4, 0, false, h, hw, none, false⟩ } with
          | .next t => t.cur.held
          | _ => true
        | none => true) = false) ∧
    ((at_ (.turnGrant 0 0)).part (partKey 0 0)).turn.isSome = true ∧
    (ticks (at_ (.turnTimeLimit 0 0)) 135).cycles (dieOfCore 0) = 256 ∧ (ticks (at_ (.turnTimeLimit 0 0)) 134).cycles (dieOfCore 0) < 256 ∧
    ((issued (at_ (.turnInstructionLimit 0 0)) 24).part 0).turn.map (·.issues) = some 24 ∧
    ((issued (at_ (.turnInstructionLimit 0 0)) 23).part 0).turn.map (·.issues) = some 23 := by decide +kernel

/-- Time: a sleep that is over and one that is not; 1,024 cycles of a die and fewer; a logical time of 2^47 and one below. -/
theorem test_meets_time_events :
    let z (n : Nat) := (at_ (.sleepExpiry 0)).onGroup 0 fun g => { g with block := .sleep n }
    let lt (n : Nat) := { at_ .rebase with die1 := { Die.reset with mft := n } }
    ((at_ .tcountTick).group? 0).map (·.privileged) = some false ∧ (at_ .tcountTick).heldCharges = [] ∧
    ((z 256).group? 0).map (·.block) = some (.sleep 256) ∧ (ticks (z 256) 135).cycles 0 = 256 ∧ (ticks (z 257) 135).cycles 0 < 257 ∧
    1024 * (((ticks (at_ (.ltTick 1)) 539).die 1).ltTicks + 1) ≤ (ticks (at_ (.ltTick 1)) 539).cycles 1 ∧
    (ticks (at_ (.ltTick 1)) 538).cycles 1 < 1024 * (((ticks (at_ (.ltTick 1)) 538).die 1).ltTicks + 1) ∧
    (lt (2 ^ 47)).mustRebase = true ∧ (lt (2 ^ 47 - 1)).mustRebase = false := by decide +kernel

/-- An access of group 0's lane 0 to physical address `pa`. -/
def acc (kind : AccessKind) (pa : Nat) (st : AccStatus) (control : Bool) : Access :=
  { op := 0, grp := 0, lane := 0, code := if kind = .load then 0xA4 else if kind = .store then 0xA9 else 0xB6, kind := kind, va := pa
    pa := pa, size := 4, data := 5, cmp := 0, rlx := false, acq := false, rel := false, reg := 4, dom := 2, control := control
    dead := [], lt := 0, level := 0, status := st }

/-- The event with one access in flight, of an instruction whose other lanes have acted. -/
def flying (e : Event) (a : Access) : State :=
  { at_ e with accesses := [(1, a)], ops := [(0, ⟨0, 1, 1, 0, 4⟩)], idCtr := 2 }

/-- The access reaches its home. -/
def reaches (s : State) (a : Access) : Bool :=
  Tab.find s.accesses 1 = some a && (s.homeFault a).isNone && s.isLocal (s.norm a.pa) && !(s.die (s.homeDie a.pa)).resetting &&
    !s.ownedAway (lineOf (s.norm a.pa)) && s.norm a.pa % 64 + a.size ≤ 64

/-- Line 1 pinned to die 1, whose instance group 0 is not in. -/
def pinned (s : State) : State := { s with home := [(1, ⟨3, 9, some ⟨1, 1, 0⟩, true⟩)] }

theorem test_meets_accesses_at_home :
    let ld := acc .load 64 .waiting false
    let fwd := acc .load (2 ^ 39 + 60) (.forwarded 24) false
    let st := acc .store 124 .waiting true
    let at1 := acc .atomic 64 .waiting false
    let far := acc .load (2 ^ 39) .waiting false
    let s := flying (.homeRenewal 1) ld
    let f := flying (.homeRenewal 1) fwd
    let w := flying (.homeWrite 1) st
    (reaches s ld && s.mayPerform 1 ld && (s.refusing ld).isNone && !s.crossDie ld) = true ∧
    (reaches f fwd && f.mayPerform 1 fwd && (f.refusing fwd).isNone) = true ∧
    (reaches w st && w.mayPerform 1 st && (w.refusing st).isNone) = true ∧
    (reaches (flying (.homeWrite 1) at1) at1 && (flying (.homeWrite 1) at1).mayPerform 1 at1) = true ∧
    (reaches (pinned w) st && (pinned w).mayPerform 1 st && ((pinned w).refusing st).isSome) = true ∧
    ((flying (.remoteL2Renewal 1) far).crossDie far && (flying (.remoteL2Renewal 1) far).mayPerform 1 far) = true := by decide +kernel

theorem test_meets_refused_and_replied_accesses :
    let rs := acc .store 64 (.refused 0) true
    let rl := acc .load 64 (.refused 0) true
    let retry (a : Access) := flying (.pinRetry 1) a
    let dv := pinned (ticks (flying (.domainViolation 1) rs) 34493)
    let rep (k : AccessKind) := acc k 64 (.replied 1 7 15 15 0) false
    let hit := acc .load 64 .waiting false
    let l1 := { flying (.memoryReply 1) hit with cores := [(0, { Core.reset with l1 := [(1, ⟨3, 9, 0⟩)] })] }
    (reaches (retry rs) rs && ((retry rs).refusing rs).isNone) = true ∧ (reaches (retry rl) rl && ((retry rl).refusing rl).isNone) = true ∧
    (let far := acc .load (2 ^ 39) (.refused 0) true
     reaches (retry far) far && ((retry far).refusing far).isNone && (retry far).crossDie far) = true ∧
    (reaches (pinned (retry rs)) rs && ((pinned (retry rs)).refusing rs).isSome) = true ∧
    ((dv.refusing rs).isSome && (dv.freeEntry (partOf 0)).isSome && (Tab.find dv.ops 0).isSome) = true ∧ 65536 ≤ dv.cycles 0 ∧
    (ticks dv 34492).cycles 0 < 65536 ∧
    ([.load, .store, .atomic] : List AccessKind).all (fun k =>
      let s := flying (.memoryReply 1) (rep k)
      Tab.find s.accesses 1 = some (rep k) && (s.group? 0).isSome && lineOf (s.norm 64) = 1 && s.ltOf 0 ≤ 15) = true ∧
    ({ flying (.memoryReply 1) (rep .load) with cores := [(0, { Core.reset with lt := 16 })] }).ltOf 0 = 16 ∧
    (Tab.find (l1.core 0).l1 (lineOf (l1.norm 64))).isSome = true ∧ l1.mayPerform 1 hit = true ∧ l1.ltOf 0 ≤ 9 ∧
    ({ flying (.memoryReply 1) (rep .load) with
        races := [(4, ⟨[1, 2], [⟨some 7, 0, 1, 1, true, true, 0xF, none, none⟩]⟩)] }.raced (rep .load)).length = 1 ∧
    (flying (.memoryReply 1) (rep .load)).unheld 64 = false ∧ ((flying (.memoryReply 1) (rep .load)).logOf 0).length = 0 ∧
    ((flying (.memoryReply 1) (rep .load)).raced (rep .load)).length = 0 ∧
    (Tab.find (pinned (at_ (.l2Eviction 1))).home 1).isSome = true ∧ (at_ (.l2Eviction 1)).isLocal 64 = true := by decide +kernel

/-- Lines of the last frame of HBM in each state, and a line of another device that this device owns. -/
theorem test_meets_fabric_line_events :
    let l := 2 ^ 34 - 1
    let in_ (v : BitVec 16) := { at_ (.fabricRead 5 l 0 false none) with lineMeta := [(l, v)] }
    let late := { at_ (.fabricRead 5 l 0 true none) with behind := [5] }
    let own := { at_ (.ownerForward 5 (2 ^ 44 + 2 ^ 34 * 3) 9 true false none) with home := [(2 ^ 44 + 2 ^ 34 * 3, ⟨1, 9, none, true⟩)] }
    (at_ (.fabricRead 5 l 0 false none)).lineState l = 0 ∧ (in_ 1).lineState l = 1 ∧ (in_ 2).lineState l = 2 ∧ (in_ 4).lineState l = 4 ∧
    (in_ 2).lineOwner l ≠ 5 ∧ (in_ 5).lineState l = 5 ∧ (in_ 2).ownedAway l = true ∧ (in_ 4).ownedAway l = true ∧
    (in_ (2 + 8 * 5)).lineOwner l = 5 ∧ (at_ .rebase).epoch = false ∧ 5 ∈ late.behind ∧ 5 ∉ (at_ .rebase).behind ∧
    (own.remoteDev ((2 ^ 44 + 2 ^ 34 * 3) * 64)).isSome = true ∧ own.owns ((2 ^ 44 + 2 ^ 34 * 3) * 64) = true := by decide +kernel

/-- The event with line 1 pinned, or with no pin. -/
def pinnedBy (p : Option Pin) : State := { at_ (.fabricRead 5 1 0 false (some 3)) with home := [(1, ⟨3, 9, p, true⟩)] }

/-- A line that is pinned to die 1 against device 5, whether or not that device is one of FAB, and a line that nothing pins. -/
theorem test_meets_far_pins :
    ((pinnedBy (some ⟨1, 1, 0⟩)).pinAgainst ((pinnedBy (some ⟨1, 1, 0⟩)).farAgent 5) 64).isSome = true ∧
    ((pinnedBy none).homeLine 1).pin = none ∧ (pinnedBy none).lineState 1 = 0 := by
  refine ⟨?_, by decide +kernel, by decide +kernel⟩
  unfold State.farAgent
  split <;> decide +kernel

/-- The L2 of each die has room in the states above. -/
theorem test_meets_l2_room : (pinned (flying (.homeWrite 1) (acc .store 124 .waiting true))).l2Room 64 := by
  intro d
  by_cases h : d = 0 <;> simp only [State.die, h, if_true, if_false] <;> decide

/-- With every port as it stands after training each device is linked to; with every port down none is. -/
theorem test_meets_linked_devices :
    (∀ d, (at_ .rebase).linkedTo d = true) ∧
    ∀ d, { at_ .rebase with ports := (List.range 36).map fun n => (n, { Port.reset with up := false }) }.linkedTo d = false := by
  have all : ∀ n, n < 36 →
      ({ at_ .rebase with ports := (List.range 36).map fun n => (n, { Port.reset with up := false }) }.port n).up = false := by decide
  exact ⟨fun d => rfl, fun d => by simp [State.linkedTo, State.routeTo, all _ (Nat.mod_lt _ (by omega : 0 < 36))]⟩

/-- A port at each point of its life. -/
theorem test_meets_link_events :
    let p (f : Port → Port) := (at_ (.flitReceive 35 0)).onPort 35 f
    (p id).ctl.fwstat = 3 ∧ ({ p id with ctl := { Control.reset with fwstat := 2 } }).ctl.fwstat ≠ 3 ∧
    ((p id).port 35).up = true ∧ ((p id).port 35).dead = false ∧ ((p id).port 35).rx = 0 ∧ ((p id).port 35).asked = false ∧
    ((p fun x => { x with asked := true, replays := 14 }).port 35).replays = 14 ∧
    ((p fun x => { x with asked := true, replays := 15 }).port 35).replays = 15 ∧ (p id).colls = [] ∧
    ((p fun x => { x with retry := some (65535, 15) }).port 35).retry = some (65535, 15) ∧
    ((p fun x => { x with retry := some (65535, 16) }).port 35).retry = some (65535, 16) ∧
    ((p id).port 35).lanes = 4 ∧ ((p fun x => { x with lanes := 3 }).port 35).lanes = 3 ∧ ((p fun x => { x with lanes := 2 }).port 35).lanes = 2 ∧
    ((p fun x => { x with routeDead := true }).port 35).routeDead = true ∧
    ((p fun x => { x with retry := some (65535, 0), buffer := [(65535, 7)] }).port 35).retry = some (65535, 0) ∧
    ((p fun x => { x with tx := 65535 }).port 35).tx = 65535 ∧ ((p id).port 35).buffer.length ≤ 256 := by decide +kernel

/-- A launch record of one team, in slot 0, of context 0 and queue 0, with sequence 1. -/
def hostRecord : Nat := placeRecord

/-- The launch window, copies and hold buffer. -/
theorem test_meets_host_events :
    let s := at_ (.hostAccess (.readMem (2 ^ 40 - 64) 64))
    let c (r : Nat) := ticks { at_ .launchRecordParse with copies := [(0, r)] } 1
    let q (n : Nat) (s : State) : State := { s with queues := [(0, List.range n)] }
    let bad := packFields [(0, 8, 0xFF)]
    let snoop := { at_ (.hostSnoop (2 ^ 45) true 0) with csr := { s.csr with cxl := true }, home := [(2 ^ 45, ⟨1, 9, none, false⟩)] }
    ((pinned s).hostHeld 64 1 = true ∧ (pinned s).hostHeld 63 1 = false ∧ s.hostHeld (2 ^ 40 - 64) 64 = false ∧ s.hostHeld (2 ^ 52 - 64) 64 = false ∧
      snoop.hostHeld (2 ^ 45 * 64) 64 = false) ∧
    (2 ^ 40 - 64 + 64 ≤ 2 ^ 40 ∧ s.badLines = [] ∧ s.die0.lost = false ∧ s.die1.lost = false ∧ s.lineMeta = []) ∧
    ((c hostRecord).copyRefusal 0 hostRecord = none ∧ recKind hostRecord ≠ 2 ∧ recCompletion hostRecord = 0 ∧
      (c hostRecord).heldAt (recCtx hostRecord) 0 = false ∧ 0 < (c hostRecord).ticks 0 ∧
      (q 15 (c hostRecord)).queueFull (recQueue hostRecord) = false ∧ (q 16 (c hostRecord)).queueFull (recQueue hostRecord) = true) ∧
    (((c bad).copyRefusal 0 bad).isSome = true ∧ recCompletion bad = 0 ∧ (c bad).heldAt (recCtx bad) 0 = false) ∧
    ({ at_ .holdBufferRelease with hold := [(0, hostRecord)] }).queueFull (recQueue hostRecord) = false ∧
    s.csr.cxl = false ∧ (snoop.csr.cxl = true ∧ (Tab.find snoop.home (2 ^ 45)).isSome = true ∧ snoop.badLines = []) := by decide +kernel


theorem leBytes_add (v c n : Nat) : leBytes (v + c * 256 ^ n) n = leBytes v n := by
  induction n generalizing v with
  | zero => rfl
  | succ n ih =>
    have h : c * 256 ^ (n + 1) = c * 256 ^ n * 256 := by rw [Nat.pow_succ, Nat.mul_assoc]
    simp only [leBytes, h, Nat.add_mul_div_right _ _ (show 0 < 256 by decide), ih, List.cons.injEq, and_true]
    apply BitVec.eq_of_toNat_eq
    simp [Nat.add_mul_mod_self_right]

theorem pow_split (a b c : Nat) (h : a = b + c) : 2 ^ a = 2 ^ b * 2 ^ c := h ▸ Nat.pow_add 2 b c

theorem pow_252 : (2:Nat) ^ 2016 = 256 ^ 252 := by
  have h (n : Nat) : 2 ^ (8 * n) = 256 ^ n := Nat.pow_mul 2 8 n
  exact h 252

theorem flit_toNat (low c : Nat) (h : low < 2 ^ 2016) (hc : c < 2 ^ 32) :
    (BitVec.ofNat 2048 (low + c * 256 ^ 252)).toNat = low + c * 256 ^ 252 := by
  rw [BitVec.toNat_ofNat]
  apply Nat.mod_eq_of_lt
  rw [show (2:Nat) ^ 2048 = 2 ^ 32 * 2 ^ 2016 from pow_split 2048 32 2016 rfl, pow_252]
  rw [pow_252] at h
  generalize (256:Nat) ^ 252 = k at *
  have := Nat.mul_le_mul_right k (show c + 1 ≤ 2 ^ 32 from hc)
  rw [Nat.add_mul] at this
  omega

/-- A flit with any first 252 bytes: its check is right or wrong as its last four bytes are. -/
theorem flit_check (low c : Nat) (h : low < 2 ^ 2016) (hc : c < 2 ^ 32) :
    let flit : BitVec 2048 := BitVec.ofNat 2048 (low + c * 256 ^ 252)
    flit.toNat % 2 ^ 16 = low % 2 ^ 16 ∧
      ((crc32c (leBytes flit.toNat 252)).toNat = flit.toNat / 2 ^ 2016 % 2 ^ 32 ↔ (crc32c (leBytes low 252)).toNat = c) := by
  intro flit
  have hf : flit.toNat = low + c * 256 ^ 252 := flit_toNat low c h hc
  have e := pow_252
  have k : (256:Nat) ^ 252 = 2 ^ 2000 * 2 ^ 16 := e.symm.trans (pow_split 2016 2000 16 rfl)
  have z : 0 < (256:Nat) ^ 252 := Nat.pow_pos (by decide)
  rw [hf, leBytes_add, e, Nat.add_mul_div_right _ _ z, Nat.div_eq_of_lt (e ▸ h), Nat.zero_add, Nat.mod_eq_of_lt hc]
  refine ⟨?_, Iff.rfl⟩
  rw [k, ← Nat.mul_assoc, Nat.add_mul_mod_self_right]

/-- For any first 252 bytes a flit whose check is right, and one whose check is wrong. -/
theorem test_meets_flits (low : Nat) (h : low < 2 ^ 2016) :
    (∃ f : BitVec 2048, f.toNat % 2 ^ 16 = low % 2 ^ 16 ∧ (crc32c (leBytes f.toNat 252)).toNat = f.toNat / 2 ^ 2016 % 2 ^ 32) ∧
    ∃ f : BitVec 2048, f.toNat % 2 ^ 16 = low % 2 ^ 16 ∧ (crc32c (leBytes f.toNat 252)).toNat ≠ f.toNat / 2 ^ 2016 % 2 ^ 32 := by
  have hb := (crc32c (leBytes low 252)).isLt
  refine ⟨⟨_, (flit_check low _ h hb).1, (flit_check low _ h hb).2.2 rfl⟩, ?_⟩
  by_cases h0 : (crc32c (leBytes low 252)).toNat = 0
  · exact ⟨_, (flit_check low 1 h (by decide)).1, fun e => absurd ((flit_check low 1 h (by decide)).2.1 e) (by rw [h0]; decide)⟩
  · exact ⟨_, (flit_check low 0 h (by decide)).1, fun e => h0 ((flit_check low 0 h (by decide)).2.1 e)⟩

/-- Grid 1: the launch record of the placed group again, its one team die 0's, accepted and not yet placed. -/
def fresh : Grid := { placeGrid with record := setBits placeRecord 256 64 1, next0 := 0, next1 := 0, live := 0, params := some [7] }

/-- The state with grid 1 beside grid 0. -/
def withGrid (s : State) (g : Grid) : State := { s with grids := Tab.put s.grids 1 g, idCtr := 5 }

/-- A team of grid 1 placed on core 0 at place 1, not yet resident. -/
def placed : Team := { placeTeam with grid := 1, place := 1, groups := [(mkKey 0 0 1, 0)], resident := false }

/-- Dispatch: an entry that fits, none that fits, a die that is lost or has decided in this tick, no candidate. -/
theorem test_meets_dispatch_decisions :
    let s := ticks (withGrid (at_ (.dispatchDecision 0)) fresh) 9
    let big := withGrid s { fresh with record := setBits fresh.record 136 10 1023 }
    let x := s.firstFit 0 ((s.decisionOrder 0).1.take 8)
    ((s.die 0).lost || (s.die 0).resetting || (s.die 0).decided = s.ticks 0 + 1 || (s.cands 0).isEmpty) = false ∧
    x.map (fun x => (x.1.id, x.1.work, x.2)) = some (1, .fresh 0, 0) ∧ x.any (fun x => s.grid? x.1.id = some x.1.g && !x.1.g.needsParams) = true ∧
    (big.cands 0).length = 1 ∧ big.firstFit 0 ((big.decisionOrder 0).1.take 8) = none ∧
    (at_ (.dispatchDecision 0)).cands 0 = [] ∧ ((s.onDie 0 fun d => { d with decided := 10 }).die 0).decided = s.ticks 0 + 1 := by
  decide +kernel

/-- A small matrix operation of group 0 on the board, with accumulator tile 0 and a B tile of E4M3. -/
def entry : Entry :=
  { core := 0, grp := 0, team := 0, pri := 0, posted := 0, instr := 0, fused := false, op := 0xC0, quarter := 0, reads := [0]
    writes := [0], a := [], b := [some []], src := [], bid := [], cols := 16, type := 0, nbv := 2, z := false, conv := 0
    lanes := 0xFFFFFFFF, sigma := 0, rows := 0xFFFF, masked := [], reg := 8, granted := true, ctx := 0, pc := 4, tag := none
    held := false }

/-- The event with an entry on quad 0's board. -/
def boarded (e : Event) (x : Entry) : State := { at_ e with quads := [(0, { Quad.reset with board := [(0, x)] })] }

/-- A command of group 0: opcode, modifier, handle and block, started or not. -/
def cmd (op m h : Nat) (block : List Word) (started : Bool) : Cmd :=
  { num := 1, core := 0, grp := 0, team := 0, ctx := 0, op := op, m := m, pc := 4, h := h, c := 1, block := block, item := [], tag := none
    qctx := none, handle := .unbound 0, guard := none, dead := false, done := [], skipped := [], started := started, recv := []
    maps := [], prior := [], doomed := false }

/-- The event with command 1 at the head of a queue of core 0. -/
def queued (e : Event) (uncore : Bool) (x : Cmd) : State :=
  { at_ e with
    cmds := [(1, x)], idCtr := 2
    cores := [(0, { Core.reset with tileQ := if uncore then [] else [1], uncoreQ := if uncore then [1] else [] })] }

/-- A team that becomes resident, one of an empty slot, a group and a team that leave or stay, a grid that retires or not. -/
theorem test_meets_residence_and_retirement :
    let s := { warm (withGrid (at_ (.teamResident 1)) fresh) with teams := [(0, placeTeam), (1, placed)] }
    let va := s.codeVa 0 (recEntry fresh.record)
    let h : Word := BitVec.ofNat 32 (s.peekLE va 4)
    let hit := (tlbFind (s.core 0).tlb (s.asidOf 0) va).filter (·.serves .fetch)
    let step := { fresh with step := true }
    let ex := (at_ (.groupPlaceRelease 0)).onGroup 0 fun g => { g with exited := true }
    let out := tm (at_ (.teamLeave 0)) fun t => { t with groups := [] }
    let done := withGrid (at_ (.gridRetire 1)) { fresh with next0 := 1 }
    let lost := { withGrid (at_ (.gridRetire 1)) fresh with die0 := { Die.reset with lost := true } }
    (s.team? 1 = some placed ∧ s.grid? 1 = some fresh ∧ Tab.find s.saved 1 = none ∧ fresh.emptyTeam 0 = false ∧
      (placed.groups.map (·.1)).Nodup ∧ (∀ x, x ∈ placed.groups → x.1 < 0x20000 ∧ keyCore x.1 = 0) ∧ recEntry fresh.record % 64 = 0 ∧
      s.frozenAt 1 va = false ∧ (hit.any fun e => (permFault e .fetch (s.regionOf 0 va)).isNone && e.phys va = va) = true ∧ s.spanFault va 4 false = none ∧
      hdrData h = false ∧ hdrReason h 0 false = none) ∧
    step.emptyTeam 0 = true ∧
    ((ex.group? 0).map (·.exited) = some true ∧ ex.quiet 0 = true ∧
      ({ ex with ops := [(0, ⟨0, 1, 1, 0, 4⟩)] }).quiet 0 = false) ∧
    ((out.team? 0).map (·.groups) = some [] ∧ out.teamBusy 0 = false ∧
      (tm (boarded (.teamLeave 0) entry) fun t => { t with groups := [] }).teamBusy 0 = true) ∧
    (done.gridDone 1 { fresh with next0 := 1 } = true ∧ done.shareLost 1 { fresh with next0 := 1 } = false ∧
      done.heldAt 0 0 = false ∧ lost.gridDone 1 fresh = true ∧ lost.shareLost 1 fresh = true ∧
      (withGrid (at_ (.gridRetire 1)) fresh).gridDone 1 fresh = false) := by decide +kernel
/-- Core 0 holds the one region of key 5 and a team of context 0 at tier 1; grid 1, of context 1 at tier 0, needs the region. -/
def crowded (e : Event) (size : Nat) : State :=
  let s := ticks (withGrid (at_ e) { fresh with ctx := 1, record := setBits (setBits fresh.record 176 6 1) 184 8 5 }) 20000
  { s with
    grids := Tab.alter s.grids 0 fun g => { g with tier := 1, ready := some 20000 }
    cores := [(0, { Core.reset with regions := [⟨5, 4096, 0, false, [], []⟩] })]
    csr := { s.csr with savesize := size, resacl := [(5, 2)] } }

/-- The hypotheses of a pre-emption by grid 1. -/
def starved (s : State) : Bool :=
  match s.grid? 1 with
  | none => false
  | some g =>
    match s.nextWork 1 g 0 with
    | none => false
    | some w =>
      s.csr.savesize ≠ 0 && !(s.die 0).lost && g.ready.isSome && (s.effective g).1 = 0 && !s.preemptBusy g &&
        g.unplaced 0 + s.pdelay ≤ s.ticks 0 && s.pickCore 0 (w.need 1 g) = none && s.victim 0 (w.need 1 g) = some 0

/-- Bytes of the save pool: room for the team of core 0, and one unit less. -/
theorem test_meets_preemption :
    let need := ((crowded .rebase 1).coreTeams 0).foldl (fun n x => n + (crowded .rebase 1).saveUnits x.2) 0
    starved (crowded (.preemptVictimChoice 0 1) need) = true ∧ (crowded (.preemptVictimChoice 0 1) need).unitsUsed = 0 ∧ 1 < need ∧
    starved (crowded (.preemptVictimChoice 0 1) (need - 1)) = true := by decide +kernel

/-- Team 0 pre-empted at tick 5, with its turn over or still held, at the tick at which it is abandoned and before; a saved team
that is placed again; and the batch former. -/
theorem test_meets_saves_and_formers :
    let p (e : Event) := tm (at_ e) fun t => { t with preempt := some 5 }
    let d (e : Event) := { p e with parts := [] }
    let v : Saved :=
      { team := placeTeam, groups := [(0, { placeGroup false with suspension := held 0x0110 })], logs := [], ops := [], cmds := []
        units := 1, window := [], die := 0 }
    let r := { at_ (.teamRestore 0 0) with
      teams := [(0, { placeTeam with groups := [(mkKey 0 0 1, 0)], resident := false })], saved := [(0, v)], groups := [] }
    let f : Former := ⟨0, 0, 0, [], [], [], [], 0, none, none, none, []⟩
    let w (x : Former) := ticks { at_ (.batchFormerStep 0) with formers := [(0, x)] } 8
    ((p (.preemptSave 0)).team? 0).map (·.preempt) = some (some 5) ∧
    (((p (.preemptSave 0)).team? 0).any fun t => t.groups.any fun k => ((p (.preemptSave 0)).group? k.1).any fun g => !g.exited) = true ∧
    ((d (.preemptSave 0)).team? 0).any ((d (.preemptSave 0)).drained 0) = true ∧
    ((p (.preemptSave 0)).team? 0).all ((p (.preemptSave 0)).drained 0) = false ∧
    (ticks (p (.preemptAbandon 0)) 1000005).ticks 0 = 5 + 1000000 ∧ (ticks (p (.preemptAbandon 0)) 1000004).ticks 0 < 5 + 1000000 ∧
    (held 0x0110).isSome = true ∧ v.logs = [] ∧ r.logOf (mkKey 0 0 1) = [] ∧
    (w f).spaceFrozen 0 = false ∧ r.logRoom (newKey v.team.groups [(mkKey 0 0 1, 0)]) v = true ∧ (v.groups.map fun x => newKey v.team.groups [(mkKey 0 0 1, 0)] x.1).Nodup ∧
    Tab.find (w { f with pending := some none }).formers 0 = some { f with pending := some none } ∧ dsEntries 0 = 0 ∧
    (w { f with idleAt := some 8 }).ticks 0 = 8 ∧ (w { f with idleAt := some 9 }).ticks 0 < 9 ∧
    ({ f with grid := some 0 }).grid.isSome = true := by decide +kernel
/-- The shape record of one INT8 element at a virtual address. -/
def oneByte (va : Nat) : Nat := packFields [(0, 57, va), (64, 8, 6), (72, 3, 2), (80, 8, 1), (88, 8, 1), (96, 24, 1), (120, 24, 1), (216, 35, 1)]

/-- The outcome of a fetch: the length of its one tile, or the address, code and level of its fault. -/
def fetched (x : State × Except (Nat × Xlat) (List (Option (List Byte)))) : List Nat :=
  match x.2 with
  | .ok l => l.map fun b => (b.getD []).length
  | .error (va, .fault code level) => [va, code, level]
  | .error _ => []

/-- The event with `n + 1` entries of group 0 that read different blocks of the record at `va`: the last is `n` blocks ahead. -/
def walking (va n : Nat) : State :=
  { at_ (.operandFetchCopy 0 n) with
    quads := [(0, { Quad.reset with
      board := (List.range (n + 1)).map fun i =>
        (i, { entry with granted := false, b := [none], bid := [i], src := [.record (oneByte va) 0 4 0 1 0] }) })] }

/-- How far ahead of its use the last copy is, and whether its translations are free of faults. -/
def aheadOf (va n : Nat) : Option (Nat × Bool) :=
  (Tab.find ((walking va n).quad 0).board n).map fun e => (((walking va n).quad 0).aheadBy n e, (walking va n).fetchesAhead 0 e)

/-- The board: an entry to grant and none, every kind of operation granted, a tile that is copied and one whose page is absent. -/
theorem test_meets_board_events :
    let wait := { entry with granted := false }
    let src (va : Nat) := { wait with b := [none], src := [.record (oneByte va) 0 4 0 1 0] }
    let f (va : Nat) := fetchTiles ((src va).agent 0) (src va) ((src va).b.zip (src va).src) (boarded (.operandFetchCopy 0 0) (src va))
    ((boarded (.boardPass 0) wait).quad 0).grants 0 = [0] ∧ ((boarded (.boardPass 0) entry).quad 0).grants 0 = [] ∧
    ([0xC0, 0xC6, 0xC7, 0xC8, 0xCA, 0xCB, 0xCC] : List Nat).all (fun op =>
      let s := boarded (.matrixOpComplete 0 0) { entry with op := op }
      Tab.find (s.quad 0).board 0 = some { entry with op := op } && (s.team? 0).isSome && (s.group? 0).any fun g => g.team = 0) = true ∧
    ((boarded (.boardPass 0) entry).quad 0).board.all (fun x => !(x.1 < 0)) = true ∧
    fetched (f 0x10000) = [1024] ∧
    fetched (f 0x40000000) = [0x40000000, 0x0201, 2] ∧
    aheadOf 0x40000000 0 = some (0, false) ∧ aheadOf 0x40000000 1 = some (1, false) ∧ aheadOf 0x40000000 3 = some (3, false) ∧
    aheadOf 0x10000 4 = some (4, true) ∧ aheadOf 0x10000 3 = some (3, true) := by
  decide +kernel

/-- The head of a queue of core 0. -/
def heads (s : State) (uncore : Bool) (x : Cmd) : Bool := ((s.core 0).queue uncore).head? = some 1 && Tab.find s.cmds 1 = some x

/-- Commands at the head of a queue, with the guard known, awaited, and in flight until cycle 19 of the die. -/
theorem test_meets_command_starts :
    let e := Event.engineCommandStart 0 false
    let g (v : Bool) := { cmd 0xD0 0 3 [0, 0] false with guard := some (1, v) }
    let busy (n : Nat) := ticks ((queued (.guardResolve 0 false) false (g true)).onGroup 0 fun q => { q with predBusy := [(1, 19)] }) n
    let x := cmd 0xD3 0 0 [0, 5 + 2 ^ 20] false
    let y := cmd 0xD0 0 3 [0x40, 0x30] false
    heads (queued e false (g true)) false (g true) = true ∧ heads (queued e false y) false y = true ∧
    heads (queued e false { y with doomed := true }) false { y with doomed := true } = true ∧
    ((queued e false y).team? 0).isSome = true ∧ (queued e false y).spadEarlier 0 1 = false ∧
    (let k := cmd 0xD8 0 3 [0, 0] false
     let t := { queued e false k with die0 := { Die.reset with abacus := (0, 8) } }
     heads t false k = true ∧ t.abacusPassed k = true ∧ (t.onDie 0 fun d => { d with abacus := (0, 0) }).abacusPassed k = false) ∧ heads (queued (.engineCommandStart 0 true) true x) true x = true ∧
    (∀ y, y ∈ (queued (.engineCommandStart 0 true) true x).cmds → y.2.op ≠ 0xD5 ∧ y.2.op ≠ 0xD8) ∧
    (x.word 0 % 16 = 0 ∧ x.word 0 + 16 ≤ placeTeam.scratchSize ∧ placeTeam.scratchSize ≤ 0x200000 ∧
      bits (x.word 1) 0 20 = 5 ∧ bits (x.word 1) 28 4 = 0) ∧
    (busy 10).cycles 0 = 19 ∧ (busy 9).cycles 0 < 19 ∧ ((busy 9).group? 0).map (·.predBusy) = some [(1, 19)] := by decide +kernel

/-- A TCOPY or TSTORE of the one-byte record under way. -/
def moving (op : Nat) : Cmd :=
  { cmd op 0 3 [0, 0xFFFFF000] true with handle := .record (oneByte 0x10000) 0 4 0 1 0, recv := [0] }

/-- A binding of a head dimension of 32, with one set pinned or none. -/
def bind_ (pins : List Nat) : Binding := ⟨0, 0, 0, 1, 32, 32, 4, 0, 0, [(0, 64, 2)], [], pins, 0, 0⟩

/-- What `Moves` says of sector 0 of tile 0, with the state that the checks of the tile leave. -/
def movesAt (s : State) (op : Nat) (c : Cmd) : Option (State × Tab Nat) :=
  if Tab.find s.cmds 1 = some c && c.op = op && c.started && 0 < (s.job c).tiles && 0 < (s.job c).sectors && c.skipped = [] &&
      c.done = [] && cpBarrier (c.word 1) = 0xFFFFF && c.maps = [] then
    match s.tileMap c 0 with
    | (s1, .ok m) => some (s1.keepMap 1 0 m, m)
    | _ => none
  else none

theorem test_meets_sector_moves :
    let s1 := queued (.tcopySectorWrite 1 0 0) false (moving 0xD1)
    let s2 := queued (.tstoreSectorRead 1 0 0) false (moving 0xD2)
    let kv := { moving 0xD2 with handle := .kvWrite 7 0 4 0 }
    let s3 := { queued (.tstoreSectorRead 1 0 0) false kv with bindings := [(7, bind_ [])] }
    (movesAt s1 0xD1 (moving 0xD1)).any (fun (s, m) => (tilePart s (moving 0xD1).agent (oneByte 0x10000) 1 4
        (shBlk (oneByte 0x10000) 0 1 0) 0 0 0 32 m).2.length = 32) = true ∧
    (0 + tileSize 4 * 0 + 32 * 0 + 32 ≤ 0x200000 ∧ tileSize 4 % 32 = 0 ∧ (s1.team? 0).isSome = true) ∧
    (movesAt s2 0xD2 (moving 0xD2)).isSome = true ∧
    (movesAt s3 0xD2 kv).any (fun x => (x.1.kvStoreFault (bind_ []) 4 0 4 0 0).isNone) = true ∧ (Tab.find s3.bindings 7).isSome = true := by decide +kernel

/-- Bindings that end and that do not, a pruned group, doomed commands, and collectives at their timeout and one tick before. -/
theorem test_meets_engine_ends :
    let s (b : Binding) := { at_ (.bindingEnd 7) with bindings := [(7, b)] }
    let held := tm (s (bind_ [])) fun t => { t with handles := [(3, .kvRead 7 0 4 0 0)] }
    let doom (x : Cmd) := { x with doomed := true }
    let i : Coll := ⟨0, 0, false, 0, 0, 1, [⟨0, 1, 0, 0, 0, 1, some 1, 0, 0, 0, none, none⟩], none, false, 0, []⟩
    let c (e : Event) (j : Coll) (n : Nat) := ticks { queued e true (cmd 0xDB 0 4 [0, 0] true) with colls := [(0, j)] } n
    (s (bind_ [])).bindingNamed 7 = false ∧
    (s (bind_ [2])).ownedAway ((s (bind_ [2])).setDesc (treeDie 0) 2 / 64) = false ∧ held.bindingNamed 7 = true ∧
    ((s (bind_ [2])).setDesc (treeDie 0) 2 + 8 ≤ 2 ^ 40 ∧ sdState ((s (bind_ [2])).setWord (treeDie 0) 2) ≠ 2) ∧
    ((at_ (.groupCancel 0)).onGroup 0 fun g => { g with doomed := true }).group? 0 = some { placeGroup false with doomed := true } ∧
    ((at_ (.groupCancel 0)).group? 0).map (·.exited) = some false ∧
    (queued (.cancelledCommandStop 1) true (doom (cmd 0xDA 0 0 [] false))).mayStop 1 (doom (cmd 0xDA 0 0 [] false)) = true ∧
    (queued (.cancelledCommandStop 1) true (doom (cmd 0xDA 0 0 [] true))).mayStop 1 (doom (cmd 0xDA 0 0 [] true)) = false ∧
    (c (.collTimeout 0) i 1024).ticks 0 = i.first + 1024 * i.timeout ∧ (c (.collTimeout 0) i 1023).ticks 0 < i.first + 1024 * i.timeout ∧
    (c (.collTimeout 0) i 1024).collExpired i = true ∧ (c (.collTimeout 0) i 1023).collExpired i = false ∧ i.here = [1] ∧
    (c (.collTimeout 0) i 1024).collLacks i = true ∧ i.root = (c (.collTimeout 0) i 1024).ownFabric ∧
    Tab.find (c (.collTimeout 0) i 1024).cmds 1 = some (cmd 0xDB 0 4 [0, 0] true) ∧ i.size ≤ i.ranks.length ∧
    (c (.collInstanceRelease 0) { i with ended := some (1, 5) } 1029).ticks 0 = 5 + 1024 ∧
    (c (.collInstanceRelease 0) { i with ended := some (1, 5) } 1028).ticks 0 < 5 + 1024 := by decide +kernel
/-- A mapped 2 MiB page at 2^30 of context 0, which is to move. -/
def moveable (e : Event) : State :=
  let s := at_ e
  let m := memWriteLE (memWriteLE s.mem 0x3008 8 0x4001) 0x4000 8 (0x400000 + 0xDF)
  { s with mem := m, contexts := Tab.alter s.contexts 0 fun c => { c with migva := 0x40000000, migframe := 0x600000 } }

/-- A move in its round, with some lines marked. -/
def move2 (round marked : Nat) (frozen : Bool) : Move2 := ⟨0, 0, 0x40000000, 2 ^ 21, 0x400000, 0x600000, round, List.range marked, frozen⟩

/-- What the walk of GO meets: the level of its leaf, or the code of its fault. -/
def goWalk (s : State) (x : Nat) : List Nat :=
  match (walkFrom s none 0 x ((s.context x).migva.toNat % 2 ^ 57)).2 with
  | WalkRead.leaf _ pte level => [level, pte]
  | .fail (.fault code level) => [code, level]
  | _ => []

/-- GO: under way, no page, a page of 1 GiB and one of 2 MiB that is not refused; rounds 7 and 8 with 257 lines, and 256 lines; a
frozen move with an access under way and without. -/
theorem test_meets_migration_events :
    let s := moveable (.migrationGo 0 1)
    let r (m : Move2) := { moveable (.migrationRound 1) with moves := [(1, m)] }
    let busy := { flying (.migrationFreeze 1) (acc .load 0x400040 .waiting false) with moves := [(1, move2 1 0 true)] }
    (s.context 0).migstatus ≠ 1 ∧ goWalk s 0 = [1, 0x4000DF] ∧ memWf s.mem = true ∧
    (s.norm 0x400000 = 0x400000 ∧ s.norm 0x600000 % 2 ^ 21 = 0 ∧ s.moves = []) ∧
    goWalk (at_ (.migrationGo 0 1)) 0 = [2, 0xDF] ∧ goWalk (at_ (.migrationGo 3 1)) 3 = [0x0201, 4] ∧
    (move2 7 257 false).marked.length = 257 ∧ (move2 8 256 false).marked.length = 256 ∧
    Tab.find (r (move2 8 257 false)).moves 1 = some (move2 8 257 false) ∧
    ((move2 7 257 false).marked.all fun l => !(r (move2 7 257 false)).unheld (l * 64) && ((r (move2 7 257 false)).remoteDev (l * 64)).isNone) =
      true ∧
    (r (move2 8 0 true)).accesses = [] ∧ (r (move2 8 0 true)).parts.all (fun p => p.2.log.isEmpty) = true ∧ s.badLines = [] ∧
    s.die0.lost = false ∧ s.die1.lost = false ∧ 0x400000 + 2 ^ 21 ≤ s.norm 0x600000 ∧
    (r (move2 8 0 true)).moveBusy (move2 8 0 true) = false ∧ busy.moveBusy (move2 1 0 true) = true := by decide +kernel

/-- No line of the page or of its new frame is owned away, and each die's L2 has room for both. -/
theorem test_meets_migration_copy : (∀ l, (moveable (.migrationGo 0 1)).ownedAway l = false) ∧ (moveable (.migrationGo 0 1)).l2Room 32768 := by
  refine ⟨fun l => rfl, fun d => ?_⟩
  by_cases h : d = 0 <;> simp only [State.die, h, if_true, if_false] <;> decide

/-- QSYNC of a queue at which a command waits; RDCOLL; KVPOOL with a tree that is active, and without. -/
theorem test_meets_queue_and_pool_writes :
    let q : State := { queued (.qsyncWrite 9) true (cmd 0xD6 0 4 [9] true) with itemQueues := [(9, { ItemQueue.reset with waitDeq := [1] })] }
    let tree : State := { at_ (.kvpoolWrite 0 0x10000) with csr := { DeviceCsrs.reset with treebase0 := 0x100000 }, mem := memWriteLE [] 0x102000 1 2 }
    let rd (n : Nat) : State := { at_ .rdcollDone with csr := { DeviceCsrs.reset with rdstatus := n } }
    ((q.itemQueue 9).waitDeq ++ (q.itemQueue 9).waitEnq = [1] ∧ Tab.find q.cmds 1 = some (cmd 0xD6 0 4 [9] true) ∧
      (q.group? 0).map (·.team) = some 0) ∧
    (rd 1).csr.rdstatus = 1 ∧ (rd 2).csr.rdstatus ≠ 1 ∧ tree.treesActive 0 = true ∧
    (at_ (.kvpoolWrite 0 0x10000)).treesActive 0 = false := by decide +kernel

/-- What CHARGE reads in the request record of team 0. -/
def charged (s : State) (rec_ : Nat) : Option Nat :=
  match readVirt s (s.ctxOf 0) (rec_ + 12) 2 with
  | (_, .ok v) => some v
  | _ => none

/-- CHARGE: a group of a step grid whose record has no code and one whose record has one, with listed and unlisted codes; a team
without a slot. -/
theorem test_meets_charges :
    let e := Event.chargeWrite 0 0x10101
    let s (r : Nat) := tm (at_ e) fun t => { t with slot := some 0, reqRec := r }
    (((s 0x10100).manager 0).winsel = 0 ∧ ((s 0x10100).group? 0).map (·.privileged) = some false ∧
      ((s 0x10100).teamOf 0).map (fun t => (t.slot, t.reqRec)) = some (some 0, 0x10100)) ∧
    codeListed 0x0101 = true ∧ codeListed 0x0502 = true ∧ codeListed 0x0109 = false ∧ charged (s 0x10100) 0x10100 = some 0 ∧
    (charged (s 0x2FF4) 0x2FF4).any (fun v => v ≠ 0) = true ∧
    ((at_ e).teamOf 0).map (·.slot) = some none := by decide +kernel
/-- The event with the control registers changed. -/
def ctl (e : Event) (f : Control → Control) : State := { at_ e with ctl := f Control.reset }

/-- OWNER: each case that takes effect, and one that does not; writes by the owner and by another master; versions at both ends. -/
theorem test_meets_control_register_events :
    let may (own m req : Nat) (force : Bool) : Bool := req < 4 && req ≠ own && ((own = 0 && req = m) || own = m || (m = 3 && force))
    may 0 1 1 false = true ∧ may 1 1 0 false = true ∧ may 1 3 2 true = true ∧ may 2 1 1 false = false ∧
    (let passed (c : Control) (m : Nat) : Bool := c.ownTick = (at_ .rebase).ticks 0 + 1 && decide (c.ownMaster < m)
     passed Control.reset 1 = false ∧ passed { Control.reset with ownTick := 1, ownMaster := 2 } 3 = true ∧
       passed { Control.reset with ownTick := 1, ownMaster := 2 } 2 = false) ∧
    (ctl (.deniedClear 1) fun c => { c with owner := 2 }).ctl.owner ≠ 1 ∧ (ctl (.deniedClear 2) fun c => { c with owner := 2 }).ctl.owner = 2 ∧
    (ctl (.controlRegisterWrite 0 0x1000 1) id).ctl.resetPending = 0 ∧
    (({ at_ (.controlRegisterWrite 0 0x1000 3) with die0 := { Die.reset with lost := true } }).die 0).lost = true ∧
    (ctl (.controlRegisterWrite 0 0x2000 1) fun c => { c with mbbusy := true }).ctl.mbbusy = true ∧
    (ctl (.versionSelect 0 0x18 0) id).csr.en = false := by decide +kernel

/-- The mailbox has taken a command, with a buffer of `n` bytes. -/
def mailed (code n : Nat) (f : Control → Control) : State :=
  ctl .attest fun c => f { c with mbbusy := true, mbcmd := BitVec.ofNat 64 code, mblen := n }

/-- Accepted and turned-away commands, good and short buffers, an exhausted key, a command with its result, a reserved command;
and for every image a minimum that it meets and one that it does not. -/
theorem test_meets_firmware_events :
    ([(1, 0), (2, 2916), (3, 68), (4, 0), (5, 8), (6, 2948)] : List (Nat × Nat)).all (fun x =>
      let s := mailed x.1 x.2 id
      s.ctl.mbbusy && s.ctl.mbout.isNone && s.ctl.mbcmd.toNat % 256 = x.1 && 3 ≤ s.ctl.fwver % 256 && s.ctl.fwstat ≠ 2 &&
        s.ctl.mbaddr.toNat % 64 = 0 && s.ctl.mbaddr.toNat + s.ctl.mblen ≤ 2 ^ 51 && s.ctl.attidx < 2 ^ 20) = true ∧
    (mailed 6 2948 fun c => { c with fwver := 0x0102 }).ctl.fwver % 256 < 3 ∧
    (mailed 2 2916 fun c => { c with fwstat := 2 }).ctl.fwstat = 2 ∧ (mailed 2 2915 id).ctl.mblen < 2916 ∧
    (mailed 2 2916 fun c => { c with attidx := 2 ^ 20 }).ctl.attidx = 2 ^ 20 ∧
    (mailed 5 8 id).ctl.storedImage = some [] ∧ (mailed 7 0 id).ctl.mbcmd.toNat % 256 = 7 ∧ (mailed 0 0 id).ctl.mbcmd.toNat % 256 = 0 ∧
    (mailed 3 68 fun c => { c with mbout := some (2 ^ 51, [], 0) }).ctl.mbout = some (2 ^ 51, [], 0) ∧
    ((mailed 1 64 fun c => { c with fwstat := 2, newImage := some [], mbout := some (2 ^ 51, [], 0) }).ctl.newImage).isSome = true ∧
    (mailed 7 0 id).ctl.newImage = none ∧ (ctl .mailboxComplete id).ctl.mbbusy = false := by decide +kernel

theorem test_meets_image_versions (img : List Byte) :
    (mailed 1 1 fun c => { c with minVersion := secVersion img + 1 }).ctl.minVersion = secVersion img + 1 ∧
    (mailed 1 1 id).ctl.minVersion ≤ secVersion img := ⟨rfl, Nat.zero_le _⟩

/-- Readings at the bounds; quads in service, failed and in use, with both spares free, one, and none; pseudo-channels; links with 3
lanes and 2; a window that has ended and one that has not. -/
theorem test_meets_platform_events :
    let q (n spares : Nat) : State :=
      { ctl (.quadSubstitution n) (fun c => { c with spareQuads := spares }) with quads := [(n, { Quad.reset with failed := true })] }
    ([94, 95, 109, 110, 91, 92] : List Nat).map (fun T => (decide (T < 95), decide (110 ≤ T), decide (T < 92))) =
      [(true, false, false), (false, false, false), (false, false, false), (false, true, false), (true, false, true),
        (true, false, false)] ∧
    ((q 1 0).quad 1).failed = true ∧ (q 1 0).teams.all (fun x => quadOfCore x.2.core ≠ 1) = true ∧
    (q 0 0).teams.all (fun x => quadOfCore x.2.core ≠ 0) = false ∧ (q 1 1).ctl.spareQuads % 4 = 1 ∧ (q 1 3).ctl.spareQuads % 4 = 3 ∧
    (ctl (.pchanCopyComplete 15) fun c => { c with copying := [15] }).ctl.copying = [15] ∧
    (let known (u : FailUnit) (f : Control → Control) := ctl (.structureFailed u) fun c => f { c with failing := [u] }
     (known (.pseudoChannel 15) fun c => { c with sparePchan := 2 ^ 15 }).ctl.sparePchan / 2 ^ 15 % 2 = 1 ∧
       ([.quad 511, .pseudoChannel 15, .bondLane, .linkLane 35] : List FailUnit).all (fun u => (known u id).ctl.failing.contains u) = true ∧
       (at_ (.structureFailed (.quad 511))).ctl.failing.contains (.quad 511) = false ∧
       (known (.pseudoChannel 15) id).ctl.sparePchan / 2 ^ 15 % 2 = 0 ∧ 15 ∉ (known (.pseudoChannel 15) id).ctl.copying ∧
       ((known (.pseudoChannel 15) id).die 1).resetting = false ∧ (known (.pseudoChannel 15) id).ctl.spareQuads < 2 ^ 32 ∧
       ({ ctl (.pchanCopyComplete 15) (fun c => { c with copying := [15] }) with die1 := { Die.reset with resetting := true } }.die 1).resetting = true ∧
       ((known (.linkLane 35) id).onPort 35 fun p => { p with lanes := 3 }).port 35 = { Port.reset with lanes := 3 }) ∧
    (let s (n : Nat) := ticks { at_ (.utilisationWindow 1 5) with die1 := { Die.reset with windows := 1 } } n
     ((s 2048).die 1).windows < (s 2048).ticks 1 / 1024 ∧ (s 2048).ticks 1 % 1024 = 0 ∧ (s 1024).ticks 1 / 1024 ≤ ((s 1024).die 1).windows ∧
       (s 2049).ticks 1 % 1024 ≠ 0) := by
  decide +kernel

/-- Resets requested and due, one that waits for die 0's, a die resetting, and a die lost; a dirty line of die 1. -/
theorem test_meets_reset_events :
    let due (s : State) (d b : Nat) : Bool :=
      s.ctl.resetPending / 2 ^ b % 2 = 1 && !s.die0.resetting && !s.die1.resetting && !(s.die d).lost &&
        (d = 0 || (s.ctl.resetPending / 2 ^ 0 % 2 = 0 && s.ctl.resetPending / 2 ^ 2 % 2 = 0))
    let r (n : Nat) := ctl (.coreReset 0) fun c => { c with resetPending := n }
    let on1 (f : Die → Die) : State := { at_ (.dieLost 1) with die1 := f Die.reset }
    due (r 1) 0 0 = true ∧ due (r 2) 1 1 = true ∧ due (r 3) 1 1 = false ∧ due (r 4) 0 2 = true ∧ due (r 8) 1 3 = true ∧ due (r 0) 0 0 = false ∧
    ((on1 fun d => { d with resetting := true }).die 1).resetting = true ∧ ((on1 fun d => { d with lost := true }).die 1).lost = true ∧
    ((on1 id).die 1).resetting = false ∧
    ({ on1 id with home := [(2 ^ 33, ⟨1, 9, none, true⟩)] }).homedOn 1 (2 ^ 33) = true ∧
    (let hot (n : Nat) := ctl (.packagePowerOnReset [.quad 0]) fun c => { c with tempIo := n }
     (hot 110).ctl.tempIo = 110 ∧ (hot 109).ctl.tempIo < 110 ∧ (hot 109).ctl.temp0 < 110 ∧ (hot 109).ctl.temp1 < 110) ∧
    ((at_ (.packagePowerOnReset [])).ctl.storedImage.isSome) = true := by decide +kernel

/-- What a walk ends in: 1 for an entry, else 0. -/
def walked (s : State) (x va : Nat) (acc : AccessKind) (ahead : Bool) : Nat :=
  match (walk s 0 x va acc ahead (some 0)).2 with
  | .ok _ => 1
  | _ => 0

/-- Translations that a walk finds and that it does not, asked for and not. -/
theorem test_meets_walks :
    let s := at_ (.pageWalk 0 0 0x10000 .store)
    let l := { s with parts := [(0, { Part.reset with
      log := [(0, ⟨0, 1, (encode (.stW ⟨0, 4, 8, 0, 0, 0⟩)).getD 0, 4, 0x0201, 0, [(3, [0, 0, 0, 0, 0x10000, 0, 1])], [], true⟩)] })] }
    (canonical 0x10000 = true ∧ s.wantsPage 0 0 .fetch 0x10 = true ∧ l.wantsPage 0 0 .store 0x10 = true ∧
      s.frozenAt 1 0x10000 = false ∧ s.wantsPage 1 0 .fetch 0x10 = false ∧ s.wantsPage 0 0 .store 0x10 = false) ∧
    walked s 0 0x10000 .store false = 1 ∧ walked s 0 0x40000000 .store false = 0 ∧ walked l 0 0x10000 .store false = 1 ∧
      walked s 0 0x10000 .fetch false = 1 ∧ walked s 0 0x10000 .load true = 1 ∧ walked s 0 0x40000000 .load true = 0 := by
  decide +kernel

/-- A state whose team has a record handle for the byte at an address. -/
def recordHandle (va : Nat) : State :=
  tm (at_ (.pageWalk 0 0 0x10000 .store)) fun t => { t with handles := [(0, .record (oneByte va) 0 4 0 1 0)] }

/-- A page that the tile engine comes to next, and a page to which no engine of the quad comes. -/
theorem test_meets_walk_ahead :
    (recordHandle 0x10000).walksNext 0 0 .load 0x10 = true ∧ (recordHandle 0x10000).walksNext 1 0 .load 0x11 = false ∧
    (speculate (recordHandle 0x10000) 0 0 0x10000 .load).isSome = true := by decide +kernel

/-- Such a page that has no translation. -/
theorem test_meets_walk_ahead_fault :
    (recordHandle 0x40000000).walksNext 0 0 .load 0x40000 = true ∧
    speculate (recordHandle 0x40000000) 0 0 0x40000000 .load = none := by decide +kernel

/-- Records to deliver to a management core: the last of its queue, one handled again, one of an I/O unit, and none. -/
theorem test_meets_deliveries :
    let rec_ (core : Nat) : Delivery := ⟨packFields [(80, 16, 0x0201), (111, 11, core)], core = 0x7FF, none⟩
    let m (f : Manage → Manage) : State :=
      { at_ (.recordDelivery 0) with csr := { DeviceCsrs.reset with mptbase := 0x1000 }, manage := [(0, f Manage.reset)] }
    ((m id).manager 0).halted = true ∧ (m id).csr.mptbase ≠ 0 ∧ ((m id).die 0).resetting = false ∧
    ((m fun x => { x with queue := [rec_ 3] }).manager 0).queue = [rec_ 3] ∧ (rec_ 3).unit = false ∧ (rec_ 0x7FF).unit = true ∧
    ((m fun x => { x with again := some (rec_ 3) }).manager 0).again = some (rec_ 3) ∧
    ((m id).group? (privKey 0)).isSome = true ∧
    (((m id).onGroup 0 fun g => { g with suspension := held 0x0110 }).group? 0).map (·.suspension) = some (held 0x0110) := by decide +kernel

/-- A device that has shut down, before a power-on reset, before a reading and before any other step. -/
theorem test_meets_shut_down :
    ({ at_ .rebase with powered := false, agenda := [.event (.packagePowerOnReset [])] }).agenda = .event (.packagePowerOnReset []) :: [] ∧
    ({ at_ .rebase with powered := false, agenda := [.event (.thermalRelease 2 94)] }).agenda = .event (.thermalRelease 2 94) :: [] ∧
    (at_ .rebase).agenda.head? ≠ some (.event (.packagePowerOnReset [])) := by decide +kernel

/-- Whether a step answers a next state. -/
def goesOn (s : State) : Bool :=
  match step s with
  | .next _ => true
  | _ => false

theorem goesOn_spec (s : State) (h : goesOn s = true) : ∃ t, step s = .next t := by
  unfold goesOn at h
  split at h
  · exact ⟨_, by assumption⟩
  · cases h

/-- A step of a state whose memory is in its form answers a next state. -/
theorem test_meets_steps_keep_form :
    memWf (State.reset.withFetchWord 32 0).mem = true ∧ goesOn (State.reset.withFetchWord 32 0) = true := by decide +kernel

/-- A reserved word is that of RESERVED_OPCODE with it. -/
theorem test_meets_round_trip :
    encode (.reservedOpcode 0xFF123456) = some 0xFF123456 ∧ decodeWord 0xFF123456 = .reservedOpcode 0xFF123456 ∧
    (encode (.iadd ⟨7, 255, 255, 255⟩)).isSome = true := by decide +kernel
/-! ### Results: the worked examples of the manual, and cases worked by hand from its tables -/

/-- The state after an instruction; a state without groups where it gives none. -/
def run (i : Instr) (s : State) : State :=
  match exec i s with
  | .next t => t
  | _ => { s with groups := [] }

/-- Register `r` of lane `l` of the issuing group. -/
def reg (s : State) (r l : Nat) : Word := (me s).vreg r l

/-- Vector registers set from a list of pairs. -/
def vecs (s : State) (vs : List (Nat × Word)) : State := vs.foldl (fun s x => vec s x.1 x.2) s

/-- v8 with lane 5's value after an instruction on v2, v3, … -/
def v8 (i : Instr) (vs : List (Nat × Word)) : Word := reg (run i (vecs (latched i) vs)) 8 5

/-- Register `r` of lane L holds `f L`. -/
def byLane (s : State) (r : Nat) (f : Nat → Word) : State :=
  grp s fun g => { g with vregs := Tab.put g.vregs r ((List.range 32).map f) }

/-- R176: sums and products wrap; a pair carries. -/
theorem test_integer_wraps :
    v8 (.iadd ⟨0, 8, 2, 3⟩) [(2, 0xFFFFFFFF), (3, 2)] = 1 ∧ v8 (.isub ⟨0, 8, 2, 3⟩) [(2, 0), (3, 1)] = 0xFFFFFFFF ∧
    v8 (.imulhiS ⟨0, 8, 2, 3⟩) [(2, 0xFFFFFFFF), (3, 2)] = 0xFFFFFFFF ∧ v8 (.imulhiU ⟨0, 8, 2, 3⟩) [(2, 0xFFFFFFFF), (3, 2)] = 1 ∧
    v8 (.iadd64 ⟨0, 8, 2, 4⟩) [(2, 0xFFFFFFFF), (3, 0), (4, 1), (5, 0)] = 0 ∧
    reg (run (.iadd64 ⟨0, 8, 2, 4⟩) (vecs (latched (.iadd64 ⟨0, 8, 2, 4⟩)) [(2, 0xFFFFFFFF), (3, 0), (4, 1), (5, 0)])) 9 5 = 1 := by
  decide +kernel

/-- The example under R176: LEA with an index of −2 and of 32. -/
theorem test_lea :
    let s (n : Word) := run (.lea ⟨0, 2, 9, 3⟩) (vecs (latched (.lea ⟨0, 2, 9, 3⟩)) [(2, 0xFFFFFF00), (3, 4), (9, n)])
    (reg (s 0xFFFFFFFE) 2 0, reg (s 0xFFFFFFFE) 3 0) = (0xFFFFFEF0, 4) ∧ (reg (s 0x20) 2 0, reg (s 0x20) 3 0) = (0, 5) := by decide +kernel

/-- The example of R177, and its two corners. -/
theorem test_division :
    v8 (.idivS ⟨0, 8, 2, 3⟩) [(2, 0xFFFFFFF9), (3, 2)] = 0xFFFFFFFD ∧ v8 (.iremS ⟨0, 8, 2, 3⟩) [(2, 0xFFFFFFF9), (3, 2)] = 0xFFFFFFFF ∧
    v8 (.idivS ⟨0, 8, 2, 3⟩) [(2, 0x80000000), (3, 0xFFFFFFFF)] = 0x80000000 ∧ v8 (.idivU ⟨0, 8, 2, 3⟩) [(2, 5), (3, 0)] = 0xFFFFFFFF := by
  decide +kernel

/-- R178: a shift by 32 or more; the example of R179; the examples of B3EXT. -/
theorem test_shifts_and_fields :
    v8 (.shl ⟨0, 8, 2, 3⟩) [(2, 0xFFFFFFFF), (3, 32)] = 0 ∧ v8 (.shrS ⟨0, 8, 2, 3⟩) [(2, 0x80000000), (3, 0x80000000)] = 0xFFFFFFFF ∧
    v8 (.bfeU ⟨0, 8, 2, 3⟩) [(2, 0xF0F01234), (3, 0x81C)] = 0xF ∧ v8 (.bfeS ⟨0, 8, 2, 3⟩) [(2, 0xF0F01234), (3, 0x81C)] = 0xFFFFFFFF ∧
    v8 (.b3ext ⟨0, 8, 2, 4 + 8⟩) [(2, 0x6B00)] = 1 ∧ v8 (.b3ext ⟨0, 8, 2, 8⟩) [(2, 0x6B00)] = 0xFFFFFFFF := by decide +kernel

/-- The example of MOVI and MOVHI. -/
theorem test_moves :
    v8 (.movi ⟨0, 8, 0x1234⟩) [] = 0x1234 ∧ v8 (.movhi ⟨0, 8, 0x1000⟩) [(8, 0x1234)] = 0x40001234 ∧
    v8 (.movi ⟨0, 8, 0x3FFD⟩) [] = 0xFFFFFFFD := by decide +kernel

/-- FP32: a tie to even, one rounding of FFMA, a signed zero, a NaN; FSINT and FCOST of the example under R186. -/
theorem test_float :
    v8 (.fadd ⟨0, 8, 2, 3⟩) [(2, 0x4B800000), (3, 0x3F800000)] = 0x4B800000 ∧
    v8 (.ffma ⟨0, 8, 2, 3⟩) [(2, 0x3F800001), (3, 0x3F800001), (8, 0xBF800002)] = 0x28800000 ∧
    v8 (.fadd ⟨0, 8, 2, 3⟩) [(2, 0x3F800000), (3, 0xBF800000)] = 0 ∧ v8 (.fmul ⟨0, 8, 2, 3⟩) [(2, 0x7F800000), (3, 0)] = 0x7FC00000 ∧
    v8 (.fsint ⟨0, 8, 2, 0⟩) [(2, 0x3E800000)] = 0x3F800000 ∧ v8 (.fcost ⟨0, 8, 2, 0⟩) [(2, 0x3E800000)] = 0 ∧
    v8 (.fcost ⟨0, 8, 2, 0⟩) [(2, 0xBF400000)] = 0 ∧ v8 (.fsint ⟨0, 8, 2, 0⟩) [(2, 0xBF000000)] = 0x80000000 := by decide +kernel

/-- The example of CVT.E4M3X2, and the examples of E3M5 and of ternary bytes (R125, R128). -/
theorem test_conversions :
    v8 (.cvtE4m3x2F32 ⟨0, 8, 2, 3⟩) [(8, 0), (2, 0x3F800000), (3, 0xC0000000)] = 0xC0380000 ∧
    v8 (.cvtE4m3x2F32 ⟨0, 8, 2, 3⟩) [(8, 0xC0380000), (2, 0x43E00000), (3, 0x3A83126F)] = 0x017EC038 ∧
    ((List.range 5).map fun i => tritCode 4 (0x6B / 3 ^ i % 3)) = [0xFF, 0xFF, 0xFF, 0, 1] := by decide +kernel

/-- The example of QFP4: lanes 0 to 7 hold the eight values. -/
theorem test_qfp4 :
    let i : Instr := .qfp4 ⟨0, 8, 2, 0⟩
    let vs : List Word := [0x40A00000, 0xBF800000, 0x3E4CCCCD, 0, 0, 0, 0, 0x40200000]
    reg (run i (byLane (latched i) 2 fun l => (vs[l % 8]?).getD 0)) 8 0 = 0x5607 := by decide +kernel

/-- The examples of SHFL.XOR, and of GSET with the guarded IADD after it. -/
theorem test_exchange_and_guards :
    let x (n : BitVec 7) := byLane (latched (.shflXor ⟨0, 5, 4, n⟩)) 4 fun l => BitVec.ofNat 32 (10 * l)
    let w4 := run (.shflXor ⟨0, 5, 4, 68⟩) (x 68)
    let w8 := run (.shflXor ⟨0, 5, 4, 72⟩) (x 72)
    let p := grp (latched (.gset ⟨0, 2, 5, 1⟩)) fun g => { g with preds := [(5, 0xFFFF0000)] }
    let s := (run (.gset ⟨0, 2, 5, 1⟩) p)
    let t := run (decodeWord 0x01404103) (vecs (grp (latched (decodeWord 0x01404103)) fun g =>
      { g with preds := (me s).preds, guards := (me s).guards }) [(1, 9), (2, 3), (3, 4)])
    (reg w4 5 0, reg w4 5 5, reg w4 5 9) = (40, 10, 130) ∧ ((List.range 32).map (reg w8 5)) = (List.range 32).map (fun l => BitVec.ofNat 32 (10 * l)) ∧
    (reg t 1 15, reg t 1 16) = (7, 9) := by decide +kernel

/-- The example of SREG ACTMASK: lanes 0 to 15 issue it, under a guard that admits even lanes. -/
theorem test_actmask :
    let i : Instr := .sreg ⟨1, 3, 0x19⟩
    let s := grp (latched i) fun g => { g with preds := [(5, 0x55555555)], guards := [(1, ⟨5, false⟩)] }
    let t := run i (vec { s with cur := { s.cur with active := 0xFFFF } } 3 9)
    ((List.range 17).map fun l => reg t 3 l) = (List.range 17).map fun l => if l % 2 = 0 && l < 16 then 0xFFFF else 9 := by decide +kernel

/-- The example of BRA: the lanes that take it stand at 0x0044, the others at 0x0114. -/
theorem test_branch_word : decodeWord 0x905FFFCC = .bra ⟨2, 0x1FFFCC⟩ ∧
    (0x110 + 4 * (BitVec.signExtend 32 (0x1FFFCC : BitVec 21))).toNat = 0x40 := by decide +kernel

/-- The example of R138: MMA.E4M3 under NBV 2 and NBV 1. -/
theorem test_mma_summation :
    let a (k : Nat) : Nat := if k = 0 then 0x7E else if k = 1 then 0x14 else if k = 2 then 0x04 else 0
    let b (k : Nat) : Nat := if k = 1 then 0x20 else 0x78
    let sum (nbv : Nat) : Word := matrixSum nbv 2 32 0 fun k => (factor nbv 2 (a k)).mul (factor nbv 2 (b k))
    sum 2 = 0x47E00101 ∧ sum 1 = 0x47E00000 := by decide +kernel

/-- Row 0 of a tile, from a list. -/
def row0 (t : Team) (n : Nat) (vs : List Word) (rest : Word) : Team :=
  t.setTile n [0] (List.range 32) fun _ j => (vs[j]?).getD rest

/-- The example of R247 to R249: the two steps of a softmax and its division. -/
theorem test_attention_row :
    let e : Entry := { entry with rows := 1, sigma := 0x3F800000, type := 5, cols := 1, nbv := 2 }
    let v (vs : List Nat) : Option (List Byte) := some ((List.range 1024).map fun i =>
      if i % 64 < 2 then BitVec.ofNat 8 ((vs[i / 64]?).getD 0 / 256 ^ (i % 64)) else 0)
    let s1 := (row0 placeTeam 0 [0x40000000, 0x3F800000, 0] 0xFF800000).softmax { e with op := 0xCA, writes := [0], z := true }
    let o1 := s1.weighted { e with op := 0xCB, reads := [0], writes := [8], z := true, b := [v [0x4080, 0x4100, 0x4000], v []] }
    let s2 := (row0 o1 0 [0x40400000] 0xFF800000).softmax { e with op := 0xCA, writes := [0] }
    let o2 := s2.weighted { e with op := 0xCB, reads := [0], writes := [8], b := [v [0x40C0], v []] }
    let f := o2.normalise { e with op := 0xCC, reads := [1], writes := [8] }
    (s1.tile 1 0 0, s1.tile 1 0 1, s1.tile 1 0 2) = (0x40000000, 0x3FE00000, 0) ∧
    ((List.range 4).map fun j => s1.tile 0 0 j) = [0x3F800000, 0x3F000000, 0x3E800000, 0] ∧ o1.tile 8 0 0 = 0x41080000 ∧
    (s2.tile 1 0 0, s2.tile 1 0 1, s2.tile 1 0 2) = (0x40400000, 0x3FF00000, 0x3F000000) ∧ o2.tile 8 0 0 = 0x41240000 ∧
    f.tile 8 0 0 = 0x40AEEEEF := by decide +kernel

/-- The example of R63: the walk of VA 0x0001_0040_2030_5678. -/
theorem test_page_walk :
    let pte (s : State) (a v : Nat) : State := { s with mem := memWriteLE s.mem a 8 v }
    let s := pte (pte (pte (pte (latched (.nop ⟨0, 0, 0, 0⟩)) 0x1008 0x5001) 0x5000 0x6001) 0x6800 0x7001) 0x7808 0x8000600057
    let r := walk s 0 0 0x0001004020305678 .load false none
    let w := walk s 0 0 0x0001004020305678 .store false none
    (match r.2 with | .ok e => e.phys (0x0001004020305678 % 2 ^ 57) | _ => 0) = 0x8000705678 ∧ w.1.peekLE 0x7808 8 = 0x80006000D7 := by
  decide +kernel

/-- The example of R399: the record of TRAP 0x12 on core 0x05A7, partition 1, place 3 of context 2, and its WINSEL. -/
theorem test_trap_record :
    let s := { ticks (latched (.nop ⟨0, 0, 0, 0⟩)) 0x01234567 with contexts := [(2, { Context.reset with frhead := 1 })] }
    let w := (s.report ⟨2, 0x5A7, 1, 3, some 5, 77, 1, .group, none⟩ ⟨0x0110, 0, 0x344, 0xF0, 0, 0x12, 0⟩).2
    ((List.range 14).map fun i => (recWord w i).toNat) =
      [0, 1, 0x01100000, 0x0AD3A600, 0x45671005, 0x123, 0xF0, 0x344, 0x4D, 0, 0, 0, 0x12, 0] ∧ recKey w = 0x6DA7 := by decide +kernel

/-- The example of R372: the fabric manager's write applies first, and the host's is then ignored. -/
theorem test_owner :
    let s0 : State := { latched (.nop ⟨0, 0, 0, 0⟩) with ctl := { Control.reset with epoch := 5 } }
    let s1 := s0.writeOwner 2 0x20
    let s2 := s1.writeOwner 1 0x10
    let s3 := s2.writeOwner 2 0x10
    (s1.ctl.owner, s1.ctl.epoch) = (2, 6) ∧ (s2.ctl.owner, s2.ctl.epoch) = (2, 6) ∧ (s3.ctl.owner, s3.ctl.epoch) = (1, 7) := by decide +kernel

/-- The example of R344: GRIDDIM_X = 1,000, P = 600 and F = 1. -/
theorem test_shares :
    let g := { placeGrid with record := packFields [(32, 31, 1000), (64, 16, 1), (80, 16, 1), (256, 64, 600), (320, 1, 1)] }
    g.share 1 = (0, 600) ∧ g.share 0 = (600, 1000) := by decide +kernel

/-- The example of R348: decisions 31 to 35. -/
theorem test_dispatch_order :
    let g (tier due ready queue : Nat) : Grid :=
      { placeGrid with
        tier := tier, ready := some ready, queue := queue, next0 := 0, next1 := 0
        record := packFields [(32, 31, 1), (64, 16, 1), (80, 16, 1), (192, 48, due), (256, 64, 1)] }
    let all := [(12, g 0 250000 199000 12), (40, g 0 250000 199000 40), (7, g 2 230000 150000 7), (300, g 3 400000 90000 300), (9, g 1 210000 180000 9)]
    let s (done : List Nat) (n ptr : Nat) : State :=
      let z := ticks (latched (.nop ⟨0, 0, 0, 0⟩)) 200000
      { z with
        grids := all.filter fun x => !done.contains x.1
        csr := { z.csr with tlim3 := 100000 }
        die0 := { z.die0 with decisions := n - 1, last := 1, ptr := ptr } }
    let first (x : State) : Option Nat := ((x.decisionOrder 0).1.head?).map (·.id)
    first (s [] 31 20) = some 300 ∧ first (s [300] 32 20) = some 7 ∧ first (s [300, 7] 33 20) = some 40 ∧
    first (s [300, 7, 40] 34 41) = some 12 ∧ first (s [300, 7, 40, 12] 35 41) = some 9 := by decide +kernel

/-- R369 and R466: the check values of CRC-32C over "123456789" and of SHAKE256 over nothing, from their own standards. -/
theorem test_checks :
    crc32c ((List.range 9).map fun i => BitVec.ofNat 8 (0x31 + i)) = 0xE3069283 ∧ (shake256 [] 4) = [0x46, 0xB9, 0xDD, 0x2B] := by
  decide +kernel
/-! ### What stands where a header should, and handler faults -/

/-- A BRX of every lane to the offset in v8, with a word placed at offset 64 and one at offset 68. -/
def branchTo (H w64 w68 : Nat) : State :=
  let s := vec (withBlock (.brx ⟨0, 0, 8, 0⟩)) 8 (BitVec.ofNat 32 H)
  { s with mem := memWriteLE s.mem 0x10040 8 (w64 + w68 * 2 ^ 32) }

/-- A header of a class with `n` words. -/
def header (cls n : Nat) : Nat := 7 * 2 ^ 29 + cls * 2 ^ 26 + n * 2 ^ 22

/-- The words at the start of a target's block and at the target, when the branch's word issues in an ordinary group. -/
def meetsAt (s : State) (H : Nat) : Option (Nat × Nat) :=
  if ready (.brx ⟨0, 0, 8, 0⟩) s && s.cur.grp < 0x20000 && (me s).fetchWait.isEmpty && ((me s).reg 8 0).toNat = H then
    (codeWord s (H / 64 * 64)).bind fun a => (codeWord s (H / 4 * 4)).map fun b => (a.toNat, b.toNat)
  else none

/-- A DATA header at the block's start and at the target alone; and each reason of the table: no header, an offset that is no
multiple of 4, classes 5 and 6, no words, a reserved bit, and 15 words from the block's second. -/
theorem test_meets_header_faults :
    meetsAt (branchTo 64 (header 7 15) 0) 64 = some (header 7 15, header 7 15) ∧
    meetsAt (branchTo 68 (header 0 15) (header 7 14)) 68 = some (header 0 15, header 7 14) ∧
    meetsAt (branchTo 68 (header 0 15) 0) 68 = some (header 0 15, 0) ∧
    meetsAt (branchTo 66 (header 0 15) 0) 66 = some (header 0 15, header 0 15) ∧
    meetsAt (branchTo 64 (header 5 15) 0) 64 = some (header 5 15, header 5 15) ∧
    meetsAt (branchTo 64 (header 6 15) 0) 64 = some (header 6 15, header 6 15) ∧
    meetsAt (branchTo 64 (header 0 0) 0) 64 = some (header 0 0, header 0 0) ∧
    meetsAt (branchTo 64 (header 0 15 + 2 ^ 14) 0) 64 = some (header 0 15 + 2 ^ 14, header 0 15 + 2 ^ 14) ∧
    meetsAt (branchTo 68 (header 0 15) (header 0 15)) 68 = some (header 0 15, header 0 15) ∧
    (let s := branchTo 64 (header 0 15) 0
     let t := grp s fun g => { g with vregs := Tab.put g.vregs 8 ((List.replicate 31 64) ++ [68]) }
     ready (.brx ⟨0, 0, 8, 0⟩) t && lands t 64 && (me t).reg 8 31 = 68 && codeWord t 68 = some 0) = true ∧
    ([.bra ⟨0, 15⟩, .call ⟨0, 15⟩, .brx ⟨0, 0, 8, 0⟩, .ret ⟨0, 0, 8, 0⟩] : List Instr).all (fun i =>
      let s := vec (withBlock i) 8 64
      ready i { s with mem := memWriteLE s.mem 0x10040 8 0 } && (me s).fetchWait.isEmpty && s.cur.grp < 0x20000) = true := by decide +kernel

/-- A branch to a block that the TLB's entry does not let fetch. -/
theorem test_meets_unfetchable_target :
    let s := (withBlock (.bra ⟨0, 15⟩)).onCore 0 fun c => { c with tlb := c.tlb.map fun e => { e with ex := false } }
    let va := s.codeVa (s.spaceOf 0) 64
    ready (.bra ⟨0, 15⟩) s = true ∧ s.frozenAt (s.asidOf (s.spaceOf 0)) va = false ∧ (me s).fetchWait = [] ∧
    ((tlbFind (s.core 0).tlb (s.asidOf (s.spaceOf 0)) va).filter (·.serves .fetch)).map (fun e => permFault e .fetch (s.regionOf (s.spaceOf 0) va)) =
      some (some 0x0202) ∧ disposition 0x0202 = 1 := by decide +kernel

/-- A NOP at the last word of a clause of one word, before a DATA header and before a word that is no header. -/
theorem test_meets_fallen_through :
    ([header 7 15, 0] : List Nat).all (fun h =>
      let i := Instr.nop ⟨0, 0, 0, 0⟩
      let s0 := warm (latched i)
      let s := { s0 with cur := { s0.cur with head := BitVec.ofNat 32 (header 0 1) }, mem := memWriteLE s0.mem 0x10008 4 h }
      issues i s && s.cur.grp < 0x20000 && s.cur.pc.toNat = s.cur.hdr + 4 * hdrCount s.cur.head && s.cur.pc.toNat % 4 = 0 &&
        codeWord s (s.cur.pc + 4).toNat = some (BitVec.ofNat 32 h)) = true := by decide +kernel

/-- An illegal word of a handler that handles a record of group 0, once and again. -/
theorem test_meets_handler_faults :
    let i := Instr.iadd ⟨3, 96, 1, 2⟩
    let b : Delivery := ⟨packFields [(80, 16, 0x0201)], false, some 0⟩
    let s := { latched (.halt ⟨0, 0, 0⟩) with groups := (placeWord (placeWord State.reset 0) 0xDC000000).groups, teams := [(0, placeTeam)] }
    let u := { s with cur := { s.cur with word := (encode i).getD 0, head := BitVec.ofNat 32 (headerFor 0x18) } }
    let h (a : Option Delivery) := { u with manage := [(0, { Manage.reset with halted := false, handling := some b, again := a })] }
    ([h none, h (some b)].all fun s => presented i s && s.cur.grp = 0x20000 && (issueCheck s.freeCtr i s.cur (me s)).isSome && isWord i &&
      (s.manager 0).handling = some b) = true ∧
    ((h none).manager 0).again = none ∧ ((h (some b)).manager 0).again = some b ∧ (h (some b)).recordedKey b = some 0 ∧
    ((h (some b)).group? 0).any (fun q => !q.privileged && !q.exited) = true ∧
    ((h (some b)).teamOf 0).map (·.slot) = some none := by decide +kernel
/-- The hypotheses of a binding trap but those on the window and the handles. -/
def bindable (i : Instr) (s : State) (hs : List Nat) : Bool :=
  issues i s && s.cur.grp < 0x20000 && !(me s).privileged && hs.all (fun h => !s.bindPending (me s).team h) && (s.teamFor (me s)).winW = 32

/-- The state with handles 2 and up of team 0. -/
def bound (i : Instr) (u : Nat) (hs : List Handle) : State :=
  tm (tiles (latched i) 5 u) fun t => { t with handles := (List.range hs.length).map fun j => (2 + j, (hs[j]?).getD (.unbound 0)) }

/-- What stands at handle `h` of the issuing group's team. -/
def handleOf (s : State) (h : Nat) : Handle := (s.teamFor (me s)).handle h

/-- MMA 2x2 and 1x4: a tile just above the window; a last handle that is unbound, and one that is of another type, behind good ones. -/
theorem test_meets_wide_matrix_traps :
    ([(Instr.mmaE2m1, 1), (.mmaE4m3, 2), (.mmaE5m2, 3), (.mmaBf16, 5), (.mmaF16, 6), (.mmaI8, 4)] :
      List ((FmtF → Instr) × Nat)).all (fun (mk, ty) =>
      ([(2, 1), (3, 3)] : List (BitVec 2 × Nat)).all fun (f, n) =>
        let i := mk ⟨1, 1, f, 8, 2, 16⟩
        let high := mk ⟨1, 1, f, 8, 2, 31⟩
        let ok (j : Nat) := Handle.spad (2048 * j) ty 0 0
        let hs := (List.range (n + 1)).map (2 + ·)
        let s (last : Handle) := bound i 0 ((List.range n).map ok ++ [last])
        bindable high (bound high 0 []) [] && ((smallOps f.toNat (latched high).cur.active).map fun o => 31 + o.2.2).any (32 ≤ ·) &&
          [s (.unbound 0x11), s (.spad 0 7 0 0)].all (fun s => bindable i s hs && (hs.dropLast.all fun h => (handleOf s h).type = ty) &&
            ((smallOps f.toNat s.cur.active).map fun o => 16 + o.2.2).all (· < 32)) &&
          handleOf (s (.unbound 0x11)) (2 + n) = .unbound 0x11 && handleOf (s (.spad 0 7 0 0)) (2 + n) = .spad 0 7 0 0) = true := by
  decide +kernel

/-- Accumulator and attention words whose highest tile is the first above the window, and attention words within it. -/
theorem test_meets_tile_traps :
    ([(.accmv ⟨1, 1, 1, 100, 0, 32⟩, 31), (.accmv ⟨1, 1, 1, 100, 0, 31⟩, 32), (.accrd ⟨1, 0, 0, 8, 0, 32⟩, 0), (.accwr ⟨0, 0, 0, 8, 0, 32⟩, 0),
      (.atqk ⟨0, 1, 8, 2, 26⟩, 0), (.atsm ⟨0, 0, 100, 0, 26⟩, 0), (.atpv ⟨0, 0, 100, 2, 29⟩, 24), (.atpv ⟨0, 0, 100, 2, 28⟩, 26),
      (.atfn ⟨0, 0, 100, 0, 29⟩, 24), (.atfn ⟨0, 0, 100, 0, 28⟩, 26)] : List (Instr × Nat)).all (fun (i, u) =>
      let s := bound i u [.kvRead 0 0 5 0 0, .kvRead 0 1 5 0 0, .kvRead 0 1 5 0 1]
      bindable i s [2, 3] && ((me s).ureg 4).toNat % 256 = u && u % 2 = (if u = 31 then 1 else 0) && (quarters s.cur.active).length = 4) = true := by
  decide +kernel

/-- ATQK and ATPV of handles that are unbound, of the wrong kind and of the wrong pair. -/
theorem test_meets_attention_traps :
    let qk := Instr.atqk ⟨0, 1, 8, 2, 24⟩
    let pv := Instr.atpv ⟨0, 0, 100, 2, 28⟩
    let q (h : Handle) := bound qk 24 [h]
    let p (a b : Handle) := bound pv 24 [a, b]
    let one := Handle.kvRead 0 1 5 0 0
    ([Handle.unbound 0x21, .kvRead 0 1 5 0 0, .kvRead 0 0 7 0 0, .spad 0 5 0 0].all fun h =>
      bindable qk (q h) [2] && handleOf (q h) 2 = h && (quarters (q h).cur.active).length = 4) = true ∧
    ([(Handle.unbound 0x21, one), (.kvRead 0 0 2 0 0, one), (.kvRead 0 1 2 0 0, one)].all fun (a, b) =>
      bindable pv (p a b) [2] && pvHandles ((p a b).teamFor (me (p a b))) 2 = [2]) = true ∧
    ([Handle.unbound 0x21, .kvRead 1 1 5 0 1, .kvRead 0 1 6 0 1, .kvRead 0 1 5 0 0, .kvRead 0 3 5 0 1].all fun b =>
      bindable pv (p one b) [2, 3] && pvHandles ((p one b).teamFor (me (p one b))) 2 = [2, 3] && handleOf (p one b) 3 = b &&
        handleOf (p one b) 2 = one) = true := by decide +kernel

/-- TCOPY and TSTORE of an unbound handle and of one of another kind. -/
theorem test_meets_copy_traps :
    ([(.tcopy ⟨1, 1, 2, 2, 8, 1, 0⟩, .unbound 0x17), (.tcopy ⟨1, 1, 2, 2, 8, 1, 0⟩, .kvRead 0 0 5 0 0),
      (.tstore ⟨1, 1, 2, 2, 8, 0, 1⟩, .unbound 0x17), (.tstore ⟨1, 1, 2, 2, 8, 0, 1⟩, .kvRead 0 0 5 0 0)] : List (Instr × Handle)).all (fun (i, h) =>
      bindable i (bound i 0 [h]) [2] && handleOf (bound i 0 [h]) 2 = h && h.kind ≠ 1 && h.kind ≠ 3) = true := by decide +kernel

/-- A key of another tree behind the query's context: ATQK with a K binding of two keys, one visible. -/
theorem test_meets_masked_keys :
    let i := Instr.atqk ⟨0, 1, 8, 2, 24⟩
    let bd : Binding := ⟨0, 0, 0, 2, 32, 32, 5, 0, 1, [(0, 64, 2), (9, 3, 2)], [], [], 0, 0⟩
    let s := grp { bound i 24 [.kvRead 7 0 5 0 0] with bindings := [(7, bd)] } fun g => { g with qctx := some ⟨0, 0, 0, 1⟩ }
    (issues i s && (me s).qctx.isSome && handleOf s 2 = .kvRead 7 0 5 0 0 && s.boardRoom 0 4 && !s.bindPending 0 2) = true ∧
    Tab.find s.bindings 7 = some bd ∧ bd.keys[0]? = some (0, 64, 2) ∧ bd.keys[1]? = some (9, 3, 2) ∧ bd.keys[2]? = none ∧
    bits bd.ancestry 3 1 = 0 := by decide +kernel
/-! ### Page faults of lanes, and replays -/

/-- The TLB of a core: the lowest GiB permits everything, the page behind it nothing. -/
def shutPage (s : State) (c : Nat) : State :=
  let e : TlbEntry := { asid := 1, va := 0, size := 2 ^ 30, pa := 0, rd := true, wr := true, ex := true, dup := false, accessed := true, dirty := true }
  s.onCore c fun q => { q with tlb := [e, { e with va := 2 ^ 30, size := 4096, pa := 2 ^ 30, rd := false, wr := false, ex := false }] }

/-- The level and the code with which a core's TLB refuses an access. -/
def refusal (s : State) (k va : Nat) (acc : AccessKind) : Option (Nat × Option Nat) :=
  if s.frozenAt (s.asidOf (s.spaceOf k)) va then none
  else ((tlbFind (s.core (keyCore k)).tlb (s.asidOf (s.spaceOf k)) va).filter (·.serves acc)).map fun e =>
    (e.level, permFault e acc (s.regionOf (s.spaceOf k) va))

/-- The words at an address below the closed page in the lanes below lane 5 and in that page from lane 5 on, and with every lane, or
lane 31 alone, in that page. -/
theorem test_meets_split_accesses :
    ([(Instr.ldUb, .load, 1), (.ldSb, .load, 1), (.ldUh, .load, 2), (.ldSh, .load, 2), (.ldW, .load, 4), (.ldD, .load, 8),
      (.ldQ, .load, 16), (.stB, .store, 1), (.stH, .store, 2), (.stW, .store, 4), (.stD, .store, 8), (.stQ, .store, 16),
      (.ldaW, .load, 4), (.ldaD, .load, 8), (.stlW, .store, 4), (.stlD, .store, 8), (.atomAdd, .atomic, 4), (.atomAdd64, .atomic, 8),
      (.atomMinS, .atomic, 4), (.atomMaxS, .atomic, 4), (.atomAnd, .atomic, 4), (.atomOr, .atomic, 4), (.atomXchg, .atomic, 4),
      (.atomCas, .atomic, 4), (.atomFadd, .atomic, 4)] : List ((FmtD → Instr) × AccessKind × Nat)).all (fun (mk, kind, n) =>
      ([0, 5, 31] : List Nat).all fun fl =>
        let i := mk ⟨0, 4, 8, 2, 1, 0⟩
        let s := grp (shutPage (latched i) 0) fun g =>
          { g with vregs := Tab.put g.vregs 8 ((List.range 32).map fun l => if l < fl then BitVec.ofNat 32 (64 * l) else 0x40000000) }
        let va (l : Nat) := (me s).regN 8 l 2
        ready i s && s.cur.grp < 0x20000 && (s.freeEntry 0).isSome && (me s).canCount 1 && !s.hasLog 0 &&
          (lanesOf (s.admitted (me s))).contains fl && (List.range 32).all (fun l => canonical (va l) && va l % n = 0) &&
          (List.range fl).all (fun l => hits s (va l) kind (va l)) && refusal s 0 (va fl) kind = some (0, some 0x0202)) = true := by
  decide +kernel

/-- ERET by management core 0 after a record of group 0, whose lane 31 an entry of the operand log holds, in order: the opcode's
word, the address, flags (pending, failed, supplied). -/
def replaying (i : Instr) (va flags : Nat) : State :=
  let s := shutPage (handler (.eret ⟨0, 0, 0⟩) none) 0
  { s with
    ops := [(5, ⟨0, 1, 0x80000000, (encode i).getD 0, 4⟩)]
    parts := [(0, { Part.reset with
      log := [(3, ⟨0, 5, (encode i).getD 0, 4, 0x0403, 0, [(31, [7, 8, 9, 10, BitVec.ofNat 32 va, 0, BitVec.ofNat 32 flags])], [], false⟩)] })] }

/-- A load, a store and an atomic each dropped, supplied, with a translation and refused again. -/
theorem test_meets_replays :
    ([(.ldQ ⟨0, 4, 8, 0, 1, 0⟩, .load), (.stW ⟨0, 4, 8, 0, 1, 0⟩, .store), (.atomCas ⟨0, 4, 8, 0, 1, 0⟩, .atomic)] :
      List (Instr × AccessKind)).all (fun (i, kind) =>
      ([(0, 0), (64, 5), (64, 1), (0x40000000, 3)] : List (Nat × Nat)).all fun (va, flags) =>
        let s := replaying i va flags
        named (.eret ⟨0, 0, 0⟩) s && (s.admitted (me s)) ≠ 0 && (s.group? 0).any (fun q => q.suspension.isNone && q.fetchWait.isEmpty) &&
          (s.logOf 0).length = 1 && s.cmds.isEmpty && s.quads.all (fun z => z.2.board.isEmpty) && !s.inFlight 5 31 &&
          ((s.logOf 0).all fun e => memKind (wordOp e.2.word) = kind && e.2.lanes.map (·.1) = [31] &&
            ((0xA0 ≤ wordOp e.2.word && wordOp e.2.word ≤ 0xAF) || (0xB6 ≤ wordOp e.2.word && wordOp e.2.word ≤ 0xBE))) &&
          (if va = 0x40000000 then refusal s 0 va kind = some (0, some 0x0202)
            else refusal s 0 va kind = some (2, none) && !s.frozenAt 1 va) && canonical va) = true := by decide +kernel

/-! ### Steps of a batch former -/

/-- An active tree 0 of the address space with no page and no node, its header. -/
def treeHeader : Nat := packFields [(0, 4, 2), (4, 3, 5), (8, 4, 5), (12, 6, 2), (416, 16, 1)]

/-- Tree 0 of die 0 in memory, below the code. -/
def planted (s : State) (h : Nat) : State :=
  { s with csr := { s.csr with treebase0 := 0x6000 }, mem := memWriteLE s.mem 0x6000 64 h }

/-- A descriptor: a table of `n` records at 0x20000, the manifest at 0x22000, the template at `tmpl`, and the marks. -/
def descriptor (n tmpl low high keep : Nat) : Nat :=
  packFields [(0, 64, 0x20000), (64, 32, n), (96, 64, 0x22000), (160, 64, tmpl), (240, 16, 63), (256, 16, 63), (288, 24, low), (312, 24, high), (336, 1, keep)]

/-- The step of a former of context 0, with a request record at 0x20000 and one at 0x20100. -/
def forming (r b : Nat) (f : Former) : State :=
  let s := ticks (planted (at_ (.batchFormerStep 0)) treeHeader) 9
  { s with mem := memWriteLE (memWriteLE (memWriteLE s.mem 0x20000 256 r) 0x20100 256 b) 0x21000 256 placeRecord, formers := [(0, f)] }

/-- A former with a descriptor and slots. -/
def former (desc : Nat) (slots : Tab (Nat × Nat × Nat)) : Former := ⟨desc, 1, 0, slots, [], [], [], 0, none, none, none, []⟩

/-- A request of a state, with a fault code, deadline, tree position, largest count, emitted count and completion record. -/
def request (st fault dl pos most emitted compl : Nat) : Nat :=
  packFields [(0, 64, 77), (64, 8, st), (96, 16, fault), (128, 48, dl), (224, 24, pos), (256, 24, most), (576, 64, 64), (704, 32, emitted), (768, 64, compl)]

/-- What a read of 256 bytes gives. -/
def reads256 (s : State) (a : Nat) : Option Nat :=
  match (readVirt s 0 a 256).2 with
  | .ok r => some r
  | _ => none

/-- The state after a write of context 0. -/
def wrote (s : State) (a n v : Nat) : Option State :=
  match writeVirt s 0 a n v with
  | (t, .ok _) => some t
  | _ => none

/-- A former starts its step, with one request in slot 0. -/
def holds (s : State) (f : Former) (r : Nat) : Bool :=
  Tab.find s.formers 0 = some f && f.grid.isNone && f.idleAt.isNone && f.pending.isNone && !s.spaceFrozen 0 && f.slots = [(0, 0x20000, 0, 0)] &&
    dsEntries f.desc = 0 && reads256 s 0x20000 = some r

/-- A request of state and fault `r` retires with value `v`, its deadline missed or met, with a completion record or without, with KEEP or
without it, of an active tree. -/
def retires (r v : Nat) (miss : Bool) (keep : Nat) : Bool :=
  let f := former (descriptor 0 0x21000 0 0 keep) [(0, 0x20000, 0, 0)]
  let s := forming r 0 f
  let s2 := (wrote s 0x20008 1 v).bind fun t => if miss then wrote t 0x2000A 1 (setBits (rqFlags r) 0 1 1) else some t
  let s3 := s2.bind fun t => if rqCompletion r = 0 then some t else wrote t (rqCompletion r) 64
    (completionBits (rqId r) v (rqFault r) miss (rqAdmitted r) (s.ticks 0) (rqDeadline r))
  holds s f r && decide (rqDeadline r ≠ 0 ∧ rqDeadline r < s.ticks 0) = miss &&
    s3.any fun t => t.ownsTree 0 0 && thState (t.treeHdr 0) = 2 && (dsKeep f.desc = (keep == 1))

/-- Requests that are cancelled, faulted and ended. -/
theorem test_meets_cancelled_request : retires (request 5 0 8 9 0 0 0) 6 true 0 = true := by decide +kernel
theorem test_meets_faulted_request : retires (request 2 0x0501 9 9 0 0 0x23000) 4 false 1 = true := by decide +kernel
theorem test_meets_ended_request : retires (request 2 0 0 9 3 3 0) 3 false 0 = true := by decide +kernel

/-- A request without a tree, and one to be queued again. -/
theorem test_meets_treeless_request :
    (let f := former (descriptor 0 0x21000 0 0 0) [(0, 0x20000, 0, 0)]
     let s := { forming (request 5 0 0 9 0 0 0) 0 f with csr := DeviceCsrs.reset }
     holds s f (request 5 0 0 9 0 0 0) && !s.ownsTree 0 0) = true ∧
    (let f := former (descriptor 0 0x21000 0 0 0) [(0, 0x20000, 0, 0)]
     let s := forming (request 2 0x0502 0 9 0 0 0) 0 f
     holds s f (request 2 0x0502 0 9 0 0 0) && ((wrote s 0x20008 1 1).bind fun t => wrote t 0x2000C 2 0).isSome) = true := by decide +kernel

/-- A request that is evicted, its die one free set short of LW. -/
theorem test_meets_eviction :
    (let r := request 2 0 0 9 0 0 0
     let f := former (descriptor 0 0x21000 1 1 0) [(0, 0x20000, 0, 0)]
     let s := forming r 0 f
     let s2 := (wrote s 0x20008 1 1).bind fun t => wrote t 0x2000A 1 (setBits (rqFlags r) 1 1 1)
     holds s f r && s.freeCount 0 < dsLow f.desc && s2.any fun t => t.ownsTree 0 0 && thState (t.treeHdr 0) = 2) = true := by
  decide +kernel

/-- Requests `a` and `b` of one former, of which R359 evicts `a` first, by its tier or by its deadline. -/
def evictedFirst (a b : Nat) : Bool :=
  let f := former (descriptor 0 0x21000 1 1 0) [(0, 0x20000, 0, 0), (1, 0x20100, 0, 0)]
  let s := forming b a f
  let latest (d : Nat) : Nat := if d = 0 then 2 ^ 48 - 1 else d
  Tab.find s.formers 0 = some f && reads256 s 0x20000 = some b && reads256 s 0x20100 = some a &&
    (rqTier b < rqTier a || (rqTier b = rqTier a && latest (rqDeadline a) < latest (rqDeadline b)))

theorem test_meets_eviction_by_tier :
    evictedFirst (setBits (request 2 0 0 9 0 0 0) 72 2 1) (request 2 0 0 9 0 0 0) = true := by decide +kernel
theorem test_meets_eviction_by_deadline :
    evictedFirst (request 2 0 8 9 0 0 0) (request 2 0 0 9 0 0 0) = true := by decide +kernel

/-- A QUEUED request whose die has one free set fewer than HW, and as many with a template that cannot be read. -/
theorem test_meets_admissions :
    let r := request 1 0 0 9 0 0 0
    let f (high : Nat) := former (descriptor 1 0x40000000 0 high 0) []
    let s (high : Nat) := forming r 0 (f high)
    ([0, 1] : List Nat).all (fun h => dsEntries (f h).desc = 1 && (f h).slots = [] && (f h).halves = [] && reads256 (s h) 0x20000 = some r &&
      rqState r = 1 && !(s h).malformed r) = true ∧
    (s 1).freeCount 0 < dsHigh (f 1).desc ∧ dsHigh (f 0).desc ≤ (s 0).freeCount 0 ∧ min (dsChunk (f 0).desc) (rqPosition r) ≤ dsTokens (f 0).desc ∧
    (((wrote (s 0) 0x20008 1 2).bind fun t => wrote t 0x20068 8 9).any fun t => (reads256 t 0x40000000).isNone) = true := by decide +kernel

/-- A request with one position left to prefill and one that drafts, each with its manifest. -/
theorem test_meets_launched_steps :
    ([8, 9] : List Nat).all (fun cur =>
      let r := request 2 0 2000 9 0 0 0
      let f := former (descriptor 0 0x21000 0 0 0) [(0, 0x20000, cur, 0)]
      let s := forming r 0 f
      let extent := if cur < 9 then min (dsChunk f.desc) (9 - cur) else dsDraft f.desc
      let start := if cur < 9 then cur else 8
      let S := bits placeRecord 152 6 + 1
      let record := setBits (setBits (setBits (setBits (setBits (setBits placeRecord 32 31 S) 64 16 1) 80 16 1) 160 2 f.tier) 164 12 f.queue) 192 48 2000
      let s2 := (wrote s 0x22000 64 (packFields [(0, 16, 1), (16, 8, S), (32, 32, extent), (64, 64, f.step)])).bind fun t =>
        wrote t 0x22040 32 (packFields [(0, 64, 0x20000), (64, 32, 0), (96, 17, extent), (113, 1, 0), (128, 24, start)])
      Tab.find s.formers 0 = some f && f.grid.isNone && f.requeued = [] && f.emitted = [] && reads256 s 0x20000 = some r &&
        reads256 s 0x21000 = some placeRecord && extent ≤ dsTokens f.desc && (recordRefusal s record 0 none).isNone &&
        recKind record = 0 && recCompletion record = 0 && s2.isSome && dsLow f.desc ≤ s.freeCount 1) = true := by decide +kernel
/-! ### Commands that their engines start -/

/-- Command 1 of core 0 may start: its guard is known, it is not doomed, and nothing before it waits. -/
def mayStart (s : State) (x : Cmd) : Bool :=
  heads s false x && x.guard.isNone && !x.doomed && !s.abacusPassed x && !s.spadEarlier x.grp 1 && s.earlierDone x.grp 1 && (s.team? x.team).isSome

/-- Command 1 at the head of core 0's tile queue, over a team's handles and scratchpad. -/
def starting (op m h : Nat) (block : List Word) (handles : Tab Handle) (scratch : Tab Byte) : State :=
  tm (queued (.engineCommandStart 0 false) false (cmd op m h block false)) fun t => { t with handles := handles, scratch := scratch }

/-- The command of `starting`. -/
def theCmd (s : State) : Cmd := (Tab.find s.cmds 1).getD (cmd 0 0 0 [] false)

/-- HBIND.OFF and HBIND.SEEK, of a record, of no cursor and of either half of a pair; HBIND.REC of a misaligned address, of an absent
page, of a reserved word, of a format without its element type, and of a good record. -/
theorem test_meets_binds :
    let r := Handle.record (oneByte 0x10000) 0 4 0 1 0
    let two := [(3, Handle.kvRead 7 1 5 0 0), (4, Handle.kvRead 7 1 5 2 1)]
    ([starting 0xD0 2 3 [0, 0] [(3, r)] [], starting 0xD0 3 3 [5, 0] [(3, r)] [], starting 0xD0 3 3 [5, 0] [] [],
      starting 0xD0 3 3 [5, 0] [(3, .spad 0 5 1 0)] [], starting 0xD0 3 3 [5, 0] two [], starting 0xD0 3 4 [5, 0] two [],
      starting 0xD0 1 3 [0x10020, 0, 0] [] []].all fun s => mayStart s (theCmd s)) = true ∧
    ([(0x40000000, 0, 0), (0x10100, 16, 1), (0x10100, 7, 7), (0x10100, 15, 1)] : List (Nat × Nat × Nat)).all (fun (a, w, fmt) =>
      let s0 := starting 0xD0 1 3 [BitVec.ofNat 32 a, 0, BitVec.ofNat 32 w] [] []
      let s := { s0 with mem := memWriteLE s0.mem 0x10100 64 (setBits (oneByte 0x10000) 64 8 fmt) }
      let x := theCmd s
      mayStart s x && (match mapPages 0 x.agent .load [a] s [] with
        | (_, .error (_, .fault _ _)) => a = 0x40000000
        | (s1, .ok m) =>
          let sh := readBytes (s1.pageByte x.agent m) a 64
          a = 0x10100 && (shRefusal sh).isNone && shFmt sh = fmt && shRagged sh = 0 && (bits w 4 28 ≠ 0) == (w = 16)
        | _ => false)) = true := by decide +kernel

/-- The bytes of a barrier at offset 0 of the scratchpad: phase, arrivals, sectors, acknowledgements and expected arrivals. -/
def bar (phase arr sec ack exp : Nat) : Tab Byte :=
  let v := packFields [(0, 4, phase), (4, 20, arr), (24, 32, sec), (56, 8, ack), (64, 20, exp)]
  (List.range 16).map fun i => (i, BitVec.ofNat 8 (v / 256 ^ i))

/-- XBAR.ARV and its form with sectors at a barrier that expects none, one and two arrivals; with an XBAR.WAIT of another group that a
full barrier wakes; and XBAR.WAIT for the phase and for another. -/
theorem test_meets_barrier_commands :
    let arv (m arr sec : Nat) := starting 0xD4 m 3 [0, 5] [] (bar 15 arr sec 0 2)
    let wait (p : Nat) := starting 0xD5 0 3 [0, BitVec.ofNat 32 p] [] (bar 15 1 0 0 2)
    let w : Cmd := { cmd 0xD5 0 3 [0, 15] true with grp := 0x800, num := 2 }
    let s := arv 0 1 0
    let woken : State := { s with
      cmds := s.cmds ++ [(2, w)]
      groups := s.groups ++ [(0x800, { placeGroup false with block := .xbar 0 15 })] }
    let b (s : State) := s.barrier ((s.team? 0).getD noTeam) 0
    ([arv 0 0 0, arv 0 1 0, arv 0 2 0, arv 1 1 0, arv 0 1 7, woken, wait 15, wait 3].all fun s => mayStart s (theCmd s) && bits (b s) 0 4 = 15) = true ∧
    (bits (b (arv 0 0 0)) 4 20 = 0 ∧ bits (b (arv 0 1 0)) 4 20 = 1 ∧ bits (b (arv 0 2 0)) 4 20 = 2 ∧ bits (b (arv 0 1 7)) 24 32 = 7 ∧
      bits (b (arv 0 1 0)) 24 32 = 0 ∧ bits (b (arv 0 1 0)) 56 8 = 0 ∧ (theCmd (arv 1 1 0)).word 1 < 2 ^ 31) ∧
    Tab.find woken.cmds 2 = some w ∧ (woken.cmds.filter fun y => y.2.op = 0xD5 ∨ y.2.op = 0xD8) = [(2, w)] ∧
    (woken.group? 0x800).map (fun g => (g.team, g.block)) = some (0, .xbar 0 15) := by decide +kernel

/-- A queue command of queue 9, whose descriptor has `n` items of two. -/
def queueing (op m n : Nat) (on : Bool) : State :=
  { starting op m 3 [9, 64] [] [] with
    itemQueues := [(9, { ItemQueue.reset with en := on, asid := 1, base := 0x20000, log := 1, enq := n })] }

/-- QENQ and QDEQ at a queue that is off, at a full and an empty one in their TRY forms, at an empty one, and with room and an item. -/
theorem test_meets_queue_commands :
    ([queueing 0xD7 0 0 false, queueing 0xD6 0 0 false, queueing 0xD7 1 2 true, queueing 0xD6 1 0 true, queueing 0xD6 0 0 true,
      queueing 0xD7 0 1 true, queueing 0xD6 0 1 true].all fun s => mayStart s (theCmd s) && (theCmd s).word 1 + 64 ≤ placeTeam.scratchSize &&
        s.asidOf (theCmd s).ctx = 1 && (s.itemQueue 9).waitDeq.isEmpty && (s.itemQueue 9).waitEnq.isEmpty && !(s.itemQueue 9).sync) = true ∧
    ([(0xD7, 0x20040, AccessKind.store), (0xD6, 0x20000, .load)] : List (Nat × Nat × AccessKind)).all (fun (op, a, k) =>
      let s := queueing op 0 1 true
      match (mapSpan s (theCmd s).agent a 64 k).2 with
      | .ok _ => true
      | _ => false) = true := by decide +kernel

/-- A TREE or KVBIND of tree 0, whose header, and pool with one set of `pins` pins, stand in memory. -/
def treeing (op m : Nat) (block : List Word) (h pins : Nat) : State :=
  let s := planted (starting op m 3 block [] []) h
  { s with
    csr := { s.csr with kvpool0 := 0x30000 }, die0 := { s.die0 with poolN := 1, poolF0 := 5 }
    mem := memWriteLE (memWriteLE s.mem 0x9000 16 (mkEntry 5 false false 0)) 0x30040 8 (packFields [(0, 16, 1), (16, 2, 1), (24, 16, pins)]) }

/-- A tree with one page of its trunk and map tables, with live nodes or none. -/
def pagedHeader (len live : Nat) : Nat :=
  packFields [(0, 4, 2), (4, 3, 5), (8, 4, 5), (12, 6, 2), (40, 24, 4), (64, 24, len), (96, 64, live), (288, 52, 0x9000), (352, 52, 0xA000), (416, 16, 1)]

/-- TREE without a tree base, with an invalid node word, QUERY of the trunk, FORK of the trunk at a page's start and in slot 2, and QCTX
with no row and with a base whose last row ends at 2^24. -/
theorem test_meets_tree_commands :
    let ok (s : State) : Bool :=
      let u := s.atAbacus (theCmd s)
      mayStart s (theCmd s) && s.treeBase 0 ≠ 0 && u.ownsTree 0 0
    let bad := treeing 0xD8 6 [0, 2 ^ 17, 0, 0] (pagedHeader 32 0) 0
    let query := treeing 0xD8 6 [0, 2 ^ 16, 0, 0] (pagedHeader 32 0) 0
    let fork (live : Nat) := treeing 0xD8 0 [0, 2 ^ 16, 0, 0] (pagedHeader 32 live) 0
    let q (w : Nat) := treeing 0xD8 5 [0, 2 ^ 16, BitVec.ofNat 32 w, 0] (pagedHeader 32 0) 0
    let team (s : State) := (s.team? 0).getD noTeam
    let reads (s : State) := (s.atAbacus (theCmd s)).abacusFault 0 0 ((List.range 64).map ((s.atAbacus (theCmd s)).nodeAddr 0))
      ((s.atAbacus (theCmd s)).treeReads (theCmd s) 0)
    mayStart (starting 0xD8 6 3 [0, 2 ^ 16, 0, 0] [] []) (theCmd (starting 0xD8 6 3 [0, 2 ^ 16, 0, 0] [] [])) = true ∧
    (starting 0xD8 6 3 [0, 2 ^ 16, 0, 0] [] []).treeBase 0 = 0 ∧
    ok bad = true ∧ treeInvalid (team bad) (theCmd bad) = true ∧ (bad.atAbacus (theCmd bad)).abacusFault 0 0 [] [] = none ∧
    ([query, fork 3, q 0, q (0xFFFFFF + 2 ^ 24)].all fun s => ok s && !treeInvalid (team s) (theCmd s) && reads s = none) = true ∧
    ((query.atAbacus (theCmd query)).openTree 0).2 = true ∧
    (let st := (treeOp ((query.atAbacus (theCmd query)).openTree 0).1 (theCmd query) 0).2.1
     st ≠ 3 ∧ st ≠ 5) ∧
    thState ((fork 3).treeHdr 0) = 2 ∧ thLive ((fork 3).treeHdr 0) = 3 ∧ thLen ((fork 3).treeHdr 0) % thT ((fork 3).treeHdr 0) = 0 := by
  decide +kernel

/-- KVBIND with an invalid block, without a query context, of a stream that the tree lacks, of a page whose set has all its pins and of
one with one pin left. -/
theorem test_meets_kvbinds :
    let s (first : Word) (stream : Word) (pins : Nat) (q : Option QueryCtx) : State :=
      let s := treeing 0xD9 1 [stream, first, 1] (pagedHeader 32 0) pins
      { s with cmds := [(1, { theCmd s with qctx := q })] }
    let qc : Option QueryCtx := some ⟨0, 2 ^ 16, 0, 0⟩
    let u (s : State) := s.atAbacus (theCmd s)
    let full (s : State) : List Bool := (keySets ((u s).bindKeys 0 1 none 0 1)).map fun f => decide (sdPins ((u s).setWord 0 f) = 65535)
    ([s (2 ^ 24) 0 0 qc, s 0 0 0 none, s 0 1 0 qc, s 0 0 65535 qc, s 0 0 65534 qc].all fun s => mayStart s (theCmd s)) = true ∧
    kvInvalid (theCmd (s (2 ^ 24) 0 0 qc)) = true ∧ kvInvalid (theCmd (s 0 0 0 none)) = false ∧
    ([s 0 1 0 qc, s 0 0 65535 qc, s 0 0 65534 qc].all fun s => !kvInvalid (theCmd s) &&
      (u s).abacusFault 0 0 [] ((u s).kvReads (theCmd s) ⟨0, 2 ^ 16, 0, 0⟩) = none) = true ∧
    (u (s 0 1 0 qc)).kvRefusal (theCmd (s 0 1 0 qc)) ⟨0, 2 ^ 16, 0, 0⟩ = some 0x23 ∧
    ([s 0 0 65535 qc, s 0 0 65534 qc].all fun s => ((u s).kvRefusal (theCmd s) ⟨0, 2 ^ 16, 0, 0⟩).isNone) = true ∧
    full (s 0 0 65535 qc) = [true] ∧ full (s 0 0 65534 qc) = [false] := by decide +kernel

/-- A COLL of a misaligned descriptor, of an invalid one, and of rank 0 of two that is the first of its instance. -/
theorem test_meets_collective_commands :
    let s (a d : Nat) : State :=
      let s := starting 0xDB 0 3 [BitVec.ofNat 32 a, 0] [] []
      { s with mem := memWriteLE s.mem 0x20000 64 d }
    let d := packFields [(128, 8, 1), (176, 16, 2), (192, 32, 3), (224, 32, 4)]
    ([s 32 0, s 0x20000 0, s 0x20000 d].all fun s => mayStart s (theCmd s)) = true ∧
    ([0, d].all fun v =>
      match mapSpan (s 0x20000 v) (theCmd (s 0x20000 v)).agent 0x20000 64 .load with
      | (s1, .ok m) => readN (s1.pageByte (theCmd (s 0x20000 v)).agent m) 0x20000 64 = v && !s1.deviceLost (cdRoot d) && s1.colls.isEmpty
      | _ => false) = true ∧
    collInvalid 0 0 = true ∧ collInvalid 0 d = false ∧ cdRanks d = 2 ∧ cdCount d = 0 := by decide +kernel

/-- A SAMPLE of one token whose request record has a chain that takes the first rank, or none. -/
def sampling (rec_ chain : Nat) : State :=
  let s := starting 0xDA 0 3 [BitVec.ofNat 32 rec_, 0, 0x20200, 0, 0, 1, 4, 0] [] []
  let m := memWriteLE s.mem 0x20000 256 (packFields [(224, 24, 4), (576, 64, chain)])
  let m1 := memWriteLE m 0x20100 64 (packFields [(0, 8, 6), (64, 1, 1)])
  { s with mem := memWriteLE m1 0x20200 4 0x3F800000 }

/-- A SAMPLE of a misaligned record, of a request without a chain, and one that draws a token. -/
theorem test_meets_samples :
    let out (s : State) : Option (SampleOut × Bool) :=
      let x := theCmd s
      let y : Cmd := { x with started := true }
      match sampleRead { s with cmds := Tab.put s.cmds 1 y, sampling := [1] } y with
      | (s1, .ok d) =>
        let a : Rank := ⟨0, 1, 0, 0, 0, 0, some 1, s.ownFabric, 0, 0, none, some (x.block, d)⟩
        let i : Coll := ⟨x.spCommunicator, x.spSeq, true, s.ownFabric, s1.ticks 0, 0, [a], none, false, 0, []⟩
        match sampleCompute [(a.asCmd, d)] with
        | .token tok accept zero =>
          some (.token tok accept zero, s1.colls.isEmpty && (sampleUpdate { s1 with idCtr := s1.idCtr + 1, colls := [(s1.idCtr, i)] } y d tok).2.isNone)
        | o => some (o, s1.colls.isEmpty)
      | _ => none
    ([sampling 0x20001 0, sampling 0x20000 0, sampling 0x20000 0x20100].all fun s => mayStart s (theCmd s) && s.samplerRoom 0 &&
      s.sampling.isEmpty && s.colls.isEmpty && (theCmd s).spCount = 1 && (theCmd s).spFirst = 0 && (theCmd s).skipped.isEmpty) = true ∧
    (theCmd (sampling 0x20001 0)).spInvalid = true ∧ (theCmd (sampling 0x20000 0)).spInvalid = false ∧
    out (sampling 0x20000 0) = some (.status 1, true) ∧ out (sampling 0x20000 0x20100) = some (.token 0 false false, true) := by decide +kernel
/-- A board with a fused instruction's two entries, an entry of the move path on other tiles, one granted already and one whose tile
is that of a KV binding. -/
def mixedBoard (e : Event) : State :=
  let w := { entry with granted := false }
  let b : Tab Entry :=
    [(0, { w with instr := 1, fused := true }), (1, { w with instr := 1, fused := true, reads := [1], writes := [1], quarter := 1 }),
     (2, { w with instr := 2, op := 0xC8, b := [], reads := [2], writes := [2] }), (3, { entry with instr := 3, reads := [3], writes := [3] }),
     (4, { w with instr := 4, b := [none], src := [.kvRead 7 0 4 0 0], reads := [4], writes := [4] })]
  { at_ e with quads := [(0, { Quad.reset with board := b })], bindings := [(7, bind_ [])] }

/-- A board as passes leave it, and a KV tile whose lines can all be read. -/
theorem test_meets_board_passes :
    let s := mixedBoard (.boardPass 0)
    let b := (s.quad 0).board
    (b.map (·.1)).Nodup ∧ (b.all fun x => b.all fun y => x.2.instr ≠ y.2.instr || (x.2.fused = y.2.fused && (x.2.op ≠ 0xC8 || !x.2.fused))) = true ∧
    (b.all fun x => (b.filter fun y => y.2.instr = x.2.instr).length ≤ 4) = true ∧ (s.quad 0).grants 0 = [0, 1, 2] ∧
    (Tab.find (s.quad 0).board 4).map (fun e => (e.held, e.b, e.src)) = some (false, [none], [.kvRead 7 0 4 0 0]) ∧
    Tab.find s.bindings 7 = some (bind_ []) ∧
    ((List.range 1024).all fun i => (tileCells 4 i).all fun x =>
      ((kvCell (bind_ []) 0 0 0 x).map fun a => (s.lineFault a false false).isNone).getD true) = true ∧
    ((List.range 1024).flatMap fun i => (tileCells 4 i).filterMap (kvCell (bind_ []) 0 0 0)).length = 32 := by decide +kernel
/-- With no metadata and no bad line every local address of a running die is read without a fault. -/
theorem lineFault_clean (s : State) (pa : Nat) (h : pa < 2 ^ 40) (hm : s.lineMeta = []) (hb : s.badLines = []) (h0 : s.die0.lost = false)
    (h1 : s.die1.lost = false) : s.lineFault pa false false = none := by
  have hd : pa / 2 ^ 50 = 0 := Nat.div_eq_of_lt (by omega)
  have hn : s.norm pa = pa := by rw [State.norm, hd]; rfl
  have hl : s.isLocal pa = true := by rw [State.isLocal, hn]; exact decide_eq_true h
  have hr : s.remoteDev pa = none := by simp only [State.remoteDev, hn, hd]; rfl
  have ho : s.ownedAway (lineOf pa) = false := by simp [State.ownedAway, State.lineState, hm, Tab.get, Tab.find]
  have hm' : s.metaAt pa = 0 := by simp [State.metaAt, hr, hm, Tab.get, Tab.find]
  have hdead : s.deadRoute pa = none := by simp [State.deadRoute, hr, hl, hn, ho]
  have hlost : ∀ d, (s.die d).lost = false := fun d => by simp only [State.die]; split <;> assumption
  simp [State.lineFault, hn, hdead, hm', hlost, hb, Tab.find]

/-- Every line of the page that is to move can be read. -/
theorem test_meets_migration_lines (i : Nat) (h : i < 2 ^ 21 / 64) :
    (moveable (.migrationGo 0 1)).lineFault (0x400000 + 64 * i) false false = none :=
  lineFault_clean _ _ (by omega) rfl rfl rfl rfl

/-- What R87 and the model refuse: a frame between two, bits above the address's, a page of 1 GiB, and 16 moves of the die already. -/
theorem test_meets_refused_moves :
    let goes (f : DWord) : State :=
      let s := moveable (.migrationGo 0 1)
      { s with contexts := Tab.alter s.contexts 0 fun c => { c with migframe := f } }
    let many : State := { moveable (.migrationGo 0 1) with moves := (List.range 16).map fun n => (n, move2 1 0 false) }
    (goes 0x601000).norm ((goes 0x601000).context 0).migframe.toNat % 2 ^ 21 ≠ 0 ∧ physOk ((goes (2 ^ 40)).norm ((goes (2 ^ 40)).context 0).migframe.toNat) = false ∧
    (many.moves.filter fun m => m.2.die = many.homeDie 0x400000).length = 16 ∧ goWalk many 0 = [1, 0x4000DF] ∧ goWalk (goes 0x601000) 0 = [1, 0x4000DF] ∧
    (let frozen : State := { moveable (.migrationFreeze 1) with moves := [(1, move2 1 0 true)] }
     frozen.accesses.all (fun a => a.2.status ≠ .held) = true ∧ frozen.parts.all (fun p => p.2.log.all fun e => !e.2.replaying) = true) := by
  decide +kernel

/-- A TCOPY of one tile that a barrier behind its destination counts, and copies whose sector is done or whose tile is skipped. -/
theorem test_meets_counted_copies :
    let x := { moving 0xD1 with block := [0, 64 * 2 ^ 12] }
    let s := tm (queued (.tcopySectorWrite 1 0 0) false x) fun t => { t with scratch := (bar 15 0 1 0 2).map fun b => (b.1 + 1024, b.2) }
    let d := { moving 0xD1 with done := [sectorNo 0 0] }
    let k := { moving 0xD2 with skipped := [0] }
    cpBarrier (x.word 1) = 64 ∧ (s.job x).swz = 0 ∧ 0 + 32 ≤ 16 * 64 ∧ 16 * 64 + 16 ≤ placeTeam.scratchSize ∧ x.recv.Nodup ∧ 0 < (s.job x).sectors ∧
    (match s.tileMap x 0 with
      | (_, .ok _) => true
      | _ => false) = true ∧
    bits (s.barrier ((s.team? 0).getD noTeam) 1024) 24 32 = 1 ∧ bits (s.barrier ((s.team? 0).getD noTeam) 1024) 4 20 = 0 ∧
    (s.cmds.all fun y => y.2.op ≠ 0xD5 && y.2.op ≠ 0xD8) = true ∧
    d.done.contains (sectorNo 0 0) = true ∧ k.skipped.contains 0 = true := by decide +kernel
end Sys2Proof.Tests
end

section
/-! PROOF. CSRRD and CSRWR (O31): words of one lane written to a vector pair or quad, the frame of a word that writes machine
state other than groups, and what a write of a register of plain fields leaves. -/

namespace Sys2Proof.Machine

/-! ### A pair or quad written in one lane -/

theorem Group.setV_vreg_same (g : Group) (r : Nat) {lane : Nat} (v : Word) (h : lane < 32) :
    (g.setV r lane v).vreg r lane = v := by
  simp [Group.setV, Group.vreg, Group.vrow, h]

theorem Group.setV_vreg_other (g : Group) (r lane : Nat) (v : Word) {q : Nat} (h : q ≠ r) (l : Nat) :
    (g.setV r lane v).vreg q l = g.vreg q l := by
  simp [Group.setV, Group.vreg, Group.vrow, Tab.find_put, h]

theorem Group.setV_vreg_otherLane (g : Group) (r lane : Nat) (v : Word) (q : Nat) {l : Nat} (h : l ≠ lane) (hl : l < 32) :
    (g.setV r lane v).vreg q l = g.vreg q l := by
  by_cases hq : q = r
  · subst hq
    simp [Group.setV, Group.vreg, Group.vrow, h, hl]
  · exact g.setV_vreg_other r lane v hq l

/-- Only vector registers change. -/
theorem Group.setVN_eq_vregs (g : Group) (r lane n v : Nat) : ∃ vs, g.setVN r lane n v = { g with vregs := vs } := by
  induction n generalizing g r v with
  | zero => exact ⟨g.vregs, rfl⟩
  | succ n ih => exact ih (g.setV r lane (BitVec.ofNat 32 v)) (r + 1) (v / 2 ^ 32)

theorem Group.setVN_vreg_other (g : Group) (r lane n v : Nat) {q : Nat} (h : q < r ∨ r + n ≤ q) (l : Nat) :
    (g.setVN r lane n v).vreg q l = g.vreg q l := by
  induction n generalizing g r v with
  | zero => rfl
  | succ n ih => rw [Group.setVN, ih _ _ _ (by omega), Group.setV_vreg_other _ _ _ _ (by omega)]

theorem Group.setVN_vreg_otherLane (g : Group) (r lane n v q : Nat) {l : Nat} (h : l ≠ lane) (hl : l < 32) :
    (g.setVN r lane n v).vreg q l = g.vreg q l := by
  induction n generalizing g r v with
  | zero => rfl
  | succ n ih => rw [Group.setVN, ih, Group.setV_vreg_otherLane _ _ _ _ _ h hl]

/-- The words of the value stand in the registers from `r` on, low word first (R153). -/
theorem Group.setVN_vreg_same (g : Group) (r : Nat) {lane : Nat} (n v : Nat) (h : lane < 32) {j : Nat} (hj : j < n) :
    (g.setVN r lane n v).vreg (r + j) lane = BitVec.ofNat 32 (v / 2 ^ (32 * j)) := by
  induction n generalizing g r v j with
  | zero => omega
  | succ n ih =>
    rw [Group.setVN]
    cases j with
    | zero => rw [Group.setVN_vreg_other _ _ _ _ _ (by omega), Nat.add_zero, Group.setV_vreg_same _ _ _ h]; simp
    | succ j =>
      rw [Nat.add_comm j, ← Nat.add_assoc, ih _ _ _ (by omega), Nat.div_div_eq_div_mul, ← Nat.pow_add, Nat.mul_add]

theorem OnlyWrites.setVN (g : Group) (r lane n v : Nat) :
    OnlyWrites g (g.setVN r lane n v) ((List.range n).map (r + ·)) [] [] := by
  have hv : ∀ q, q ∉ (List.range n).map (r + ·) → ∀ l, (g.setVN r lane n v).vreg q l = g.vreg q l := by
    intro q hq l
    refine g.setVN_vreg_other r lane n v ?_ l
    by_contra hc
    exact hq (List.mem_map.2 ⟨q - r, List.mem_range.2 (by omega), by omega⟩)
  obtain ⟨vs, he⟩ := g.setVN_eq_vregs r lane n v
  rw [he] at hv ⊢
  exact ⟨hv, fun _ _ => rfl, fun _ _ => rfl, rfl, rfl, rfl, rfl, rfl⟩

/-! ### CSRRD -/

/-- What a register reads depends on nothing that the issue of a word changes. -/
theorem Untouched.csrValue {k : Nat} {s t : State} (h : Untouched k s t) (n a : Nat) : t.csrValue n a = s.csrValue n a := by
  simp only [State.csrValue, State.context, State.manager, State.deviceRead, h.csr, h.contexts, h.manage, h.die0, h.die1]

theorem exec_csrrd (f : FmtSys) (s : State) : exec (.csrrd f) s = execCsrrd f s := rfl

theorem exec_csrwr (f : FmtSys) (s : State) : exec (.csrwr f) s = execCsrwr f s := rfl

@[simp] theorem State.begun_sector (s : State) (i : Instr) (g : Group) : (s.begun i g).sector = s.sector := by
  unfold State.sector; rw [State.begun_cur]

/-- CSRRD inside a clause: its group takes the value in lane 0, and the rest of the machine stays (R278). -/
theorem csrrd_inClause {f : FmtSys} {s : State} {g : Group} (h : Issues (.csrrd f) s g) (hc : s.inClause)
    (hm : s.admitted g ≠ 0) :
    ∃ t, exec (.csrrd f) s = .next t ∧ Untouched s.cur.grp s t ∧ t.group? s.cur.grp =
      some ((g.countIssue.setVN f.d.toNat 0 (csrWidth f.a.toNat) (s.csrValue s.sector f.a.toNat)).setPcs
        s.cur.active fun _ => s.cur.pc + 4) := by
  generalize hv : s.csrValue s.sector f.a.toNat = v
  obtain ⟨vs, he⟩ := g.countIssue.setVN_eq_vregs f.d.toNat 0 (csrWidth f.a.toNat) v
  rw [exec_csrrd, execCsrrd, he]
  refine issue_withGroup_inClause (g2 := { g.countIssue with vregs := vs }) h hc ?_ rfl rfl rfl rfl
  rw [if_neg hm, (Untouched.begun s _ g).csrValue]
  simp only [State.withGroup, State.begun_sector, State.begun_cur, hv, he]

/-- Writes to the group of an issue that has been counted, whose lanes then advance. -/
theorem OnlyWrites.advanced {g g' : Group} {vs us ps : List Nat} (h : OnlyWrites g.countIssue g' vs us ps) (m : Word)
    (pc : Nat → Word) : OnlyWrites g (g'.setPcs m pc) vs us ps :=
  ⟨h.vregs, h.uregs, h.preds, h.guards, h.pri, h.latch, h.qctx, h.tag⟩

theorem csrrd_stepsTo {f : FmtSys} {s : State} {g : Group} (h : Issues (.csrrd f) s g) (hc : s.inClause)
    (hm : s.admitted g ≠ 0) :
    StepsTo (.csrrd f) s fun t g' =>
      (∀ j, j < csrWidth f.a.toNat → g'.vreg (f.d.toNat + j) 0 =
        BitVec.ofNat 32 (s.csrValue (s.sector) f.a.toNat / 2 ^ (32 * j))) ∧
      (∀ r l, l ≠ 0 → l < 32 → g'.vreg r l = g.vreg r l) ∧
      OnlyWrites g g' ((List.range (csrWidth f.a.toNat)).map (f.d.toNat + ·)) [] [] ∧
      (PcsAre s g g' 0 fun _ => 0) ∧ Untouched s.cur.grp s t := by
  obtain ⟨t, he, hu, hg⟩ := csrrd_inClause h hc hm
  generalize s.csrValue (s.sector) f.a.toNat = v at hg ⊢
  obtain ⟨vs, hvs⟩ := g.countIssue.setVN_eq_vregs f.d.toNat 0 (csrWidth f.a.toNat) v
  refine ⟨t, _, he, hg, fun j hj => ?_, fun r l h0 hl => ?_, ?_, PcsAre.moved (by rw [hvs]; rfl), hu⟩
  · exact g.countIssue.setVN_vreg_same _ _ _ (by decide) hj
  · exact g.countIssue.setVN_vreg_otherLane _ _ _ _ _ h0 hl
  · exact (OnlyWrites.setVN g.countIssue ..).advanced _ _

/-! ### What each register reads -/

theorem State.csrValue_ctx (s : State) (n : Nat) {a : Nat} (h : isCtxCsr a = true) :
    s.csrValue n a = ctxRead (s.context (s.manager n).ctxsel) a := if_pos h

theorem State.csrValue_device (s : State) (n : Nat) {a : Nat} (h : isCtxCsr a = false) :
    s.csrValue n a = s.deviceRead n a := if_neg (by simp [h])

theorem isCtxCsr_region {i : Nat} (h : i < 64) : isCtxCsr (0x40 + i) = true := by
  simp only [isCtxCsr, ctxNumbers, List.contains_eq_mem, decide_eq_true_eq]
  exact List.mem_append_right _ (List.mem_map.2 ⟨i, List.mem_range.2 h, rfl⟩)

/-- A region register reads both its halves (R71). -/
theorem State.csrValue_region (s : State) (n : Nat) {i : Nat} (h : i < 64) :
    s.csrValue n (0x40 + i) = (Tab.get (s.context (s.manager n).ctxsel).rgnlo i 0).toNat +
      2 ^ 64 * (Tab.get (s.context (s.manager n).ctxsel).rgnhi i 0).toNat := by
  have hne : ∀ k, k < 0x40 → 0x40 + i ≠ k := fun k hk => by omega
  have hlt : 0x40 + i < 0x80 := by omega
  rw [State.csrValue_ctx _ _ (isCtxCsr_region h)]
  simp [ctxRead, hne, hlt]

/-! ### Writes of registers of plain fields -/

/-- A field of a register in its place, every other bit 0 (R6). -/
def csrCut (lo len v : Nat) : Nat := bits v lo len * 2 ^ lo

/-- What a register of plain fields reads after a write of `v`; none for the other registers (R278). -/
def csrPlain (a v : Nat) : Option Nat :=
  if a = 0x00 ∨ a = 0x09 ∨ a = 0x0C ∨ a = 0x18 then some (csrCut 12 40 v)
  else if a = 0x01 then some (csrCut 0 16 v)
  else if a = 0x02 ∨ a = 0x14 then some (csrCut 16 41 v)
  else if a = 0x08 then some (csrCut 0 57 v)
  else if a = 0x10 then some (csrCut 0 17 v)
  else if a = 0x11 ∨ a = 0x1B ∨ a = 0x27 ∨ a = 0x2E then some (csrCut 0 32 v)
  else if a = 0x12 then some (csrCut 0 24 v)
  else if a = 0x19 then some (csrCut 0 5 v)
  else if a = 0x1C ∨ a = 0x15 ∨ a = 0x16 ∨ a = 0x17 then some 0
  else if a = 0x20 ∨ a = 0x21 ∨ a = 0x22 then some (csrCut 0 48 v)
  else if a = 0x24 then some (csrCut 0 8 v)
  else if a = 0x26 then some (csrCut 16 36 v)
  else if a = 0x30 then some (csrCut 5 52 v)
  else if a = 0x3F then some (csrCut 0 6 v)
  else none

/-- Context registers of plain fields. -/
def plainCtxCsrs : List Nat := [0x00, 0x01, 0x02, 0x08, 0x09, 0x18, 0x19, 0x1B, 0x1C]

/-- Device registers of plain fields. -/
def plainDeviceCsrs : List Nat :=
  [0x0C, 0x11, 0x12, 0x14, 0x15, 0x16, 0x17, 0x20, 0x21, 0x22, 0x24, 0x26, 0x27, 0x2E, 0x30]

/-- A register of plain fields belongs to the context, to the device, or to the management core (WINSEL and CTXSEL). -/
theorem csrPlain_kind {a v w : Nat} (h : csrPlain a v = some w) :
    a ∈ plainCtxCsrs ∨ a ∈ plainDeviceCsrs ∨ a = 0x10 ∨ a = 0x3F := by
  simp only [plainCtxCsrs, plainDeviceCsrs, List.mem_cons, List.not_mem_nil, or_false]
  by_contra hc
  have hn : csrPlain a v = none := by
    simp only [not_or] at hc
    simp only [csrPlain, hc, or_self, if_false]
  simp [hn] at h

theorem csrCut_low (len v : Nat) : bits v 0 len = csrCut 0 len v := (Nat.mul_one _).symm

theorem csrCut_lt (lo len v : Nat) : csrCut lo len v < 2 ^ (len + lo) := by
  rw [csrCut, Nat.pow_add]
  exact Nat.mul_lt_mul_of_pos_right (Nat.mod_lt _ (Nat.two_pow_pos _)) (Nat.two_pow_pos _)

/-- A field that a register of 64 bits stores reads as it was cut. -/
theorem csrCut_toNat (lo len v : Nat) (h : len + lo ≤ 64) : (BitVec.ofNat 64 (bits v lo len * 2 ^ lo)).toNat = csrCut lo len v := by
  rw [BitVec.toNat_ofNat]
  exact Nat.mod_eq_of_lt (Nat.lt_of_lt_of_le (csrCut_lt lo len v) (Nat.pow_le_pow_right (by decide) h))

theorem csrCut_word (v : Nat) : (BitVec.ofNat 32 v).toNat = csrCut 0 32 v := by
  rw [BitVec.toNat_ofNat, ← csrCut_low, bits, Nat.pow_zero, Nat.div_one]

/-- What a write of a context register leaves in its context, GO of MIGCTL aside: FRSIZE clears FRHEAD, and FRLOST is cleared
(R69, R391). -/
def ctxStored (a v : Nat) (c : Context) : Context :=
  if a = 0x19 then { ctxWrite c a v with frhead := 0 } else if a = 0x1C then { c with frlost := 0 } else ctxWrite c a v

theorem State.writeCtx_eq (s : State) (x : Nat) {a : Nat} (v : Nat) (h : a ≠ 0x0A) (h' : a ≠ 0x1A) :
    s.writeCtx x a v = s.onContext x (ctxStored a v) := by
  unfold State.writeCtx
  rw [if_neg h, if_neg h']
  by_cases h1 : a = 0x19
  · subst h1; rfl
  · by_cases h2 : a = 0x1C
    · subst h2; rfl
    · rw [if_neg h1, if_neg h2]
      have hf : ctxStored a v = fun c => ctxWrite c a v := by
        funext c; rw [ctxStored, if_neg h1, if_neg h2]
      rw [hf]

/-- A plain context register reads the fields that were written. -/
theorem ctxRead_ctxStored {a v w : Nat} (c : Context) (ha : a ∈ plainCtxCsrs) (hw : csrPlain a v = some w) :
    ctxRead (ctxStored a v c) a = w := by
  simp only [plainCtxCsrs, List.mem_cons, List.not_mem_nil, or_false] at ha
  rcases ha with rfl | rfl | rfl | rfl | rfl | rfl | rfl | rfl | rfl <;> obtain rfl := Option.some.inj hw
  · exact csrCut_toNat 12 40 v (by decide)
  · exact csrCut_low 16 v
  · exact csrCut_toNat 16 41 v (by decide)
  · exact csrCut_toNat 0 57 v (by decide)
  · exact csrCut_toNat 12 40 v (by decide)
  · exact csrCut_toNat 12 40 v (by decide)
  · exact csrCut_low 5 v
  · exact csrCut_low 32 v
  · rfl

/-- A plain device register stores its fields, and a counter of lost records or events is cleared (R278, R338, R394, R419). -/
theorem State.deviceWrite_plain {a v w : Nat} (s : State) (n : Nat) (ha : a ∈ plainDeviceCsrs) (hw : csrPlain a v = some w) :
    ∃ c, s.deviceWrite n a v = { s with csr := c } ∧ State.deviceRead { s with csr := c } n a = w := by
  simp only [plainDeviceCsrs, List.mem_cons, List.not_mem_nil, or_false] at ha
  rcases ha with rfl | rfl | rfl | rfl | rfl | rfl | rfl | rfl | rfl | rfl | rfl | rfl | rfl | rfl | rfl <;>
    obtain rfl := Option.some.inj hw
  · exact ⟨_, rfl, csrCut_toNat 12 40 v (by decide)⟩
  · exact ⟨_, rfl, csrCut_word v⟩
  · exact ⟨_, rfl, csrCut_toNat 0 24 v (by decide)⟩
  · exact ⟨_, rfl, csrCut_toNat 16 41 v (by decide)⟩
  · exact ⟨_, rfl, rfl⟩
  · exact ⟨_, rfl, rfl⟩
  · exact ⟨_, rfl, rfl⟩
  · exact ⟨_, rfl, csrCut_low 48 v⟩
  · exact ⟨_, rfl, csrCut_low 48 v⟩
  · exact ⟨_, rfl, csrCut_low 48 v⟩
  · exact ⟨_, rfl, csrCut_low 8 v⟩
  · exact ⟨_, rfl, csrCut_toNat 16 36 v (by decide)⟩
  · exact ⟨_, rfl, csrCut_low 32 v⟩
  · exact ⟨_, rfl, csrCut_low 32 v⟩
  · exact ⟨_, rfl, csrCut_toNat 5 52 v (by decide)⟩

theorem isCtxCsr_of_mem_plainCtx {a : Nat} (h : a ∈ plainCtxCsrs) : isCtxCsr a = true := by
  revert a; decide

theorem isCtxCsr_of_mem_plainDevice {a : Nat} (h : a ∈ plainDeviceCsrs) : isCtxCsr a = false := by
  revert a; decide

theorem State.onContext_context (s : State) (x : Nat) (f : Context → Context) :
    (s.onContext x f).context x = f (s.context x) := by
  simp [State.context, Tab.get_put]

theorem State.onManager_manager (s : State) (n : Nat) (f : Manage → Manage) :
    (s.onManager n f).manager n = f (s.manager n) := by
  simp [State.manager, Tab.get_put]

/-- A write that leaves groups, teams and memory, and of the registers all but those of the kind that it names. -/
structure CsrStored (s t : State) (a : Nat) : Prop where
  groups : t.groups = s.groups
  teams : t.teams = s.teams
  mem : t.mem = s.mem
  csr : a = 0x10 ∨ a = 0x3F ∨ isCtxCsr a = true → t.csr = s.csr
  own : a ≠ 0x10 → a ≠ 0x3F → isCtxCsr a = false → t.contexts = s.contexts ∧ t.manage = s.manage

/-- A write of a register of plain fields: what it then reads, and its frame. -/
theorem State.csrStore_plain {a v w : Nat} (s : State) (n : Nat) (hw : csrPlain a v = some w) :
    (s.csrStore n a v).csrValue n a = w ∧ (a = 0x19 → (s.csrStore n a v).csrValue n 0x1A = 0) ∧
      CsrStored s (s.csrStore n a v) a := by
  rcases csrPlain_kind hw with ha | ha | rfl | rfl
  · have hk := isCtxCsr_of_mem_plainCtx ha
    have he : s.csrStore n a v = s.onContext (s.manager n).ctxsel (ctxStored a v) := by
      rw [State.csrStore, if_pos hk]
      exact s.writeCtx_eq _ v (by rintro rfl; exact absurd ha (by decide)) (by rintro rfl; exact absurd ha (by decide))
    have hx : (s.csrStore n a v).context ((s.csrStore n a v).manager n).ctxsel =
        ctxStored a v (s.context (s.manager n).ctxsel) := by
      rw [he]; exact s.onContext_context ..
    refine ⟨?_, ?_, ?_⟩
    · rw [State.csrValue_ctx _ _ hk, hx, ctxRead_ctxStored _ ha hw]
    · rintro rfl
      rw [State.csrValue_ctx _ _ (by decide), hx]; rfl
    · rw [he]
      exact ⟨rfl, rfl, rfl, fun _ => rfl, fun _ _ h => absurd (hk.symm.trans h) (by decide)⟩
  · have hk := isCtxCsr_of_mem_plainDevice ha
    obtain ⟨c, he, hr⟩ := s.deviceWrite_plain n ha hw
    rw [State.csrStore, if_neg (by simp [hk]), he]
    refine ⟨(State.csrValue_device _ _ hk).trans hr, ?_, rfl, rfl, rfl, ?_, fun _ _ _ => ⟨rfl, rfl⟩⟩
    · rintro rfl; cases hk
    · rintro (rfl | rfl | h)
      · exact absurd ha (by decide)
      · exact absurd ha (by decide)
      · rw [hk] at h; cases h
  · obtain rfl := Option.some.inj hw
    refine ⟨?_, nofun, rfl, rfl, rfl, fun _ => rfl, fun h => absurd rfl h⟩
    exact (congrArg Manage.winsel (s.onManager_manager n fun m => { m with winsel := bits v 0 17 })).trans (csrCut_low 17 v)
  · obtain rfl := Option.some.inj hw
    refine ⟨?_, nofun, rfl, rfl, rfl, fun _ => rfl, fun _ h => absurd rfl h⟩
    exact (congrArg Manage.ctxsel (s.onManager_manager n fun m => { m with ctxsel := bits v 0 6 })).trans (csrCut_low 6 v)

/-! ### CSRWR -/

/-- The state that CSRWR's write leaves, before its lanes advance. -/
def State.csrWritten (s : State) (f : FmtSys) (g : Group) : State :=
  (s.begun (.csrwr f) g).csrStore (s.sector) f.a.toNat (g.regN f.d.toNat 0 (csrWidth f.a.toNat))

theorem csrwr_body {f : FmtSys} {s : State} {g : Group} (hm : s.admitted g ≠ 0) :
    (if s.admitted g = 0 then Eff.ok (s.begun (.csrwr f) g)
      else .ok ((s.begun (.csrwr f) g).csrStore (s.begun (.csrwr f) g).sector f.a.toNat
        (g.countIssue.regN f.d.toNat 0 (csrWidth f.a.toNat)))) = .ok (s.csrWritten f g) := by
  rw [if_neg hm, Group.countIssue_regN, State.begun_sector, State.csrWritten]

/-- CSRWR completes, whatever register it names (R278). -/
theorem csrwr_completes {f : FmtSys} {s : State} {g : Group} (h : Issues (.csrwr f) s g) (hm : s.admitted g ≠ 0) :
    exec (.csrwr f) s = .next ((s.csrWritten f g).finish s.cur) := by
  rw [exec_csrwr, execCsrwr, issue_of h, csrwr_body hm]

/-- A word that leaves groups and memory as they were when its body began is quiet, once its lanes have advanced. -/
theorem Quiet.moved {s b t : State} {g : Group} (hb : Untouched s.cur.grp s b) (ht : t.groups = b.groups) (hm : t.mem = b.mem) :
    Quiet s (t.moved s.cur) g (g.countIssue.setPcs s.cur.active fun _ => s.cur.pc + 4) := by
  have hu := Untouched.moved t s.cur
  refine ⟨(OnlyWrites.refl g.countIssue ..).advanced _ _, PcsAre.moved rfl, fun a => ?_, fun j hj => ?_⟩
  · rw [hu.mem, hm, hb.mem]
  · rw [hu.groups j hj, State.group_of_groups ht, hb.groups j hj]

/-- CSRWR of a register whose write leaves groups and memory, inside a clause. -/
theorem csrwr_stepsTo {f : FmtSys} {s : State} {g : Group} (h : Issues (.csrwr f) s g) (hc : s.inClause)
    (hm : s.admitted g ≠ 0) (ht : (s.csrWritten f g).groups = (s.begun (.csrwr f) g).groups)
    (hmem : (s.csrWritten f g).mem = (s.begun (.csrwr f) g).mem) :
    StepsTo (.csrwr f) s fun t g' => t = (s.csrWritten f g).moved s.cur ∧ Quiet s t g g' := by
  obtain ⟨r1, r2, r3⟩ := Group.running h.ready
  have hg : (s.csrWritten f g).group? s.cur.grp = some g.countIssue := by
    rw [State.group_of_groups ht, State.begun_group, if_pos rfl]
  refine ⟨_, _, ?_, ?_, rfl, Quiet.moved (Untouched.begun s _ g) ht hmem⟩
  · rw [exec_csrwr, execCsrwr]
    exact issue_inClause h hc (csrwr_body hm) hg rfl r1 r2 r3
  · rw [State.moved_group, if_pos rfl, hg]; rfl

theorem StepsTo.imp {i : Instr} {s : State} {P Q : State → Group → Prop} (h : StepsTo i s P) (hPQ : ∀ t g', P t g' → Q t g') :
    StepsTo i s Q := by
  obtain ⟨t, g', he, hg, hp⟩ := h
  exact ⟨t, g', he, hg, hPQ t g' hp⟩

theorem csrwr_plain {f : FmtSys} {s : State} {g : Group} (h : Issues (.csrwr f) s g) (hc : s.inClause)
    (hm : s.admitted g ≠ 0) {w : Nat} (hw : csrPlain f.a.toNat (g.regN f.d.toNat 0 (csrWidth f.a.toNat)) = some w) :
    StepsTo (.csrwr f) s fun t g' =>
      t.csrValue (s.sector) f.a.toNat = w ∧ Quiet s t g g' ∧ t.teams = s.teams ∧
      (f.a.toNat = 0x19 → t.csrValue (s.sector) 0x1A = 0) ∧
      (f.a.toNat = 0x10 ∨ f.a.toNat = 0x3F ∨ isCtxCsr f.a.toNat = true → t.csr = s.csr) ∧
      (f.a.toNat ≠ 0x10 → f.a.toNat ≠ 0x3F → isCtxCsr f.a.toNat = false → t.contexts = s.contexts ∧ t.manage = s.manage) := by
  obtain ⟨hv, h0, hs⟩ := (s.begun (.csrwr f) g).csrStore_plain (s.sector) hw
  have hb := Untouched.begun s (.csrwr f) g
  have hu := Untouched.moved (s.csrWritten f g) s.cur
  refine (csrwr_stepsTo h hc hm hs.groups hs.mem).imp ?_
  rintro t g' ⟨rfl, hq⟩
  refine ⟨(hu.csrValue ..).trans hv, hq, ?_, fun ha => (hu.csrValue ..).trans (h0 ha), fun ha => ?_, fun h1 h2 h3 => ?_⟩
  · exact hu.teams.trans (hs.teams.trans hb.teams)
  · exact hu.csr.trans ((hs.csr ha).trans hb.csr)
  · obtain ⟨hx, hn⟩ := hs.own h1 h2 h3
    exact ⟨hu.contexts.trans (hx.trans hb.contexts), hu.manage.trans (hn.trans hb.manage)⟩

/-- FRHEAD is not written (R391). -/
theorem csrwr_frhead {f : FmtSys} {s : State} {g : Group} (h : Issues (.csrwr f) s g) (hc : s.inClause)
    (hm : s.admitted g ≠ 0) (ha : f.a.toNat = 0x1A) :
    StepsTo (.csrwr f) s fun t g' =>
      t.csrValue (s.sector) f.a.toNat = s.csrValue (s.sector) f.a.toNat ∧ Quiet s t g g' := by
  have hs : s.csrWritten f g = s.begun (.csrwr f) g := by rw [State.csrWritten, ha]; rfl
  refine (csrwr_stepsTo h hc hm (by rw [hs]) (by rw [hs])).imp ?_
  rintro t g' ⟨rfl, hq⟩
  refine ⟨?_, hq⟩
  rw [(Untouched.moved _ s.cur).csrValue, hs, (Untouched.begun s _ g).csrValue]

/-- SCHEDCTL takes pdelay, and EN while FWSTAT reads RUNNING (R339; log 89). -/
theorem csrwr_schedctl {f : FmtSys} {s : State} {g : Group} (h : Issues (.csrwr f) s g) (hc : s.inClause)
    (hm : s.admitted g ≠ 0) (ha : f.a.toNat = 0x23) :
    let v := g.regN f.d.toNat 0 (csrWidth f.a.toNat)
    StepsTo (.csrwr f) s fun t g' =>
      t.csr.pdelay = v / 2 ^ 8 % 2 ^ 24 ∧ t.csr.cxl = s.csr.cxl ∧
      t.csr.en = (if s.ctl.fwstat = 3 then decide (v % 2 = 1) else s.csr.en) ∧ Quiet s t g g' := by
  intro v
  have hs : s.csrWritten f g = (s.begun (.csrwr f) g).writeSched v := by
    rw [State.csrWritten]; simp only [v]; rw [ha]; rfl
  have hb := Untouched.begun s (.csrwr f) g
  refine (csrwr_stepsTo h hc hm (by rw [hs]; rfl) (by rw [hs]; rfl)).imp ?_
  rintro t g' ⟨rfl, hq⟩
  have hcsr : ((s.csrWritten f g).moved s.cur).csr = ((s.begun (.csrwr f) g).writeSched v).csr :=
    (Untouched.moved _ s.cur).csr.trans (congrArg State.csr hs)
  refine ⟨?_, ?_, ?_, hq⟩ <;> rw [hcsr]
  · rfl
  · simp [State.writeSched, hb.csr]
  · simp [State.writeSched, bits, hb.csr, hb.ctl]

/-- Settles O31: CSRRD by the words of `setVN`, the table by the definition of each register, and CSRWR by the three kinds of plain
registers. -/
theorem csrWords : Obligations.CsrWords := by
  unfold Obligations.CsrWords
  refine ⟨fun f s g h hc hm => csrrd_stepsTo h hc hm, fun s n => ?_, fun f s g h hc hm =>
    ⟨⟨_, csrwr_completes h hm⟩, fun w hw => csrwr_plain h hc hm hw, csrwr_frhead h hc hm, csrwr_schedctl h hc hm⟩⟩
  refine ⟨rfl, rfl, rfl, rfl, rfl, rfl, ?migctl, rfl, rfl, rfl, rfl, rfl, fun i hi => s.csrValue_region n hi, rfl, rfl, rfl, rfl, rfl,
    rfl, rfl, rfl, rfl, rfl, rfl, rfl, ?schedctl, rfl, rfl, rfl, rfl, rfl, rfl, rfl, rfl, rfl, rfl, rfl, rfl, rfl, rfl, rfl, rfl⟩
  case migctl =>
    rw [State.csrValue_ctx _ _ (by decide)]
    show _ * 2 + _ * 16 = _
    omega
  case schedctl =>
    rw [State.csrValue_device _ _ (by decide)]
    show _ * 256 + _ + _ = _
    omega

end Sys2Proof.Machine
end

section
/-! PROOF. The state that package power-on reset leaves (O40). -/

namespace Sys2Proof.Machine
theorem State.reset_core (c : Nat) : (State.reset.core c).lt = 0 ∧ (State.reset.core c).l1 = [] ∧ (State.reset.core c).tlb = [] := by
  refine ⟨?_, rfl, rfl⟩
  show (State.reset.die (dieOfCore c)).ltBase = 0
  unfold State.die
  split <;> rfl

theorem State.reset_group {n : Nat} (h : n < 16) : State.reset.group? (privKey n) = some Group.privilegedReset := by
  revert n
  decide

/-- Settles O40: the fields of the reset state, with every table that is not given its initial rows empty. -/
theorem resetState : Obligations.ResetState := by
  unfold Obligations.ResetState
  refine ⟨rfl, rfl, rfl, rfl, fun d => ?_, State.reset_core, rfl, rfl, fun q => ⟨rfl, rfl, rfl⟩, rfl, rfl, rfl, rfl, rfl,
    fun _ => rfl, rfl, rfl, rfl, rfl, fun n hn => ⟨_, State.reset_group hn, rfl, rfl, rfl⟩, fun _ => ⟨rfl, rfl⟩, fun _ => rfl, rfl⟩
  by_cases h : d = 0
  · subst h; exact ⟨rfl, rfl⟩
  · simp only [State.die, if_neg h]; exact ⟨rfl, rfl⟩
end Sys2Proof.Machine

end

section
/-! PROOF. The time counters (O42): a lemma for each function of the model that gives a state, which says that it leaves both
counters as they were. They follow the model's files in their order; each proof uses those of the functions that its definition
calls. -/

namespace Sys2Proof.Machine

/-- Both time counters. -/
def State.clock (s : State) : DWord × DWord := (s.die0.tcount, s.die1.tcount)

/-! ### Changes of one part, folds and options -/

/-! ### Machine/Access.lean -/

theorem State.onDie_clock (s : State) (d : Nat) (f : Die → Die) (h : ∀ x, (f x).tcount = x.tcount) :
    (s.onDie d f).clock = s.clock := by
  unfold State.onDie State.clock; split <;> simp [h]

@[simp] theorem State.onCore_clock (s : State) (k : Nat) (f : Core → Core) : (s.onCore k f).clock = s.clock := rfl
@[simp] theorem State.onPart_clock (s : State) (k : Nat) (f : Part → Part) : (s.onPart k f).clock = s.clock := rfl
@[simp] theorem State.onQuad_clock (s : State) (k : Nat) (f : Quad → Quad) : (s.onQuad k f).clock = s.clock := rfl
@[simp] theorem State.onManager_clock (s : State) (k : Nat) (f : Manage → Manage) : (s.onManager k f).clock = s.clock := rfl
@[simp] theorem State.onContext_clock (s : State) (k : Nat) (f : Context → Context) : (s.onContext k f).clock = s.clock := rfl
@[simp] theorem State.onPort_clock (s : State) (k : Nat) (f : Port → Port) : (s.onPort k f).clock = s.clock := rfl
@[simp] theorem State.onGroup_clock (s : State) (k : Nat) (f : Group → Group) : (s.onGroup k f).clock = s.clock := rfl
@[simp] theorem State.setGroup_clock (s : State) (k : Nat) (f : Group) : (s.setGroup k f).clock = s.clock := rfl
@[simp] theorem State.onTeam_clock (s : State) (k : Nat) (f : Team → Team) : (s.onTeam k f).clock = s.clock := rfl
@[simp] theorem State.onGrid_clock (s : State) (k : Nat) (f : Grid → Grid) : (s.onGrid k f).clock = s.clock := rfl
@[simp] theorem State.onOwn_clock (s : State) (k t : Nat) (f : Group → Group) : (s.onOwn k t f).clock = s.clock := by
  unfold State.onOwn; grind [!State.onGroup_clock]

/-- A fold keeps what each of its steps keeps. -/
theorem foldl_keeps {α β γ : Type} (m : β → γ) (f : β → α → β) (h : ∀ b x, m (f b x) = m b) (l : List α) (b : β) :
    m (l.foldl f b) = m b := by
  induction l generalizing b with
  | nil => rfl
  | cons x t ih => rw [List.foldl_cons, ih, h]

theorem foldl_clock {α : Type} (f : State → α → State) (h : ∀ s x, (f s x).clock = s.clock) (l : List α) (s : State) :
    (l.foldl f s).clock = s.clock :=
  foldl_keeps State.clock f h l s

theorem foldl_fst_clock {α β : Type} (f : State × β → α → State × β) (h : ∀ p x, (f p x).1.clock = p.1.clock)
    (l : List α) (p : State × β) : (l.foldl f p).1.clock = p.1.clock :=
  foldl_keeps (·.1.clock) f h l p

/-- The state in which an entry of a replay leaves the machine. -/
def Replay.state : Replay → State
  | .done s | .stays s | .waits s => s

/-- The state in which a part of an engine's move leaves the machine. -/
def Moved.state : Moved → State
  | .ok s | .wait s | .fault s _ _ => s

theorem getD_clock (o : Option State) (d : State) :
    (o.getD d).clock = match o with
      | some t => t.clock
      | none => d.clock := by
  cases o <;> rfl

theorem State.poke_clock (s : State) (pa n v : Nat) : (s.poke pa n v).clock = s.clock := by
  unfold State.poke
  grind [State.clock, foldl_clock]

theorem State.setRange_clock (s : State) (a n : Nat) (m : List Host.Cell) : (s.setRange a n m).clock = s.clock := by
  unfold State.setRange
  grind [State.clock, foldl_clock]

/-! ### Machine/Home.lean -/

theorem State.raiseAway_clock (s : State) (t : Nat) : (s.raiseAway t).clock = s.clock := by
  unfold State.raiseAway
  grind [State.clock]

theorem State.dropLine_clock (s : State) (line : Nat) : (s.dropLine line).clock = s.clock := by
  unfold State.dropLine
  grind [State.clock]

theorem State.evictHome_clock (s : State) (line : Nat) : (s.evictHome line).clock = s.clock := by
  unfold State.evictHome
  grind [State.clock, State.raiseAway_clock, State.dropLine_clock, State.onDie_clock]

theorem State.makeRoom_clock (s : State) (d : Nat) : (s.makeRoom d).clock = s.clock := by
  unfold State.makeRoom
  grind [State.clock, State.evictHome_clock, State.onDie_clock]

theorem State.roomFor_clock (s : State) (line : Nat) : (s.roomFor line).clock = s.clock := by
  unfold State.roomFor
  grind [State.clock, State.makeRoom_clock]

theorem State.setHome_clock (s : State) (line : Nat) (h : HomeLine) : (s.setHome line h).clock = s.clock := by
  unfold State.setHome
  grind [State.clock, State.roomFor_clock]

theorem homeRenew_clock (s : State) (line T : Nat) : (homeRenew s line T).1.clock = s.clock := by
  unfold homeRenew
  grind [State.clock, State.setHome_clock]

theorem State.repairBytes_clock (s : State) (store pa n : Nat) : (s.repairBytes store pa n).clock = s.clock := by
  unfold State.repairBytes
  grind [State.clock]

theorem State.setMeta_clock (s : State) (line : Nat) (v : BitVec 16) : (s.setMeta line v).clock = s.clock := by
  unfold State.setMeta
  grind [State.clock]

theorem State.takeLine_clock (s : State) (line : Nat) : (s.takeLine line).clock = s.clock := by
  unfold State.takeLine
  grind [State.clock]

theorem homeStamp_clock (s : State) (line T : Nat) : (homeStamp s line T).1.clock = s.clock := by
  unfold homeStamp
  grind [State.clock, State.takeLine_clock, State.setMeta_clock, State.setHome_clock]

theorem State.storeAway_clock (s : State) (T pa : Nat) : (s.storeAway T pa).clock = s.clock := by
  unfold State.storeAway
  grind [State.clock, State.raiseAway_clock]

theorem State.deviceStore_clock (s : State) (T pa n v : Nat) : (s.deviceStore T pa n v).clock = s.clock := by
  unfold State.deviceStore
  grind [State.clock, State.storeAway_clock, State.repairBytes_clock, State.poke_clock, !homeStamp_clock]

theorem State.byLines_clock (s : State) (a : Nat) (bs : List Byte) (store : State → Nat → Nat → Nat → State)
    (h : ∀ s a n v, (store s a n v).clock = s.clock) : (s.byLines a bs store).clock = s.clock :=
  foldl_clock _ (fun _ _ => h ..) _ _

theorem State.deviceBytes_clock (s : State) (T pa : Nat) (bs : List Byte) : (s.deviceBytes T pa bs).clock = s.clock :=
  State.byLines_clock _ _ _ _ fun _ _ _ _ => State.deviceStore_clock ..

theorem State.acquire_clock (s : State) (c : Nat) : (s.acquire c).clock = s.clock := by
  unfold State.acquire
  grind [State.clock, State.onCore_clock]

/-! ### Machine/Translate.lean -/

theorem State.cacheTable_clock (s : State) (d asid va level t : Nat) : (s.cacheTable d asid va level t).clock = s.clock := by
  unfold State.cacheTable
  grind [State.clock, State.onDie_clock]

theorem State.entryLoad_clock (s : State) (who : Option Nat) (ea : Nat) : (s.entryLoad who ea).clock = s.clock := by
  unfold State.entryLoad
  grind [State.clock, !homeRenew_clock, State.onCore_clock]

theorem walkGo_clock (who : Option Nat) (d asid va l tbl : Nat) (s : State) :
    (walkGo who d asid va l tbl s).1.clock = s.clock := by
  induction l generalizing tbl s with
  | zero => exact State.entryLoad_clock ..
  | succ l ih => unfold walkGo; grind [State.cacheTable_clock, State.entryLoad_clock]

theorem walkFrom_clock (s : State) (who : Option Nat) (d x va : Nat) : (walkFrom s who d x va).1.clock = s.clock := by
  unfold walkFrom
  grind [State.clock, !walkGo_clock]

theorem pickEntry_clock (s : State) (ea pte : Nat) : (pickEntry s ea pte).1.clock = s.clock := by
  unfold pickEntry
  grind [State.clock, getD_clock]

theorem walk_clock (s : State) (d x va : Nat) (acc : AccessKind) (spec : Bool) (who : Option Nat) :
    (walk s d x va acc spec who).1.clock = s.clock := by
  unfold walk
  grind [State.clock, !walkFrom_clock, !pickEntry_clock, State.deviceStore_clock, getD_clock]

theorem translate_clock (s : State) (c x va : Nat) (acc : AccessKind) : (translate s c x va acc).1.clock = s.clock := by
  unfold translate
  grind [State.clock, State.onCore_clock, !walk_clock, State.onQuad_clock]

theorem translateEngine_clock (s : State) (q x va : Nat) (acc : AccessKind) :
    (translateEngine s q x va acc).1.clock = s.clock := by
  unfold translateEngine
  grind [State.clock, !walk_clock, State.onQuad_clock]

theorem translateWalk_clock (s : State) (x va : Nat) (acc : AccessKind) : (translateWalk s x va acc).1.clock = s.clock := by
  unfold translateWalk
  grind [State.clock, !walk_clock]

theorem State.countDrop_clock (s : State) (d : Nat) : (s.countDrop d).clock = s.clock := by
  unfold State.countDrop
  grind [State.clock]

theorem State.dropTlbs_clock (s : State) (scope asid va : Nat) : (s.dropTlbs scope asid va).clock = s.clock := by
  unfold State.dropTlbs
  grind [State.clock]

theorem fetch_clock (s : State) (c x off : Nat) (acc : AccessKind) : (fetch s c x off acc).1.clock = s.clock := by
  unfold fetch
  grind [State.clock, !translate_clock]

/-! ### Machine/Races.lean -/

theorem State.noteBlock_clock (s : State) (pa : Nat) (u : RaceUse) : (s.noteBlock pa u).clock = s.clock := by
  unfold State.noteBlock
  grind [State.clock]

theorem State.noteUse_clock (s : State) (a : Access) : (s.noteUse a).clock = s.clock := by
  unfold State.noteUse
  grind [State.clock, State.noteBlock_clock]

theorem State.noteSpan_clock (s : State) (ag : Agent) (dom pa n : Nat) (wrote : Bool) :
    (s.noteSpan ag dom pa n wrote).clock = s.clock := by
  unfold State.noteSpan
  grind [State.clock, State.noteBlock_clock, foldl_clock]

theorem State.releaseUses_clock (s : State) (ag : Agent) (d : Nat) : (s.releaseUses ag d).clock = s.clock := by
  unfold State.releaseUses
  grind [State.clock]

theorem State.dropCopies_clock (s : State) (lines : List Nat) : (s.dropCopies lines).clock = s.clock := by
  unfold State.dropCopies
  grind [State.clock]

theorem State.fenceRaces_clock (s : State) (team : Option Nat) (gid d : Nat) : (s.fenceRaces team gid d).clock = s.clock := by
  unfold State.fenceRaces
  grind [State.clock, State.dropCopies_clock]

theorem State.pinBy_clock (s : State) (ag : Agent) (dom pa : Nat) : (s.pinBy ag dom pa).clock = s.clock := by
  unfold State.pinBy
  grind [State.clock, State.setHome_clock]

theorem State.refuse_clock (s : State) (ag : Agent) (p : Pin) : (s.refuse ag p).1.clock = s.clock := by
  unfold State.refuse
  grind [State.clock]

theorem State.meetLine_clock (s : State) (ag : Agent) (write whole : Bool) (va pa : Nat) :
    (s.meetLine ag write whole va pa).1.clock = s.clock := by
  unfold State.meetLine
  grind [State.clock, !State.refuse_clock, State.pinBy_clock]

/-! ### Machine/Ops.lean -/

theorem meetLines_clock (ag : Agent) (write : Bool) (va pa n m : Nat) (s : State) :
    (meetLines ag write va pa n m s).1.clock = s.clock := by
  induction m generalizing s with
  | zero => rfl
  | succ m ih => unfold meetLines; grind [!State.meetLine_clock]

theorem reach_clock (s : State) (x va n : Nat) (acc : AccessKind) : (reach s x va n acc).1.clock = s.clock := by
  unfold reach
  grind [State.clock, !translateWalk_clock, !meetLines_clock, State.noteSpan_clock]

theorem readVirt_clock (s : State) (x va n : Nat) : (readVirt s x va n).1.clock = s.clock := by
  unfold readVirt
  grind [State.clock, !reach_clock]

theorem writeVirt_clock (s : State) (x va n v : Nat) : (writeVirt s x va n v).1.clock = s.clock := by
  unfold writeVirt
  grind [State.clock, !reach_clock, State.deviceBytes_clock]

theorem State.ringWrite_clock (s : State) (u : Source) (bits0 : Nat) : (s.ringWrite u bits0).1.clock = s.clock := by
  unfold State.ringWrite
  grind [State.clock, State.deviceStore_clock, State.onContext_clock]

theorem State.enqueueAt_clock (s : State) (n : Nat) (d : Delivery) : (s.enqueueAt n d).clock = s.clock := by
  unfold State.enqueueAt
  grind [State.clock, State.onManager_clock]

theorem State.enqueueRecord_clock (s : State) (d : Delivery) : (s.enqueueRecord d).clock = s.clock := by
  unfold State.enqueueRecord
  grind [State.clock, State.enqueueAt_clock]

theorem State.sendRecord_clock (s : State) (u : Source) (bits : Nat) : (s.sendRecord u bits).1.clock = s.clock := by
  unfold State.sendRecord
  grind [State.clock, !State.ringWrite_clock, State.enqueueRecord_clock]

theorem State.report_clock (s : State) (u : Source) (r : Report) : (s.report u r).1.clock = s.clock := by
  unfold State.report
  grind [State.clock, !State.sendRecord_clock]

theorem State.complete_clock (s : State) (k c op : Nat) : (s.complete k c op).clock = s.clock := by
  unfold State.complete
  grind [State.clock, State.onGroup_clock]

theorem State.lanesDone_clock (s : State) (op : Nat) (m : Word) : (s.lanesDone op m).clock = s.clock := by
  unfold State.lanesDone
  grind [State.clock, State.complete_clock]

theorem State.endTurn_clock (s : State) (k : Nat) : (s.endTurn k).clock = s.clock := by
  unfold State.endTurn
  grind [State.clock, State.onGroup_clock, State.onPart_clock]

theorem State.endOwnTurn_clock (s : State) (k tid : Nat) : (s.endOwnTurn k tid).clock = s.clock := by
  unfold State.endOwnTurn
  grind [State.clock, State.endTurn_clock]

theorem State.tbarCheck_clock (s : State) (t : Nat) : (s.tbarCheck t).clock = s.clock := by
  unfold State.tbarCheck
  grind [State.clock, State.onTeam_clock]

theorem State.tbarArrive_clock (s : State) (k t : Nat) : (s.tbarArrive k t).clock = s.clock := by
  unfold State.tbarArrive
  grind [State.clock, State.tbarCheck_clock, State.onTeam_clock]

theorem State.groupExit_clock (s : State) (k : Nat) : (s.groupExit k).clock = s.clock := by
  unfold State.groupExit
  grind [State.clock, State.onGroup_clock, State.endTurn_clock, State.tbarCheck_clock, State.onTeam_clock]

theorem State.exitCheck_clock (s : State) (k : Nat) : (s.exitCheck k).clock = s.clock := by
  unfold State.exitCheck
  grind [State.clock, State.groupExit_clock]

theorem State.unbusy_clock (s : State) (k op : Nat) : (s.unbusy k op).clock = s.clock := by
  unfold State.unbusy
  grind [State.clock, State.onGroup_clock]

theorem State.dropLog_clock (s : State) (k : Nat) : (s.dropLog k).clock = s.clock := by
  unfold State.dropLog
  grind [State.clock, State.onPart_clock, State.lanesDone_clock, State.unbusy_clock, foldl_clock]

theorem State.withdrawQdeq_clock (s : State) (k : Nat) : (s.withdrawQdeq k).clock = s.clock := by
  unfold State.withdrawQdeq
  grind [State.clock]

theorem State.cancelGroup_clock (s : State) (k : Nat) : (s.cancelGroup k).clock = s.clock := by
  unfold State.cancelGroup
  grind [State.clock, State.dropLog_clock, State.onGroup_clock, State.withdrawQdeq_clock, State.groupExit_clock]

theorem State.dropSaved_clock (s : State) (f : Saved → Bool) : (s.dropSaved f).clock = s.clock := by
  unfold State.dropSaved
  grind [State.clock, State.onGrid_clock, foldl_clock]

theorem State.markEnded_clock (s : State) (ids : List Nat) : (s.markEnded ids).clock = s.clock := by
  unfold State.markEnded
  grind [State.clock, State.onTeam_clock, foldl_clock]

theorem State.endSlot_clock (s : State) (grid slot : Nat) : (s.endSlot grid slot).clock = s.clock := by
  unfold State.endSlot
  grind [State.clock, State.cancelGroup_clock, State.onGrid_clock, State.markEnded_clock, State.dropSaved_clock, foldl_clock]

theorem State.chargeRequest_clock (s : State) (x rec code : Nat) : (s.chargeRequest x rec code).clock = s.clock := by
  unfold State.chargeRequest
  grind [State.clock, !readVirt_clock, !writeVirt_clock]

theorem State.retryCharges_clock (s : State) : s.retryCharges.clock = s.clock := by
  unfold State.retryCharges
  grind [State.clock, State.chargeRequest_clock, foldl_clock]

theorem State.charge_clock (s : State) (k : Nat) (r : Report) : (s.charge k r).clock = s.clock := by
  unfold State.charge
  grind [State.clock, State.chargeRequest_clock, !State.report_clock, State.endSlot_clock]

theorem State.overtake_clock (s : State) (k : Nat) (m : Word) (rs : List Nat) : (s.overtake k m rs).clock = s.clock := by
  unfold State.overtake
  grind [State.clock]

theorem State.startHandler_clock (s : State) (n r : Nat) : (s.startHandler n r).clock = s.clock := by
  unfold State.startHandler
  grind [State.clock, State.onGroup_clock, State.overtake_clock, foldl_clock]

theorem State.chargeRecorded_clock (s : State) (r : Nat) (t : Team) (slot : Nat) :
    (s.chargeRecorded r t slot).clock = s.clock := by
  unfold State.chargeRecorded
  grind [State.clock, State.chargeRequest_clock, !State.report_clock, State.endSlot_clock]

theorem State.endRecorded_clock (s : State) (d : Delivery) : (s.endRecorded d).clock = s.clock := by
  unfold State.endRecorded
  extract_lets charge
  have hcharge (t : Team) (s : State) : (charge t s).clock = s.clock := by
    cases h : t.slot <;> simp [charge, h, State.chargeRecorded_clock]
  clear_value charge
  split
  · rename_i k _
    rw [State.cancelGroup_clock]
    cases h : s.teamOf k <;> simp [hcharge]
  · split
    · rfl
    · exact hcharge ..

theorem State.handlerFault_clock (s : State) (n code pc : Nat) : (s.handlerFault n code pc).clock = s.clock := by
  unfold State.handlerFault
  grind [State.clock, !State.ringWrite_clock, State.onManager_clock, State.endRecorded_clock, State.startHandler_clock,
    getD_clock]

theorem State.clearSecond_clock (s : State) (p : Nat) : (s.clearSecond p).clock = s.clock := by
  unfold State.clearSecond
  grind [State.clock, State.onPart_clock]

theorem State.suspend_clock (s : State) (k : Nat) (r : Report) : (s.suspend k r).clock = s.clock := by
  unfold State.suspend
  grind [State.clock, !State.report_clock, State.onGroup_clock, State.clearSecond_clock, State.endTurn_clock]

theorem State.takeFault_clock (s : State) (k : Nat) (r : Report) : (s.takeFault k r).clock = s.clock := by
  unfold State.takeFault
  grind [State.clock, State.handlerFault_clock, State.suspend_clock, State.charge_clock, !State.report_clock]

theorem State.fetchFails_clock (s : State) (k off : Nat) (lanes : Word) (x : Xlat) :
    (s.fetchFails k off lanes x).clock = s.clock := by
  unfold State.fetchFails
  grind [State.clock, !State.report_clock, State.takeFault_clock, State.onGroup_clock]

theorem State.fetchFault_clock (s : State) (k off : Nat) (x : Xlat) : (s.fetchFault k off x).clock = s.clock := by
  unfold State.fetchFault
  grind [State.clock, State.fetchFails_clock, getD_clock]

theorem fetchCode_clock (s : State) (k off : Nat) : (fetchCode s k off).1.clock = s.clock := by
  unfold fetchCode
  grind [State.clock, !fetch_clock]

theorem State.arriveSeq_clock (s : State) (k : Nat) (m : Word) (H : Nat) : (s.arriveSeq k m H).clock = s.clock := by
  unfold State.arriveSeq
  grind [State.clock, State.onGroup_clock, !fetchCode_clock, State.fetchFault_clock, State.takeFault_clock, getD_clock]

theorem checkTarget_clock (s : State) (k H : Nat) : (checkTarget s k H).1.clock = s.clock := by
  unfold checkTarget
  grind [State.clock, !fetchCode_clock]

theorem checkTargets_clock (s : State) (k : Nat) (l : List (Nat × Nat)) : (checkTargets s k l).1.clock = s.clock := by
  induction l generalizing s with
  | nil => rfl
  | cons x l ih => unfold checkTargets; grind [!checkTarget_clock]

theorem State.checkUnseen_clock (s : State) (k : Nat) (u : Unseen) : (s.checkUnseen k u).clock = s.clock := by
  unfold State.checkUnseen
  grind [State.clock, State.arriveSeq_clock]

theorem State.fetchHere_clock (s : State) (k off : Nat) : (s.fetchHere k off).clock = s.clock := by
  unfold State.fetchHere
  grind [State.clock, !fetchCode_clock, State.fetchFault_clock]

theorem State.advance_clock (s : State) (u : Issue) (m : Word) : (s.advance u m).clock = s.clock := by
  unfold State.advance
  grind [State.clock, State.arriveSeq_clock, State.onGroup_clock]

theorem State.afterIssue_clock (s : State) (u : Issue) : (s.afterIssue u).clock = s.clock := by
  unfold State.afterIssue
  grind [State.clock, State.exitCheck_clock, State.onPart_clock, State.endTurn_clock]

theorem State.overtaken_clock (s : State) (i : Instr) (u : Issue) (m : Word) : (s.overtaken i u m).clock = s.clock := by
  unfold State.overtaken
  grind [State.clock, State.overtake_clock]

theorem State.finish_clock (s : State) (u : Issue) : (s.finish u).clock = s.clock := by
  unfold State.finish
  grind [State.clock, State.afterIssue_clock, State.advance_clock]

theorem State.holdWord_clock (s : State) : s.holdWord.clock = s.clock := by
  unfold State.holdWord
  grind [State.clock, State.clearSecond_clock]

theorem State.lateArrival_clock (s : State) (k : Nat) : (s.lateArrival k).clock = s.clock := by
  unfold State.lateArrival
  grind [State.clock, State.tbarArrive_clock, State.onGroup_clock]

theorem State.resume_clock (s : State) (k : Nat) : (s.resume k).clock = s.clock := by
  unfold State.resume
  grind [State.clock, State.onGroup_clock, State.advance_clock, State.exitCheck_clock, State.lateArrival_clock]

/-! ### Machine/Launch.lean -/

theorem State.writeCompletion_clock (s : State) (x va v : Nat) : (s.writeCompletion x va v).clock = s.clock := by
  unfold State.writeCompletion
  grind [State.clock, !writeVirt_clock, !State.report_clock]

theorem State.controlFormer_clock (s : State) (r ctx tier : Nat) : (s.controlFormer r ctx tier).clock = s.clock := by
  unfold State.controlFormer
  grind [State.clock, !readVirt_clock]

theorem State.readyHead_clock (s : State) (q : Nat) : (s.readyHead q).clock = s.clock := by
  unfold State.readyHead
  grind [State.clock, State.onGrid_clock]

theorem State.acceptGrid_clock (s : State) (r : Nat) (v : Acceptance) : (s.acceptGrid r v).1.clock = s.clock := by
  unfold State.acceptGrid
  grind [State.clock, State.writeCompletion_clock, State.controlFormer_clock, State.readyHead_clock]

theorem launchChild_clock (s : State) (k va record : Nat) : (launchChild s k va record).1.clock = s.clock := by
  unfold launchChild
  grind [State.clock, !State.acceptGrid_clock, State.onContext_clock, State.onTeam_clock, getD_clock]

/-! ### Machine/MemOps.lean -/

theorem State.freeRegions_clock (s : State) (c : Nat) : (s.freeRegions c).clock = s.clock := by
  unfold State.freeRegions
  grind [State.clock, State.onCore_clock]

theorem State.spadPut_clock (s : State) (tid : Nat) (t : Team) (ctx e : Nat) (v : Byte) :
    (s.spadPut tid t ctx e v).clock = s.clock := by
  unfold State.spadPut
  grind [State.clock, State.onTeam_clock, State.onCore_clock]

theorem State.spadPutLE_clock (s : State) (tid : Nat) (t : Team) (ctx e n v : Nat) :
    (s.spadPutLE tid t ctx e n v).clock = s.clock := by
  induction n generalizing s e v with
  | zero => rfl
  | succ n ih => rw [State.spadPutLE, ih, State.spadPut_clock]

theorem State.raceTokens_clock (s s1 : State) (c : Nat) (w : Option (Nat × Nat)) : (s.raceTokens s1 c w).clock = s1.clock := by
  unfold State.raceTokens; dsimp only; split <;> rfl

theorem State.raceTiles_clock (s s1 : State) (c : Nat) (w : Option (Nat × Nat)) : (s.raceTiles s1 c w).clock = s1.clock := by
  unfold State.raceTiles; dsimp only; split
  · rw [State.onQuad_clock, State.raceTokens_clock]
  · exact State.raceTokens_clock ..

theorem State.writeResult_clock (s : State) (k lane reg : Nat) (dead : List Nat) (n v : Nat) :
    (s.writeResult k lane reg dead n v).clock = s.clock := by
  induction n generalizing s reg v with
  | zero => rfl
  | succ n ih => rw [State.writeResult, ih]; split <;> rfl

theorem State.post_clock (s : State) (k op opc lane va pa t : Nat) (data : Nat × Nat) (w : Word) (level : Nat) (st : optParam
    AccStatus AccStatus.waiting) : (s.post k op opc lane va pa t data w level st).clock = s.clock := by
  unfold State.post
  grind [State.clock]

theorem State.logEnter_clock (s : State) (k op : Nat) (w pc : Word) (lanes : Tab (List Word)) :
    (s.logEnter k op w pc lanes).1.clock = s.clock := by
  unfold State.logEnter
  grind [State.clock, State.onPart_clock, getD_clock]

theorem State.logMark_clock (s : State) (k i code seq : Nat) : (s.logMark k i code seq).clock = s.clock := by
  unfold State.logMark
  grind [State.clock, State.onPart_clock]

theorem State.lanePageFault_clock (s : State) (k i code level kind : Nat) (pc : Word) (held faulting va : Nat) :
    (s.lanePageFault k i code level kind pc held faulting va).clock = s.clock := by
  unfold State.lanePageFault
  grind [State.clock, State.dropLog_clock, State.takeFault_clock, !State.report_clock, State.logMark_clock]

theorem State.homeReport_clock (s : State) (k i code : Nat) (pc : Word) (held va info0 info1 : Nat) :
    (s.homeReport k i code pc held va info0 info1).clock = s.clock := by
  unfold State.homeReport
  grind [State.clock, State.dropLog_clock, State.takeFault_clock, State.logMark_clock, !State.report_clock]

theorem State.xlatReport_clock (s : State) (k i : Nat) (x : Xlat) (kind : Nat) (pc : Word) (held faulting va : Nat) :
    (s.xlatReport k i x kind pc held faulting va).clock = s.clock := by
  unfold State.xlatReport
  grind [State.clock, State.lanePageFault_clock, State.homeReport_clock]

theorem postLanes_clock (k op opc t : Nat) (w : Word) (l : List (Nat × Nat × Nat × Nat)) (s : State) :
    (postLanes k op opc t w l s).1.clock = s.clock := by
  induction l generalizing s with
  | nil => rfl
  | cons x l ih => unfold postLanes; grind [!translate_clock, State.post_clock]

theorem State.failStore_clock (s : State) (k bit : Nat) : (s.failStore k bit).clock = s.clock := by
  unfold State.failStore
  grind [State.clock, State.onGroup_clock]

theorem State.logLaneDone_clock (s : State) (k i lane : Nat) : (s.logLaneDone k i lane).clock = s.clock := by
  unfold State.logLaneDone
  grind [State.clock, State.onPart_clock]

theorem State.spadAccess_clock (s : State) (k op opc lane e t sw data : Nat) (dead : List Nat) :
    (s.spadAccess k op opc lane e t sw data dead).clock = s.clock := by
  unfold State.spadAccess
  grind [State.clock, State.raceTiles_clock, State.spadPutLE_clock, State.writeResult_clock, getD_clock]

theorem State.settle_clock (s : State) (k op : Nat) : (s.settle k op).clock = s.clock := by
  unfold State.settle
  grind [State.clock, State.unbusy_clock]

theorem State.flagFault_clock (s : State) (k i lane : Nat) (ft : Bool) : (s.flagFault k i lane ft).clock = s.clock := by
  unfold State.flagFault
  grind [State.clock, State.onPart_clock, getD_clock]

theorem heldRead_clock (s : State) (k va n : Nat) (acc : AccessKind) : (heldRead s k va n acc).1.clock = s.clock := by
  unfold heldRead
  grind [State.clock, !translate_clock]

theorem replayLane_clock (s : State) (k i : Nat) (e : LogEntry) (lane : Nat) (ws : List Word) :
    (replayLane s k i e lane ws).state.clock = s.clock := by
  unfold replayLane
  extract_lets opc word va flags t data fin held kind fails
  have hfin (s : State) : (fin s).clock = s.clock := by
    simp only [fin, State.settle_clock, State.lanesDone_clock, State.logLaneDone_clock]
  have hfails (s : State) (x : Xlat) : (fails s x).state.clock = s.clock := by
    grind [Replay.state, State.flagFault_clock, State.xlatReport_clock]
  clear_value fin fails
  split
  · grind [Replay.state, State.failStore_clock]
  · split
    · rw [Replay.state, hfin, State.writeResult_clock]
    · split
      · rfl
      · split
        · grind [Replay.state, State.spadAccess_clock]
        · split
          · grind [Replay.state, State.writeResult_clock, !heldRead_clock]
          · split
            · grind [Replay.state, State.writeResult_clock, !heldRead_clock, !launchChild_clock]
            · grind [State.clock, Replay.state, State.post_clock, !translate_clock]

theorem replayLanes_clock (k i : Nat) (l : List (Nat × List Word)) (s : State) : (replayLanes k i l s).1.clock = s.clock := by
  induction l generalizing s with
  | nil => rfl
  | cons x l ih =>
    unfold replayLanes
    split
    · rfl
    · rename_i e he
      have h := replayLane_clock s k i e x.1 x.2
      grind [Replay.state, State.onPart_clock]

theorem replayEntries_clock (k : Nat) (l : List (Nat × LogEntry)) (s : State) : (replayEntries k l s).clock = s.clock := by
  induction l generalizing s with
  | nil => rfl
  | cons x l ih => unfold replayEntries; grind [!replayLanes_clock]

theorem State.goOn_clock (s : State) (k : Nat) : (s.goOn k).clock = s.clock := by
  unfold State.goOn
  grind [State.clock, replayEntries_clock]

theorem State.replayLog_clock (s : State) (k : Nat) : (s.replayLog k).clock = s.clock := by
  unfold State.replayLog
  grind [State.clock, State.goOn_clock, State.onPart_clock]

theorem State.laneServed_clock (s : State) (k op lane : Nat) : (s.laneServed k op lane).clock = s.clock := by
  unfold State.laneServed
  grind [State.clock, State.logLaneDone_clock, State.lanesDone_clock, State.goOn_clock]

theorem State.holdAccess_clock {s t : State} {id : Nat} {x : Nat × List Nat} (h : s.holdAccess id = some (t, x)) :
    t.clock = s.clock := by
  unfold State.holdAccess at h
  grind [State.clock, State.onPart_clock, State.logEnter_clock]

theorem State.accessFault_clock (s : State) (id code info0 info1 : Nat) :
    (s.accessFault id code info0 info1).clock = s.clock := by
  unfold State.accessFault
  grind [State.clock, → State.holdAccess_clock, State.flagFault_clock, State.homeReport_clock, getD_clock]

theorem State.thawAccess_clock (s : State) (id : Nat) : (s.thawAccess id).clock = s.clock := by
  unfold State.thawAccess
  grind [State.clock, !translate_clock, → State.holdAccess_clock, State.xlatReport_clock, State.flagFault_clock, getD_clock]

theorem State.thaw_clock (s : State) : s.thaw.clock = s.clock := by
  unfold State.thaw
  grind [State.clock, State.thawAccess_clock, State.goOn_clock, foldl_clock]

/-! ### Machine/Handles.lean -/

theorem State.stallAt_clock (s : State) (ag : Agent) (va : Nat) : (s.stallAt ag va).1.clock = s.clock := by
  unfold State.stallAt
  grind [State.clock]

theorem mapWith_clock (tr : State → Nat → State × Xlat) (htr : ∀ s a, (tr s a).1.clock = s.clock) (ag : Agent) (write : Bool)
    (whole : Nat → Bool) (l : List Nat) (s : State) (m : Tab Nat) : (mapWith tr ag write whole l s m).1.clock = s.clock := by
  induction l generalizing s m with
  | nil => rfl
  | cons x l ih => unfold mapWith; grind [!State.meetLine_clock, !State.stallAt_clock]

theorem State.notePages_clock (s : State) (ag : Agent) (m : Tab Nat) (write : Bool) (n : Nat) (as : List Nat) :
    (s.notePages ag m write n as).clock = s.clock := by
  unfold State.notePages
  grind [State.clock, State.noteSpan_clock, foldl_clock]

theorem mapPages_clock (q : Nat) (ag : Agent) (acc : AccessKind) (as : List Nat) (s : State) (m : Tab Nat) :
    (mapPages q ag acc as s m).1.clock = s.clock := by
  unfold mapPages
  grind [State.clock, !mapWith_clock, !translateEngine_clock]

theorem mapSpan_clock (s : State) (ag : Agent) (va n : Nat) (acc : AccessKind) : (mapSpan s ag va n acc).1.clock = s.clock := by
  unfold mapSpan
  grind [State.clock, !mapWith_clock, !translateWalk_clock, State.notePages_clock, foldl_clock]

theorem tilePart_clock (s : State) (ag : Agent) (sh e1 t : Nat) (b : Blk) (u v i n : Nat) (m : Tab Nat) :
    (tilePart s ag sh e1 t b u v i n m).1.clock = s.clock := by
  unfold tilePart
  grind [State.clock, State.notePages_clock]

theorem recTileBytes_clock (s : State) (q : Nat) (ag : Agent) (sh e1 t : Nat) (b : Blk) (u v i n : Nat) :
    (recTileBytes s q ag sh e1 t b u v i n).1.clock = s.clock := by
  unfold recTileBytes
  grind [State.clock, !mapPages_clock, !tilePart_clock]

theorem State.advanceHandle_clock (s : State) (tid h : Nat) : (s.advanceHandle tid h).clock = s.clock := by
  unfold State.advanceHandle
  grind [State.clock, State.onTeam_clock]

/-! ### Machine/Matrix.lean -/

theorem State.postEntries_clock (s : State) (q : Nat) (es : List Entry) : (s.postEntries q es).clock = s.clock := by
  unfold State.postEntries
  grind [State.clock, State.onQuad_clock, foldl_clock]

/-! ### Machine/Engines.lean -/

theorem State.setResult_clock (s : State) (c : Cmd) (v : Word) : (s.setResult c v).clock = s.clock := by
  unfold State.setResult
  grind [State.clock, State.onOwn_clock]

theorem State.finishCmd_clock (s : State) (id : Nat) (v : Option Word) : (s.finishCmd id v).clock = s.clock := by
  unfold State.finishCmd
  grind [State.clock, State.setResult_clock, State.complete_clock]

theorem State.invalidCmd_clock (s : State) (id reason : Nat) (v : Option Word) :
    (s.invalidCmd id reason v).clock = s.clock := by
  unfold State.invalidCmd
  grind [State.clock, State.finishCmd_clock, !State.report_clock, State.acquire_clock]

theorem State.suspendOn_clock (s : State) (k tid code record : Nat) (pc : Word) :
    (s.suspendOn k tid code record pc).clock = s.clock := by
  unfold State.suspendOn
  grind [State.clock, State.onOwn_clock, State.endOwnTurn_clock]

theorem State.chargeFor_clock (s : State) (k tid ctx : Nat) (pc : Word) (code addr info0 info1 : Nat) (req : Option Nat) :
    (s.chargeFor k tid ctx pc code addr info0 info1 req).clock = s.clock := by
  unfold State.chargeFor
  grind [State.clock, !State.sendRecord_clock, State.endSlot_clock, State.chargeRequest_clock, State.suspendOn_clock]

theorem State.chargeCmd_clock (s : State) (c : Cmd) (code addr info0 info1 : Nat) (req : Option Nat) :
    (s.chargeCmd c code addr info0 info1 req).clock = s.clock := by
  unfold State.chargeCmd
  grind [State.clock, State.chargeFor_clock]

theorem State.engineSuspend_clock (s : State) (u : Source) (k tid : Nat) (pc : Word) (r : Report) :
    (s.engineSuspend u k tid pc r).clock = s.clock := by
  unfold State.engineSuspend
  grind [State.clock, !State.report_clock, State.suspendOn_clock]

theorem State.engineFault_clock (s : State) (k tid ctx : Nat) (pc : Word) (va info0 info1 : Nat) (x : Xlat) :
    (s.engineFault k tid ctx pc va info0 info1 x).clock = s.clock := by
  unfold State.engineFault
  grind [State.clock, State.chargeFor_clock, State.engineSuspend_clock, !State.report_clock]

theorem State.ioFault_clock (s : State) (x va : Nat) (f : Xlat) (write : Bool) :
    (s.ioFault x va f write).1.clock = s.clock := by
  unfold State.ioFault
  grind [State.clock, !State.report_clock]

theorem State.skipSegment_clock (s : State) (id seg engine va : Nat) (write : Bool) (x : Xlat) {t : State} (h : s.skipSegment id
    seg engine va write x = some t) : t.clock = s.clock := by
  unfold State.skipSegment at h
  grind [State.clock, State.engineFault_clock]

theorem State.setHandle_clock (s : State) (tid h : Nat) (v : Handle) : (s.setHandle tid h v).clock = s.clock := by
  unfold State.setHandle
  grind [State.clock, State.onTeam_clock]

theorem State.applyHbind_clock (s : State) (id : Nat) (c : Cmd) : (s.applyHbind id c).clock = s.clock := by
  unfold State.applyHbind
  split
  · exact State.finishCmd_clock ..
  · extract_lets a h seek s1 s2
    have hseek (s : State) (n : Nat) : (seek s n).clock = s.clock := by
      simp only [seek]; split <;> simp [State.setHandle_clock]
    have hs2 : s2.clock = s.clock := by grind
    clear_value s2
    split
    · rw [State.finishCmd_clock, State.setHandle_clock]
    · split
      · split
        · rw [State.finishCmd_clock, State.setHandle_clock]
        · have hm := mapPages_clock (quadOfCore c.core) c.agent .load [a] s []
          grind [State.clock, State.finishCmd_clock, State.setHandle_clock, State.notePages_clock, → State.skipSegment_clock,
            getD_clock]
      · grind [State.finishCmd_clock, State.setHandle_clock]

theorem State.endWait_clock (s : State) (id : Nat) (c : Cmd) : (s.endWait id c).clock = s.clock := by
  unfold State.endWait
  grind [State.clock, State.acquire_clock, State.onOwn_clock, State.finishCmd_clock]

theorem State.retryWait_clock (s : State) (id : Nat) (c : Cmd) : (s.retryWait id c).clock = s.clock := by
  unfold State.retryWait
  grind [State.clock, State.endWait_clock]

theorem State.setBarrier_clock (s : State) (tid off b : Nat) : (s.setBarrier tid off b).clock = s.clock := by
  unfold State.setBarrier
  grind [State.clock, State.raceTiles_clock, State.spadPutLE_clock, State.endWait_clock, foldl_clock]

theorem State.changeBarrier_clock (s : State) (c : Cmd) (sector : Option Nat) (tid off b : Nat) :
    (s.changeBarrier c sector tid off b).clock = s.clock := by
  unfold State.changeBarrier
  grind [State.clock, State.setBarrier_clock, State.onTeam_clock]

theorem State.barFault_clock (s : State) (c : Cmd) (off which : Nat) : (s.barFault c off which).clock = s.clock := by
  unfold State.barFault
  grind [State.clock, !State.report_clock]

theorem State.applyXbar_clock (s : State) (id : Nat) (c : Cmd) : (s.applyXbar id c).clock = s.clock := by
  unfold State.applyXbar
  grind [State.clock, State.invalidCmd_clock, State.onTeam_clock, State.finishCmd_clock, State.changeBarrier_clock,
    State.acquire_clock, State.endOwnTurn_clock, State.onOwn_clock, State.barFault_clock, getD_clock]

theorem State.markSector_clock (s : State) (id n : Nat) : (s.markSector id n).clock = s.clock := by
  unfold State.markSector
  grind [State.clock]

theorem State.countSector_clock (s : State) (c : Cmd) (sector tid off : Nat) :
    (s.countSector c sector tid off).clock = s.clock := by
  unfold State.countSector
  grind [State.clock, State.onTeam_clock, State.changeBarrier_clock, getD_clock]

theorem State.copySector_clock (s : State) (id : Nat) (c : Cmd) (m : Tab Nat) (tile n : Nat) :
    (s.copySector id c m tile n).clock = s.clock := by
  unfold State.copySector
  grind [State.clock, !tilePart_clock, State.raceTiles_clock, State.spadPut_clock, State.countSector_clock,
    State.markSector_clock, getD_clock, foldl_clock]

theorem State.tileMap_clock (s : State) (c : Cmd) (tile : Nat) : (s.tileMap c tile).1.clock = s.clock := by
  unfold State.tileMap
  grind [State.clock, !mapPages_clock]

theorem State.engineStore_clock (s : State) (core pa n v : Nat) : (s.engineStore core pa n v).clock = s.clock := by
  unfold State.engineStore
  grind [State.clock, State.storeAway_clock, !homeStamp_clock, State.onCore_clock, State.repairBytes_clock, State.poke_clock]

theorem storeRecord_clock (s : State) (c : Cmd) (tm : Team) (sh e1 : Nat) (b : Blk) (j : Job) (m : Tab Nat) (tile n : Nat) :
    (storeRecord s c tm sh e1 b j m tile n).clock = s.clock := by
  unfold storeRecord
  grind [State.clock, State.engineStore_clock, State.byLines_clock, foldl_clock]

theorem storeKv_clock (s : State) (c : Cmd) (tm : Team) (bd : Binding) (mode cursor : Nat) (j : Job) (tile n : Nat) :
    (storeKv s c tm bd mode cursor j tile n).clock = s.clock := by
  unfold storeKv
  grind [State.clock, State.engineStore_clock, foldl_clock]

theorem State.storeSector_clock (s : State) (id : Nat) (c : Cmd) (m : Tab Nat) (tile n : Nat) :
    (s.storeSector id c m tile n).clock = s.clock := by
  unfold State.storeSector
  grind [State.clock, State.countSector_clock, State.markSector_clock, storeRecord_clock, State.notePages_clock, storeKv_clock,
    getD_clock]

theorem State.keepMap_clock (s : State) (id tile : Nat) (m : Tab Nat) : (s.keepMap id tile m).clock = s.clock := by
  unfold State.keepMap
  grind [State.clock]

theorem State.dropMap_clock (s : State) (id tile : Nat) : (s.dropMap id tile).clock = s.clock := by
  unfold State.dropMap
  grind [State.clock]

theorem State.moveSector_clock (s : State) (id tile n : Nat) : (s.moveSector id tile n).state.clock = s.clock := by
  unfold State.moveSector
  split
  · rfl
  · extract_lets go
    have hgo (s : State) (m : Tab Nat) : (go s m).state.clock = s.clock := by
      grind [Moved.state, State.copySector_clock, State.storeSector_clock, State.dropMap_clock]
    clear_value go
    grind [Moved.state, !State.tileMap_clock, State.keepMap_clock]

theorem State.copyDone_clock (s : State) (id : Nat) : (s.copyDone id).clock = s.clock := by
  unfold State.copyDone
  grind [State.clock, State.acquire_clock, State.finishCmd_clock]

theorem State.startCopy_clock (s : State) (id : Nat) (c : Cmd) : (s.startCopy id c).clock = s.clock := by
  unfold State.startCopy
  grind [State.clock, State.invalidCmd_clock, State.copyDone_clock, getD_clock]

theorem sectorEvent_clock {s : State} {op id tile n : Nat} {t : State} (h : sectorEvent s op id tile n = some t) :
    t.clock = s.clock := by
  have hm := State.moveSector_clock s id tile n
  unfold sectorEvent at h
  grind [Moved.state, State.copyDone_clock, → State.skipSegment_clock, getD_clock]

theorem State.replaySegment_clock (s : State) (id seg : Nat) : (s.replaySegment id seg).clock = s.clock := by
  unfold State.replaySegment
  extract_lets go unlisted
  have hgo : go.state.clock = s.clock := by
    refine foldl_keeps (fun r : Moved => r.state.clock) _ (fun r n => ?_) _ (.ok s)
    grind [Moved.state, State.moveSector_clock]
  clear_value go
  grind [State.clock, Moved.state, State.copyDone_clock, → State.skipSegment_clock, getD_clock]

/-! ### Machine/MemInstr.lean -/

theorem State.widen_clock (s : State) (ag : Agent) (d : Nat) : (s.widen ag d).clock = s.clock := by
  unfold State.widen
  grind [State.clock]

theorem State.retime_clock (s : State) (k op : Nat) (f : Fence) : (s.retime k op f).clock = s.clock := by
  unfold State.retime
  grind [State.clock]

theorem State.endFence_clock (s : State) (k : Nat) (f : Fence) : (s.endFence k f).clock = s.clock := by
  unfold State.endFence
  grind [State.clock, State.setGroup_clock, State.fenceRaces_clock, State.releaseUses_clock, State.widen_clock]

theorem State.fenceDone_clock (s : State) (k op : Nat) : (s.fenceDone k op).clock = s.clock := by
  unfold State.fenceDone
  grind [State.clock, State.retime_clock, State.endFence_clock, State.onGroup_clock]

/-! ### Machine/Turns.lean -/

theorem State.arrival_clock (s : State) (k : Nat) (u : Unseen) : (s.arrival k u).clock = s.clock := by
  unfold State.arrival
  grind [State.clock, State.exitCheck_clock, State.checkUnseen_clock]

theorem endTurnIf_clock (s : State) (c p : Nat) (f : Turn → Bool) {t : State} (h : endTurnIf s c p f = some t) :
    t.clock = s.clock := by
  unfold endTurnIf at h
  grind [State.clock, State.endTurn_clock]

theorem State.ageGroups_clock (s old : State) : (s.ageGroups old).clock = s.clock := by
  unfold State.ageGroups
  grind [State.clock]

/-! ### Machine/Board.lean -/

theorem State.accRead_clock (s : State) (e : Entry) : (s.accRead e).clock = s.clock := by
  unfold State.accRead
  grind [State.clock, State.onOwn_clock, State.onTeam_clock, getD_clock, foldl_clock]

theorem State.runEntry_clock (s : State) (e : Entry) : (s.runEntry e).clock = s.clock := by
  unfold State.runEntry
  grind [State.clock, State.accRead_clock, State.onTeam_clock]

theorem fetchTile_clock (s : State) (ag : Agent) (e : Entry) (h : Handle) : (fetchTile s ag e h).1.clock = s.clock := by
  unfold fetchTile
  grind [State.clock, !recTileBytes_clock]

theorem fetchTiles_clock (ag : Agent) (e : Entry) (l : List (Option (List Byte) × Handle)) (s : State) :
    (fetchTiles ag e l s).1.clock = s.clock := by
  induction l generalizing s with
  | nil => rfl
  | cons x l ih =>
    obtain ⟨b, h⟩ := x
    cases b with
    | some b => have := ih s; rw [fetchTiles]; split <;> grind
    | none =>
      have := fetchTile_clock s ag e h
      rw [fetchTiles]
      split
      · grind
      · rename_i s1 b hb
        have := ih s1
        split <;> grind

theorem State.holdEntry_clock (s : State) (qn id : Nat) (held : Bool) : (s.holdEntry qn id held).clock = s.clock := by
  unfold State.holdEntry
  grind [State.clock, State.onQuad_clock]

theorem State.fetchEntry_clock (s : State) (qn id : Nat) {t : State} (h : s.fetchEntry qn id = some t) : t.clock = s.clock := by
  unfold State.fetchEntry at h
  grind [State.clock, !fetchTiles_clock, State.onQuad_clock, State.holdEntry_clock, State.engineFault_clock]

theorem State.replayFetches_clock (s : State) (k : Nat) : (s.replayFetches k).clock = s.clock := by
  unfold State.replayFetches
  grind [State.clock, → State.fetchEntry_clock, getD_clock, foldl_clock]

/-! ### Machine/Queues.lean -/

theorem State.setQueue_clock (s : State) (q : Nat) (d : ItemQueue) : (s.setQueue q d).clock = s.clock := by
  unfold State.setQueue
  grind [State.clock]

theorem State.freshQueue_clock (s : State) (q : Nat) : (s.freshQueue q).clock = s.clock := by
  unfold State.freshQueue
  grind [State.clock, !readVirt_clock, State.setQueue_clock]

theorem State.unblockQdeq_clock (s : State) (k id : Nat) : (s.unblockQdeq k id).clock = s.clock := by
  unfold State.unblockQdeq
  grind [State.clock, State.onGroup_clock]

theorem State.finishQueue_clock (s : State) (id : Nat) (v : Word) : (s.finishQueue id v).clock = s.clock := by
  unfold State.finishQueue
  grind [State.clock, State.unblockQdeq_clock, State.finishCmd_clock]

theorem State.takeItem_clock (s : State) (q id : Nat) (c : Cmd) : (s.takeItem q id c).1.clock = s.clock := by
  unfold State.takeItem
  grind [State.clock, !mapSpan_clock, State.setQueue_clock, State.raceTiles_clock, State.spadPut_clock, State.acquire_clock,
    State.finishQueue_clock, → State.skipSegment_clock, getD_clock, foldl_clock]

theorem State.addItem_clock (s : State) (q id : Nat) (c : Cmd) : (s.addItem q id c).1.clock = s.clock := by
  unfold State.addItem
  grind [State.clock, !mapSpan_clock, State.setQueue_clock, State.finishQueue_clock, State.engineStore_clock, →
    State.skipSegment_clock, getD_clock]

theorem State.serveQueue_clock (s : State) (q : Nat) : (s.serveQueue q).1.clock = s.clock := by
  unfold State.serveQueue
  extract_lets d head enq
  have henq : enq.1.clock = s.clock := by
    simp only [enq]; split
    · rfl
    · split
      · exact State.addItem_clock ..
      · split
        · rw [State.finishQueue_clock]; rfl
        · rfl
  clear_value enq
  split
  · exact henq
  · split
    · exact State.takeItem_clock ..
    · split
      · rw [State.finishQueue_clock]; rfl
      · exact henq

theorem State.pumpQueue_clock (s : State) (q n : Nat) : (s.pumpQueue q n).clock = s.clock := by
  induction n generalizing s with
  | zero => rfl
  | succ n ih => unfold State.pumpQueue; grind [!State.serveQueue_clock]

theorem State.pump_clock (s : State) (q : Nat) : (s.pump q).clock = s.clock := by
  unfold State.pump
  grind [State.clock, State.pumpQueue_clock]

theorem State.applyQueueCmd_clock (s : State) (id : Nat) (c : Cmd) : (s.applyQueueCmd id c).clock = s.clock := by
  unfold State.applyQueueCmd
  extract_lets q s' d s1
  have hs : s'.clock = s.clock := State.freshQueue_clock ..
  have hs1 : s1.clock = s.clock := hs
  clear_value s' s1
  split
  · rw [State.unblockQdeq_clock, State.invalidCmd_clock]
  · simp only [apply_ite State.clock, State.finishQueue_clock, State.pump_clock, State.setQueue_clock, hs, hs1, ite_self]

theorem State.qsync_clock (s : State) (q : Nat) : (s.qsync q).clock = s.clock := by
  unfold State.qsync
  grind [State.clock, State.setQueue_clock, State.finishQueue_clock, foldl_clock]

/-! ### Machine/Coll.lean -/

theorem State.putColl_clock (s : State) (n : Nat) (i : Coll) : (s.putColl n i).clock = s.clock := by
  unfold State.putColl
  grind [State.clock]

theorem State.keepColl_clock (s : State) (n : Nat) (i : Coll) : (s.keepColl n i).clock = s.clock := by
  unfold State.keepColl
  grind [State.clock, State.putColl_clock]

theorem State.collStatus_clock (s : State) (id status : Nat) : (s.collStatus id status).clock = s.clock := by
  unfold State.collStatus
  grind [State.clock, State.acquire_clock, State.finishCmd_clock]

theorem State.restoreDest_clock (s : State) (id : Nat) : (s.restoreDest id).clock = s.clock := by
  unfold State.restoreDest
  grind [State.clock, State.engineStore_clock, foldl_clock]

theorem State.failColl_clock (s : State) (n : Nat) (i : Coll) (status : Nat) : (s.failColl n i status).clock = s.clock := by
  unfold State.failColl
  grind [State.clock, State.collStatus_clock, State.restoreDest_clock, State.keepColl_clock, foldl_clock]

theorem State.sweepColls_clock (s : State) : s.sweepColls.clock = s.clock := by
  unfold State.sweepColls
  grind [State.clock]

theorem gatherRuns_clock (id : Nat) (ag : Agent) (src : Nat) (l : List (Nat × Nat × Nat)) (s : State) :
    (gatherRuns id ag src l s).1.clock = s.clock := by
  induction l generalizing s with
  | nil => rfl
  | cons x l ih => unfold gatherRuns; grind [!mapSpan_clock, → State.skipSegment_clock, getD_clock]

theorem scatter_clock (id core : Nat) (ag : Agent) (dst : Nat) (item : List Byte) (l : List Nat) (s : State) :
    (scatter id core ag dst item l s).1.clock = s.clock := by
  induction l generalizing s with
  | nil => rfl
  | cons x l ih =>
    unfold scatter
    grind [State.clock, !mapSpan_clock, → State.skipSegment_clock, getD_clock, State.byLines_clock, State.engineStore_clock]

theorem State.deliver_clock (s : State) (id : Nat) : (s.deliver id).clock = s.clock := by
  unfold State.deliver
  grind [State.clock, !scatter_clock, State.sweepColls_clock, State.collStatus_clock, getD_clock]

theorem State.serveColl_clock (s : State) (n : Nat) : (s.serveColl n).clock = s.clock := by
  unfold State.serveColl
  grind [State.clock, State.putColl_clock, State.sweepColls_clock, State.deliver_clock, foldl_clock]

theorem State.gather_clock (s : State) (n id : Nat) : (s.gather n id).clock = s.clock := by
  unfold State.gather
  grind [State.clock, !gatherRuns_clock, State.serveColl_clock, State.putColl_clock, getD_clock]

theorem State.joinColl_clock (s : State) (a : Rank) (comm seq root timeout : Nat) :
    (s.joinColl a comm seq root timeout).clock = s.clock := by
  unfold State.joinColl
  extract_lets go end_
  have hgo (s : State) (n : Nat) : (go s n).clock = s.clock := by grind [State.gather_clock, State.serveColl_clock]
  have hend (s : State) (st : Nat) : (end_ s st).clock = s.clock := by
    cases h : a.cmd <;> simp [end_, h, State.collStatus_clock]
  clear_value go end_
  grind [State.clock, State.putColl_clock, State.keepColl_clock, State.failColl_clock]

theorem State.applyColl_clock (s : State) (id : Nat) (c : Cmd) : (s.applyColl id c).clock = s.clock := by
  unfold State.applyColl
  grind [State.clock, State.collStatus_clock, !mapSpan_clock, State.joinColl_clock, → State.skipSegment_clock, getD_clock]

theorem State.goOnColl_clock (s : State) (id : Nat) (c : Cmd) : (s.goOnColl id c).clock = s.clock := by
  unfold State.goOnColl
  grind [State.clock, State.deliver_clock, State.gather_clock, State.applyColl_clock]

/-! ### Machine/Sample.lean -/

theorem readUnits_clock (s : State) (x : Agent) (va w n : Nat) : (readUnits s x va w n).1.clock = s.clock := by
  unfold readUnits
  grind [!mapSpan_clock]

theorem readUnits_bind_clock {β : Type} {s : State} {x : Agent} {va w n : Nat} {p : State × Except (Nat × Xlat) (List Nat)}
    {τ : DWord × DWord} (hs : s.clock = τ) (hp : readUnits s x va w n = p)
    (k : State → List Nat → State × Except (Nat × Xlat) β) (hk : ∀ t l, t.clock = τ → (k t l).1.clock = τ) :
    (match p with
      | (t, .error r) => (t, .error r)
      | (t, .ok l) => k t l : State × Except (Nat × Xlat) β).1.clock = τ := by
  have h := readUnits_clock s x va w n
  obtain ⟨t, r⟩ := p
  rw [hp] at h
  cases r with
  | error r => exact h.trans hs
  | ok l => exact hk t l (h.trans hs)

theorem readChain_clock (s : State) (x : Agent) (n va last : Nat) : (readChain s x n va last).1.clock = s.clock := by
  induction n generalizing s va last with
  | zero => rfl
  | succ n ih => unfold readChain; grind [!readUnits_clock]

theorem sampleRead_clock (s : State) (c : Cmd) : (sampleRead s c).1.clock = s.clock := by
  unfold sampleRead
  refine readUnits_bind_clock rfl rfl _ fun s1 rs h1 => ?_
  have hch := readChain_clock s1 c.agent 7 (bits (rs.headD 0) 576 64) 0
  extract_lets rec0
  split
  · grind
  · rename_i s2 ch0 hc
    have h2 : s2.clock = s.clock := by grind
    split
    · exact h2
    · refine readUnits_bind_clock h2 rfl _ fun s3 bs h3 => ?_
      refine readUnits_bind_clock h3 rfl _ fun s4 ms h4 => ?_
      refine readUnits_bind_clock h4 rfl _ fun s5 ring h5 => ?_
      refine readUnits_bind_clock h5 rfl _ fun s6 ls h6 => ?_
      exact readUnits_bind_clock h6 rfl _ fun s7 qs h7 => h7

theorem State.chargeSample_clock (s : State) (c : Cmd) (code info1 req : Nat) :
    (s.chargeSample c code info1 req).clock = s.clock := by
  unfold State.chargeSample
  grind [State.clock, State.chargeCmd_clock]

theorem State.sampleDone_clock (s : State) (id : Nat) (v : Word) : (s.sampleDone id v).clock = s.clock := by
  unfold State.sampleDone
  grind [State.clock, State.acquire_clock, State.finishCmd_clock]

theorem State.sampleLost_clock (s : State) (id st exchange : Nat) : (s.sampleLost id st exchange).clock = s.clock := by
  unfold State.sampleLost
  grind [State.clock, State.chargeSample_clock, State.sampleDone_clock]

theorem State.handToken_clock (s : State) (ctx rec t : Nat) : (s.handToken ctx rec t).clock = s.clock := by
  unfold State.handToken
  grind [State.clock]

theorem sampleUpdate_clock (s : State) (c : Cmd) (d : SampleIn) (token : Nat) :
    (sampleUpdate s c d token).1.clock = s.clock := by
  unfold sampleUpdate
  split
  · grind [!mapSpan_clock]
  · extract_lets record store
    have hstore (s : State) (m : Tab Nat) (a n v : Nat) : (store s m a n v).clock = s.clock := State.engineStore_clock ..
    clear_value store
    split
    · grind [!mapSpan_clock]
    · split
      · grind [!mapSpan_clock]
      · extract_lets base
        have hbase (s : State) : (base s).clock = s.clock := by simp only [base, State.handToken_clock, hstore]
        clear_value base
        grind [!mapSpan_clock]

theorem State.endSet_clock (s : State) (i : Coll) (status : Nat) : (s.endSet i status).clock = s.clock := by
  unfold State.endSet
  grind [State.clock, State.sampleDone_clock, State.chargeSample_clock, foldl_clock]

theorem State.emitSet_clock (s : State) (i : Coll) (t : Nat) (v z : Bool) : (s.emitSet i t v z).clock = s.clock := by
  unfold State.emitSet
  grind [State.clock, State.sampleDone_clock, foldl_clock]

theorem State.skipSample_clock (s : State) (id va : Nat) (write : Bool) (x : Xlat) {t : State} (h : s.skipSample id va write x =
    some t) : t.clock = s.clock := by
  unfold State.skipSample at h
  grind [State.clock, → State.skipSegment_clock, getD_clock]

theorem State.serveSet_clock (s : State) (n : Nat) (i : Coll) : (s.serveSet n i).clock = s.clock := by
  unfold State.serveSet
  extract_lets gone ds
  have hgone : gone.clock = s.clock := rfl
  clear_value gone
  generalize (if contiguous (ds.map (·.1)) 0 then setExchanges ds else 1) = m
  split
  · exact State.putColl_clock ..
  · split
    · rw [State.endSet_clock, hgone]
    · split
      · rw [State.endSet_clock, hgone]
      · extract_lets emit
        have hemit (s : State) : (emit s).clock = s.clock := State.emitSet_clock ..
        clear_value emit
        grind [!sampleUpdate_clock, → State.skipSample_clock, getD_clock]

theorem State.joinSet_clock (s : State) (a : Rank) (comm seq : Nat) : (s.joinSet a comm seq).clock = s.clock := by
  unfold State.joinSet
  extract_lets end_ root i fresh
  have hend (f : State → Nat → State) (hf : ∀ s id, (f s id).clock = s.clock) (s : State) : (end_ s f).clock = s.clock := by
    cases h : a.cmd <;> simp [end_, h, hf]
  have hfresh : fresh.clock = s.clock := rfl
  clear_value end_ fresh
  grind [State.clock, State.putColl_clock, State.keepColl_clock, State.sampleDone_clock, State.sampleLost_clock, foldl_clock]

theorem State.sampleGo_clock (s : State) (id : Nat) : (s.sampleGo id).clock = s.clock := by
  unfold State.sampleGo
  split
  · rfl
  · rename_i c _
    have h := sampleRead_clock s c
    split
    · rfl
    · split
      · rename_i s1 va x hr
        rw [hr] at h
        cases hk : s1.skipSample id va false x with
        | none => exact (State.finishCmd_clock s1 id none).trans h
        | some t => exact (State.skipSample_clock _ _ _ _ _ hk).trans h
      · grind [State.joinSet_clock]

theorem State.pumpSamples_clock (s : State) (n : Nat) : (s.pumpSamples n).clock = s.clock := by
  induction n generalizing s with
  | zero => rfl
  | succ n ih =>
    rw [State.pumpSamples, ih, foldl_clock _ (fun s x => ?_), foldl_clock _ fun s id => State.sampleGo_clock s id]
    split
    · exact State.serveSet_clock ..
    · rfl

theorem State.pumpSets_clock (s : State) : s.pumpSets.clock = s.clock := by
  unfold State.pumpSets
  grind [State.clock, State.pumpSamples_clock]

theorem State.applySample_clock (s : State) (id : Nat) (c : Cmd) : (s.applySample id c).clock = s.clock := by
  unfold State.applySample
  grind [State.clock, State.invalidCmd_clock, State.pumpSets_clock]

theorem State.endInstance_clock (s : State) (n : Nat) (i : Coll) (st : Nat) : (s.endInstance n i st).clock = s.clock := by
  unfold State.endInstance
  grind [State.clock, State.failColl_clock, State.sampleDone_clock, State.sampleLost_clock, State.pumpSets_clock,
    State.keepColl_clock, foldl_clock]

theorem State.loseRanks_clock (s : State) (hit : Nat → Bool) : (s.loseRanks hit).clock = s.clock := by
  unfold State.loseRanks
  grind [State.clock, State.endInstance_clock, foldl_clock]

theorem State.farRank_clock (s : State) (comm seq timeout root : Nat) (v : Rank) :
    (s.farRank comm seq timeout root v).clock = s.clock := by
  unfold State.farRank
  grind [State.clock, State.pumpSets_clock, State.joinSet_clock, State.joinColl_clock]

theorem State.farStep_clock (s : State) (n r : Nat) : (s.farStep n r).clock = s.clock := by
  unfold State.farStep
  grind [State.clock, State.pumpSets_clock, State.putColl_clock]

theorem State.farStatus_clock (s : State) (n st : Nat) : (s.farStatus n st).clock = s.clock := by
  unfold State.farStatus
  grind [State.clock, State.endInstance_clock]

/-! ### Machine/Trees.lean -/

theorem State.setHdr_clock (s : State) (t v : Nat) : (s.setHdr t v).clock = s.clock := by
  unfold State.setHdr
  grind [State.clock, State.deviceStore_clock]

theorem State.setNode_clock (s : State) (t n v : Nat) : (s.setNode t n v).clock = s.clock := by
  unfold State.setNode
  grind [State.clock, State.deviceStore_clock]

theorem State.popSet_clock (s : State) (d : Nat) : (s.popSet d).1.clock = s.clock := by
  unfold State.popSet
  grind [State.clock, State.deviceStore_clock]

theorem State.pushSet_clock (s : State) (d f : Nat) : (s.pushSet d f).clock = s.clock := by
  unfold State.pushSet
  grind [State.clock, State.deviceStore_clock]

theorem State.addRef_clock (s : State) (d f : Nat) : (s.addRef d f).clock = s.clock := by
  unfold State.addRef
  grind [State.clock, State.deviceStore_clock]

theorem State.dropRef_clock (s : State) (d f : Nat) : (s.dropRef d f).clock = s.clock := by
  unfold State.dropRef
  grind [State.clock, State.pushSet_clock, State.deviceStore_clock]

theorem State.dropPin_clock (s : State) (d f : Nat) : (s.dropPin d f).clock = s.clock := by
  unfold State.dropPin
  grind [State.clock, State.pushSet_clock, State.deviceStore_clock]

theorem State.addPin_clock (s : State) (d f : Nat) : (s.addPin d f).clock = s.clock := by
  unfold State.addPin
  grind [State.clock, State.deviceStore_clock]

theorem State.setEntry_clock (s : State) (t : Nat) (p : Place) (j v : Nat) : (s.setEntry t p j v).clock = s.clock := by
  unfold State.setEntry
  grind [State.clock, State.deviceStore_clock]

theorem State.setEnd_clock (s : State) (t : Nat) (p : Place) (len hash : Nat) : (s.setEnd t p len hash).clock = s.clock := by
  unfold State.setEnd
  grind [State.clock, State.setHdr_clock, State.setNode_clock]

theorem State.prefixOffer_clock (s : State) (d h j tag set : Nat) : (s.prefixOffer d h j tag set).clock = s.clock := by
  unfold State.prefixOffer
  grind [State.clock, State.dropRef_clock, State.onDie_clock, State.addRef_clock, State.deviceStore_clock, getD_clock,
    foldl_clock]

theorem State.wipe_clock (s : State) (a n : Nat) : (s.wipe a n).clock = s.clock := by
  unfold State.wipe
  grind [State.clock, State.setRange_clock]

theorem State.clearRange_clock (s : State) (a n : Nat) : (s.clearRange a n).clock = s.clock := by
  unfold State.clearRange
  grind [State.clock, State.wipe_clock, !homeStamp_clock, foldl_clock]

theorem State.initTree_clock (s : State) (t : Nat) : (s.initTree t).clock = s.clock := by
  unfold State.initTree
  grind [State.clock, State.setNode_clock, State.clearRange_clock, State.setHdr_clock, foldl_clock]

theorem State.openTree_clock (s : State) (t : Nat) : (s.openTree t).1.clock = s.clock := by
  unfold State.openTree
  grind [State.clock, State.initTree_clock]

theorem State.doom_clock (s : State) (p : Tag → Bool) : (s.doom p).clock = s.clock := by
  unfold State.doom
  grind [State.clock, getD_clock]

theorem treeFork_clock (s : State) (t : Nat) (p : Place) : (treeFork s t p).1.clock = s.clock := by
  unfold treeFork
  grind [State.clock, State.clearRange_clock, State.setNode_clock, State.addRef_clock, State.setEntry_clock, State.setHdr_clock,
    getD_clock]

theorem State.killNode_clock (s : State) (t n : Nat) : (s.killNode t n).clock = s.clock := by
  unfold State.killNode
  grind [State.clock, State.dropRef_clock, State.setEntry_clock, State.setNode_clock, State.doom_clock, State.setHdr_clock,
    foldl_clock]

theorem State.freeSlots_clock (s : State) (t : Nat) : (s.freeSlots t).clock = s.clock := by
  unfold State.freeSlots
  grind [State.clock, State.setNode_clock, foldl_clock]

theorem treePrune_clock (s : State) (t : Nat) (p : Place) : (treePrune s t p).1.clock = s.clock := by
  unfold treePrune
  grind [State.clock, State.setNode_clock, State.killNode_clock, State.dropRef_clock, State.setEntry_clock, State.doom_clock,
    State.setHdr_clock, State.freeSlots_clock, foldl_clock]

theorem State.foldNode_clock (s : State) (t n : Nat) : (s.foldNode t n).clock = s.clock := by
  unfold State.foldNode
  grind [State.clock, State.setEntry_clock, State.dropRef_clock, State.setNode_clock, State.setHdr_clock, foldl_clock]

theorem treeCommit_clock (s : State) (t : Nat) (p : Place) : (treeCommit s t p).1.clock = s.clock := by
  unfold treeCommit
  grind [State.clock, State.foldNode_clock, State.setEnd_clock, State.killNode_clock, State.setNode_clock,
    State.prefixOffer_clock, foldl_clock]

theorem State.copyPhys_clock (s : State) (src dst n : Nat) : (s.copyPhys src dst n).clock = s.clock := by
  unfold State.copyPhys
  grind [State.clock, State.deviceBytes_clock]

theorem State.copyInherited_clock (s : State) (h start old new : Nat) : (s.copyInherited h start old new).clock = s.clock := by
  unfold State.copyInherited
  grind [State.clock, State.copyPhys_clock, foldl_clock]

theorem appendTokens_clock (t T : Nat) (p : Place) (l : List Nat) (pos h : Nat) (s : State) :
    (appendTokens t T p l pos h s).1.clock = s.clock := by
  induction l generalizing pos h s with
  | nil => rfl
  | cons x l ih => rw [appendTokens, ih]; split <;> simp [State.setEntry_clock]

theorem treeAppend_clock (s : State) (t : Nat) (p : Place) (tokens : List Nat) :
    (treeAppend s t p tokens).1.clock = s.clock := by
  unfold treeAppend
  grind [State.clock, !State.popSet_clock, State.dropRef_clock, State.setEntry_clock, State.copyInherited_clock,
    !appendTokens_clock, State.setEnd_clock, getD_clock, foldl_clock]

theorem adoptPages_clock (t n : Nat) (l : List Nat) (s : State) : (adoptPages t n l s).1.clock = s.clock := by
  induction n generalizing l s with
  | zero => rfl
  | succ n ih => unfold adoptPages; grind [State.setEntry_clock, State.addRef_clock, State.setEnd_clock]

theorem treeAdopt_clock (s : State) (t : Nat) (ids : List Nat) : (treeAdopt s t ids).1.clock = s.clock := by
  unfold treeAdopt
  grind [State.clock, !adoptPages_clock]

theorem State.countNopage_clock (s : State) (d : Nat) : (s.countNopage d).clock = s.clock := by
  unfold State.countNopage
  grind [State.clock]

theorem treeQctx_clock (s : State) (c : Cmd) (t : Nat) (live : Bool) : (treeQctx s c t live).1.clock = s.clock := by
  unfold treeQctx
  grind [State.clock, State.onOwn_clock]

theorem treeQuery_clock (s : State) (c : Cmd) (t : Nat) (live : Bool) : (treeQuery s c t live).1.clock = s.clock := by
  unfold treeQuery
  grind [State.clock, State.raceTiles_clock, State.spadPutLE_clock]

theorem treeOp_clock (s : State) (c : Cmd) (t : Nat) : (treeOp s c t).1.clock = s.clock := by
  unfold treeOp
  grind [State.clock, !treeQctx_clock, !treeQuery_clock, !treeFork_clock, !treePrune_clock, !treeCommit_clock,
    !treeAppend_clock, !treeAdopt_clock]

theorem State.atAbacusWait_clock (s : State) (id : Nat) : (s.atAbacusWait id).clock = s.clock := by
  unfold State.atAbacusWait
  grind [State.clock]

theorem State.applyTree_clock (s : State) (id : Nat) (c : Cmd) : (s.applyTree id c).clock = s.clock := by
  unfold State.applyTree
  extract_lets t fin bad
  have hfin (s : State) (status value : Nat) : (fin s status value).clock = s.clock := by
    simp only [fin, State.acquire_clock, State.finishCmd_clock]
  clear_value fin bad
  split
  · grind [State.atAbacusWait_clock, → State.skipSegment_clock, getD_clock]
  · grind [State.invalidCmd_clock, !State.openTree_clock, !treeOp_clock, State.countNopage_clock, State.chargeCmd_clock]

theorem State.applyKvbind_clock (s : State) (id : Nat) (c : Cmd) : (s.applyKvbind id c).clock = s.clock := by
  unfold State.applyKvbind
  split
  · exact State.invalidCmd_clock ..
  · split
    · rw [State.finishCmd_clock, State.setHandle_clock]
    · extract_lets t h d pair p keys sets n bd s1 v s2 s3
      have hs1 : s1.clock = s.clock := foldl_clock _ (fun s f => State.addPin_clock s d f) ..
      clear_value s1
      split
      · grind [State.atAbacusWait_clock, → State.skipSegment_clock, getD_clock]
      · split
        · simp only [State.finishCmd_clock]; split <;> simp only [State.setHandle_clock]
        · grind [State.setHandle_clock, State.finishCmd_clock, State.atAbacusWait_clock]

/-! ### Machine/Start.lean -/

theorem State.popQueue_clock (s : State) (c : Nat) (uncore : Bool) : (s.popQueue c uncore).clock = s.clock := by
  unfold State.popQueue
  grind [State.clock, State.onCore_clock]

theorem State.atAbacus_clock (s : State) (c : Cmd) : (s.atAbacus c).clock = s.clock := by
  unfold State.atAbacus
  grind [State.clock, State.onDie_clock]

theorem State.startCmd_clock {s : State} {id : Nat} {c : Cmd} {t : State} (h : s.startCmd id c = some t) :
    t.clock = s.clock := by
  unfold State.startCmd at h
  extract_lets s' s1 at h
  have hs1 : s1.clock = s.clock := by
    simp only [s1, s', apply_ite State.clock, State.atAbacus_clock, State.applyHbind_clock, State.startCopy_clock,
      State.applyXbar_clock, State.applyQueueCmd_clock, State.applyTree_clock, State.applyKvbind_clock, State.applySample_clock,
      State.applyColl_clock, ite_self]
  clear_value s1
  grind [State.finishCmd_clock]

theorem State.withdrawCmd_clock (s : State) (id : Nat) : (s.withdrawCmd id).clock = s.clock := by
  unfold State.withdrawCmd
  grind [State.clock]

theorem State.releaseBlock_clock (s : State) (c : Cmd) (id : Nat) : (s.releaseBlock c id).clock = s.clock := by
  unfold State.releaseBlock
  grind [State.clock, State.onOwn_clock]

theorem State.goOnCmd_clock (s : State) (id : Nat) : (s.goOnCmd id).clock = s.clock := by
  unfold State.goOnCmd
  grind [State.clock, State.applyHbind_clock, State.retryWait_clock, State.pump_clock, State.applyTree_clock,
    State.applyKvbind_clock, State.pumpSets_clock, State.goOnColl_clock]

theorem State.replayCmd_clock (s : State) (id : Nat) : (s.replayCmd id).clock = s.clock := by
  unfold State.replayCmd
  grind [State.clock, State.replaySegment_clock, State.goOnCmd_clock, foldl_clock]

theorem State.replayGroup_clock (s : State) (k : Nat) : (s.replayGroup k).clock = s.clock := by
  unfold State.replayGroup
  grind [State.clock, State.replayLog_clock, State.replayFetches_clock, State.replayCmd_clock, foldl_clock]

/-! ### Machine/Csr.lean -/

theorem State.copyRange_clock (s : State) (src dst n : Nat) : (s.copyRange src dst n).clock = s.clock := by
  unfold State.copyRange
  grind [State.clock, State.setRange_clock, foldl_clock]

theorem State.copyLine_clock (s : State) (src dst : Nat) : (s.copyLine src dst).clock = s.clock := by
  unfold State.copyLine
  grind [State.clock, State.deviceStore_clock, State.copyRange_clock, !homeStamp_clock]

theorem State.copyBroken_clock (s : State) (x va dst : Nat) (f : Nat × Nat × Nat) :
    (s.copyBroken x va dst f).clock = s.clock := by
  unfold State.copyBroken
  grind [State.clock, State.deviceStore_clock, !State.ioFault_clock]

theorem State.copyLines_clock (s : State) (m : Move2) (lines : List Nat) : (s.copyLines m lines).clock = s.clock := by
  unfold State.copyLines
  grind [State.clock, State.copyBroken_clock, State.copyLine_clock, foldl_clock]

theorem State.migShow_clock (s : State) (x status rounds : Nat) : (s.migShow x status rounds).clock = s.clock := by
  unfold State.migShow
  grind [State.clock, State.onContext_clock]

theorem State.startMove_clock (s : State) (x : Nat) : (s.startMove x).clock = s.clock := by
  unfold State.startMove
  grind [State.clock, !walkFrom_clock, State.migShow_clock, State.copyLines_clock]

theorem State.nextRound_clock (s : State) (n : Nat) (m : Move2) : (s.nextRound n m).clock = s.clock := by
  unfold State.nextRound
  grind [State.clock, State.migShow_clock, State.setRange_clock, !State.report_clock, State.copyLines_clock, foldl_clock]

theorem State.retarget_clock (s : State) (m : Move2) : (s.retarget m).clock = s.clock := by
  unfold State.retarget
  grind [State.clock, !walkFrom_clock, State.deviceStore_clock, foldl_clock]

theorem State.freezeMove_clock (s : State) (n : Nat) (m : Move2) {t : State} (h : s.freezeMove n m = some t) :
    t.clock = s.clock := by
  unfold State.freezeMove at h
  grind [State.clock, State.copyLines_clock, State.retryCharges_clock, State.thaw_clock, State.migShow_clock,
    State.dropTlbs_clock, State.retarget_clock]

theorem State.startCollapse_clock (s : State) (v : Nat) : (s.startCollapse v).clock = s.clock := by
  unfold State.startCollapse
  grind [State.clock]

theorem State.endCollapse_clock (s : State) {t : State} (h : s.endCollapse = some t) : t.clock = s.clock := by
  unfold State.endCollapse at h
  grind [State.clock, State.setMeta_clock, foldl_clock]

theorem State.writeCharge_clock (s : State) (n v : Nat) : (s.writeCharge n v).clock = s.clock := by
  unfold State.writeCharge
  grind [State.clock, State.charge_clock, State.chargeRequest_clock]

theorem State.writePool_clock (s : State) (d v : Nat) : (s.writePool d v).clock = s.clock := by
  unfold State.writePool
  grind [State.clock, State.onDie_clock]

theorem State.writeCtx_clock (s : State) (x n v : Nat) : (s.writeCtx x n v).clock = s.clock := by
  unfold State.writeCtx
  grind [State.clock, State.startMove_clock, State.onContext_clock]

theorem State.writeSched_clock (s : State) (v : Nat) : (s.writeSched v).clock = s.clock := by
  unfold State.writeSched
  grind [State.clock]

theorem State.writeResacl_clock (s : State) (key : Nat) (v : DWord) : (s.writeResacl key v).clock = s.clock := by
  unfold State.writeResacl
  grind [State.clock, State.freeRegions_clock, foldl_clock]

theorem State.deviceWrite_clock (s : State) (n num v : Nat) : (s.deviceWrite n num v).clock = s.clock := by
  unfold State.deviceWrite
  extract_lets c field put
  have hput (c : DeviceCsrs) : (put c).clock = s.clock := rfl
  clear_value put
  simp only [apply_ite State.clock, hput, State.onManager_clock, State.writeCharge_clock, State.writeSched_clock,
    State.writeResacl_clock, State.writePool_clock, State.qsync_clock, State.startCollapse_clock, ite_self]

theorem State.csrStore_clock (s : State) (n num v : Nat) : (s.csrStore n num v).clock = s.clock := by
  unfold State.csrStore
  grind [State.clock, State.writeCtx_clock, State.deviceWrite_clock]

/-! ### Machine/Sys.lean -/

theorem State.eretGroup_clock (s : State) (n : Nat) : (s.eretGroup n).clock = s.clock := by
  unfold State.eretGroup
  grind [State.clock, State.resume_clock, State.onGroup_clock, State.replayGroup_clock]

theorem State.deliver1_clock (s : State) (n : Nat) {t : State} (h : s.deliver1 n = some t) : t.clock = s.clock := by
  unfold State.deliver1 at h
  grind [State.clock, State.onManager_clock, State.onGroup_clock, State.startHandler_clock]

theorem State.windowWrite_clock (s : State) (k a : Nat) (v : Word) : (s.windowWrite k a v).clock = s.clock := by
  unfold State.windowWrite
  grind [State.clock, State.onGroup_clock, State.onPart_clock]

/-! ### Machine/Coherence.lean -/

theorem State.noteEarly_clock (s : State) (a : Access) : (s.noteEarly a).clock = s.clock := by
  unfold State.noteEarly
  grind [State.clock, State.onGroup_clock]

theorem State.pinLine_clock (s : State) (a : Access) : (s.pinLine a).clock = s.clock := by
  unfold State.pinLine
  grind [State.clock, State.pinBy_clock]

theorem State.setStatus_clock (s : State) (id : Nat) (v : AccStatus) : (s.setStatus id v).clock = s.clock := by
  unfold State.setStatus
  grind [State.clock]

theorem State.serveLoad_clock (s : State) (id : Nat) (a : Access) (T : Nat) (lease : Option Nat) :
    (s.serveLoad id a T lease).clock = s.clock := by
  unfold State.serveLoad
  grind [State.clock, State.setStatus_clock, !homeRenew_clock, getD_clock]

theorem State.serveStore_clock (s : State) (id : Nat) (a : Access) (T : Nat) : (s.serveStore id a T).clock = s.clock := by
  unfold State.serveStore
  grind [State.clock, State.setStatus_clock, State.raiseAway_clock, State.releaseUses_clock, State.noteUse_clock,
    !homeStamp_clock, State.pinLine_clock, State.poke_clock, State.repairBytes_clock, getD_clock]

theorem State.dropAccess_clock (s : State) (id : Nat) (a : Access) : (s.dropAccess id a).clock = s.clock := by
  unfold State.dropAccess
  grind [State.clock, State.laneServed_clock]

theorem State.failOnRoute_clock (s : State) (id : Nat) (a : Access) (port : Nat) :
    (s.failOnRoute id a port).clock = s.clock := by
  unfold State.failOnRoute
  grind [State.clock, State.dropAccess_clock, State.failStore_clock, !State.report_clock, getD_clock]

theorem State.meetHome_clock {s : State} {id : Nat} {a : Access} {since : Option Nat} {go : State → State}
    (hgo : ∀ s, (go s).clock = s.clock) {t : State} (h : s.meetHome id a since go = some t) : t.clock = s.clock := by
  unfold State.meetHome at h
  grind [State.dropAccess_clock, State.failOnRoute_clock, State.accessFault_clock, State.setStatus_clock, State.noteEarly_clock,
    State.pinLine_clock]

theorem State.laneResult_clock (s : State) (id : Nat) (a : Access) (v : Nat) : (s.laneResult id a v).clock = s.clock := by
  unfold State.laneResult
  grind [State.clock, State.dropAccess_clock, State.writeResult_clock]

theorem State.raiseLt_clock (s : State) (k t : Nat) : (s.raiseLt k t).clock = s.clock := by
  unfold State.raiseLt
  grind [State.clock, State.onCore_clock]

theorem State.fillL1_clock (s : State) (k line wts rts data : Nat) : (s.fillL1 k line wts rts data).clock = s.clock := by
  unfold State.fillL1
  grind [State.clock, State.onCore_clock]

theorem State.fillCopy_clock (s : State) (a : Access) (line wts rts data : Nat) :
    (s.fillCopy a line wts rts data).clock = s.clock := by
  unfold State.fillCopy
  grind [State.clock, State.makeRoom_clock, State.onDie_clock]

theorem State.loadHit_clock (s : State) (id : Nat) (a : Access) (c : CopyLine) : (s.loadHit id a c).clock = s.clock := by
  unfold State.loadHit
  grind [State.clock, State.laneResult_clock, State.raiseLt_clock, State.noteUse_clock]

theorem State.reply_clock (s : State) (id : Nat) (a : Access) (line wts rts lease v : Nat) :
    (s.reply id a line wts rts lease v).clock = s.clock := by
  unfold State.reply
  grind [State.clock, State.fillL1_clock, State.fillCopy_clock, State.loadHit_clock, State.setStatus_clock, State.raiseLt_clock,
    State.onCore_clock, State.onDie_clock, State.laneResult_clock, State.dropAccess_clock]

theorem State.rebase_clock (s : State) : s.rebase.clock = s.clock := by
  unfold State.rebase State.clock
  extract_lets sub copy die core acc
  have hdie (x : Die) : (die x).tcount = x.tcount := rfl
  clear_value die
  simp only [hdie]

theorem State.heard_clock (s : State) (d : Nat) (epoch : Bool) : (s.heard d epoch).clock = s.clock := by
  unfold State.heard
  grind [State.clock]

theorem State.farMeet_clock (s : State) (d line : Nat) (control : Option Nat) {t : State} (h : s.farMeet d line control = some
    t) : t.clock = s.clock := by
  unfold State.farMeet at h
  grind [State.clock, State.pinBy_clock]

/-! ### Machine/Control.lean -/

theorem State.answerLaunch_clock {s : State} {k op : Nat} {x : Launching} {t : State} (h : s.answerLaunch k op x = some t) :
    t.clock = s.clock := by
  unfold State.answerLaunch at h
  grind [State.clock, State.onGroup_clock, !heldRead_clock, !launchChild_clock, !State.logEnter_clock, State.xlatReport_clock]

theorem State.launchDone_clock (s : State) (k op : Nat) : (s.launchDone k op).clock = s.clock := by
  unfold State.launchDone
  split
  · rfl
  · extract_lets s1
    have hs1 : s1.clock = s.clock := rfl
    clear_value s1
    grind [→ State.answerLaunch_clock, getD_clock]

/-! ### Machine/ControlRegs.lean -/

theorem State.onCtl_clock (s : State) (f : Control → Control) : (s.onCtl f).clock = s.clock := by
  unfold State.onCtl
  grind [State.clock]

theorem State.writeOwner_clock (s : State) (master v : Nat) : (s.writeOwner master v).clock = s.clock := by
  unfold State.writeOwner
  grind [State.clock, State.onCtl_clock]

theorem State.asOwner_clock (s : State) (master : Nat) (f : State → State) (hf : ∀ s, (f s).clock = s.clock) :
    (s.asOwner master f).clock = s.clock := by
  unfold State.asOwner
  split
  · exact hf s
  · rfl

theorem State.selectVersion_clock (s : State) (off v : Nat) : (s.selectVersion off v).clock = s.clock := by
  unfold State.selectVersion
  grind [State.clock, State.onCtl_clock]

theorem State.clearErrors_clock (s : State) (off : Nat) : (s.clearErrors off).clock = s.clock := by
  unfold State.clearErrors
  grind [State.clock, State.onCtl_clock]

theorem State.ownerStore_clock (s : State) (off v : Nat) : (s.ownerStore off v).clock = s.clock := by
  unfold State.ownerStore
  grind [State.clock, State.onCtl_clock, State.selectVersion_clock, State.clearErrors_clock]

theorem State.controlStore_clock (s : State) (master off v : Nat) : (s.controlStore master off v).clock = s.clock := by
  unfold State.controlStore
  grind [State.clock, State.writeOwner_clock, State.asOwner_clock, State.ownerStore_clock]

/-! ### Machine/Window.lean -/

theorem State.hostStores_clock (s : State) (a : Nat) (bs : List Byte) : (s.hostStores a bs).clock = s.clock := by
  unfold State.hostStores
  grind [State.clock, State.deviceStore_clock, State.noteSpan_clock, foldl_clock]

theorem State.hostDirect_clock (s : State) (a : Nat) (bs : List Byte) : (s.hostDirect a bs).clock = s.clock := by
  unfold State.hostDirect
  grind [State.clock, State.noteSpan_clock, State.deviceStore_clock, State.poke_clock, foldl_clock]

theorem State.trigger_clock (s : State) (slot : Nat) : (s.trigger slot).clock = s.clock := by
  unfold State.trigger
  grind [State.clock]

theorem State.windowStore_clock (s : State) (off : Nat) (bs : List Byte) : (s.windowStore off bs).clock = s.clock := by
  unfold State.windowStore
  grind [State.clock, State.trigger_clock]

theorem State.storeOrReport_clock (s : State) (x va : Nat) (bs : List Byte) : (s.storeOrReport x va bs).clock = s.clock := by
  unfold State.storeOrReport
  grind [State.clock, !mapSpan_clock, State.deviceStore_clock, !State.ioFault_clock, foldl_clock]

theorem State.refuseCopy_clock (s : State) (slot r code : Nat) : (s.refuseCopy slot r code).clock = s.clock := by
  unfold State.refuseCopy
  grind [State.clock, State.storeOrReport_clock]

theorem State.acceptHost_clock (s : State) (r : Nat) : (s.acceptHost r).clock = s.clock := by
  unfold State.acceptHost
  grind [State.clock, !State.acceptGrid_clock]

theorem State.parseCopy_clock (s : State) {t : State} (h : s.parseCopy = some t) : t.clock = s.clock := by
  unfold State.parseCopy at h
  grind [State.clock, State.refuseCopy_clock, State.acceptHost_clock]

/-! ### Machine/Dispatcher.lean -/

theorem State.allocate_clock (s : State) (c : Nat) (q : Need) : (s.allocate c q).clock = s.clock := by
  unfold State.allocate
  grind [State.clock, State.onCore_clock]

theorem State.passCore_clock (s : State) (c : Nat) : (s.passCore c).clock = s.clock := by
  unfold State.passCore
  grind [State.clock, State.onDie_clock]

theorem State.placeFresh_clock (s : State) (n d t c : Nat) (g : Grid) : (s.placeFresh n d t c g).clock = s.clock := by
  unfold State.placeFresh
  grind [State.clock, State.allocate_clock, State.onGrid_clock, State.passCore_clock, getD_clock]

theorem State.placeSaved_clock (s : State) (id c : Nat) (v : Saved) : (s.placeSaved id c v).clock = s.clock := by
  unfold State.placeSaved
  grind [State.clock, State.passCore_clock, getD_clock]

theorem State.place_clock (s : State) (n d c : Nat) (g : Grid) (v : Work) : (s.place n d c g v).clock = s.clock := by
  unfold State.place
  grind [State.clock, State.placeSaved_clock, State.placeFresh_clock]

theorem State.loadParams_clock {s t : State} {n : Nat} {g : Grid} {b : Bool} (h : s.loadParams n g = some (t, b)) :
    t.clock = s.clock := by
  unfold State.loadParams at h
  grind [!mapSpan_clock, State.onGrid_clock, !State.ioFault_clock]

theorem State.restartUnplaced_clock (s : State) (n d : Nat) : (s.restartUnplaced n d).clock = s.clock := by
  unfold State.restartUnplaced
  grind [State.clock, State.onGrid_clock]

theorem State.decision_clock {s : State} {d : Nat} {t : State} (h : s.decision d = some t) : t.clock = s.clock := by
  unfold State.decision at h
  extract_lets die o s1 s2 at h
  have hs2 : s2.clock = s.clock := by
    grind [foldl_clock, State.onDie_clock, State.restartUnplaced_clock]
  clear_value s2
  grind [→ State.loadParams_clock, State.restartUnplaced_clock, State.place_clock, State.onDie_clock]

theorem State.removeTeam_clock (s : State) (id : Nat) : (s.removeTeam id).clock = s.clock := by
  unfold State.removeTeam
  grind [State.clock, State.freeRegions_clock, State.onGrid_clock]

theorem State.takePlace_clock (s : State) (id : Nat) : (s.takePlace id).clock = s.clock := by
  unfold State.takePlace
  grind [State.clock, State.onTeam_clock, State.onQuad_clock, getD_clock]

theorem State.startGroup_clock (s : State) (g : Grid) (tid k gid : Nat) : (s.startGroup g tid k gid).clock = s.clock := by
  unfold State.startGroup
  grind [State.clock, State.arriveSeq_clock]

theorem State.becomeResident_clock (s : State) (id : Nat) {t : State} (h : s.becomeResident id = some t) :
    t.clock = s.clock := by
  unfold State.becomeResident at h
  grind [State.clock, State.removeTeam_clock, State.startGroup_clock, State.takePlace_clock, State.acquire_clock, foldl_clock]

theorem State.wakeParents_clock (s : State) : s.wakeParents.clock = s.clock := by
  unfold State.wakeParents
  grind [State.clock, State.acquire_clock, State.onGroup_clock, foldl_clock]

theorem State.completeGrid_clock (s : State) (g : Grid) (code : Nat) : (s.completeGrid g code).clock = s.clock := by
  unfold State.completeGrid
  grind [State.clock, State.writeCompletion_clock]

theorem State.retireGrid_clock (s : State) (n : Nat) (g : Grid) : (s.retireGrid n g).clock = s.clock := by
  unfold State.retireGrid
  grind [State.clock, State.completeGrid_clock, State.onContext_clock, State.wakeParents_clock, State.readyHead_clock]

/-! ### Machine/Former.lean -/

theorem State.rqWrite_clock (s : State) (x a byte n v : Nat) : (s.rqWrite x a byte n v).clock = s.clock := by
  unfold State.rqWrite
  grind [State.clock, !writeVirt_clock]

theorem State.onFormer_clock (s : State) (x : Nat) (f : Former → Former) : (s.onFormer x f).clock = s.clock := by
  unfold State.onFormer
  grind [State.clock]

theorem State.releaseTree_clock (s : State) (x t : Nat) : (s.releaseTree x t).clock = s.clock := by
  unfold State.releaseTree
  grind [State.clock, !treePrune_clock]

theorem State.finishRequest_clock (s : State) (x a r state status : Nat) (keep : Bool) :
    (s.finishRequest x a r state status keep).clock = s.clock := by
  unfold State.finishRequest
  grind [State.clock, State.rqWrite_clock, State.writeCompletion_clock, State.onFormer_clock, State.releaseTree_clock]

theorem State.requeue_clock (s : State) (x a half : Nat) : (s.requeue x a half).clock = s.clock := by
  unfold State.requeue
  grind [State.clock, State.rqWrite_clock, State.onFormer_clock]

theorem State.retireSlot_clock (s : State) (x : Nat) (keep : Bool) (z : Nat × Nat × Nat × Nat) :
    (s.retireSlot x keep z).clock = s.clock := by
  unfold State.retireSlot
  grind [State.clock, State.finishRequest_clock, State.requeue_clock]

theorem State.faultRecord_clock (s : State) (x a r : Nat) : (s.faultRecord x a r).clock = s.clock := by
  unfold State.faultRecord
  grind [State.clock, State.rqWrite_clock, State.writeCompletion_clock, State.onFormer_clock, !State.sendRecord_clock]

theorem State.scanRecord_clock (s : State) (x : Nat) (keep : Bool) (a : Nat) : (s.scanRecord x keep a).clock = s.clock := by
  unfold State.scanRecord
  grind [State.clock, State.finishRequest_clock, State.faultRecord_clock, State.onFormer_clock]

theorem State.evict_clock (s : State) (x : Nat) (z : Nat × Nat × Nat × Nat) : (s.evict x z).clock = s.clock := by
  unfold State.evict
  grind [State.clock, State.rqWrite_clock, State.releaseTree_clock, State.setHdr_clock, State.onFormer_clock]

theorem evictDie_clock (x d low n : Nat) (s : State) : (evictDie x d low n s).1.clock = s.clock := by
  induction n generalizing s with
  | zero => rfl
  | succ n ih => unfold evictDie; grind [State.evict_clock]

theorem State.admitSlot_clock (s : State) (x d a : Nat) : (s.admitSlot x d a).clock = s.clock := by
  unfold State.admitSlot
  grind [State.clock, State.faultRecord_clock, State.rqWrite_clock, State.onFormer_clock]

theorem writeEntries_clock (x base : Nat) (f : Former) (fit : Tab (Nat × Nat)) (m n off : Nat) (s t : State)
    (h : writeEntries x base f fit m n off s = some t) : t.clock = s.clock := by
  induction m generalizing n off s with
  | zero => simp_all [writeEntries]
  | succ m ih =>
    have hw := writeVirt_clock s x (base + 64 + 32 * n) 32
    rw [writeEntries] at h
    grind

theorem State.idleFormer_clock (s : State) (x : Nat) : (s.idleFormer x).clock = s.clock := by
  unfold State.idleFormer
  grind [State.clock, State.onFormer_clock]

/-- The readers and writers of memory stand as variables here: the kernel would otherwise run them on the manifest. -/
theorem State.launchStep_clock (s : State) (x : Nat) (f : Former) : (s.launchStep x f).clock = s.clock := by
  obtain ⟨read, hread⟩ : ∃ r, r = @readVirt := ⟨_, rfl⟩
  obtain ⟨record, hrecord⟩ : ∃ r, r = @stepRecord := ⟨_, rfl⟩
  obtain ⟨write, hwrite, hw⟩ : ∃ w, w = @writeVirt ∧ ∀ s x va n v, (w s x va n v).1.clock = s.clock :=
    ⟨_, rfl, writeVirt_clock⟩
  unfold State.launchStep
  rw [← hread, ← hrecord, ← hwrite]
  clear hread hrecord hwrite
  grind [!State.onFormer_clock, !State.acceptGrid_clock, State.idleFormer_clock, → writeEntries_clock]

theorem State.formerWork_clock (s : State) (x : Nat) (f : Former) : (s.formerWork x f).clock = s.clock := by
  unfold State.formerWork
  grind [State.clock, State.retireSlot_clock, State.onFormer_clock, State.scanRecord_clock, !evictDie_clock,
    State.admitSlot_clock, State.launchStep_clock, foldl_clock]

theorem State.formerStep_clock (s : State) (x : Nat) (f : Former) : (s.formerStep x f).clock = s.clock := by
  unfold State.formerStep
  grind [State.clock, State.formerWork_clock]

/-! ### Machine/Preempt.lean -/

theorem State.withdrawTeam_clock (s : State) (id : Nat) : (s.withdrawTeam id).clock = s.clock := by
  unfold State.withdrawTeam
  grind [State.clock, State.withdrawCmd_clock, foldl_clock]

theorem State.reissue_clock (s : State) (id : Nat) (c : Cmd) : (s.reissue id c).clock = s.clock := by
  unfold State.reissue
  grind [State.clock, State.onCore_clock]

theorem State.chooseVictim_clock (s : State) (d n : Nat) {t : State} (h : s.chooseVictim d n = some t) : t.clock = s.clock := by
  unfold State.chooseVictim at h
  grind [State.clock, State.restartUnplaced_clock, State.withdrawTeam_clock, State.onTeam_clock, State.onGrid_clock,
    foldl_clock]

theorem State.saveTeam_clock (s0 : State) (id : Nat) (t : Team) : (s0.saveTeam id t).clock = s0.clock := by
  unfold State.saveTeam
  grind [State.clock, State.withdrawTeam_clock, State.freeRegions_clock, getD_clock]

theorem State.abandon_clock (s : State) (c : Nat) : (s.abandon c).clock = s.clock := by
  unfold State.abandon
  grind [State.clock, State.reissue_clock, State.onTeam_clock, foldl_clock]

theorem State.restoreLog_clock (s : State) (f : Nat → Nat) (e : LogEntry) : (s.restoreLog f e).clock = s.clock := by
  unfold State.restoreLog
  grind [State.clock, State.onPart_clock, getD_clock]

theorem State.redeliver_clock (s : State) (k : Nat) : (s.redeliver k).clock = s.clock := by
  unfold State.redeliver
  grind [State.clock, State.enqueueRecord_clock, State.onGroup_clock]

theorem State.resumed_clock (s : State) (k : Nat) : (s.resumed k).clock = s.clock := by
  unfold State.resumed
  grind [State.clock, State.exitCheck_clock, State.goOn_clock]

theorem State.retest_clock (s : State) (id : Nat) : (s.retest id).clock = s.clock := by
  unfold State.retest
  grind [State.clock, State.setBarrier_clock, State.wakeParents_clock, State.tbarCheck_clock, getD_clock, foldl_clock]

theorem State.restoreTeam_clock (s : State) (id : Nat) (t : Team) (v : Saved) : (s.restoreTeam id t v).clock = s.clock := by
  unfold State.restoreTeam
  grind [State.clock, State.restoreLog_clock, State.onTeam_clock, State.takePlace_clock, State.reissue_clock,
    State.redeliver_clock, State.retest_clock, State.resumed_clock, foldl_clock]

/-! ### Machine/Resets.lean -/

theorem State.chargeTeam_clock (s : State) (id : Nat) (t : Team) (code info0 info1 : Nat) :
    (s.chargeTeam id t code info0 info1).clock = s.clock := by
  unfold State.chargeTeam
  grind [State.clock, !State.report_clock, State.chargeRequest_clock, State.endSlot_clock, getD_clock]

theorem State.cancelTeam_clock (s : State) (id : Nat) : (s.cancelTeam id).clock = s.clock := by
  unfold State.cancelTeam
  grind [State.clock, State.cancelGroup_clock, State.markEnded_clock, foldl_clock]

theorem State.endTeam_clock (s : State) (id code info0 info1 : Nat) : (s.endTeam id code info0 info1).clock = s.clock := by
  unfold State.endTeam
  grind [State.clock, State.chargeTeam_clock, State.cancelTeam_clock]

theorem State.endSaved_clock (s : State) (id code info0 info1 : Nat) : (s.endSaved id code info0 info1).clock = s.clock := by
  unfold State.endSaved
  grind [State.clock, State.dropSaved_clock, State.chargeTeam_clock]

theorem State.killTeam_clock (s : State) (all : Bool) (id : Nat) : (s.killTeam all id).clock = s.clock := by
  unfold State.killTeam
  grind [State.clock, State.withdrawCmd_clock, State.freeRegions_clock, State.removeTeam_clock, foldl_clock]

theorem State.chargeLost_clock (s : State) (info1 id : Nat) : (s.chargeLost info1 id).clock = s.clock := by
  unfold State.chargeLost
  grind [State.clock, State.chargeTeam_clock]

theorem State.endDieTeams_clock (s : State) (d info1 : Nat) (all : Bool) (saves : List Nat) :
    (s.endDieTeams d info1 all saves).clock = s.clock := by
  unfold State.endDieTeams
  grind [State.clock, State.chargeLost_clock, State.endSaved_clock, State.wakeParents_clock, State.killTeam_clock, getD_clock,
    foldl_clock]

theorem State.resetCores_clock (s : State) (d : Nat) : (s.resetCores d).clock = s.clock := by
  unfold State.resetCores
  grind [State.clock, State.onCore_clock, State.onDie_clock, foldl_clock]

theorem State.resetManagerCores_clock (s : State) (d : Nat) : (s.resetManagerCores d).clock = s.clock := by
  unfold State.resetManagerCores
  grind [State.clock, State.onCore_clock, foldl_clock]

theorem State.coreReset_clock (s : State) (d : Nat) : (s.coreReset d).clock = s.clock := by
  unfold State.coreReset
  grind [State.clock, State.resetCores_clock, State.endDieTeams_clock]

theorem State.clearPending_clock (s : State) (d : Nat) : (s.clearPending d).clock = s.clock := by
  unfold State.clearPending
  grind [State.clock, State.onCtl_clock]

theorem State.dropHome_clock (s : State) (d : Nat) : (s.dropHome d).clock = s.clock := by
  unfold State.dropHome
  grind [State.clock]

theorem State.loseDirty_clock (s : State) (d code : Nat) : (s.loseDirty d code).clock = s.clock := by
  unfold State.loseDirty
  grind [State.clock, foldl_clock]

theorem State.restartManagers_clock (s : State) (d : Nat) : (s.restartManagers d).clock = s.clock := by
  unfold State.restartManagers
  grind [State.clock, State.withdrawCmd_clock, State.onManager_clock, State.enqueueAt_clock, foldl_clock]

theorem State.uncoreStart_clock (s : State) (d : Nat) (requested : Bool) : (s.uncoreStart d requested).clock = s.clock := by
  unfold State.uncoreStart
  grind [State.clock, State.restartManagers_clock, State.coreReset_clock, State.loseDirty_clock, State.onDie_clock,
    State.clearPending_clock, State.dropHome_clock]

theorem State.measure_clock (s : State) : s.measure.clock = s.clock := by
  unfold State.measure
  grind [State.clock]

theorem State.uncoreDone_clock (s : State) (d : Nat) : (s.uncoreDone d).clock = s.clock := by
  unfold State.uncoreDone
  extract_lets other mft s1 s2 quad s3
  have h1 : s1.clock = s.clock := State.onDie_clock _ _ _ fun _ => rfl
  have h2 : s2.clock = s.clock := by rw [← h1, ← State.dropHome_clock s1 d]; exact State.onDie_clock _ _ _ fun _ => rfl
  have h3 : s3.clock = s.clock := h2
  clear_value s3
  rw [State.onCtl_clock, State.measure_clock, State.resetManagerCores_clock, State.resetCores_clock, h3]

theorem State.moveRecords_clock (s : State) (d : Nat) : (s.moveRecords d).clock = s.clock := by
  unfold State.moveRecords
  grind [State.clock, State.enqueueRecord_clock, foldl_clock]

theorem State.lossRecord_clock (s : State) (x : Nat) : (s.lossRecord x).clock = s.clock := by
  unfold State.lossRecord
  grind [State.clock, !State.report_clock]

theorem State.cutGrids_clock (s : State) (d : Nat) : (s.cutGrids d).clock = s.clock := by
  unfold State.cutGrids
  grind [State.clock]

theorem State.loseDie_clock (s : State) (d : Nat) : (s.loseDie d).clock = s.clock := by
  unfold State.loseDie
  extract_lets failed s0 s1 s2 xs s3 hit stopped s4 s5
  have h0 : s0.clock = s.clock := by
    rw [State.clearPending_clock]; exact State.onDie_clock _ _ _ fun _ => rfl
  have h1 : s1.clock = s.clock := by simp only [s1, apply_ite State.clock, State.onCtl_clock, h0, ite_self]
  have h2 : s2.clock = s.clock := by rw [State.endDieTeams_clock, State.cutGrids_clock, h1]
  have h3 : s3.clock = s.clock := by
    rw [State.moveRecords_clock, foldl_clock _ (fun s x => State.lossRecord_clock s x), h2]
  clear_value s3
  have h4 : s4.clock = s.clock := h3
  have h5 : s5.clock = s.clock := by rw [← h4]; exact foldl_clock _ (fun s m => State.migShow_clock ..) _ _
  rw [State.wakeParents_clock, State.dropHome_clock, State.onDie_clock, h5]
  exact fun _ => rfl

theorem State.substitute_clock (s : State) (q : Nat) : (s.substitute q).clock = s.clock := by
  unfold State.substitute
  grind [State.clock, State.onCtl_clock]

theorem State.portDies_clock (s : State) (p : Nat) : (s.portDies p).clock = s.clock := by
  unfold State.portDies
  grind [State.clock, State.loseRanks_clock, State.onPort_clock]

theorem State.narrow_clock (s : State) (p : Nat) : (s.narrow p).clock = s.clock := by
  unfold State.narrow
  grind [State.clock, State.onPort_clock, State.portDies_clock]

theorem State.replaceFaulty_clock (s : State) (v : FailUnit) : (s.replaceFaulty v).clock = s.clock := by
  unfold State.replaceFaulty
  grind [State.clock, State.substitute_clock, State.onQuad_clock, State.onCtl_clock]

theorem State.trainLinks_clock (s : State) : s.trainLinks.clock = s.clock := by
  unfold State.trainLinks
  grind [State.clock, State.narrow_clock, foldl_clock]

/-- Step 4 of package power-on reset clears both counters (R22, R464). -/
theorem State.boot_clock (s : State) (img : List Byte) : (s.boot img).clock = (0, 0) := by
  unfold State.boot
  extract_lets waiting s2 s4
  rw [State.onCtl_clock, State.trainLinks_clock, State.measure_clock]
  rfl

theorem State.bootRom_clock (s : State) (faulty : List FailUnit) : (s.bootRom faulty).clock = (0, 0) := by
  unfold State.bootRom State.clock
  rfl

theorem State.powerOn_clock (s : State) (faulty : List FailUnit) : (s.powerOn faulty).clock = (0, 0) := by
  have h1 := State.bootRom_clock s faulty
  unfold State.powerOn
  grind [State.clock, State.boot_clock, State.onCtl_clock]

/-! ### Machine/Mailbox.lean -/

theorem State.mailDone_clock (s : State) (o : Nat) (bs : List Byte) (result : Nat) :
    (s.mailDone o bs result).clock = s.clock := by
  unfold State.mailDone
  grind [State.clock, State.onCtl_clock]

theorem mailCommand_clock {s : State} {code : Nat} {run : State → State} (hrun : ∀ s, (run s).clock = s.clock) {t : State}
    (h : mailCommand s code run = some t) : t.clock = s.clock := by
  unfold mailCommand at h
  grind [State.mailDone_clock]

theorem State.loadImage_clock (s : State) : s.loadImage.clock = s.clock := by
  unfold State.loadImage
  grind [State.clock, State.mailDone_clock, State.onCtl_clock]

theorem State.attestWith_clock (s : State) (least : Nat) (withCtx : Bool) : (s.attestWith least withCtx).clock = s.clock := by
  unfold State.attestWith
  grind [State.clock, State.mailDone_clock, State.onCtl_clock]

theorem State.storeImage_clock (s : State) :
    s.storeImage.clock = s.clock ∨ s.ctl.fwstat = 2 ∧ s.storeImage.clock = (0, 0) := by
  unfold State.storeImage
  grind [State.boot_clock, State.onCtl_clock]

/-! ### Machine/Platform.lean -/

theorem State.receiveFlit_clock {s : State} {p : Nat} {flit : BitVec 2048} {t : State} (h : s.receiveFlit p flit = some t) :
    t.clock = s.clock := by
  unfold State.receiveFlit at h
  extract_lets x s1 at h
  have hs1 : s1.clock = s.clock := rfl
  clear_value s1
  split at h
  · cases h
  · split at h
    · split at h
      · cases h; rfl
      · cases h
    · split at h
      · cases h; rfl
      · cases h
        split
        · rw [State.portDies_clock, hs1]
        · exact hs1

theorem State.sendFlit_clock (s : State) (p head : Nat) (payload : BitVec 1952) :
    (s.sendFlit p head payload).clock = s.clock := by
  unfold State.sendFlit
  grind [State.clock, State.onPort_clock]

theorem State.replayFlit_clock (s : State) (p seq : Nat) {t : State} (h : s.replayFlit p seq = some t) : t.clock = s.clock := by
  unfold State.replayFlit at h
  grind [State.clock, State.onPort_clock, State.portDies_clock]

/-! ### Machine/Errors.lean -/

theorem State.countCorrected_clock (s : State) (die cls : Nat) : (s.countCorrected die cls).clock = s.clock := by
  unfold State.countCorrected
  grind [State.clock, State.onCtl_clock]

theorem State.noteCorrection_clock (s : State) (u : FailUnit) (loc : Nat) : (s.noteCorrection u loc).clock = s.clock := by
  unfold State.noteCorrection
  grind [State.clock, State.onCtl_clock]

theorem State.countUncorrected_clock (s : State) (die : Nat) : (s.countUncorrected die).clock = s.clock := by
  unfold State.countUncorrected
  grind [State.clock, State.onCtl_clock]

theorem State.errorEnds_clock (s : State) (id code info0 info1 : Nat) : (s.errorEnds id code info0 info1).clock = s.clock := by
  unfold State.errorEnds
  grind [State.clock, State.endTeam_clock, State.countUncorrected_clock]

theorem State.groupError_clock (s : State) (k info0 : Nat) : (s.groupError k info0).clock = s.clock := by
  unfold State.groupError
  grind [State.clock, State.countUncorrected_clock, State.errorEnds_clock]

theorem State.spoilLine_clock (s : State) (line : Nat) : (s.spoilLine line).clock = s.clock := by
  unfold State.spoilLine
  grind [State.clock, State.countUncorrected_clock]

theorem State.softError_clock (s : State) (v : SoftError) : (s.softError v).clock = s.clock := by
  unfold State.softError
  grind [State.clock, State.noteCorrection_clock, State.countCorrected_clock, State.groupError_clock, State.errorEnds_clock,
    State.onCore_clock, State.onDie_clock, State.onQuad_clock, State.spoilLine_clock, State.endSaved_clock,
    State.countUncorrected_clock]

/-! ### Machine/Ready.lean -/

theorem State.look_clock (s : State) (f : Nat → Bool) : (s.look f).clock = s.clock := by
  unfold State.look
  grind [State.clock]

theorem State.lookFor_clock (s : State) (v : Event) : (s.lookFor v).clock = s.clock := by
  unfold State.lookFor
  grind [State.clock, State.look_clock]

/-! ### Machine/Step.lean -/

theorem State.taken_clock (s : State) : s.taken.clock = s.clock := by
  unfold State.taken
  grind [State.clock]

end Sys2Proof.Machine
end

section
/-! PROOF. The time counters (O42): the words. -/

namespace Sys2Proof.Machine

/-- An outcome that goes on, if it does, in a state with these time counters. -/
def KeepsClock (c : DWord × DWord) : Host.Outcome State Fault Refusal → Prop
  | .next t => t.clock = c
  | _ => True

/-- An effect that leaves these time counters. -/
def Eff.KeepsClock (c : DWord × DWord) : Eff → Prop
  | .ok t | .jump t => t.clock = c
  | .stall f => ∀ s : State, (f s).clock = s.clock
  | _ => True

@[simp] theorem KeepsClock_next (c : DWord × DWord) (t : State) : KeepsClock c (.next t) ↔ t.clock = c := Iff.rfl

@[simp] theorem KeepsClock_refused (c : DWord × DWord) (r : Refusal) : KeepsClock c (.refused r) := trivial

@[simp] theorem Eff.keepsClock_ok (c : DWord × DWord) (t : State) : (Eff.ok t).KeepsClock c ↔ t.clock = c := Iff.rfl

@[simp] theorem Eff.keepsClock_jump (c : DWord × DWord) (t : State) : (Eff.jump t).KeepsClock c ↔ t.clock = c := Iff.rfl

@[simp] theorem Eff.keepsClock_stall (c : DWord × DWord) (f : State → State) :
    (Eff.stall f).KeepsClock c ↔ ∀ s, (f s).clock = s.clock := Iff.rfl

@[simp] theorem Eff.keepsClock_hold (c : DWord × DWord) : Eff.hold.KeepsClock c := trivial

@[simp] theorem Eff.keepsClock_trap (c : DWord × DWord) (a b d e f : Nat) : (Eff.trap a b d e f).KeepsClock c := trivial

theorem issue_clock {i : Instr} {s : State} {body : State → Group → Word → Eff}
    (h : ∀ s g m, (body s g m).KeepsClock s.clock) : KeepsClock s.clock (issue i s body) := by
  unfold issue
  grind [KeepsClock, Eff.KeepsClock, State.takeFault_clock, State.holdWord_clock, State.finish_clock, State.afterIssue_clock,
    State.setGroup_clock, State.overtaken_clock]

theorem State.withGroup_clock (s : State) (g : Group) : (s.withGroup g).KeepsClock s.clock := State.setGroup_clock ..

theorem Eff.faulted_keepsClock (k : Nat) (s : State) (c : DWord × DWord) : (Eff.faulted k s).KeepsClock c ↔ s.clock = c := by
  unfold Eff.faulted; split <;> rfl

theorem Eff.faulted_clock (k : Nat) (s : State) : (Eff.faulted k s).KeepsClock s.clock := by
  unfold Eff.faulted; split <;> rfl

theorem laneOp_clock (i : Instr) (d : BitVec 7) (s : State) (f : Group → Nat → Word) : KeepsClock s.clock (laneOp i d s f) :=
  issue_clock fun s _ _ => s.withGroup_clock _

theorem pairOp_clock (i : Instr) (d : BitVec 7) (s : State) (f : Group → Nat → DWord) : KeepsClock s.clock (pairOp i d s f) :=
  issue_clock fun s _ _ => s.withGroup_clock _

theorem predOp_clock (i : Instr) (d : BitVec 7) (n : Nat) (s : State) (r : Group → Nat → Bool) :
    KeepsClock s.clock (predOp i d n s r) :=
  issue_clock fun s _ _ => s.withGroup_clock _

theorem uniformOp_clock (i : Instr) (s : State) (f : Group → Nat → Group) : KeepsClock s.clock (uniformOp i s f) := by
  refine issue_clock fun s _ _ => ?_
  dsimp only
  split
  · exact s.withGroup_clock _
  · rfl

theorem combine_clock (i : Instr) (d : BitVec 7) (s : State) (f : Group → Word → Nat → Word) :
    KeepsClock s.clock (combine i d s f) := by
  refine issue_clock fun s _ _ => ?_
  split
  · rfl
  · exact s.withGroup_clock _

theorem once_clock {i : Instr} {s : State} {f : State → Group → Nat → Eff} (h : ∀ s g n, (f s g n).KeepsClock s.clock) :
    KeepsClock s.clock (once i s f) := by
  refine issue_clock fun s g m => ?_
  dsimp only
  split
  · exact h ..
  · rfl

theorem lane1_clock (i : Instr) (f : FmtA) (s : State) (op : Word → Word) : KeepsClock s.clock (lane1 i f s op) :=
  laneOp_clock ..

theorem lane2_clock (i : Instr) (f : FmtA) (s : State) (op : Word → Word → Word) : KeepsClock s.clock (lane2 i f s op) :=
  laneOp_clock ..

theorem lane3_clock (i : Instr) (f : FmtA) (s : State) (op : Word → Word → Word → Word) :
    KeepsClock s.clock (lane3 i f s op) :=
  laneOp_clock ..

theorem laneI_clock (i : Instr) (f : FmtB) (s : State) (op : Word → BitVec 7 → Word) : KeepsClock s.clock (laneI i f s op) :=
  laneOp_clock ..

theorem shuffle_clock (i : Instr) (d a : BitVec 7) (s : State) (j : Group → Nat → Nat) :
    KeepsClock s.clock (shuffle i d a s j) :=
  laneOp_clock ..

theorem pair2_clock (i : Instr) (f : FmtA) (s : State) (op : DWord → DWord → DWord) : KeepsClock s.clock (pair2 i f s op) :=
  pairOp_clock ..

theorem cmp2_clock (i : Instr) (f : FmtA) (s : State) (rel : Word → Word → Bool) : KeepsClock s.clock (cmp2 i f s rel) :=
  predOp_clock ..

theorem pred2_clock (i : Instr) (f : FmtA) (s : State) (rel : Bool → Bool → Bool) : KeepsClock s.clock (pred2 i f s rel) :=
  predOp_clock ..

theorem memIssue_clock (i : Instr) (opc : Nat) (f : FmtD) (s : State) : KeepsClock s.clock (memIssue i opc f s) := by
  refine issue_clock fun s g m => ?_
  dsimp only
  iterate 3 (split; · trivial)
  split
  · rfl
  split
  · exact State.logEnter_clock ..
  split
  next s2 h => exact (congrArg (·.1.clock) h).symm.trans (postLanes_clock ..)
  next s2 fl x h =>
    rw [Eff.faulted_keepsClock, State.xlatReport_clock, State.logEnter_clock]
    exact (congrArg (·.1.clock) h).symm.trans (postLanes_clock ..)

theorem spadIssue_clock (i : Instr) (opc : Nat) (f : FmtDS) (s : State) : KeepsClock s.clock (spadIssue i opc f s) := by
  refine issue_clock fun s g m => ?_
  grind [Eff.KeepsClock, State.clock, !State.logEnter_clock, !State.spadAccess_clock, foldl_clock]

/-- An effect that is a trap, if it is there at all. -/
theorem map_trap_clock {α : Type} {o : Option α} {f : α → Eff} {e : Eff} (h : o.map f = some e)
    (hf : ∀ a c, (f a).KeepsClock c) (c : DWord × DWord) : e.KeepsClock c := by
  obtain ⟨a, -, rfl⟩ := Option.map_eq_some_iff.1 h
  exact hf a c

theorem bindingTrap_clock {s : State} {t : Team} {tiles hs : List Nat} {ok : HandleTest} {e : Eff}
    (h : bindingTrap s t tiles ok hs = some e) (c : DWord × DWord) : e.KeepsClock c := by
  unfold bindingTrap at h
  split at h
  · cases h; trivial
  · exact map_trap_clock h (fun _ _ => trivial) c

theorem reasonTrap_clock {s : State} {rs : List (Nat × Nat)} {e : Eff} (h : reasonTrap s rs = some e) (c : DWord × DWord) :
    e.KeepsClock c :=
  map_trap_clock h (fun _ _ => trivial) c

theorem handleIssue_clock {s : State} {g : Group} {tiles hs : List Nat} {ok : HandleTest} {body : Team → Eff}
    (h : ∀ t, (body t).KeepsClock s.clock) : (handleIssue s g tiles ok hs body).KeepsClock s.clock := by
  unfold handleIssue
  grind [Eff.KeepsClock, bindingTrap_clock]

theorem mma_clock (i : Instr) (op t : Nat) (f : FmtF) (s : State) : KeepsClock s.clock (mma i op t f s) := by
  refine issue_clock fun s g m => handleIssue_clock fun tm => ?_
  grind [Eff.KeepsClock, State.advanceHandle_clock, foldl_clock, State.postEntries_clock, State.setGroup_clock]

theorem moveIssue_clock {s : State} {g : Group} {tiles : List Nat} {f : Entry → Entry} {after : State → Nat → State}
    (h : ∀ s n, (after s n).clock = s.clock) : (moveIssue s g tiles f after).KeepsClock s.clock := by
  unfold moveIssue
  refine handleIssue_clock fun _ => ?_
  grind [Eff.KeepsClock, State.postEntries_clock]

theorem postQuarters_clock (s : State) (g : Group) (f : Entry → Nat → Entry) (hs : List Nat) (l : Latch) :
    (postQuarters s g f hs l).KeepsClock s.clock := by
  unfold postQuarters
  grind [Eff.KeepsClock, State.advanceHandle_clock, foldl_clock, State.postEntries_clock, State.setGroup_clock]

theorem cmdIssue_clock {i : Instr} {x : CmdForm} {s : State} {named : List Nat} {check : Group → Option Eff}
    {fill : Group → Nat → Cmd → Cmd} {after : State → Group → State}
    (hc : ∀ g e, check g = some e → ∀ c, e.KeepsClock c)
    (ha : ∀ s g, (after s g).clock = s.clock) : KeepsClock s.clock (cmdIssue i x s named check fill after) := by
  refine issue_clock fun s g m => ?_
  grind [Eff.KeepsClock, State.onCore_clock, State.clock]

theorem plainCmd_clock (i : Instr) (op m : Nat) (f : FmtG) (n : Nat) (u : Bool) (s : State) :
    KeepsClock s.clock (plainCmd i op m f n u s) :=
  by
  unfold plainCmd
  exact cmdIssue_clock (fun _ _ h => nomatch h) fun _ _ => rfl

theorem qenqIssue_clock (i : Instr) (m : Nat) (f : FmtG) (s : State) : KeepsClock s.clock (qenqIssue i m f s) :=
  by
  unfold qenqIssue
  exact cmdIssue_clock (fun _ _ h => nomatch h) fun _ _ => rfl

theorem tokenCmd_clock (i : Instr) (m : Nat) (f : FmtG) (s : State) : KeepsClock s.clock (tokenCmd i m f s) :=
  by
  unfold tokenCmd
  exact cmdIssue_clock (fun _ _ h => nomatch h) fun _ _ => rfl

theorem kvIssue_clock (i : Instr) (m : Nat) (f : FmtG) (s : State) : KeepsClock s.clock (kvIssue i m f s) :=
  by
  unfold kvIssue
  exact cmdIssue_clock (fun _ _ h => nomatch h) fun _ _ => rfl

theorem copyIssue_clock (i : Instr) (op : Nat) (ok : HandleTest) (f : FmtCopy) (s : State) :
    KeepsClock s.clock (copyIssue i op ok f s) :=
  cmdIssue_clock (fun _ _ h => map_trap_clock h fun _ _ => trivial) fun _ _ => State.advanceHandle_clock ..

theorem areaIssue_clock {s : State} {a : Nat} {acc : AccessKind} {go : State → Nat → State}
    (h : ∀ s n, (go s n).clock = s.clock) : (areaIssue s a acc go).KeepsClock s.clock := by
  unfold areaIssue
  grind [Eff.KeepsClock, !translate_clock]

theorem branch_clock {s : State} {ts : List (Nat × Nat)} {link : State → State} (h : ∀ s, (link s).clock = s.clock) :
    (branch s ts link).KeepsClock s.clock := by
  unfold branch
  grind [Eff.KeepsClock, !checkTargets_clock, State.fetchFails_clock, State.onGroup_clock, foldl_clock, State.advance_clock]

theorem trapNow_clock (s : State) (m : Word) (a b : Nat) : (trapNow s m a b).KeepsClock s.clock := by
  unfold trapNow
  grind [Eff.KeepsClock, State.advance_clock, State.takeFault_clock]

theorem execLdk_clock (f : FmtC) (s : State) : KeepsClock s.clock (execLdk f s) := by
  refine issue_clock fun s g m => ?_
  grind [Eff.KeepsClock, State.clock, !fetch_clock, State.onGroup_clock, !State.logEnter_clock, Eff.faulted_clock,
    State.xlatReport_clock]

theorem execLaunch_clock (f : FmtA) (s : State) : KeepsClock s.clock (execLaunch f s) := by
  refine issue_clock fun s g m => ?_
  grind [Eff.KeepsClock, State.clock, State.withGroup_clock, getD_clock, State.onGroup_clock, State.setGroup_clock, →
    State.answerLaunch_clock]

theorem execTbarSync_clock (f : FmtA) (s : State) : KeepsClock s.clock (execTbarSync f s) := by
  refine issue_clock fun s g m => ?_
  grind [Eff.KeepsClock, State.onGroup_clock, State.tbarArrive_clock]

theorem execTbarArv_clock (f : FmtA) (s : State) : KeepsClock s.clock (execTbarArv f s) := by
  refine issue_clock fun s g m => ?_
  grind [Eff.KeepsClock, State.withGroup_clock, State.tbarArrive_clock]

theorem execFence_clock (f : FmtFence) (s : State) : KeepsClock s.clock (execFence f s) := by
  refine issue_clock fun s g m => ?_
  grind [Eff.KeepsClock, State.clock, State.setGroup_clock, State.endFence_clock]

theorem execAtqk_clock (f : FmtAtt) (s : State) : KeepsClock s.clock (execAtqk f s) :=
  issue_clock fun _ _ _ => handleIssue_clock fun _ => postQuarters_clock ..

theorem execAtsm_clock (f : FmtAtt) (s : State) : KeepsClock s.clock (execAtsm f s) :=
  issue_clock fun _ _ _ => handleIssue_clock fun _ => postQuarters_clock ..

theorem execAtpv_clock (f : FmtAtt) (s : State) : KeepsClock s.clock (execAtpv f s) := by
  refine issue_clock fun s g m => ?_
  dsimp only
  split
  next h => exact reasonTrap_clock h _
  next => exact handleIssue_clock fun _ => postQuarters_clock ..

theorem execAtfn_clock (f : FmtAtt) (s : State) : KeepsClock s.clock (execAtfn f s) := by
  refine issue_clock fun s g m => ?_
  dsimp only
  split
  next h => exact reasonTrap_clock h _
  next => exact handleIssue_clock fun _ => postQuarters_clock ..

theorem execCsrrd_clock (f : FmtSys) (s : State) : KeepsClock s.clock (execCsrrd f s) := by
  refine issue_clock fun s g m => ?_
  grind [Eff.KeepsClock, State.withGroup_clock]

theorem execCsrwr_clock (f : FmtSys) (s : State) : KeepsClock s.clock (execCsrwr f s) := by
  refine issue_clock fun s g m => ?_
  grind [Eff.KeepsClock, State.csrStore_clock]

theorem execEret_clock (f : FmtSys) (s : State) : KeepsClock s.clock (execEret f s) := by
  refine issue_clock fun s g m => ?_
  grind [Eff.KeepsClock, State.onManager_clock, State.eretGroup_clock]

theorem execHalt_clock (f : FmtSys) (s : State) : KeepsClock s.clock (execHalt f s) := by
  refine issue_clock fun s g m => ?_
  grind [Eff.KeepsClock, State.onManager_clock]

theorem execTlbinv_clock (f : FmtSys) (s : State) : KeepsClock s.clock (execTlbinv f s) := by
  refine issue_clock fun s g m => ?_
  grind [Eff.KeepsClock, State.dropTlbs_clock]

theorem execWinrd_clock (f : FmtSys) (s : State) : KeepsClock s.clock (execWinrd f s) := by
  refine issue_clock fun s g m => ?_
  grind [Eff.KeepsClock, State.withGroup_clock]

theorem execWinwr_clock (f : FmtSys) (s : State) : KeepsClock s.clock (execWinwr f s) := by
  refine issue_clock fun s g m => ?_
  grind [Eff.KeepsClock, State.windowWrite_clock]

theorem execCtxsave_clock (f : FmtSys) (s : State) : KeepsClock s.clock (execCtxsave f s) := by
  refine issue_clock fun s g m => ?_
  split
  · rfl
  · exact areaIssue_clock fun s n => foldl_clock _ (fun _ _ => State.engineStore_clock ..) _ _

theorem execCtxload_clock (f : FmtSys) (s : State) : KeepsClock s.clock (execCtxload f s) := by
  refine issue_clock fun s g m => ?_
  split
  · rfl
  · exact areaIssue_clock fun s n => State.onContext_clock ..

theorem execExit_clock (f : FmtA) (s : State) : KeepsClock s.clock (execExit f s) := by
  refine issue_clock fun s g m => ?_
  grind [Eff.KeepsClock, State.advance_clock, State.onGroup_clock]

theorem execXbarWait_clock (f : FmtBlock) (s : State) : KeepsClock s.clock (execXbarWait f s) := by
  refine cmdIssue_clock (fun _ e h c => ?_) fun _ _ => rfl
  split at h
  · cases h; trivial
  · cases h

theorem execWaitch_clock (f : FmtA) (s : State) : KeepsClock s.clock (execWaitch f s) := by
  refine once_clock fun s g n => ?_
  grind [Eff.KeepsClock, State.acquire_clock, State.withGroup_clock]

theorem execSleep_clock (f : FmtA) (s : State) : KeepsClock s.clock (execSleep f s) := by
  refine once_clock fun s g n => ?_
  grind [Eff.KeepsClock, State.endTurn_clock, State.setGroup_clock]

end Sys2Proof.Machine
end

section
/-! PROOF. The time counters (O42): the events. -/

namespace Sys2Proof.Machine

theorem onEvent_clock {s : State} {f : Event → Option State} (h : ∀ e t, f e = some t → t.clock = s.clock) :
    KeepsClock s.clock (onEvent s f) := by
  unfold onEvent
  split
  · rfl
  next e _ =>
    cases he : f e with
    | none => rfl
    | some t => exact h e t he

theorem execTurnGrant_clock (s : State) : KeepsClock s.clock (execTurnGrant s) := by
  refine onEvent_clock fun e t h => ?_
  split at h
  next => grind [State.clock, State.onGroup_clock, State.onPart_clock]
  next => cases h

theorem execTurnTimeLimit_clock (s : State) : KeepsClock s.clock (execTurnTimeLimit s) := by
  refine onEvent_clock fun e t h => ?_
  split at h
  next => grind [State.clock, → endTurnIf_clock]
  next => cases h

theorem execTurnInstructionLimit_clock (s : State) : KeepsClock s.clock (execTurnInstructionLimit s) := by
  refine onEvent_clock fun e t h => ?_
  split at h
  next => grind [State.clock, → endTurnIf_clock]
  next => cases h

theorem execSleepExpiry_clock (s : State) : KeepsClock s.clock (execSleepExpiry s) := by
  refine onEvent_clock fun e t h => ?_
  split at h
  next => grind [State.clock, State.onGroup_clock]
  next => cases h

theorem execRecordDelivery_clock (s : State) : KeepsClock s.clock (execRecordDelivery s) := by
  refine onEvent_clock fun e t h => ?_
  split at h
  next => grind [State.clock, → State.deliver1_clock]
  next => cases h

theorem execChargeWrite_clock (s : State) : KeepsClock s.clock (execChargeWrite s) := by
  refine onEvent_clock fun e t h => ?_
  split at h
  next => grind [State.clock, State.deviceWrite_clock]
  next => cases h

theorem execPageWalk_clock (s : State) : KeepsClock s.clock (execPageWalk s) := by
  refine onEvent_clock fun e t h => ?_
  split at h
  next => grind [State.clock, !walk_clock, State.onCore_clock, State.onQuad_clock]
  next => cases h

theorem execWalkAheadTranslation_clock (s : State) : KeepsClock s.clock (execWalkAheadTranslation s) := by
  refine onEvent_clock fun e t h => ?_
  split at h
  next => grind [State.clock, State.onQuad_clock, State.countDrop_clock]
  next => cases h

theorem execOperandFetchCopy_clock (s : State) : KeepsClock s.clock (execOperandFetchCopy s) := by
  refine onEvent_clock fun e t h => ?_
  split at h
  next => grind [State.clock, State.countDrop_clock, → State.fetchEntry_clock]
  next => cases h

theorem execHomeRenewal_clock (s : State) : KeepsClock s.clock (execHomeRenewal s) := by
  refine onEvent_clock fun e t h => ?_
  split at h
  next => grind [State.clock, → State.meetHome_clock, State.serveLoad_clock]
  next => cases h

theorem execHomeWrite_clock (s : State) : KeepsClock s.clock (execHomeWrite s) := by
  refine onEvent_clock fun e t h => ?_
  split at h
  next => grind [State.clock, → State.meetHome_clock, State.serveStore_clock]
  next => cases h

theorem execMemoryReply_clock (s : State) : KeepsClock s.clock (execMemoryReply s) := by
  refine onEvent_clock fun e t h => ?_
  split at h
  next id =>
    grind [Option.map_eq_some_iff, State.reply_clock, State.thawAccess_clock, State.loadHit_clock, State.noteEarly_clock]
  next => cases h

theorem execRemoteL2Renewal_clock (s : State) : KeepsClock s.clock (execRemoteL2Renewal s) := by
  refine onEvent_clock fun e t h => ?_
  split at h
  next => grind [State.clock, State.setStatus_clock, State.noteEarly_clock]
  next => cases h

theorem execL2Eviction_clock (s : State) : KeepsClock s.clock (execL2Eviction s) := by
  refine onEvent_clock fun e t h => ?_
  split at h
  next => grind [State.clock, State.evictHome_clock]
  next => cases h

theorem execLtTick_clock (s : State) : KeepsClock s.clock (execLtTick s) := by
  refine onEvent_clock fun e t h => ?_
  split at h
  next => grind [State.clock, State.onDie_clock]
  next => cases h

theorem execRebase_clock (s : State) : KeepsClock s.clock (execRebase s) := by
  refine onEvent_clock fun e t h => ?_
  split at h
  next => grind [State.clock, State.rebase_clock]
  next => cases h

theorem execRebaseSignal_clock (s : State) : KeepsClock s.clock (execRebaseSignal s) := by
  refine onEvent_clock fun e t h => ?_
  split at h
  next => grind [State.clock, State.rebase_clock]
  next => cases h

theorem execPinRetry_clock (s : State) : KeepsClock s.clock (execPinRetry s) := by
  refine onEvent_clock fun e t h => ?_
  split at h
  next => grind [State.clock, → State.meetHome_clock, State.serveStore_clock, State.serveLoad_clock]
  next => cases h

theorem execDomainViolation_clock (s : State) : KeepsClock s.clock (execDomainViolation s) := by
  refine onEvent_clock fun e t h => ?_
  split at h
  next => grind [State.clock, State.dropAccess_clock, State.accessFault_clock]
  next => cases h

theorem execFabricRead_clock (s : State) : KeepsClock s.clock (execFabricRead s) := by
  refine onEvent_clock fun e t h => ?_
  split at h
  next => grind [State.clock, State.heard_clock, State.setMeta_clock, State.setHome_clock, → State.farMeet_clock,
    Option.map_eq_some_iff]
  next => cases h

theorem execFabricWrite_clock (s : State) : KeepsClock s.clock (execFabricWrite s) := by
  refine onEvent_clock fun e t h => ?_
  split at h
  next => grind [State.clock, State.heard_clock, State.noteSpan_clock, State.setMeta_clock, !homeStamp_clock, →
    State.farMeet_clock, Option.map_eq_some_iff]
  next => cases h

theorem execOwnerForward_clock (s : State) : KeepsClock s.clock (execOwnerForward s) := by
  refine onEvent_clock fun e t h => ?_
  split at h
  next => grind [State.clock, State.heard_clock, State.raiseAway_clock, State.dropLine_clock, !homeRenew_clock, →
    State.farMeet_clock, Option.map_eq_some_iff]
  next => cases h

theorem execOwnerWriteback_clock (s : State) : KeepsClock s.clock (execOwnerWriteback s) := by
  refine onEvent_clock fun e t h => ?_
  split at h
  next => grind [State.clock, State.setHome_clock, State.heard_clock, State.poke_clock, State.setMeta_clock]
  next => cases h

theorem execHostAccess_clock (s : State) : KeepsClock s.clock (execHostAccess s) := by
  refine onEvent_clock fun e t h => ?_
  split at h
  case h_6 => cases h
  all_goals grind [State.clock, State.noteSpan_clock, State.hostDirect_clock, State.hostStores_clock, State.windowStore_clock]

theorem execHostSnoop_clock (s : State) : KeepsClock s.clock (execHostSnoop s) := by
  refine onEvent_clock fun e t h => ?_
  split at h
  next => grind [State.clock, State.deviceStore_clock, State.noteSpan_clock, !homeRenew_clock]
  next => cases h

theorem execLaunchTrigger_clock (s : State) : KeepsClock s.clock (execLaunchTrigger s) := by
  refine onEvent_clock fun e t h => ?_
  split at h
  next => grind [State.clock, State.windowStore_clock]
  next => cases h

theorem execLaunchRecordParse_clock (s : State) : KeepsClock s.clock (execLaunchRecordParse s) := by
  refine onEvent_clock fun e t h => ?_
  split at h
  next => grind [State.clock, → State.parseCopy_clock]
  next => cases h

theorem execHoldBufferRelease_clock (s : State) : KeepsClock s.clock (execHoldBufferRelease s) := by
  refine onEvent_clock fun e t h => ?_
  split at h
  next => grind [State.clock, State.acceptHost_clock]
  next => cases h

theorem execDispatchDecision_clock (s : State) : KeepsClock s.clock (execDispatchDecision s) := by
  refine onEvent_clock fun e t h => ?_
  split at h
  next => grind [State.clock, → State.decision_clock]
  next => cases h

theorem execTeamResident_clock (s : State) : KeepsClock s.clock (execTeamResident s) := by
  refine onEvent_clock fun e t h => ?_
  split at h
  next => grind [State.clock, → State.becomeResident_clock]
  next => cases h

theorem execGroupPlaceRelease_clock (s : State) : KeepsClock s.clock (execGroupPlaceRelease s) := by
  refine onEvent_clock fun e t h => ?_
  split at h
  next => grind [State.clock, State.onTeam_clock]
  next => cases h

theorem execTeamLeave_clock (s : State) : KeepsClock s.clock (execTeamLeave s) := by
  refine onEvent_clock fun e t h => ?_
  split at h
  next => grind [State.clock, State.removeTeam_clock]
  next => cases h

theorem execGridRetire_clock (s : State) : KeepsClock s.clock (execGridRetire s) := by
  refine onEvent_clock fun e t h => ?_
  split at h
  next => grind [State.clock, State.onGrid_clock, State.completeGrid_clock, State.retireGrid_clock]
  next => cases h

theorem execPreemptVictimChoice_clock (s : State) : KeepsClock s.clock (execPreemptVictimChoice s) := by
  refine onEvent_clock fun e t h => ?_
  split at h
  next => grind [State.clock, → State.chooseVictim_clock]
  next => cases h

theorem execPreemptSave_clock (s : State) : KeepsClock s.clock (execPreemptSave s) := by
  refine onEvent_clock fun e t h => ?_
  split at h
  next => grind [State.clock, State.saveTeam_clock]
  next => cases h

theorem execPreemptAbandon_clock (s : State) : KeepsClock s.clock (execPreemptAbandon s) := by
  refine onEvent_clock fun e t h => ?_
  split at h
  next => grind [State.clock, State.abandon_clock]
  next => cases h

theorem execTeamRestore_clock (s : State) : KeepsClock s.clock (execTeamRestore s) := by
  refine onEvent_clock fun e t h => ?_
  split at h
  next => grind [State.clock, State.restoreTeam_clock]
  next => cases h

theorem execBatchFormerStep_clock (s : State) : KeepsClock s.clock (execBatchFormerStep s) := by
  refine onEvent_clock fun e t h => ?_
  split at h
  next => grind [State.clock, State.formerStep_clock]
  next => cases h

theorem execBatchFormerIdleTimer_clock (s : State) : KeepsClock s.clock (execBatchFormerIdleTimer s) := by
  refine onEvent_clock fun e t h => ?_
  split at h
  next => grind [State.clock, State.formerStep_clock]
  next => cases h

theorem execBoardPass_clock (s : State) : KeepsClock s.clock (execBoardPass s) := by
  refine onEvent_clock fun e t h => ?_
  split at h
  next => grind [State.clock, State.onQuad_clock]
  next => cases h

theorem execMatrixOpComplete_clock (s : State) : KeepsClock s.clock (execMatrixOpComplete s) := by
  refine onEvent_clock fun e t h => ?_
  split at h
  next => grind [State.clock, State.onQuad_clock, State.runEntry_clock, State.unbusy_clock]
  next => cases h

theorem execGuardResolve_clock (s : State) : KeepsClock s.clock (execGuardResolve s) := by
  refine onEvent_clock fun e t h => ?_
  split at h
  next => grind [State.clock, State.popQueue_clock, State.finishCmd_clock]
  next => cases h

theorem execTcopySectorWrite_clock (s : State) : KeepsClock s.clock (execTcopySectorWrite s) := by
  refine onEvent_clock fun e t h => ?_
  split at h
  next => grind [State.clock, → sectorEvent_clock]
  next => cases h

theorem execTstoreSectorRead_clock (s : State) : KeepsClock s.clock (execTstoreSectorRead s) := by
  refine onEvent_clock fun e t h => ?_
  split at h
  next => grind [State.clock, → sectorEvent_clock]
  next => cases h

theorem execBindingEnd_clock (s : State) : KeepsClock s.clock (execBindingEnd s) := by
  refine onEvent_clock fun e t h => ?_
  split at h
  next => grind [State.clock, State.dropPin_clock, foldl_clock]
  next => cases h

theorem execGroupCancel_clock (s : State) : KeepsClock s.clock (execGroupCancel s) := by
  refine onEvent_clock fun e t h => ?_
  split at h
  next => grind [State.clock, State.cancelGroup_clock]
  next => cases h

theorem execCancelledCommandStop_clock (s : State) : KeepsClock s.clock (execCancelledCommandStop s) := by
  refine onEvent_clock fun e t h => ?_
  split at h
  next => grind [State.clock, State.finishCmd_clock, State.releaseBlock_clock, State.withdrawCmd_clock]
  next => cases h

theorem execCollTimeout_clock (s : State) : KeepsClock s.clock (execCollTimeout s) := by
  refine onEvent_clock fun e t h => ?_
  split at h
  next => grind [State.clock, State.endInstance_clock]
  next => cases h

theorem execCollInstanceRelease_clock (s : State) : KeepsClock s.clock (execCollInstanceRelease s) := by
  refine onEvent_clock fun e t h => ?_
  split at h
  next => grind [State.clock]
  next => cases h

theorem execMigrationGo_clock (s : State) : KeepsClock s.clock (execMigrationGo s) := by
  refine onEvent_clock fun e t h => ?_
  split at h
  next => grind [State.clock, State.writeCtx_clock]
  next => cases h

theorem execMigrationRound_clock (s : State) : KeepsClock s.clock (execMigrationRound s) := by
  refine onEvent_clock fun e t h => ?_
  split at h
  next => grind [State.clock, State.nextRound_clock]
  next => cases h

theorem execMigrationFreeze_clock (s : State) : KeepsClock s.clock (execMigrationFreeze s) := by
  refine onEvent_clock fun e t h => ?_
  split at h
  next => grind [State.clock, → State.freezeMove_clock]
  next => cases h

theorem execQsyncWrite_clock (s : State) : KeepsClock s.clock (execQsyncWrite s) := by
  refine onEvent_clock fun e t h => ?_
  split at h
  next => grind [State.clock, State.qsync_clock]
  next => cases h

theorem execRdcollGo_clock (s : State) : KeepsClock s.clock (execRdcollGo s) := by
  refine onEvent_clock fun e t h => ?_
  split at h
  next => grind [State.clock, State.startCollapse_clock]
  next => cases h

theorem execRdcollDone_clock (s : State) : KeepsClock s.clock (execRdcollDone s) := by
  refine onEvent_clock fun e t h => ?_
  split at h
  next => grind [State.clock, → State.endCollapse_clock]
  next => cases h

theorem execKvpoolWrite_clock (s : State) : KeepsClock s.clock (execKvpoolWrite s) := by
  refine onEvent_clock fun e t h => ?_
  split at h
  next => grind [State.clock, State.writePool_clock]
  next => cases h

theorem execFrsizeWrite_clock (s : State) : KeepsClock s.clock (execFrsizeWrite s) := by
  refine onEvent_clock fun e t h => ?_
  split at h
  next => grind [State.clock, State.writeCtx_clock]
  next => cases h

theorem execFrlostClear_clock (s : State) : KeepsClock s.clock (execFrlostClear s) := by
  refine onEvent_clock fun e t h => ?_
  split at h
  next => grind [State.clock, State.writeCtx_clock]
  next => cases h

theorem execMclostClear_clock (s : State) : KeepsClock s.clock (execMclostClear s) := by
  refine onEvent_clock fun e t h => ?_
  split at h
  next => grind [State.clock, State.deviceWrite_clock]
  next => cases h

theorem execSpecdropClear_clock (s : State) : KeepsClock s.clock (execSpecdropClear s) := by
  refine onEvent_clock fun e t h => ?_
  split at h
  next => grind [State.clock, State.deviceWrite_clock]
  next => cases h

theorem execNopagecntClear_clock (s : State) : KeepsClock s.clock (execNopagecntClear s) := by
  refine onEvent_clock fun e t h => ?_
  split at h
  next => grind [State.clock, State.deviceWrite_clock]
  next => cases h

theorem execMptbaseWrite_clock (s : State) : KeepsClock s.clock (execMptbaseWrite s) := by
  refine onEvent_clock fun e t h => ?_
  split at h
  next => grind [State.clock, State.deviceWrite_clock]
  next => cases h

theorem execSchedctlWrite_clock (s : State) : KeepsClock s.clock (execSchedctlWrite s) := by
  refine onEvent_clock fun e t h => ?_
  split at h
  next => grind [State.clock, State.writeSched_clock]
  next => cases h

theorem execCsrWrite_clock (s : State) : KeepsClock s.clock (execCsrWrite s) := by
  refine onEvent_clock fun e t h => ?_
  split at h
  next => grind [State.clock, State.csrStore_clock]
  next => cases h

theorem execOwnerWrite_clock (s : State) : KeepsClock s.clock (execOwnerWrite s) := by
  refine onEvent_clock fun e t h => ?_
  split at h
  next => grind [State.clock, State.controlStore_clock]
  next => cases h

theorem execControlRegisterWrite_clock (s : State) : KeepsClock s.clock (execControlRegisterWrite s) := by
  refine onEvent_clock fun e t h => ?_
  split at h
  next => grind [State.clock, State.controlStore_clock]
  next => cases h

theorem execDeniedClear_clock (s : State) : KeepsClock s.clock (execDeniedClear s) := by
  refine onEvent_clock fun e t h => ?_
  split at h
  next => grind [State.clock, State.controlStore_clock]
  next => cases h

theorem execLrefuseClear_clock (s : State) : KeepsClock s.clock (execLrefuseClear s) := by
  refine onEvent_clock fun e t h => ?_
  split at h
  next => grind [State.clock, State.controlStore_clock]
  next => cases h

theorem execErrorCounterClear_clock (s : State) : KeepsClock s.clock (execErrorCounterClear s) := by
  refine onEvent_clock fun e t h => ?_
  split at h
  next => grind [State.clock, State.controlStore_clock]
  next => cases h

theorem execVersionSelect_clock (s : State) : KeepsClock s.clock (execVersionSelect s) := by
  refine onEvent_clock fun e t h => ?_
  split at h
  next => grind [State.clock, State.controlStore_clock]
  next => cases h

theorem execCoreReset_clock (s : State) : KeepsClock s.clock (execCoreReset s) := by
  refine onEvent_clock fun e t h => ?_
  split at h
  next => grind [State.clock, State.onCtl_clock, State.clearPending_clock, State.coreReset_clock]
  next => cases h

theorem execUncoreReset_clock (s : State) : KeepsClock s.clock (execUncoreReset s) := by
  refine onEvent_clock fun e t h => ?_
  split at h
  next => grind [State.clock, State.uncoreStart_clock]
  next => cases h

theorem execUncoreResetComplete_clock (s : State) : KeepsClock s.clock (execUncoreResetComplete s) := by
  refine onEvent_clock fun e t h => ?_
  split at h
  next => grind [State.clock, State.uncoreDone_clock]
  next => cases h

theorem execDieLost_clock (s : State) : KeepsClock s.clock (execDieLost s) := by
  refine onEvent_clock fun e t h => ?_
  split at h
  next => grind [State.clock, State.loseDie_clock]
  next => cases h

theorem execLoadimage_clock (s : State) : KeepsClock s.clock (execLoadimage s) := by
  refine onEvent_clock fun e t h => ?_
  split at h
  next => grind [State.clock, → mailCommand_clock, State.loadImage_clock]
  next => cases h

theorem execAttest_clock (s : State) : KeepsClock s.clock (execAttest s) := by
  refine onEvent_clock fun e t h => ?_
  split at h
  next => grind [State.clock, → mailCommand_clock, State.attestWith_clock]
  next => cases h

theorem execGetpub_clock (s : State) : KeepsClock s.clock (execGetpub s) := by
  refine onEvent_clock fun e t h => ?_
  split at h
  next => grind [State.clock, → mailCommand_clock, State.mailDone_clock]
  next => cases h

theorem execRaisemin_clock (s : State) : KeepsClock s.clock (execRaisemin s) := by
  refine onEvent_clock fun e t h => ?_
  split at h
  next => grind [State.clock, → mailCommand_clock, State.onCtl_clock, State.mailDone_clock]
  next => cases h

theorem execImageinfo_clock (s : State) : KeepsClock s.clock (execImageinfo s) := by
  refine onEvent_clock fun e t h => ?_
  split at h
  next => grind [State.clock, → mailCommand_clock, State.mailDone_clock, getD_clock]
  next => cases h

theorem execAttestctx_clock (s : State) : KeepsClock s.clock (execAttestctx s) := by
  refine onEvent_clock fun e t h => ?_
  split at h
  next => grind [State.clock, → mailCommand_clock, State.attestWith_clock]
  next => cases h

theorem execThermalThrottle_clock (s : State) : KeepsClock s.clock (execThermalThrottle s) := by
  refine onEvent_clock fun e t h => ?_
  split at h
  next => grind [State.clock, State.onCtl_clock]
  next => cases h

theorem execThermalRelease_clock (s : State) : KeepsClock s.clock (execThermalRelease s) := by
  refine onEvent_clock fun e t h => ?_
  split at h
  next => grind [State.clock, State.onCtl_clock]
  next => cases h

theorem execThermalShutdown_clock (s : State) : KeepsClock s.clock (execThermalShutdown s) := by
  refine onEvent_clock fun e t h => ?_
  split at h
  next => grind [State.clock, State.onCtl_clock]
  next => cases h

theorem execStructureFailed_clock (s : State) : KeepsClock s.clock (execStructureFailed s) := by
  refine onEvent_clock fun e t h => ?_
  split at h
  next => grind [State.clock, State.onCtl_clock, State.onQuad_clock, State.narrow_clock]
  next => cases h

theorem execQuadSubstitution_clock (s : State) : KeepsClock s.clock (execQuadSubstitution s) := by
  refine onEvent_clock fun e t h => ?_
  split at h
  next => grind [State.clock, State.substitute_clock]
  next => cases h

theorem execPchanCopyComplete_clock (s : State) : KeepsClock s.clock (execPchanCopyComplete s) := by
  refine onEvent_clock fun e t h => ?_
  split at h
  next => grind [State.clock, State.onCtl_clock]
  next => cases h

theorem execHostLinkUp_clock (s : State) : KeepsClock s.clock (execHostLinkUp s) := by
  refine onEvent_clock fun e t h => ?_
  split at h
  next => grind [State.clock]
  next => cases h

theorem execLinkTraining_clock (s : State) : KeepsClock s.clock (execLinkTraining s) := by
  refine onEvent_clock fun e t h => ?_
  split at h
  next => grind [State.clock, State.onPort_clock]
  next => cases h

theorem execFlitReceive_clock (s : State) : KeepsClock s.clock (execFlitReceive s) := by
  refine onEvent_clock fun e t h => ?_
  split at h
  next => grind [State.clock, → State.receiveFlit_clock]
  next => cases h

theorem execFlitReplay_clock (s : State) : KeepsClock s.clock (execFlitReplay s) := by
  refine onEvent_clock fun e t h => ?_
  split at h
  next => grind [State.clock, → State.replayFlit_clock]
  next => cases h

theorem execLinkLaneFailure_clock (s : State) : KeepsClock s.clock (execLinkLaneFailure s) := by
  refine onEvent_clock fun e t h => ?_
  split at h
  next => grind [State.clock, State.narrow_clock]
  next => cases h

theorem execDeviceDeadDeclared_clock (s : State) : KeepsClock s.clock (execDeviceDeadDeclared s) := by
  refine onEvent_clock fun e t h => ?_
  split at h
  next => grind [State.clock, State.loseRanks_clock]
  next => cases h

theorem execLineReclaim_clock (s : State) : KeepsClock s.clock (execLineReclaim s) := by
  refine onEvent_clock fun e t h => ?_
  split at h
  next => grind [State.clock, State.setHome_clock, State.setMeta_clock]
  next => cases h

theorem execUtilisationWindow_clock (s : State) : KeepsClock s.clock (execUtilisationWindow s) := by
  refine onEvent_clock fun e t h => ?_
  split at h
  next d n =>
    have hd := s.onDie_clock d (·.closeWindow n) fun _ => rfl
    grind
  next => cases h

theorem execEngineCommandStart_clock (s : State) : KeepsClock s.clock (execEngineCommandStart s) := by
  refine onEvent_clock fun e t h => ?_
  split at h
  next => grind [State.clock, State.popQueue_clock, → State.startCmd_clock, Option.map_eq_some_iff]
  next => cases h

theorem execL2PrefetchTranslation_clock (s : State) : KeepsClock s.clock (execL2PrefetchTranslation s) := by
  refine onEvent_clock fun e t h => ?_
  split at h
  next => grind [State.clock, State.countDrop_clock]
  next => cases h

theorem execFabricRouteReprogram_clock (s : State) : KeepsClock s.clock (execFabricRouteReprogram s) := by
  refine onEvent_clock fun e t h => ?_
  split at h
  next => grind [State.clock, State.onPort_clock]
  next => cases h

end Sys2Proof.Machine
end

section
/-! PROOF. The time counters (O42): every row, every move, and a step. -/

namespace Sys2Proof.Machine

/-! ### Every row -/

/-- The events that change a die's time counter. -/
def setsClock : Event → Bool
  | .tcountTick | .packagePowerOnReset _ | .mailboxComplete => true
  | _ => false

theorem eq_of_setsClock {e : Event} (h : setsClock e = true) :
    e = .tcountTick ∨ (∃ us, e = .packagePowerOnReset us) ∨ e = .mailboxComplete := by
  cases e with
  | tcountTick => exact .inl rfl
  | packagePowerOnReset us => exact .inr (.inl ⟨us, rfl⟩)
  | mailboxComplete => exact .inr (.inr rfl)
  | _ => cases h

/-- The row of an event that changes a time counter keeps both while another event happens. -/
theorem onEvent_clock_other {s : State} {f : Event → Option State} (h : ∀ e, setsClock e = false → f e = none)
    (hs : ∀ e, s.cur.event = some e → setsClock e = false) : KeepsClock s.clock (onEvent s f) := by
  unfold onEvent
  split
  next => rfl
  next e he => rw [h e (hs e he)]; rfl

/-- No word changes a time counter, nor does an event other than the three. -/
theorem exec_clock (i : Instr) (s : State) (hs : ∀ e, s.cur.event = some e → setsClock e = false) :
    KeepsClock s.clock (exec i s) := by
  cases i
  all_goals dsimp only [exec]
  case iadd | isub | imul | imulhiS | imulhiU | idivS | idivU | iremS | iremU | iminS | iminU | imaxS | imaxU | and | or | xor |
      andn | shl | shrU | shrS | rotl | bfeU | bfeS | fadd | fsub | fmul | fmin | fmax | fdiv | fldexp | cvtF16x2F32 |
      cvtBf16x2F32 => exact lane2_clock ..
  case iadd64 | isub64 | dadd | dmul => exact pair2_clock ..
  case imad | bfi | idot4Sb | idot4Ub | ffma | hadd2 | hmul2 | hfma2 | badd2 | bmul2 | bfma2 | cvtE4m3x2F32 | cvtE5m2x2F32 =>
    exact lane3_clock ..
  case imadwS | imadwU | lea | dfma | cvtF64F32 => exact pairOp_clock ..
  case iabs | ineg | not | mov | popc | clz | brev | fabs | fneg | fsqrt | frcp | frsq | fex2 | flg2 | fsint | fcost | fexpo |
      fclass | cvtF32Sw | cvtF32Uw | cvtSwF32 | cvtUwF32 | dqfp4 => exact lane1_clock ..
  case shli | shriU | shriS | iaddi | b3ext | frnd | cvtF32F16 | cvtF32Bf16 | cvtF32E4m3 | cvtF32E5m2 => exact laneI_clock ..
  case movi | movhi | cvtF32F64 | p2v | lanemask => exact laneOp_clock ..
  case umov | umovi | uadd | ulea => exact uniformOp_clock ..
  case icmpEq | icmpNe | icmpLtS | icmpLeS | icmpLtU | icmpLeU | fcmpEq | fcmpNe | fcmpLt | fcmpLe | fcmpUo =>
    exact cmp2_clock ..
  case pand | por | pxor => exact pred2_clock ..
  case pnot => exact predOp_clock ..
  case shflIdx | shflUp | shflDn | shflXor => exact shuffle_clock ..
  case voteBal | matchLanes | reduxAdd | reduxMinS | reduxMaxS => exact combine_clock ..
  case ldUb | ldSb | ldUh | ldSh | ldW | ldD | ldQ | stB | stH | stW | stD | stQ | ldaW | ldaD | stlW | stlD | atomAdd |
      atomAdd64 | atomMinS | atomMaxS | atomAnd | atomOr | atomXchg | atomCas | atomFadd => exact memIssue_clock ..
  case ldsW | ldsD | ldsQ | stsW | stsD | stsQ => exact spadIssue_clock ..
  case mmaE2m1 | mmaE4m3 | mmaE5m2 | mmaBf16 | mmaF16 | mmaI8 => exact mma_clock ..
  case tcopy | tstore => exact copyIssue_clock ..
  case xbarInit | xbarArv | xbarArvExp | xbarArvAck | qdeqTry | treeFork | treePrune | treeCommit | treeQctx | treeQuery |
      sampleSubmit | sampleVerify | collAllred | collAllgath | collRedscat | collHistmrg => exact plainCmd_clock ..
  case qenq | qenqTry => exact qenqIssue_clock ..
  case treeAppend | treeAdopt => exact tokenCmd_clock ..
  case kvbindKp | kvbindVp | kvbindKt | kvbindVt | kvbindWk | kvbindWv => exact kvIssue_clock ..
  case sel | qfp4 | gset | voteAll | voteAny | sreg | v2p => exact issue_clock fun s _ _ => s.withGroup_clock _
  case nop | reservedOpcode => exact issue_clock fun _ _ _ => rfl
  case bra | brx | ret => exact issue_clock fun _ _ _ => branch_clock fun _ => rfl
  case call => exact issue_clock fun _ _ _ => branch_clock fun _ => State.onGroup_clock ..
  case trap | bkpt => exact issue_clock fun _ _ _ => trapNow_clock ..
  case accmv | accwr => exact issue_clock fun _ _ _ => moveIssue_clock fun _ _ => rfl
  case accrd => exact issue_clock fun _ _ _ => moveIssue_clock fun _ _ => State.onGroup_clock ..
  case yield => exact once_clock fun _ _ _ => State.endTurn_clock ..
  case setpri => exact once_clock fun s _ _ => s.withGroup_clock _
  case hbindSpad | hbindRec | hbindOff | hbindSeek | qdeq => exact cmdIssue_clock (fun _ _ h => nomatch h) fun _ _ => rfl
  case ldk => exact execLdk_clock ..
  case exit => exact execExit_clock ..
  case launch => exact execLaunch_clock ..
  case tbarSync => exact execTbarSync_clock ..
  case tbarArv => exact execTbarArv_clock ..
  case fence => exact execFence_clock ..
  case atqk => exact execAtqk_clock ..
  case atsm => exact execAtsm_clock ..
  case atpv => exact execAtpv_clock ..
  case atfn => exact execAtfn_clock ..
  case csrrd => exact execCsrrd_clock ..
  case csrwr => exact execCsrwr_clock ..
  case eret => exact execEret_clock ..
  case tlbinv => exact execTlbinv_clock ..
  case winrd => exact execWinrd_clock ..
  case winwr => exact execWinwr_clock ..
  case ctxsave => exact execCtxsave_clock ..
  case ctxload => exact execCtxload_clock ..
  case halt => exact execHalt_clock ..
  case waitch => exact execWaitch_clock ..
  case sleep => exact execSleep_clock ..
  case xbarWait => exact execXbarWait_clock ..
  case turnGrant => exact execTurnGrant_clock ..
  case turnTimeLimit => exact execTurnTimeLimit_clock ..
  case turnInstructionLimit => exact execTurnInstructionLimit_clock ..
  case sleepExpiry => exact execSleepExpiry_clock ..
  case recordDelivery => exact execRecordDelivery_clock ..
  case chargeWrite => exact execChargeWrite_clock ..
  case pageWalk => exact execPageWalk_clock ..
  case walkAheadTranslation => exact execWalkAheadTranslation_clock ..
  case operandFetchCopy => exact execOperandFetchCopy_clock ..
  case homeRenewal => exact execHomeRenewal_clock ..
  case homeWrite => exact execHomeWrite_clock ..
  case memoryReply => exact execMemoryReply_clock ..
  case remoteL2Renewal => exact execRemoteL2Renewal_clock ..
  case l2Eviction => exact execL2Eviction_clock ..
  case ltTick => exact execLtTick_clock ..
  case rebase => exact execRebase_clock ..
  case rebaseSignal => exact execRebaseSignal_clock ..
  case pinRetry => exact execPinRetry_clock ..
  case domainViolation => exact execDomainViolation_clock ..
  case fabricRead => exact execFabricRead_clock ..
  case fabricWrite => exact execFabricWrite_clock ..
  case ownerForward => exact execOwnerForward_clock ..
  case ownerWriteback => exact execOwnerWriteback_clock ..
  case hostAccess => exact execHostAccess_clock ..
  case hostSnoop => exact execHostSnoop_clock ..
  case launchTrigger => exact execLaunchTrigger_clock ..
  case launchRecordParse => exact execLaunchRecordParse_clock ..
  case holdBufferRelease => exact execHoldBufferRelease_clock ..
  case dispatchDecision => exact execDispatchDecision_clock ..
  case teamResident => exact execTeamResident_clock ..
  case groupPlaceRelease => exact execGroupPlaceRelease_clock ..
  case teamLeave => exact execTeamLeave_clock ..
  case gridRetire => exact execGridRetire_clock ..
  case preemptVictimChoice => exact execPreemptVictimChoice_clock ..
  case preemptSave => exact execPreemptSave_clock ..
  case preemptAbandon => exact execPreemptAbandon_clock ..
  case teamRestore => exact execTeamRestore_clock ..
  case batchFormerStep => exact execBatchFormerStep_clock ..
  case batchFormerIdleTimer => exact execBatchFormerIdleTimer_clock ..
  case boardPass => exact execBoardPass_clock ..
  case matrixOpComplete => exact execMatrixOpComplete_clock ..
  case guardResolve => exact execGuardResolve_clock ..
  case tcopySectorWrite => exact execTcopySectorWrite_clock ..
  case tstoreSectorRead => exact execTstoreSectorRead_clock ..
  case bindingEnd => exact execBindingEnd_clock ..
  case groupCancel => exact execGroupCancel_clock ..
  case cancelledCommandStop => exact execCancelledCommandStop_clock ..
  case collTimeout => exact execCollTimeout_clock ..
  case collInstanceRelease => exact execCollInstanceRelease_clock ..
  case migrationGo => exact execMigrationGo_clock ..
  case migrationRound => exact execMigrationRound_clock ..
  case migrationFreeze => exact execMigrationFreeze_clock ..
  case qsyncWrite => exact execQsyncWrite_clock ..
  case rdcollGo => exact execRdcollGo_clock ..
  case rdcollDone => exact execRdcollDone_clock ..
  case kvpoolWrite => exact execKvpoolWrite_clock ..
  case frsizeWrite => exact execFrsizeWrite_clock ..
  case frlostClear => exact execFrlostClear_clock ..
  case mclostClear => exact execMclostClear_clock ..
  case specdropClear => exact execSpecdropClear_clock ..
  case nopagecntClear => exact execNopagecntClear_clock ..
  case mptbaseWrite => exact execMptbaseWrite_clock ..
  case schedctlWrite => exact execSchedctlWrite_clock ..
  case csrWrite => exact execCsrWrite_clock ..
  case ownerWrite => exact execOwnerWrite_clock ..
  case controlRegisterWrite => exact execControlRegisterWrite_clock ..
  case deniedClear => exact execDeniedClear_clock ..
  case lrefuseClear => exact execLrefuseClear_clock ..
  case errorCounterClear => exact execErrorCounterClear_clock ..
  case versionSelect => exact execVersionSelect_clock ..
  case coreReset => exact execCoreReset_clock ..
  case uncoreReset => exact execUncoreReset_clock ..
  case uncoreResetComplete => exact execUncoreResetComplete_clock ..
  case dieLost => exact execDieLost_clock ..
  case loadimage => exact execLoadimage_clock ..
  case attest => exact execAttest_clock ..
  case getpub => exact execGetpub_clock ..
  case raisemin => exact execRaisemin_clock ..
  case imageinfo => exact execImageinfo_clock ..
  case attestctx => exact execAttestctx_clock ..
  case thermalThrottle => exact execThermalThrottle_clock ..
  case thermalRelease => exact execThermalRelease_clock ..
  case thermalShutdown => exact execThermalShutdown_clock ..
  case structureFailed => exact execStructureFailed_clock ..
  case quadSubstitution => exact execQuadSubstitution_clock ..
  case pchanCopyComplete => exact execPchanCopyComplete_clock ..
  case hostLinkUp => exact execHostLinkUp_clock ..
  case linkTraining => exact execLinkTraining_clock ..
  case flitReceive => exact execFlitReceive_clock ..
  case flitReplay => exact execFlitReplay_clock ..
  case linkLaneFailure => exact execLinkLaneFailure_clock ..
  case deviceDeadDeclared => exact execDeviceDeadDeclared_clock ..
  case lineReclaim => exact execLineReclaim_clock ..
  case utilisationWindow => exact execUtilisationWindow_clock ..
  case engineCommandStart => exact execEngineCommandStart_clock ..
  case l2PrefetchTranslation => exact execL2PrefetchTranslation_clock ..
  case fabricRouteReprogram => exact execFabricRouteReprogram_clock ..
  case tcountTick => exact onEvent_clock_other (fun e he => by split <;> [cases he; rfl]) hs
  case packagePowerOnReset => exact onEvent_clock_other (fun e he => by split <;> [cases he; rfl]) hs
  case mailboxComplete => exact onEvent_clock_other (fun e he => by split <;> [cases he; rfl]) hs

/-! ### A step -/

/-- A port that has picked a word has not changed the counters, and no event happens. -/
def Pick.KeepsClock (c : DWord × DWord) : Pick → Prop
  | .word t u => t.clock = c ∧ u.event = none
  | _ => True

theorem pickAt_clock (s : State) (k : Nat) (g : Group) (pc m : Word) (b : Bool) : (pickAt s k g pc m b).KeepsClock s.clock := by
  unfold pickAt
  grind [Pick.KeepsClock, !fetchCode_clock]

theorem primaryPick_clock (s : State) (c p : Nat) : (primaryPick s c p).KeepsClock s.clock := by
  unfold primaryPick
  split
  next => trivial
  next t _ =>
    dsimp only
    split
    next => trivial
    next g _ =>
      have h := fun pc m => pickAt_clock s (mkKey c p t.place) g pc m false
      grind [Pick.KeepsClock, State.onPart_clock]

theorem secondaryPick_clock (s : State) (c p : Nat) : (secondaryPick s c p).KeepsClock s.clock := by
  unfold secondaryPick
  split
  next => trivial
  next z _ =>
    split
    next => trivial
    next g _ =>
      have h := pickAt_clock (s.onPart (partKey c p) fun q => { q with second := none }) z.grp g z.pc (z.lanes &&& g.lanesAt
        z.pc) true
      grind [Pick.KeepsClock, State.onPart_clock]

theorem managePick_clock (s : State) (n : Nat) : (managePick s n).KeepsClock s.clock := by
  unfold managePick
  split
  next => trivial
  next g _ =>
    have h := fun pc m => pickAt_clock s (privKey n) g pc m false
    grind [Pick.KeepsClock, State.onManager_clock]

theorem fetchPick_clock (s : State) (k : Nat) : (fetchPick s k).KeepsClock s.clock := by
  unfold fetchPick
  grind [Pick.KeepsClock, pickAt_clock]

theorem runPick_clock (s : State) {p : Pick} (h : p.KeepsClock s.clock) : KeepsClock s.clock (runPick s p) := by
  cases p with
  | idle => rfl
  | arrive k u => exact State.arrival_clock ..
  | fetch k off => exact State.fetchHere_clock ..
  | word t u =>
    obtain ⟨ht, hu⟩ := h
    rw [← ht]
    exact exec_clock (wordInstr u.word) { t with cur := u } (by simp [hu])

theorem State.tick_clock (s : State) : s.tick.clock = (s.die0.tcount + 1, s.die1.tcount + 1) := by
  unfold State.tick
  rw [State.retryCharges_clock, State.ageGroups_clock]
  have hd : ∀ d, (s.tickDie d).tcount = (s.die d).tcount + 1 := fun d => by unfold State.tickDie; rfl
  exact Prod.ext (hd 0) (hd 1)

theorem State.makeRoom_ctl (s : State) (d : Nat) : (s.makeRoom d).ctl = s.ctl := by
  unfold State.makeRoom State.evictHome State.raiseAway State.dropLine
  grind [State.onDie_ctl]

theorem homeStamp_ctl (s : State) (line T : Nat) : (homeStamp s line T).1.ctl = s.ctl := by
  unfold homeStamp State.takeLine State.setMeta State.setHome State.roomFor
  grind [State.makeRoom_ctl]

theorem State.poke_ctl (s : State) (pa n v : Nat) : (s.poke pa n v).ctl = s.ctl := by
  unfold State.poke; grind

theorem State.repairBytes_ctl (s : State) (store pa n : Nat) : (s.repairBytes store pa n).ctl = s.ctl := by
  unfold State.repairBytes; grind

theorem State.deviceStore_ctl (s : State) (T pa n v : Nat) : (s.deviceStore T pa n v).ctl = s.ctl := by
  unfold State.deviceStore State.storeAway State.raiseAway
  grind [homeStamp_ctl, State.poke_ctl, State.repairBytes_ctl]

theorem State.deviceBytes_ctl (s : State) (T pa : Nat) (bs : List Byte) : (s.deviceBytes T pa bs).ctl = s.ctl :=
  foldl_keeps State.ctl _ (fun _ _ => State.deviceStore_ctl ..) _ s

/-- The counters after a completed mailbox command: the end of a wait for recovery is a power-on (R464). -/
theorem State.mailComplete_clock {s t : State} (h : s.mailComplete = some t) :
    t.clock = s.clock ∨ s.ctl.fwstat = 2 ∧ t.clock = (0, 0) := by
  have hstore := fun u : State => u.storeImage_clock
  unfold State.mailComplete at h
  split at h
  · cases h
  extract_lets fin at h
  split at h
  next a bs r _ =>
    have hb := State.deviceBytes_clock s 0 a bs
    have hc : (s.deviceBytes 0 a bs).ctl = s.ctl := State.deviceBytes_ctl ..
    grind [State.onCtl_clock]
  next => grind [State.onCtl_clock]

/-- What an event `e` leaves of the counters `c` of a state with firmware status `w`. -/
def ClockAfter (e : Event) (c : DWord × DWord) (w : Nat) (t : DWord × DWord) : Prop :=
  t = c ∨ (e = .tcountTick ∧ t = (c.1 + 1, c.2 + 1)) ∨
    (((∃ us, e = .packagePowerOnReset us) ∨ (e = .mailboxComplete ∧ w = 2)) ∧ t = (0, 0))

theorem State.lookFor_ctl (s : State) (e : Event) : (s.lookFor e).ctl = s.ctl := by
  unfold State.lookFor State.look
  split <;> rfl

/-- An event's row runs in a state with the counters and the firmware status of the state before. -/
theorem runEvent_clock {s t : State} {e : Event} (h : runEvent s e = .next t) : ClockAfter e s.clock s.ctl.fwstat t.clock := by
  have hc := s.lookFor_clock e
  have hw := s.lookFor_ctl e
  unfold runEvent at h
  generalize s.lookFor e = s1 at h hc hw
  rw [← hc, ← hw]
  cases hs : setsClock e with
  | false =>
    have hk := exec_clock e.row { s1 with cur := { s1.cur with event := some e } } fun e' he => by cases he; exact hs
    rw [h] at hk
    exact .inl hk
  | true =>
    rcases eq_of_setsClock hs with rfl | ⟨us, rfl⟩ | rfl <;> obtain rfl := Host.Outcome.next.inj h
    · exact .inr (.inl ⟨rfl, State.tick_clock _⟩)
    · exact .inr (.inr ⟨.inl ⟨us, rfl⟩, State.powerOn_clock ..⟩)
    · rw [getD_clock]
      split
      next t ht => exact (State.mailComplete_clock ht).imp id fun h0 => .inr ⟨.inr ⟨rfl, h0.1⟩, h0.2⟩
      next => exact .inl rfl

/-- A move that is not an event changes no counter. -/
theorem runMove_clock (s : State) {m : Move} (h : ∀ e, m ≠ .event e) : KeepsClock s.clock (runMove s m) := by
  cases m with
  | event e => exact absurd rfl (h e)
  | primary c p =>
    have hk := runPick_clock (s.clearSecond (partKey c p)) (primaryPick_clock _ c p)
    rwa [State.clearSecond_clock] at hk
  | secondary c p => exact runPick_clock s (secondaryPick_clock ..)
  | manage n => exact runPick_clock s (managePick_clock ..)
  | fetch k => exact runPick_clock s (fetchPick_clock ..)
  | fence k op => exact State.fenceDone_clock ..
  | launch k op => exact State.launchDone_clock ..
  | goOn id => exact State.goOnCmd_clock ..
  | farRank comm seq timeout root a => exact State.farRank_clock ..
  | farStep n r => exact State.farStep_clock ..
  | farStatus n st => exact State.farStatus_clock ..
  | sendFlit p head payload => exact State.sendFlit_clock ..
  | error e => exact State.softError_clock ..

/-- A move either takes place or, out of its order, changes nothing. -/
theorem State.ordered_next {s t : State} {o : Host.Outcome State Fault Refusal} (h : s.ordered o = .next t) :
    t = s ∨ o = .next t := by
  cases o with
  | next u =>
    have h : (if s.recordsInOrder u && s.changesInOrder u then u else s) = t := Host.Outcome.next.inj h
    split at h
    · exact .inr (congrArg _ h)
    · exact .inl h.symm
  | fault | refused => cases h

/-- What a step from `s` to `t` may do to the counters. -/
def ClockStep (s t : State) : Prop :=
  t.clock = s.clock ∨
    ((s.agenda = [] ∨ s.agenda.head? = some (.event .tcountTick)) ∧ t.clock = (s.clock.1 + 1, s.clock.2 + 1)) ∨
    (((∃ us, s.agenda.head? = some (.event (.packagePowerOnReset us))) ∨
        (s.agenda.head? = some (.event .mailboxComplete) ∧ s.ctl.fwstat = 2)) ∧ t.clock = (0, 0))

theorem ClockAfter.clockStep {s t : State} {e : Event} (h : ClockAfter e s.clock s.ctl.fwstat t.clock)
    (he : s.agenda.head? = some (.event e)) : ClockStep s t := by
  rcases h with hc | ⟨rfl, hc⟩ | ⟨⟨us, rfl⟩ | ⟨rfl, hw⟩, hc⟩
  · exact .inl hc
  · exact .inr (.inl ⟨.inr he, hc⟩)
  · exact .inr (.inr ⟨.inl ⟨us, he⟩, hc⟩)
  · exact .inr (.inr ⟨.inr ⟨he, hw⟩, hc⟩)

theorem Move.eq_of_whileOff {m : Move} {e : Event} (h : m.whileOff = some e) : m = .event e := by
  unfold Move.whileOff at h
  split at h <;> cases h <;> rfl

theorem step_clock {s t : State} (h : step s = .next t) : ClockStep s t := by
  unfold step at h
  split at h
  next =>
    split at h
    next ha =>
      rcases runEvent_clock h with hc | ⟨-, hc⟩ | ⟨⟨us, he⟩ | ⟨he, -⟩, -⟩
      · exact .inl hc
      · exact .inr (.inl ⟨.inl ha, hc⟩)
      · cases he
      · cases he
    next m ms ha =>
      rcases State.ordered_next h with rfl | hm
      · exact .inl rfl
      · by_cases hev : ∃ e, m = .event e
        · obtain ⟨e, rfl⟩ := hev
          exact ClockAfter.clockStep (s := s) (runEvent_clock (s := s.taken) hm) (by rw [ha]; rfl)
        · have hk := runMove_clock s.taken (m := m) fun e he => hev ⟨e, he⟩
          rw [hm] at hk
          exact .inl hk
  next =>
    split at h
    next e he =>
      obtain ⟨m, hm, hw⟩ := Option.bind_eq_some_iff.1 he
      rw [Move.eq_of_whileOff hw] at hm
      exact ClockAfter.clockStep (s := s) (runEvent_clock (s := s.taken) h) hm
    next => cases h

/-- Settles O42: every function of the model keeps the counters, but for the tick, the power-on and a boot after a wait for
  recovery,
and a step runs one move. -/
theorem timeOnlyTicks : Obligations.TimeOnlyTicks := by
  unfold Obligations.TimeOnlyTicks
  intro s t h
  simpa only [ClockStep, State.clock, Prod.mk.injEq] using step_clock h

end Sys2Proof.Machine
end

section
/-! PROOF. Ticks, sleeps, ticks of logical time and the rebase (O44). -/

namespace Sys2Proof.Machine

/-- An event happens in a state that meets `R` when the row's function, or its absence, does. -/
theorem happens_of_onEvent {i : Instr} {e : Event} {s : State} {R : State → Prop} {f : Event → Option State}
    (hi : exec i s = onEvent s f) (hr : e.row = i) (h : R ((f e).getD s)) : Happens i e s R :=
  fun he => ⟨hr, _, by rw [hi, onEvent, he], h⟩

/-- A lookup in a table whose entries have been changed each by its key and value. -/
theorem Tab.find_mapKey {α β : Type} (t : List (Nat × α)) (f : Nat → α → β) (j : Nat) :
    Tab.find (t.map fun x => (x.1, f x.1 x.2)) j = (Tab.find t j).map (f j) := by
  induction t with
  | nil => rfl
  | cons x t ih =>
    simp only [List.map_cons, Tab.find]
    split
    next h => rw [h]; rfl
    next => exact ih

theorem Tab.get_map {α : Type} (t : List (Nat × α)) (f : α → α) (j : Nat) (d : α) (h : f d = d) :
    Tab.get (t.map fun x => (x.1, f x.2)) j d = f (Tab.get t j d) := by
  rw [Tab.get, Tab.find_map, Tab.get]
  cases Tab.find t j <;> simp [h]

/-! ### The tick -/

/-- The wait count of a group of key `k` that had `old`'s turns and ages to the state `t` (R47). -/
def agedWait (old t : State) (k : Nat) (g : Group) : Nat :=
  if (old.part (partOf k)).turn.map (·.place) = some (keyPlace k) then g.wait
  else if g.ready then g.wait + (t.cycles (dieOfCore (keyCore k)) - old.cycles (dieOfCore (keyCore k))) else 0

/-- What the tick leaves of a group. -/
def agedGroup (old t : State) (k : Nat) (g : Group) : Group :=
  if g.privileged then g else { g with wait := agedWait old t k g }

theorem agedGroup_file (old t : State) (k : Nat) (g : Group) : (agedGroup old t k g).file = g.file := by
  unfold agedGroup; split <;> rfl

theorem State.ageGroups_group (s old : State) (k : Nat) :
    (s.ageGroups old).group? k = (s.group? k).map (agedGroup old s k) := by
  rw [State.group?, State.group?, ← Tab.find_mapKey]
  refine congrArg (Tab.find · k) (List.map_congr_left fun x _ => ?_)
  unfold agedGroup
  split <;> rfl

/-- A tick while no charge is held is the advance of the counters and the partitions, and the groups' ageing. -/
theorem State.tick_of_noCharges {s : State} (h : s.heldCharges = []) : s.tick = State.ageGroups { s with
    die0 := s.tickDie 0
    die1 := s.tickDie 1
    parts := s.parts.map fun (x : Nat × Part) => (x.1, { x.2 with second := none }) } s := by
  unfold State.tick State.retryCharges
  exact if_pos h

theorem State.tick_group {s : State} (h : s.heldCharges = []) (k : Nat) :
    s.tick.group? k = (s.group? k).map (agedGroup s s.tick k) := by
  rw [State.tick_of_noCharges h, State.ageGroups_group]
  rfl

theorem State.tick_fileOf {s : State} (h : s.heldCharges = []) (k : Nat) : s.tick.fileOf k = s.fileOf k := by
  rw [State.fileOf, State.fileOf, State.tick_group h]
  cases s.group? k with
  | none => rfl
  | some g => exact congrArg some (agedGroup_file ..)

theorem State.tick_part {s : State} (h : s.heldCharges = []) (n : Nat) : s.tick.part n = { s.part n with second := none } := by
  rw [State.tick_of_noCharges h]
  exact Tab.get_map s.parts (fun p => { p with second := none }) n Part.reset rfl

/-! ### Logical time -/

/-- The state after a tick of logical time of a die (R108). -/
def State.ltTicked (s : State) (d : Nat) : State :=
  { s.onDie d fun x => { x with ltTicks := x.ltTicks + 1, ltBase := x.ltBase + 1 } with
    cores := s.cores.map fun x => (x.1, { x.2 with lt := x.2.lt + if dieOfCore x.1 = d then 1 else 0 }) }

theorem execLtTick_eq (s : State) : execLtTick s = onEvent s fun
    | .ltTick d => if s.cycles d < 1024 * ((s.die d).ltTicks + 1) then none else some (s.ltTicked d)
    | _ => none := by
  refine congrArg (onEvent s) (funext fun e => ?_)
  cases e
  case ltTick d =>
    dsimp only
    split
    · rfl
    · refine congrArg some ?_
      unfold State.ltTicked
      rw [State.onDie_cores]
      congr 1
      refine List.map_congr_left fun x _ => ?_
      split <;> rfl
  all_goals rfl

theorem State.onDie_die_same (s : State) {d : Nat} (f : Die → Die) : (s.onDie d f).die d = f (s.die d) := by
  unfold State.onDie State.die
  split <;> rfl

theorem State.onDie_die_other (s : State) {d x : Nat} (f : Die → Die) (h : (d = 0) ≠ (x = 0)) : (s.onDie d f).die x = s.die x := by
  unfold State.onDie State.die
  split <;> split <;> simp_all

theorem dieOfCore_lt {c : Nat} (h : c < 2064) : dieOfCore c < 2 := by
  unfold dieOfCore; split <;> omega

theorem State.ltTicked_core (s : State) {d c : Nat} (hd : d < 2) (hc : c < 2064) :
    ((s.ltTicked d).core c).lt = (s.core c).lt + if dieOfCore c = d then 1 else 0 := by
  have hb : ((s.ltTicked d).die (dieOfCore c)).ltBase = (s.die (dieOfCore c)).ltBase + if dieOfCore c = d then 1 else 0 := by
    have hk := dieOfCore_lt hc
    show ((s.onDie d _).die (dieOfCore c)).ltBase = _
    by_cases h : dieOfCore c = d
    · rw [if_pos h, h, State.onDie_die_same]
    · rw [if_neg h, State.onDie_die_other _ _ (by simp only [ne_eq, eq_iff_iff]; omega), Nat.add_zero]
  rw [State.core, State.core, hb]
  simp only [State.ltTicked, Tab.get,
    Tab.find_mapKey s.cores fun k (x : Core) => { x with lt := x.lt + if dieOfCore k = d then 1 else 0 }]
  cases Tab.find s.cores c <;> rfl

theorem ltTick_happens (s : State) {d : Nat} (hd : d < 2) :
    (1024 * ((s.die d).ltTicks + 1) ≤ s.cycles d → Happens .ltTick (.ltTick d) s fun t =>
      (∀ c, c < 2064 → (t.core c).lt = (s.core c).lt + if dieOfCore c = d then 1 else 0) ∧
      (t.die d).ltTicks = (s.die d).ltTicks + 1 ∧ (∀ x, (t.die x).mft = (s.die x).mft) ∧
      t.mem = s.mem ∧ t.groups = s.groups ∧ t.home = s.home) ∧
    (s.cycles d < 1024 * ((s.die d).ltTicks + 1) → Happens .ltTick (.ltTick d) s fun t => t = s) := by
  refine ⟨fun h => happens_of_onEvent (execLtTick_eq s) rfl ?_, fun h => happens_of_onEvent (execLtTick_eq s) rfl ?_⟩
  · dsimp only
    rw [if_neg (Nat.not_lt.2 h), Option.getD_some]
    refine ⟨fun c hc => s.ltTicked_core hd hc, ?_, fun x => ?_, State.onDie_mem .., State.onDie_groups .., State.onDie_home ..⟩
    · exact congrArg Die.ltTicks (s.onDie_die_same _)
    · show ((s.onDie d _).die x).mft = _
      unfold State.onDie State.die
      split <;> split <;> rfl
  · dsimp only
    rw [if_pos h, Option.getD_none]

/-! ### The rebase

The span 2 ^ 46 stands as a variable in each proof: compared with itself as a numeral it is unfolded step by step. -/

def CopyLine.earlier (m : Nat) (x : CopyLine) : CopyLine := { x with wts := x.wts - m, rts := x.rts - m }

def HomeLine.earlier (m : Nat) (h : HomeLine) : HomeLine := { h with wts := h.wts - m, rts := h.rts - m }

def Core.earlier (m : Nat) (c : Core) : Core := { c with lt := c.lt - m, l1 := c.l1.map fun x => (x.1, x.2.earlier m) }

theorem Core.earlier_l1 (c : Core) {m l : Nat} {x : CopyLine} (h : Tab.find c.l1 l = some x) :
    Tab.find (c.earlier m).l1 l = some { x with wts := x.wts - m, rts := x.rts - m } := by
  rw [Core.earlier, Tab.find_map, h]; rfl

theorem State.rebase_cores (s : State) : s.rebase.cores = s.cores.map fun x => (x.1, x.2.earlier (2 ^ 46)) := by
  unfold State.rebase
  obtain ⟨m, hm⟩ : ∃ m, m = 2 ^ 46 := ⟨_, rfl⟩
  rw [← hm]
  rfl

theorem State.rebase_home (s : State) : s.rebase.home = s.home.map fun x => (x.1, x.2.earlier (2 ^ 46)) := by
  unfold State.rebase
  obtain ⟨m, hm⟩ : ∃ m, m = 2 ^ 46 := ⟨_, rfl⟩
  rw [← hm]
  rfl

theorem State.rebase_die (s : State) (d : Nat) : (s.rebase.die d).ltBase = (s.die d).ltBase - 2 ^ 46 ∧
    (s.rebase.die d).mft = (s.die d).mft - 2 ^ 46 ∧ (s.rebase.die d).tcount = (s.die d).tcount := by
  unfold State.die State.rebase
  obtain ⟨m, hm⟩ : ∃ m, m = 2 ^ 46 := ⟨_, rfl⟩
  rw [← hm]
  split <;> exact ⟨rfl, rfl, rfl⟩

theorem State.rebase_core (s : State) (c : Nat) : s.rebase.core c = (s.core c).earlier (2 ^ 46) := by
  rw [State.core, State.rebase_cores, (s.rebase_die _).1, State.core, Tab.get, Tab.get, Tab.find_map]
  obtain ⟨m, hm⟩ : ∃ m, m = 2 ^ 46 := ⟨_, rfl⟩
  rw [← hm]
  cases Tab.find s.cores c <;> rfl

/-- What a rebase leaves (R108). -/
theorem State.rebase_spec (s : State) : s.rebase.epoch = !s.epoch ∧
    (∀ c, (s.rebase.core c).lt = (s.core c).lt - 2 ^ 46) ∧
    (∀ d, (s.rebase.die d).mft = (s.die d).mft - 2 ^ 46 ∧ (s.rebase.die d).tcount = (s.die d).tcount) ∧
    (∀ l h, Tab.find s.home l = some h → ∃ h', Tab.find s.rebase.home l = some h' ∧ h'.wts = h.wts - 2 ^ 46 ∧
      h'.rts = h.rts - 2 ^ 46 ∧ h'.pin = h.pin ∧ h'.dirty = h.dirty) ∧
    (∀ c l x, Tab.find (s.core c).l1 l = some x →
      Tab.find (s.rebase.core c).l1 l = some { x with wts := x.wts - 2 ^ 46, rts := x.rts - 2 ^ 46 }) ∧
    s.rebase.mem = s.mem ∧ s.rebase.groups = s.groups ∧ s.rebase.lineMeta = s.lineMeta := by
  have hcore := s.rebase_core
  have hdie := fun d => (s.rebase_die d).2
  have hhome := s.rebase_home
  obtain ⟨m, hm⟩ : ∃ m, m = 2 ^ 46 := ⟨_, rfl⟩
  rw [← hm] at hcore hdie hhome ⊢
  refine ⟨rfl, fun c => by rw [hcore]; rfl, hdie, fun l h hl => ?_, fun c l x hl => ?_, rfl, rfl, rfl⟩
  · rw [hhome, Tab.find_map, hl]
    exact ⟨_, rfl, rfl, rfl, rfl, rfl⟩
  · rw [hcore]
    exact (s.core c).earlier_l1 hl

/-! ### The statement -/

theorem tcountTick_happens (s : State) : Happens .tcountTick .tcountTick s fun t =>
    t.die0.tcount = s.die0.tcount + 1 ∧ t.die1.tcount = s.die1.tcount + 1 ∧
    (s.heldCharges = [] → t.mem = s.mem ∧ (∀ n, t.part n = { s.part n with second := none }) ∧
    (∀ k, t.fileOf k = s.fileOf k) ∧
    ∀ k g, s.group? k = some g → g.privileged = false → ∃ g', t.group? k = some g' ∧ g'.pcs = g.pcs ∧ g'.block = g.block ∧
      g'.suspension = g.suspension ∧ g'.ready = g.ready ∧ g'.wait = agedWait s t k g) := by
  refine happens_of_onEvent (f := fun | .tcountTick => some s.tick | _ => none) rfl rfl ?_
  rw [Option.getD_some]
  obtain ⟨h0, h1⟩ := Prod.mk.inj s.tick_clock
  refine ⟨h0, h1, fun h => ⟨?_, State.tick_part h, State.tick_fileOf h, fun k g hg hp => ?_⟩⟩
  · exact (congrArg State.mem (State.tick_of_noCharges h)).trans rfl
  · refine ⟨agedGroup s s.tick k g, ?_, ?_⟩
    · exact (State.tick_group h k).trans (by rw [hg]; rfl)
    · rw [agedGroup, hp]
      exact ⟨rfl, rfl, rfl, rfl, rfl⟩

theorem sleepExpiry_happens {s : State} {k n : Nat} {g : Group} (hg : s.group? k = some g) (hb : g.block = .sleep n) :
    (n ≤ s.cycles (dieOfCore (keyCore k)) → Happens .sleepExpiry (.sleepExpiry k) s fun t =>
      t.group? k = some { g with block := .none } ∧ (∀ j, j ≠ k → t.group? j = s.group? j) ∧ t.mem = s.mem) ∧
    (s.cycles (dieOfCore (keyCore k)) < n → Happens .sleepExpiry (.sleepExpiry k) s fun t => t = s) := by
  refine ⟨fun h => happens_of_onEvent rfl rfl ?_, fun h => happens_of_onEvent rfl rfl ?_⟩ <;>
    simp only [hg, hb]
  · rw [if_pos h, Option.getD_some]
    refine ⟨?_, fun j hj => ?_, rfl⟩
    · simp only [State.group?, State.onGroup, Tab.find_alter] at hg ⊢; simp [hg]
    · simp only [State.group?, State.onGroup, Tab.find_alter, if_neg hj]
  · rw [if_neg (Nat.not_le.2 h), Option.getD_none]

/-- Settles O44: the tick by its two parts, the sleep and the logical-time tick by their rows, and the rebase by the image of each
table. -/
theorem timeEvents : Obligations.TimeEvents := by
  unfold Obligations.TimeEvents
  refine ⟨tcountTick_happens, fun s k g n hg hb => sleepExpiry_happens hg hb, fun s d hd => ltTick_happens s hd, fun s h => ?_,
    fun s h => ?_, fun s => happens_of_onEvent rfl rfl s.rebase_spec⟩
  · exact happens_of_onEvent rfl rfl (by simp only [h, if_true, Option.getD_some]; exact s.rebase_spec)
  · exact happens_of_onEvent rfl rfl (by simp only [h, Bool.false_eq_true, if_false, Option.getD_none])

end Sys2Proof.Machine
end

section
/-! PROOF. What the end of teams leaves of the device (O59). -/

namespace Sys2Proof.Machine

/-! ### What the end of a team leaves of the device -/

/-- The parts of the device that the end of a team does not change, the L2s aside: the control registers, the fabric number that homes
depend on, and whether a die is lost or resetting; and the lines of the L2s. -/
def State.held (s : State) :=
  (s.ctl, s.csr.fabid, (s.die0.resetting, s.die0.lost), (s.die1.resetting, s.die1.lost), s.home, s.die0.copies, s.die1.copies)

theorem State.onCore_held (s : State) (c : Nat) (f : Core → Core) : (s.onCore c f).held = s.held := rfl

theorem State.onPart_held (s : State) (k : Nat) (f : Part → Part) : (s.onPart k f).held = s.held := rfl

theorem State.onGroup_held (s : State) (k : Nat) (f : Group → Group) : (s.onGroup k f).held = s.held := rfl

theorem State.onTeam_held (s : State) (k : Nat) (f : Team → Team) : (s.onTeam k f).held = s.held := rfl

theorem State.onGrid_held (s : State) (k : Nat) (f : Grid → Grid) : (s.onGrid k f).held = s.held := rfl

theorem State.onContext_held (s : State) (x : Nat) (f : Context → Context) : (s.onContext x f).held = s.held := rfl

theorem State.onManager_held (s : State) (n : Nat) (f : Manage → Manage) : (s.onManager n f).held = s.held := rfl

theorem foldl_held {α : Type} (f : State → α → State) (h : ∀ s x, (f s x).held = s.held) (l : List α) (s : State) :
    (l.foldl f s).held = s.held :=
  foldl_keeps State.held f h l s

theorem State.setMeta_held (s : State) (line : Nat) (v : BitVec 16) : (s.setMeta line v).held = s.held := rfl

theorem State.takeLine_held (s : State) (line : Nat) : (s.takeLine line).held = s.held := by
  unfold State.takeLine; split <;> rfl

theorem State.poke_held (s : State) (pa n v : Nat) : (s.poke pa n v).held = s.held := by
  unfold State.poke; dsimp only; split <;> rfl

theorem State.repairBytes_held (s : State) (store pa n : Nat) : (s.repairBytes store pa n).held = s.held := by
  unfold State.repairBytes; dsimp only; split <;> rfl

theorem State.storeAway_held (s : State) (T pa : Nat) : (s.storeAway T pa).held = s.held := by
  unfold State.storeAway; split <;> rfl

theorem State.noteBlock_held (s : State) (pa : Nat) (u : RaceUse) : (s.noteBlock pa u).held = s.held := by
  unfold State.noteBlock; dsimp only; split <;> rfl

theorem State.noteSpan_held (s : State) (ag : Agent) (dom pa n : Nat) (w : Bool) : (s.noteSpan ag dom pa n w).held = s.held :=
  foldl_held _ (fun _ _ => State.noteBlock_held ..) _ _

theorem State.refuse_held (s : State) (ag : Agent) (p : Pin) : (s.refuse ag p).1.held = s.held := by
  unfold State.refuse; grind [State.held]

theorem State.cacheTable_held (s : State) (d asid va l t : Nat) : (s.cacheTable d asid va l t).held = s.held := by
  unfold State.cacheTable State.onDie; grind [State.held]

/-- An engine's walk reads no line through an L2. -/
theorem walkGo_held (d asid va l tbl : Nat) (s : State) : (walkGo none d asid va l tbl s).1.held = s.held := by
  induction l generalizing tbl s with
  | zero => rfl
  | succ l ih =>
    unfold walkGo
    grind [State.entryLoad, State.cacheTable_held]

theorem walkFrom_held (s : State) (d x va : Nat) : (walkFrom s none d x va).1.held = s.held := by
  unfold walkFrom; grind [!walkGo_held]

theorem pickEntry_held (s : State) (ea pte : Nat) : (pickEntry s ea pte).1.held = s.held := by
  unfold pickEntry; grind [State.held]

theorem State.enqueueAt_held (s : State) (n : Nat) (d : Delivery) : (s.enqueueAt n d).held = s.held := by
  unfold State.enqueueAt; grind [State.held, State.onManager_held]

theorem State.endTurn_held (s : State) (k : Nat) : (s.endTurn k).held = s.held := by
  unfold State.endTurn; grind [State.onGroup_held, State.onPart_held]

theorem State.tbarCheck_held (s : State) (t : Nat) : (s.tbarCheck t).held = s.held := by
  unfold State.tbarCheck; grind [State.held, State.onTeam]

theorem State.groupExit_held (s : State) (k : Nat) : (s.groupExit k).held = s.held := by
  unfold State.groupExit; grind [State.endTurn_held, State.tbarCheck_held, State.onGroup_held, State.onTeam_held]

theorem State.complete_held (s : State) (k c op : Nat) : (s.complete k c op).held = s.held := rfl

theorem State.lanesDone_held (s : State) (op : Nat) (m : Word) : (s.lanesDone op m).held = s.held := by
  unfold State.lanesDone; grind [State.held, State.complete_held]

theorem State.dropLog_held (s : State) (k : Nat) : (s.dropLog k).held = s.held := by
  unfold State.dropLog
  refine (foldl_held _ ?_ _ _).trans (State.onPart_held ..)
  exact fun s x => (State.lanesDone_held ..).trans rfl

theorem State.withdrawQdeq_held (s : State) (k : Nat) : (s.withdrawQdeq k).held = s.held := by
  unfold State.withdrawQdeq; dsimp only; split <;> rfl

theorem State.cancelGroup_held (s : State) (k : Nat) : (s.cancelGroup k).held = s.held := by
  unfold State.cancelGroup; grind [State.onGroup_held, State.dropLog_held, State.withdrawQdeq_held, State.groupExit_held]

theorem State.markEnded_held (s : State) (ids : List Nat) : (s.markEnded ids).held = s.held := by
  unfold State.markEnded
  refine (foldl_held _ ?_ _ _).trans rfl
  exact fun _ _ => rfl

theorem State.dropSaved_held (s : State) (f : Saved → Bool) : (s.dropSaved f).held = s.held := by
  unfold State.dropSaved
  refine (foldl_held _ ?_ _ _).trans rfl
  exact fun _ _ => rfl

theorem State.endSlot_held (s : State) (grid slot : Nat) : (s.endSlot grid slot).held = s.held := by
  unfold State.endSlot
  rw [State.dropSaved_held, State.onGrid_held, State.markEnded_held]
  exact foldl_held _ (fun _ _ => State.cancelGroup_held ..) _ _

theorem State.withdrawCmd_held (s : State) (id : Nat) : (s.withdrawCmd id).held = s.held := rfl

theorem State.removeTeam_held (s : State) (id : Nat) : (s.removeTeam id).held = s.held := by
  unfold State.removeTeam; split <;> rfl

theorem State.killTeam_held (s : State) (all : Bool) (id : Nat) : (s.killTeam all id).held = s.held := by
  have hw := fun l => foldl_held State.withdrawCmd State.withdrawCmd_held l s
  unfold State.killTeam; grind [State.held, State.freeRegions, State.onCore, State.removeTeam_held]

theorem State.wakeParents_held (s : State) : s.wakeParents.held = s.held := by
  unfold State.wakeParents
  refine (foldl_held _ ?_ _ _).trans rfl
  exact fun _ _ => rfl

/-! ### Lines brought into the L2s -/

theorem State.l2Room.mono {s : State} {n m : Nat} (h : s.l2Room m) (hn : n ≤ m) : s.l2Room n := fun d => by
  have := h d
  omega

/-- `t` comes from `s` with at most `n` more lines in the L2s, which leave modified lines where they are while there is room for
`n`, and with what `held` names as it was otherwise. -/
structure Loads (n : Nat) (s t : State) : Prop where
  ctl : t.ctl = s.ctl
  fabid : t.csr.fabid = s.csr.fabid
  resetting : ∀ d, (t.die d).resetting = (s.die d).resetting
  lost : ∀ d, (t.die d).lost = (s.die d).lost
  room : ∀ m, s.l2Room (n + m) → t.l2Room m
  dirty : s.l2Room n → ∀ l h, Tab.find s.home l = some h → h.dirty = true → ∃ h', Tab.find t.home l = some h' ∧ h'.dirty = true

theorem Loads.of_held {s t : State} (h : t.held = s.held) : Loads 0 s t := by
  simp only [State.held, Prod.mk.injEq] at h
  obtain ⟨hctl, hfab, ⟨hr0, hl0⟩, ⟨hr1, hl1⟩, hhome, hc0, hc1⟩ := h
  refine ⟨hctl, hfab, fun d => ?_, fun d => ?_, fun m hm d => ?_, fun _ l x hx hd => ⟨x, by rw [hhome]; exact hx, hd⟩⟩
  · unfold State.die; split <;> assumption
  · unfold State.die; split <;> assumption
  · have := hm d
    unfold State.die at this ⊢
    split at this <;> simp_all

theorem Loads.refl (s : State) : Loads 0 s s := .of_held rfl

theorem Loads.trans {n m : Nat} {s t u : State} (h : Loads n s t) (h' : Loads m t u) : Loads (n + m) s u where
  ctl := h'.ctl.trans h.ctl
  fabid := h'.fabid.trans h.fabid
  resetting d := (h'.resetting d).trans (h.resetting d)
  lost d := (h'.lost d).trans (h.lost d)
  room k hk := h'.room k (h.room (m + k) (by rwa [← Nat.add_assoc]))
  dirty hr l x hx hd := by
    obtain ⟨y, hy, hyd⟩ := h.dirty (hr.mono (Nat.le_add_right ..)) l x hx hd
    exact h'.dirty (h.room m hr) l y hy hyd

theorem Loads.mono {n m : Nat} {s t : State} (h : Loads n s t) (hn : n ≤ m) : Loads m s t where
  ctl := h.ctl
  fabid := h.fabid
  resetting := h.resetting
  lost := h.lost
  room k hk := h.room k (hk.mono (by omega))
  dirty hr := h.dirty (hr.mono hn)

theorem Loads.still {n : Nat} {s t : State} (h : t.held = s.held) : Loads n s t := (Loads.of_held h).mono (Nat.zero_le n)

theorem Loads.same (n : Nat) (s : State) : Loads n s s := .still rfl

theorem Loads.ite {n : Nat} {s a b : State} {p : Prop} [Decidable p] (ha : Loads n s a) (hb : Loads n s b) :
    Loads n s (if p then a else b) := by
  split <;> assumption

theorem Loads.of_fst {α : Type} {n : Nat} {s t : State} {p : State × α} {a : α} (hp : Loads n s p.1) (h : p = (t, a)) :
    Loads n s t := by
  subst h; exact hp

theorem Loads.then_held {n : Nat} {s t u : State} (h : Loads n s t) (h' : u.held = t.held) : Loads n s u :=
  h.trans (.of_held h')

theorem Loads.foldl {α : Type} {n : Nat} (f : State → α → State) (h : ∀ s x, Loads n s (f s x)) (l : List α) (s : State) :
    Loads (n * l.length) s (l.foldl f s) := by
  induction l generalizing s with
  | nil => exact .refl s
  | cons x l ih => exact ((h s x).trans (ih (f s x))).mono (by rw [List.length_cons, Nat.mul_succ, Nat.add_comm])

theorem Tab.length_put_le {α : Type} (t : List (Nat × α)) (k : Nat) (v : α) : (Tab.put t k v).length ≤ t.length + 1 := by
  induction t with
  | nil => simp [Tab.put]
  | cons x t ih =>
    obtain ⟨j, w⟩ := x
    unfold Tab.put
    split
    · simp
    · split <;> simp only [List.length_cons] <;> omega

/-- With room for a line none leaves for it (R17). -/
theorem State.roomFor_of_l2Room {s : State} (h : s.l2Room 1) (line : Nat) : s.roomFor line = s := by
  have hd := h (s.homeDie (line * 64))
  unfold State.roomFor State.makeRoom
  split
  · rfl
  · exact if_pos (by simp only [Bool.or_eq_true, decide_eq_true_eq]; omega)

theorem State.evictHome_flags (s : State) (line : Nat) : (s.evictHome line).ctl = s.ctl ∧ (s.evictHome line).csr = s.csr ∧
    ∀ d, ((s.evictHome line).die d).resetting = (s.die d).resetting ∧ ((s.evictHome line).die d).lost = (s.die d).lost := by
  unfold State.evictHome State.onDie State.dropLine State.raiseAway State.die
  grind

theorem State.makeRoom_flags (s : State) (d : Nat) : (s.makeRoom d).ctl = s.ctl ∧ (s.makeRoom d).csr = s.csr ∧
    ∀ x, ((s.makeRoom d).die x).resetting = (s.die x).resetting ∧ ((s.makeRoom d).die x).lost = (s.die x).lost := by
  unfold State.makeRoom
  dsimp only
  split
  · exact ⟨rfl, rfl, fun _ => ⟨rfl, rfl⟩⟩
  · split
    · exact State.evictHome_flags ..
    · unfold State.onDie State.die
      grind

theorem State.roomFor_flags (s : State) (line : Nat) : (s.roomFor line).ctl = s.ctl ∧ (s.roomFor line).csr = s.csr ∧
    ∀ x, ((s.roomFor line).die x).resetting = (s.die x).resetting ∧ ((s.roomFor line).die x).lost = (s.die x).lost := by
  unfold State.roomFor
  split
  · exact ⟨rfl, rfl, fun _ => ⟨rfl, rfl⟩⟩
  · exact State.makeRoom_flags ..

/-- Entering a line that stays modified if it was. -/
theorem State.setHome_loads (s : State) (line : Nat) (h : HomeLine)
    (hd : ∀ x, Tab.find s.home line = some x → x.dirty = true → h.dirty = true) : Loads 1 s (s.setHome line h) := by
  obtain ⟨hctl, hcsr, hflags⟩ := s.roomFor_flags line
  refine ⟨hctl, congrArg _ hcsr, fun d => (hflags d).1, fun d => (hflags d).2, fun m hm d => ?_, fun hr l x hx hxd => ?_⟩
  · have hlen := Tab.length_put_le s.home line h
    have := hm d
    simp only [State.setHome, State.roomFor_of_l2Room (hm.mono (Nat.le_add_right ..))]
    show (Tab.put s.home line h).length + (s.die d).copies.length + m ≤ _
    omega
  · simp only [State.setHome, State.roomFor_of_l2Room hr, Tab.find_put]
    split
    next hl => exact ⟨h, rfl, hd x (hl ▸ hx) hxd⟩
    next => exact ⟨x, hx, hxd⟩

theorem homeStamp_loads (s : State) (line T : Nat) : Loads 1 s (homeStamp s line T).1 := by
  have hm : (if (Tab.get s.lineMeta line (0 : BitVec 16)).toNat % 8 = 1 then (s.takeLine line).setMeta line 0
      else s.takeLine line).held = s.held := by
    split
    · exact (State.setMeta_held ..).trans (State.takeLine_held ..)
    · exact State.takeLine_held ..
  exact ((Loads.of_held hm).trans (State.setHome_loads _ line _ fun _ _ _ => rfl)).mono (by omega)

theorem State.deviceStore_loads (s : State) (T pa n v : Nat) : Loads 1 s (s.deviceStore T pa n v) := by
  unfold State.deviceStore
  split
  · exact Loads.still (State.storeAway_held ..)
  · exact (homeStamp_loads ..).then_held ((State.repairBytes_held ..).trans (State.poke_held ..))

theorem State.deviceBytes_loads (s : State) (T pa : Nat) (bs : List Byte) :
    Loads (ceilDiv (pa % 64 + bs.length) 64) s (s.deviceBytes T pa bs) := by
  have h := Loads.foldl (n := 1) (fun s (p : Nat × Nat) => s.deviceStore T p.1 p.2 (ofBytes ((bs.drop (p.1 - pa)).take p.2)))
    (fun _ _ => State.deviceStore_loads ..) (lineParts pa bs.length) s
  rwa [Nat.one_mul, lineParts, List.length_map, List.length_range] at h

theorem State.pinBy_loads (s : State) (ag : Agent) (dom pa : Nat) : Loads 1 s (s.pinBy ag dom pa) := by
  unfold State.pinBy
  dsimp only
  split
  · refine State.setHome_loads _ _ _ fun x hx hd => ?_
    simpa [State.homeLine, Tab.get, hx] using hd
  · exact Loads.same _ s

theorem State.meetLine_loads (s : State) (ag : Agent) (write whole : Bool) (va pa : Nat) :
    Loads 1 s (s.meetLine ag write whole va pa).1 := by
  unfold State.meetLine
  split
  next => exact .same ..
  next =>
    split
    next => exact .same ..
    next =>
      dsimp only
      split
      next => exact .same ..
      next =>
        split
        next => exact .still (State.refuse_held ..)
        next =>
          refine ((Loads.of_held ?_).trans (State.pinBy_loads ..)).mono (m := 1) (by omega)
          split <;> rfl

theorem meetLines_loads (ag : Agent) (write : Bool) (va pa n m : Nat) (s : State) :
    Loads m s (meetLines ag write va pa n m s).1 := by
  induction m generalizing s with
  | zero => exact .refl s
  | succ m ih =>
    unfold meetLines
    dsimp only
    split
    next s1 h =>
      have h1 : Loads 1 s s1 := (State.meetLine_loads ..).of_fst h
      exact (h1.trans (ih s1)).mono (by omega)
    next => exact (State.meetLine_loads ..).mono (by omega)

/-- An engine's walk stores at most one entry, with its A bit. -/
theorem walk_loads (s : State) (d x va : Nat) (acc : AccessKind) : Loads 1 s (walk s d x va acc false none).1 := by
  have hw := walkFrom_held s d x va
  unfold walk
  split
  next s1 r h => rw [h] at hw; exact .still hw
  next s1 r h => rw [h] at hw; exact .still hw
  next s1 ea0 pte0 level h =>
    rw [h] at hw
    have hp : (if level = 0 then pickEntry s1 ea0 pte0 else (s1, .ok (ea0, pte0))).1.held = s.held := by
      split
      · exact (pickEntry_held ..).trans hw
      · exact hw
    split
    next s2 r h2 => rw [h2] at hp; exact .still hp
    next s2 ea pte h2 =>
      rw [h2] at hp
      split
      next => exact .still hp
      next =>
        dsimp only
        split
        next => exact .still hp
        next =>
          exact Loads.ite (.still hp) (((Loads.of_held hp).trans (State.deviceStore_loads ..)).mono (Nat.le_refl _))

theorem translateWalk_loads (s : State) (x va : Nat) (acc : AccessKind) : Loads 1 s (translateWalk s x va acc).1 := by
  unfold translateWalk
  split
  next => exact Loads.same _ s
  next =>
    split
    next => exact Loads.same _ s
    next => exact walk_loads ..

/-- Two bytes lie in at most two lines. -/
theorem ceilDiv_two_le (a : Nat) : ceilDiv (a % 64 + 2) 64 ≤ 2 := by
  unfold ceilDiv; omega

theorem reach_loads (s : State) (x va : Nat) (acc : AccessKind) : Loads 3 s (reach s x va 2 acc).1 := by
  unfold reach
  dsimp only
  split
  next s1 e h =>
    have h1 : Loads 1 s s1 := (translateWalk_loads ..).of_fst h
    have h2 := (h1.trans (meetLines_loads (ioAgent x) (decide (acc = .store)) va (e.phys va) 2
      (ceilDiv (e.phys va % 64 + 2) 64) s1)).mono (m := 3) (by have := ceilDiv_two_le (e.phys va); omega)
    split
    next s2 r hm => rw [hm] at h2; exact h2
    next s2 hm =>
      rw [hm] at h2
      split
      · exact h2
      · exact h2.then_held (State.noteSpan_held ..)
  next s1 r h => exact ((translateWalk_loads ..).of_fst h).mono (by omega)

theorem readVirt_loads (s : State) (x va : Nat) : Loads 3 s (readVirt s x va 2).1 := by
  have h := reach_loads s x va .load
  unfold readVirt
  split
  next s1 e h1 => rw [h1] at h; exact h
  next s1 r h1 => rw [h1] at h; exact h

theorem leBytes_length (v n : Nat) : (leBytes v n).length = n := by
  induction n generalizing v with
  | zero => rfl
  | succ n ih => rw [leBytes, List.length_cons, ih]

theorem writeVirt_loads (s : State) (x va v : Nat) : Loads 5 s (writeVirt s x va 2 v).1 := by
  have h := reach_loads s x va .store
  unfold writeVirt
  split
  next s1 e h1 =>
    rw [h1] at h
    refine (h.trans (State.deviceBytes_loads ..)).mono ?_
    rw [leBytes_length]
    have := ceilDiv_two_le (e.phys va)
    omega
  next s1 r h1 => rw [h1] at h; exact h.mono (by omega)

theorem State.chargeRequest_loads (s : State) (x rec code : Nat) : Loads 8 s (s.chargeRequest x rec code) := by
  have hr := readVirt_loads s x (rec + 12)
  unfold State.chargeRequest
  split
  next s1 h1 =>
    rw [h1] at hr
    have hw := hr.trans (writeVirt_loads s1 x (rec + 12) code)
    split
    next s2 h2 => rw [h2] at hw; exact hw.then_held rfl
    next s2 _ _ h2 =>
      rw [h2] at hw
      split
      · exact hw
      · exact hw.then_held rfl
  next s1 h1 => rw [h1] at hr; exact (hr.mono (m := 8) (by omega)).then_held rfl
  next s1 _ _ _ h1 => rw [h1] at hr; exact hr.mono (m := 8) (by omega)

theorem State.report_loads (s : State) (u : Source) (r : Report) : Loads 1 s (s.report u r).1 := by
  unfold State.report State.sendRecord State.enqueueRecord
  refine Loads.then_held ?_ (State.enqueueAt_held ..)
  unfold State.ringWrite
  dsimp only
  split
  · exact (State.deviceStore_loads ..).then_held (State.onContext_held ..)
  · exact Loads.still (State.onContext_held ..)

theorem State.chargeTeam_loads (s : State) (id : Nat) (t : Team) (code i0 i1 : Nat) : Loads 9 s (s.chargeTeam id t code i0 i1) := by
  unfold State.chargeTeam
  dsimp only
  split
  · exact (State.report_loads ..).mono (by omega)
  · exact (((State.chargeRequest_loads ..).trans (State.report_loads ..))).then_held (State.endSlot_held ..)

theorem State.chargeLost_loads (s : State) (i1 id : Nat) : Loads 9 s (s.chargeLost i1 id) := by
  unfold State.chargeLost
  split
  · exact Loads.same _ s
  · split
    · exact Loads.same _ s
    · exact State.chargeTeam_loads ..

theorem State.endSaved_loads (s : State) (id code i0 i1 : Nat) : Loads 9 s (s.endSaved id code i0 i1) := by
  unfold State.endSaved
  split
  · exact Loads.same _ s
  · exact (State.chargeTeam_loads ..).then_held (State.dropSaved_held ..)

theorem length_insertOn {α : Type} (f : α → Nat) (a : α) (l : List α) : (insertOn f a l).length = l.length + 1 := by
  induction l with
  | nil => rfl
  | cons b l ih => unfold insertOn; split <;> simp [ih]

theorem length_sortOn {α : Type} (f : α → Nat) (l : List α) : (sortOn f l).length = l.length := by
  induction l with
  | nil => rfl
  | cons a l ih => rw [sortOn, List.foldr_cons, length_insertOn]; exact congrArg (· + 1) ih

/-- The end of a die's teams brings at most nine lines into the L2s for each team that is charged (R429, R431). -/
theorem State.endDieTeams_loads (s : State) (d i1 : Nat) (all : Bool) (saves : List Nat) :
    Loads (9 * (s.teams.length + saves.length)) s (s.endDieTeams d i1 all saves) := by
  unfold State.endDieTeams
  extract_lets ids here core away order s1
  have hs1 : Loads (9 * order.length) s s1 := Loads.foldl _ (fun s x => by
    split
    · exact State.chargeLost_loads ..
    · exact State.endSaved_loads ..) order s
  have hlen : order.length ≤ s.teams.length + saves.length := by
    rw [length_sortOn, List.length_append, List.length_map, List.length_map]
    have h1 : here.length ≤ ids.length := List.length_filter_le ..
    have h2 : ids.length ≤ s.teams.length := (List.length_map ..).trans_le (List.length_filter_le ..)
    omega
  refine (hs1.mono (by omega)).then_held ?_
  rw [State.wakeParents_held]
  exact foldl_held _ (fun _ _ => State.killTeam_held ..) _ _

end Sys2Proof.Machine

end

section
/-! PROOF. Core reset (O59). -/

namespace Sys2Proof.Machine

/-- What each step of a fold establishes of its entry, and keeps of the others, holds of every entry in the end. -/
theorem foldl_establishes {α β : Type} (P : α → β → Prop) (f : β → α → β) (h : ∀ b x, P x (f b x))
    (hk : ∀ b x y, P y b → P y (f b x)) {l : List α} {x : α} (hx : x ∈ l) (b : β) : P x (l.foldl f b) := by
  have keep : ∀ (l : List α) (b : β), P x b → P x (l.foldl f b) := fun l => by
    induction l with
    | nil => exact fun _ h => h
    | cons y l ih => exact fun b hb => ih _ (hk b y x hb)
  induction l generalizing b with
  | nil => cases hx
  | cons y l ih =>
    rcases List.mem_cons.1 hx with rfl | hx
    · exact keep l _ (h b x)
    · exact ih hx _

theorem Tab.mem_of_find {α : Type} {t : List (Nat × α)} {k : Nat} {v : α} (h : Tab.find t k = some v) : (k, v) ∈ t := by
  induction t with
  | nil => cases h
  | cons x t ih =>
    obtain ⟨j, w⟩ := x
    unfold Tab.find at h
    split at h
    next hj => cases h; subst hj; exact List.mem_cons_self
    next => exact List.mem_cons_of_mem _ (ih h)

/-! ### Teams -/

theorem State.killTeam_teams (s : State) (all : Bool) {id : Nat} {t : Team} (h : s.team? id = some t) :
    (s.killTeam all id).teams = Tab.del s.teams id := by
  have hw := fun l => foldl_keeps State.teams State.withdrawCmd (fun _ _ => rfl) l s
  unfold State.killTeam
  rw [h]
  dsimp only
  split
  · exact congrArg (Tab.del · id) (hw _)
  · unfold State.removeTeam
    split
    next hn =>
      unfold State.team? at hn h
      rw [hw, h] at hn
      cases hn
    next => exact congrArg (Tab.del · id) (hw _)

theorem State.killTeam_team (s : State) (all : Bool) (id j : Nat) :
    (s.killTeam all id).team? j = if j = id then none else s.team? j := by
  cases h : s.team? id with
  | none =>
    have hs : s.killTeam all id = s := by unfold State.killTeam; rw [h]
    rw [hs]
    split
    next hj => rw [hj, h]
    next => rfl
  | some t => rw [State.team?, s.killTeam_teams all h, Tab.find_del]; rfl

theorem State.wakeParents_teams (s : State) : s.wakeParents.teams = s.teams := by
  unfold State.wakeParents
  refine (foldl_keeps State.teams _ ?_ _ _).trans rfl
  exact fun _ _ => rfl

/-- No team of the die is left. -/
theorem State.endDieTeams_team (s : State) (d i1 : Nat) (all : Bool) (saves : List Nat) {id : Nat} {x : Team}
    (h : s.team? id = some x) (hd : dieOfCore x.core = d) : (s.endDieTeams d i1 all saves).team? id = none := by
  unfold State.endDieTeams
  extract_lets ids here core away order s1
  have hid : id ∈ ids := List.mem_map.2 ⟨(id, x), List.mem_filter.2 ⟨Tab.mem_of_find h, decide_eq_true hd⟩, rfl⟩
  rw [State.team?, State.wakeParents_teams]
  refine foldl_establishes (fun id (t : State) => t.team? id = none) (fun t id => t.killTeam all id) ?_ ?_ hid s1
  · intro t id
    rw [State.killTeam_team, if_pos rfl]
  · intro t id j hj
    rw [State.killTeam_team, hj, ite_self]

/-! ### The cores after a reset -/

theorem State.onCore_core (s : State) (k : Nat) (f : Core → Core) (c : Nat) :
    (s.onCore k f).core c = if c = k then f (s.core k) else s.core c := by
  rw [State.core, State.onCore, Tab.get_put]
  split
  · rfl
  · rfl

/-- A core as R109 wants it after a reset of its die. -/
def CoreReset (t : State) (d c : Nat) : Prop := (t.core c).l1 = [] ∧ (t.core c).lt = (t.die d).mft

/-- A fold whose steps change cores alone changes cores alone. -/
theorem foldl_cores {α : Type} (f : State → α → State) (h : ∀ s x, ∃ cs, f s x = { s with cores := cs }) (l : List α)
    (s : State) : ∃ cs, l.foldl f s = { s with cores := cs } := by
  induction l generalizing s with
  | nil => exact ⟨s.cores, rfl⟩
  | cons x l ih =>
    obtain ⟨cs, h1⟩ := h s x
    obtain ⟨cs', h2⟩ := ih (f s x)
    exact ⟨cs', by rw [List.foldl_cons, h2, h1]⟩

/-- A core reset of the cores alone changes them and the base of the die's logical times. -/
theorem State.resetCores_eq (s : State) (d : Nat) :
    ∃ cs, s.resetCores d = { s with cores := cs }.onDie d fun x => { x with ltBase := (s.die d).mft } := by
  obtain ⟨cs, h⟩ := foldl_cores (fun s n => s.onCore (2048 + 8 * d + n) id) (fun s n => ⟨_, rfl⟩) (List.range 8) s
  unfold State.resetCores
  dsimp only
  rw [h]
  exact ⟨_, rfl⟩

theorem State.onDie_mft (s : State) (d : Nat) (f : Die → Die) (h : ∀ x, (f x).mft = x.mft) (x : Nat) :
    ((s.onDie d f).die x).mft = (s.die x).mft := by
  unfold State.onDie State.die
  split <;> split <;> simp [h]

theorem State.resetCores_mft (s : State) (d x : Nat) : ((s.resetCores d).die x).mft = (s.die x).mft := by
  obtain ⟨cs, h⟩ := s.resetCores_eq d
  rw [h]
  refine (State.onDie_mft { s with cores := cs } d _ ?_ x).trans rfl
  exact fun _ => rfl

theorem State.resetCores_held (s : State) (d : Nat) : (s.resetCores d).held = s.held := by
  obtain ⟨cs, h⟩ := s.resetCores_eq d
  rw [h]
  unfold State.onDie
  split <;> rfl

theorem State.resetCores_teams (s : State) (d : Nat) : (s.resetCores d).teams = s.teams := by
  obtain ⟨cs, h⟩ := s.resetCores_eq d
  rw [h, State.onDie_teams]

theorem State.resetCores_core (s : State) {d c : Nat} (hc : c < 2048) (hd : dieOfCore c = d) : CoreReset (s.resetCores d) d c := by
  have hmft : ((s.resetCores d).die d).mft = (s.die d).mft := s.resetCores_mft d d
  have hbase : ((s.resetCores d).die d).ltBase = (s.die d).mft := congrArg Die.ltBase (State.onDie_die_same ..)
  rw [CoreReset, hmft, State.core, hd, hbase]
  unfold State.resetCores
  dsimp only
  rw [State.onDie_cores]
  generalize ((List.range 8).foldl (fun s n => s.onCore (2048 + 8 * d + n) id) s).cores = cs
  have hf : ∀ x : Nat × Core, (if x.1 < 2048 && dieOfCore x.1 = d then (x.1, { x.2 with l1 := [], lt := (s.die d).mft }) else x) =
      (x.1, if x.1 < 2048 && dieOfCore x.1 = d then { x.2 with l1 := [], lt := (s.die d).mft } else x.2) := fun x => by
    split <;> rfl
  simp only [hf, Tab.get, Tab.find_mapKey cs fun k x => if k < 2048 && dieOfCore k = d then
    { x with l1 := [], lt := (s.die d).mft } else x]
  cases Tab.find cs c with
  | none => exact ⟨rfl, rfl⟩
  | some x => simp [hc, hd]

/-! ### The statement's terms -/

theorem bits_one (v b : Nat) : bits v b 1 = v / 2 ^ b % 2 := by rw [bits, Nat.pow_one]

/-- Every team on a die's cores has ended. -/
def Teamless (s t : State) (d : Nat) : Prop := ∀ id x, s.team? id = some x → dieOfCore x.core = d → t.team? id = none

theorem Teamless.of_teams {s t u : State} {d : Nat} (h : Teamless s t d) (hu : u.teams = t.teams) : Teamless s u d :=
  fun id x hx hd => (congrArg (Tab.find · id) hu).trans (h id x hx hd)

/-- A requested reset of a die, in bit `b` of the pending ones, may begin (R463). -/
def ResetDue (s : State) (d b : Nat) : Prop :=
  s.ctl.resetPending / 2 ^ b % 2 = 1 ∧ s.die0.resetting = false ∧ s.die1.resetting = false ∧ (s.die d).lost = false ∧
    (d = 0 ∨ (s.ctl.resetPending / 2 ^ 0 % 2 = 0 ∧ s.ctl.resetPending / 2 ^ 2 % 2 = 0))

theorem resetDue_iff (s : State) (d b : Nat) : ResetDue s d b ↔ bits s.ctl.resetPending b 1 ≠ 0 ∧ s.resetTurn d = true := by
  have h2 : s.ctl.resetPending / 2 ^ b % 2 < 2 := Nat.mod_lt _ (by decide)
  unfold ResetDue State.resetTurn
  simp only [bits_one, Bool.and_eq_true, Bool.or_eq_true, Bool.not_eq_true', decide_eq_true_eq, Nat.add_eq_zero_iff]
  constructor
  · rintro ⟨hb, h0, h1, hl, ho⟩
    exact ⟨by omega, ⟨⟨h0, h1⟩, hl⟩, ho⟩
  · rintro ⟨hb, ⟨⟨h0, h1⟩, hl⟩, ho⟩
    exact ⟨by omega, h0, h1, hl, ho⟩

theorem ResetDue.resetting {s : State} {d b : Nat} (h : ResetDue s d b) (x : Nat) : (s.die x).resetting = false := by
  obtain ⟨-, h0, h1, -⟩ := h
  unfold State.die
  split <;> assumption

/-- The reset bits of a die are taken out of those that are pending. -/
theorem clearedPending (v : Nat) {d : Nat} (hd : d < 2) :
    setBits (setBits v d 1 0) (2 + d) 1 0 / 2 ^ d % 2 = 0 ∧ setBits (setBits v d 1 0) (2 + d) 1 0 / 2 ^ (2 + d) % 2 = 0 := by
  obtain rfl | rfl : d = 0 ∨ d = 1 := by omega
  all_goals simp only [setBits]; omega

/-! ### Core reset -/

theorem State.coreReset_team (s : State) (d : Nat) : Teamless s (s.coreReset d) d := fun _ _ hx hd =>
  (congrArg (Tab.find · _) (State.resetCores_teams ..)).trans (s.endDieTeams_team d 1 false [] hx hd)

theorem State.coreReset_loads (s : State) (d : Nat) : Loads (64 * s.teams.length) s (s.coreReset d) :=
  ((s.endDieTeams_loads d 1 false []).then_held (State.resetCores_held ..)).mono (by rw [List.length_nil]; omega)

theorem State.coreReset_core (s : State) {d c : Nat} (hc : c < 2048) (hd : dieOfCore c = d) : CoreReset (s.coreReset d) d c := by
  unfold State.coreReset
  exact State.resetCores_core _ hc hd

theorem coreReset_idle {s : State} {d : Nat} (h : ¬ (ResetDue s d d ∧ s.ctl.resetPending / 2 ^ (2 + d) % 2 = 0)) :
    Happens .coreReset (.coreReset d) s fun t => t = s := by
  refine happens_of_onEvent rfl rfl ?_
  rw [resetDue_iff, ← bits_one] at h
  have h2 : bits s.ctl.resetPending (2 + d) 1 < 2 := by rw [bits_one]; exact Nat.mod_lt _ (by decide)
  dsimp only
  rw [if_pos, Option.getD_none]
  simp only [Bool.or_eq_true, Bool.not_eq_true', decide_eq_true_eq]
  by_contra hc
  simp only [not_or, Bool.not_eq_false] at hc
  obtain ⟨⟨hb, hu⟩, ht⟩ := hc
  exact h ⟨⟨hb, ht⟩, by omega⟩

theorem coreReset_happens {s : State} {d : Nat} (hd : d < 2) (h : ResetDue s d d)
    (hu : s.ctl.resetPending / 2 ^ (2 + d) % 2 = 0) : Happens .coreReset (.coreReset d) s fun t =>
      Teamless s t d ∧ (∀ c, 0 ≤ c → c < 2048 → dieOfCore c = d → CoreReset t d c) ∧ t.ctl.resetPending / 2 ^ d % 2 = 0 ∧
      t.ctl.resetFailed = false ∧ (t.die d).resetting = false := by
  refine happens_of_onEvent rfl rfl ?_
  obtain ⟨hb, ht⟩ := (resetDue_iff s d d).1 h
  have hz : bits s.ctl.resetPending (2 + d) 1 = 0 := (bits_one ..).trans hu
  have hteam := s.coreReset_team d
  have hcore := fun c => s.coreReset_core (d := d) (c := c)
  have hres := ((s.coreReset_loads d).resetting d).trans (h.resetting d)
  dsimp only
  rw [if_neg (by simp [hb, ht, hz]), Option.getD_some]
  generalize s.coreReset d = r at *
  exact ⟨hteam, fun c _ hc hcd => hcore c hc hcd, (clearedPending _ hd).1, rfl, hres⟩

end Sys2Proof.Machine

end

section
/-! PROOF. The restart of a die's management cores (O59). -/

namespace Sys2Proof.Machine

/-! ### The management cores of a die start again -/

/-- What the restart of management cores leaves as it was: dies, L2s, lost lines, control registers, teams, the fabric number, and
the L1 and logical time of every core. -/
def State.calm (s : State) :=
  (s.die0, s.die1, s.home, s.badLines, s.ctl, s.teams, s.csr.fabid, fun c => ((s.core c).l1, (s.core c).lt))

/-- Each core changed alike, a core that is not listed by nothing. -/
theorem State.core_of_map {s t : State} (f : Core → Core) (hc : t.cores = s.cores.map fun x => (x.1, f x.2))
    (hd : ∀ d, t.die d = s.die d) (hf : ∀ n, f { Core.reset with lt := n } = { Core.reset with lt := n }) (c : Nat) :
    t.core c = f (s.core c) := by
  rw [State.core, hc, hd, State.core, Tab.get, Tab.get, Tab.find_map]
  cases Tab.find s.cores c with
  | none => exact (hf _).symm
  | some x => rfl

theorem State.withdrawCmd_core (s : State) (id c : Nat) : ((s.withdrawCmd id).core c).l1 = (s.core c).l1 ∧
    ((s.withdrawCmd id).core c).lt = (s.core c).lt := by
  rw [State.core_of_map (s := s) (t := s.withdrawCmd id)
    (fun q => { q with tileQ := q.tileQ.filter (· ≠ id), uncoreQ := q.uncoreQ.filter (· ≠ id) }) rfl (fun _ => rfl) fun _ => rfl]
  exact ⟨rfl, rfl⟩

theorem State.withdrawCmd_calm (s : State) (id : Nat) : (s.withdrawCmd id).calm = s.calm := by
  have h : (fun c => (((s.withdrawCmd id).core c).l1, ((s.withdrawCmd id).core c).lt)) = fun c => ((s.core c).l1, (s.core c).lt) :=
    funext fun c => Prod.ext (s.withdrawCmd_core id c).1 (s.withdrawCmd_core id c).2
  unfold State.calm
  rw [h]
  rfl

theorem State.enqueueAt_calm (s : State) (n : Nat) (d : Delivery) : (s.enqueueAt n d).calm = s.calm := by
  unfold State.enqueueAt
  dsimp only
  split
  · rfl
  · split <;> rfl

theorem State.enqueueAt_groups (s : State) (n : Nat) (d : Delivery) : (s.enqueueAt n d).groups = s.groups := by
  unfold State.enqueueAt
  dsimp only
  split
  · rfl
  · split <;> rfl

/-- A record that is queued leaves a management core halted or not, and handling what it handles. -/
theorem State.enqueueAt_manager (s : State) (n : Nat) (d : Delivery) (k : Nat) :
    ((s.enqueueAt n d).manager k).halted = (s.manager k).halted ∧ ((s.enqueueAt n d).manager k).handling = (s.manager k).handling := by
  have h : ∀ f : Manage → Manage, (s.onManager n f).manager k = if k = n then f (s.manager n) else s.manager k := fun f => by
    rw [State.manager, State.onManager, Tab.get_put]; rfl
  unfold State.enqueueAt
  dsimp only
  split
  · rw [h]; split <;> simp_all
  · split
    · rw [h]; split <;> simp_all
    · exact ⟨rfl, rfl⟩

/-- The restart of one management core (R393). -/
def State.restartManager (s : State) (n : Nat) : State :=
  let s1 : State := { s with groups := Tab.put s.groups (privKey n) Group.privilegedReset }
  let m := s1.manager n
  let s2 := s1.onManager n fun m =>
    { m with queue := [], waiting := [], halted := true, open_ := true, handling := none, again := none, inFault := false }
  (m.cutShort ++ m.queue ++ m.waiting).foldl (fun s d => s.enqueueAt n d) s2

/-- A management core stands as after power-on. -/
def ManagerReset (n : Nat) (t : State) : Prop :=
  (t.manager n).halted = true ∧ (t.manager n).handling = none ∧ t.group? (privKey n) = some Group.privilegedReset

theorem privKey_inj {n m : Nat} (h : privKey n = privKey m) : n = m := by
  unfold privKey at h; omega

theorem State.restartManager_calm (s : State) (n : Nat) : (s.restartManager n).calm = s.calm := by
  unfold State.restartManager
  refine (foldl_keeps State.calm _ ?_ _ _).trans rfl
  exact fun s d => s.enqueueAt_calm n d

theorem State.restartManager_fields (s : State) (n k : Nat) :
    (((s.restartManager n).manager k).halted = if k = n then true else (s.manager k).halted) ∧
    (((s.restartManager n).manager k).handling = if k = n then none else (s.manager k).handling) ∧
    (s.restartManager n).groups = Tab.put s.groups (privKey n) Group.privilegedReset := by
  have hm : ∀ (l : List Delivery) (t : State), (((l.foldl (fun s d => s.enqueueAt n d) t).manager k).halted = (t.manager k).halted) ∧
      ((l.foldl (fun s d => s.enqueueAt n d) t).manager k).handling = (t.manager k).handling := fun l t =>
    ⟨foldl_keeps (fun s => (s.manager k).halted) _ (fun s d => (s.enqueueAt_manager n d k).1) l t,
      foldl_keeps (fun s => (s.manager k).handling) _ (fun s d => (s.enqueueAt_manager n d k).2) l t⟩
  unfold State.restartManager
  dsimp only
  refine ⟨(hm _ _).1.trans ?_, (hm _ _).2.trans ?_, ?_⟩
  · rw [State.manager, State.onManager, Tab.get_put]; split <;> rfl
  · rw [State.manager, State.onManager, Tab.get_put]; split <;> rfl
  · exact foldl_keeps State.groups _ (fun s d => s.enqueueAt_groups n d) _ _

theorem State.restartManager_reset (s : State) (n : Nat) : ManagerReset n (s.restartManager n) := by
  obtain ⟨h1, h2, h3⟩ := s.restartManager_fields n n
  exact ⟨h1.trans (if_pos rfl), h2.trans (if_pos rfl), by rw [State.group?, h3, Tab.find_put_self]⟩

theorem State.restartManager_keeps (s : State) (n k : Nat) (h : ManagerReset k s) : ManagerReset k (s.restartManager n) := by
  by_cases hk : k = n
  · subst hk; exact s.restartManager_reset k
  · obtain ⟨h1, h2, h3⟩ := s.restartManager_fields n k
    refine ⟨h1.trans ((if_neg hk).trans h.1), h2.trans ((if_neg hk).trans h.2.1), ?_⟩
    rw [State.group?, h3, Tab.find_put_ne _ _ fun he => hk (privKey_inj he)]
    exact h.2.2

theorem State.restartManagers_calm (s : State) (d : Nat) : (s.restartManagers d).calm = s.calm := by
  unfold State.restartManagers
  refine (foldl_keeps State.calm State.restartManager State.restartManager_calm _ _).trans ?_
  exact foldl_keeps State.calm State.withdrawCmd State.withdrawCmd_calm _ s

theorem State.restartManagers_reset (s : State) {d n : Nat} (hn : 8 * d ≤ n ∧ n < 8 * d + 8) : ManagerReset n (s.restartManagers d) := by
  have hmem : n ∈ (List.range 8).map (8 * d + ·) := List.mem_map.2 ⟨n - 8 * d, List.mem_range.2 (by omega), by omega⟩
  unfold State.restartManagers
  exact foldl_establishes ManagerReset State.restartManager State.restartManager_reset
    (fun s n k => s.restartManager_keeps n k) hmem _

end Sys2Proof.Machine

end

section
/-! PROOF. The start of an uncore reset (O59). -/

namespace Sys2Proof.Machine

/-! ### Uncore reset -/

theorem State.homedOn_congr {s t : State} (h : t.csr.fabid = s.csr.fabid) (d l : Nat) : t.homedOn d l = s.homedOn d l := by
  unfold State.homedOn State.isLocal State.homeDie State.norm State.ownFabric
  rw [h]

/-- A line of local HBM is no line of another device. -/
theorem State.remoteDev_of_homedOn {s : State} {d l : Nat} (h : s.homedOn d l = true) : s.remoteDev (l * 64) = none := by
  unfold State.homedOn State.isLocal at h
  simp only [Bool.and_eq_true, decide_eq_true_eq] at h
  unfold State.remoteDev
  exact if_neg (by omega)

theorem State.dropHome_home (s : State) {d l : Nat} (h : s.homedOn d l = true) : Tab.find (s.dropHome d).home l = none := by
  unfold State.dropHome
  dsimp only
  rw [Tab.find_filter_key s.home fun k => !s.homedOn d k && !((s.remoteDev (k * 64)).isSome && s.homeDie (k * 64) = d)]
  exact if_neg (by simp [h])

theorem State.dropHome_badLines (s : State) {d l : Nat} (h : s.homedOn d l = true) :
    Tab.find (s.dropHome d).badLines l = Tab.find s.badLines l := by
  unfold State.dropHome
  dsimp only
  rw [Tab.find_filter_key s.badLines fun k => !((s.remoteDev (k * 64)).isSome && s.homeDie (k * 64) = d)]
  exact if_pos (by simp [State.remoteDev_of_homedOn h])

/-- Every modified line homed on the die is marked lost (R430). -/
theorem State.loseDirty_badLines (s : State) {d code l : Nat} {h : HomeLine} (hh : Tab.find s.home l = some h)
    (hl : s.homedOn d l = true) (hd : h.dirty = true) : Tab.find (s.loseDirty d code).badLines l = some ⟨code, 0, 0⟩ := by
  unfold State.loseDirty
  have hm : (l, h) ∈ s.home.filter fun x => s.homedOn d x.1 && x.2.dirty := List.mem_filter.2 ⟨Tab.mem_of_find hh, by simp [hl, hd]⟩
  refine foldl_establishes (fun (x : Nat × HomeLine) (t : Tab BadLine) => Tab.find t x.1 = some ⟨code, 0, 0⟩)
    (fun t x => Tab.put t x.1 ⟨code, 0, 0⟩) (fun t x => Tab.find_put_self ..) (fun t x y hy => ?_) hm s.badLines
  rw [Tab.find_put]
  split
  · rfl
  · exact hy

/-- An uncore reset has begun (R393, R430). -/
def UncoreBegun (s t : State) (d : Nat) (requested : Bool) : Prop :=
  Teamless s t d ∧ (t.die d).resetting = true ∧ (t.die d).failReset = !requested ∧
    (t.die (1 - d)).resetting = (s.die (1 - d)).resetting ∧
    (∀ l, s.homedOn d l = true → Tab.find t.home l = none) ∧ (∀ c, 0 ≤ c → c < 2048 → dieOfCore c = d → CoreReset t d c) ∧
    (∀ n, 8 * d ≤ n → n < 8 * d + 8 → (t.manager n).halted = true ∧ (t.manager n).handling = none ∧
      t.group? (privKey n) = some Group.privilegedReset)

/-- What an uncore reset starts from: the core reset's die with its management cores restarted. -/
def State.restarted (s : State) (d : Nat) : State := (s.coreReset d).restartManagers d

/-- What holds of the state with the management cores restarted. -/
structure Restarted (s t : State) (d : Nat) : Prop where
  teams : Teamless s t d
  resetting : ∀ x, (t.die x).resetting = (s.die x).resetting
  fabid : t.csr.fabid = s.csr.fabid
  cores : ∀ c, c < 2048 → dieOfCore c = d → CoreReset t d c
  managers : ∀ n, 8 * d ≤ n ∧ n < 8 * d + 8 → ManagerReset n t
  dirty : s.l2Room (64 * s.teams.length) → ∀ l h, Tab.find s.home l = some h → h.dirty = true →
    ∃ h', Tab.find t.home l = some h' ∧ h'.dirty = true

theorem State.restarted_spec (s : State) (d : Nat) : Restarted s (s.restarted d) d := by
  have hteam := s.coreReset_team d
  have hl := s.coreReset_loads d
  have hcore := fun c => s.coreReset_core (d := d) (c := c)
  have hcalm := (s.coreReset d).restartManagers_calm d
  have hman := fun n => (s.coreReset d).restartManagers_reset (d := d) (n := n)
  unfold State.restarted
  generalize s.coreReset d = r at *
  generalize r.restartManagers d = m at *
  simp only [State.calm, Prod.mk.injEq] at hcalm
  obtain ⟨h0, h1, hhome, -, -, hteams, hfab, hcores⟩ := hcalm
  have hdie : ∀ x, m.die x = r.die x := fun x => by
    unfold State.die; split
    · exact h0
    · exact h1
  refine ⟨hteam.of_teams hteams, fun x => ?_, hfab.trans hl.fabid, fun c hc hcd => ?_, hman, fun hr l h hh hd => ?_⟩
  · rw [hdie]; exact hl.resetting x
  · obtain ⟨hl1, hlt⟩ := hcore c hc hcd
    obtain ⟨e1, e2⟩ := Prod.mk.inj (congrFun hcores c)
    rw [CoreReset, hdie]
    exact ⟨e1.trans hl1, e2.trans hlt⟩
  · rw [hhome]; exact hl.dirty hr l h hh hd

theorem State.onDie_core (s : State) (d : Nat) (f : Die → Die) (h : ∀ x, (f x).ltBase = x.ltBase) (c : Nat) :
    (s.onDie d f).core c = s.core c := by
  have hb : ∀ x, ((s.onDie d f).die x).ltBase = (s.die x).ltBase := fun x => by
    unfold State.onDie State.die
    split <;> split <;> simp [h]
  rw [State.core, State.core, hb, State.onDie_cores]

theorem State.die_other {d : Nat} (hd : d < 2) : (d = 0) ≠ (1 - d = 0) := by
  simp only [ne_eq, eq_iff_iff]; omega

/-- The end of the start of an uncore reset, from a state with no team of the die, its cores reset and its managers restarted. -/
theorem Restarted.begun {s m : State} {d : Nat} (hd : d < 2) (h : Restarted s m d) (requested : Bool) :
    UncoreBegun s (((m.dropHome d).clearPending d).onDie d fun x => { x with resetting := true, failReset := !requested }) d
      requested := by
  have hsame : ∀ f : Die → Die, (((m.dropHome d).clearPending d).onDie d f).die d = f (m.die d) := fun f => State.onDie_die_same ..
  have hcore := fun c => State.onDie_core ((m.dropHome d).clearPending d) d
    (fun x => { x with resetting := true, failReset := !requested }) (fun _ => rfl) c
  refine ⟨h.teams.of_teams (State.onDie_teams ..), ?_, ?_, ?_, fun l hl => ?_, fun c _ hc hcd => ?_, fun n h1 h2 => ?_⟩
  · rw [hsame]
  · rw [hsame]
  · rw [State.onDie_die_other _ _ (State.die_other hd)]
    exact h.resetting (1 - d)
  · rw [State.onDie_home]
    exact m.dropHome_home ((State.homedOn_congr h.fabid d l).trans hl)
  · rw [CoreReset, hcore c, hsame]
    exact h.cores c hc hcd
  · rw [State.manager, State.group?, State.onDie_manage, State.onDie_groups]
    exact h.managers n ⟨h1, h2⟩

/-- The conclusion of the statement about an uncore reset that software has requested. -/
theorem uncoreReset_requested {s : State} {d : Nat} (hd : d < 2) (h : ResetDue s d (2 + d)) :
    Happens .uncoreReset (.uncoreReset d true) s fun t => UncoreBegun s t d true ∧
      t.ctl.resetPending / 2 ^ d % 2 = 0 ∧ t.ctl.resetPending / 2 ^ (2 + d) % 2 = 0 := by
  refine happens_of_onEvent rfl rfl ?_
  obtain ⟨hb, ht⟩ := (resetDue_iff s d (2 + d)).1 h
  have hm := s.restarted_spec d
  dsimp only
  rw [if_pos rfl, if_neg (by simp [hb, ht]), Option.getD_some]
  have he : s.uncoreStart d true = (((s.restarted d).dropHome d).clearPending d).onDie d fun x =>
    { x with resetting := true, failReset := !true } := rfl
  rw [he]
  generalize s.restarted d = m at *
  refine ⟨hm.begun hd true, ?_⟩
  rw [State.onDie_ctl]
  exact clearedPending _ hd

theorem uncoreReset_requested_idle {s : State} {d : Nat} (h : ¬ ResetDue s d (2 + d)) :
    Happens .uncoreReset (.uncoreReset d true) s fun t => t = s := by
  refine happens_of_onEvent rfl rfl ?_
  rw [resetDue_iff, not_and_or, not_not, Bool.not_eq_true] at h
  dsimp only
  rw [if_pos rfl, if_pos (by rcases h with h | h <;> simp [h]), Option.getD_none]

theorem Restarted.loseDirty {s m : State} {d : Nat} (h : Restarted s m d) (x code : Nat) : Restarted s (m.loseDirty x code) d :=
  ⟨h.teams, h.resetting, h.fabid, h.cores, h.managers, h.dirty⟩

/-- An uncore reset that a failure causes, whose modified lines are lost (R430). -/
theorem uncoreReset_failure {s : State} {d : Nat} (hd : d < 2) (hr : (s.die d).resetting = false) (hl : (s.die d).lost = false) :
    Happens .uncoreReset (.uncoreReset d false) s fun t => UncoreBegun s t d false ∧
      (s.l2Room (64 * s.teams.length) → ∀ l h, (l, h) ∈ s.home → Tab.find s.home l = some h → s.homedOn d l = true →
        h.dirty = true → Tab.find t.badLines l = some ⟨2, 0, 0⟩) := by
  refine happens_of_onEvent rfl rfl ?_
  have hm := s.restarted_spec d
  dsimp only
  rw [if_neg Bool.false_ne_true, if_neg (by simp [hr, hl]), Option.getD_some]
  have he : s.uncoreStart d false = ((((s.restarted d).loseDirty d 2).dropHome d).clearPending d).onDie d fun x =>
    { x with resetting := true, failReset := !false } := rfl
  rw [he]
  generalize s.restarted d = m at *
  refine ⟨(hm.loseDirty d 2).begun hd false, fun hroom l h _ hf hho hdi => ?_⟩
  obtain ⟨h', hf', hdi'⟩ := hm.dirty hroom l h hf hdi
  have hho' : m.homedOn d l = true := (State.homedOn_congr hm.fabid d l).trans hho
  rw [State.onDie_badLines]
  exact (State.dropHome_badLines (m.loseDirty d 2) hho').trans (m.loseDirty_badLines hf' hho' hdi')

theorem uncoreReset_failure_idle {s : State} {d : Nat} (h : (s.die d).resetting = true ∨ (s.die d).lost = true) :
    Happens .uncoreReset (.uncoreReset d false) s fun t => t = s := by
  refine happens_of_onEvent rfl rfl ?_
  dsimp only
  rw [if_neg Bool.false_ne_true, if_pos (by simpa using h), Option.getD_none]

end Sys2Proof.Machine

end

section
/-! PROOF. The end of an uncore reset (O59). -/

namespace Sys2Proof.Machine

/-! ### The end of an uncore reset -/

/-- A core of a die emptied, at the die's MFT. -/
def State.emptyCore (s : State) (d c : Nat) : State := s.onCore c fun x => { x with l1 := [], lt := (s.die d).mft }

theorem State.emptyCore_core (s : State) (d k c : Nat) (h : c = k ∨ CoreReset s d c) : CoreReset (s.emptyCore d k) d c := by
  rw [CoreReset, State.emptyCore, State.onCore_core]
  split
  next => exact ⟨rfl, rfl⟩
  next hc => exact h.resolve_left hc

theorem emptyCores_core (d k c : Nat) (ns : List Nat) (s : State) (h : CoreReset s d c ∨ ∃ n, n ∈ ns ∧ c = k + n) :
    CoreReset (ns.foldl (fun s n => s.emptyCore d (k + n)) s) d c := by
  induction ns generalizing s with
  | nil => exact h.resolve_right (by simp)
  | cons m ns ih =>
    refine ih _ ?_
    rcases h with h | ⟨n, hn, hc⟩
    · exact .inl (s.emptyCore_core d _ c (.inr h))
    · rcases List.mem_cons.1 hn with rfl | hn
      · exact .inl (s.emptyCore_core d _ c (.inl hc))
      · exact .inr ⟨n, hn, hc⟩

theorem State.resetManagerCores_core (s : State) (d c : Nat) (h : CoreReset s d c ∨ ∃ n, n < 8 ∧ c = 2048 + 8 * d + n) :
    CoreReset (s.resetManagerCores d) d c :=
  emptyCores_core d (2048 + 8 * d) c (List.range 8) s (h.imp_right fun ⟨n, hn, hc⟩ => ⟨n, List.mem_range.2 hn, hc⟩)

theorem State.resetManagerCores_eq (s : State) (d : Nat) : ∃ cs, s.resetManagerCores d = { s with cores := cs } :=
  foldl_cores _ (fun _ _ => ⟨_, rfl⟩) _ s

theorem dieOfCore_manager {d c : Nat} (hd : dieOfCore c = d) (hc : ¬ c < 2048) : ∃ n, n < 8 ∧ c = 2048 + 8 * d + n := by
  unfold dieOfCore at hd
  rw [if_neg hc] at hd
  exact ⟨c - (2048 + 8 * d), by omega, by omega⟩

/-- The die of an uncore reset that completes: its MFT 2,048 above the mirrored value and its L2 empty (R109, R430). -/
def Die.uncoreDone (x : Die) : Die :=
  { x with mft := x.mirror + 2048, mirror := x.mirror + 2048, copies := [], ptr := 0, last := 3, resetting := false, failReset := false }

/-- The state of an uncore reset that completes, before its cores are reset. -/
def State.uncoreCleared (s : State) (d : Nat) : State :=
  let s2 := ((s.onDie (1 - d) fun x => { x with copies := x.copies.filter fun c => !s.homedOn d c.1 }).dropHome d).onDie d fun _ =>
    (s.die d).uncoreDone
  { s2 with quads := s2.quads.map fun q => if q.1 / 256 = d then (q.1, { q.2 with occ := [] }) else q }

theorem State.uncoreDone_eq (s : State) {d : Nat} (hd : d < 2) : s.uncoreDone d =
    ((((s.uncoreCleared d).resetCores d).resetManagerCores d).measure).onCtl fun c =>
      { c with resetFailed := false, bondFailed := false } := by
  obtain rfl | rfl : d = 0 ∨ d = 1 := by omega
  all_goals rfl

theorem State.uncoreCleared_die (s : State) {d : Nat} (hd : d < 2) : (s.uncoreCleared d).die d = (s.die d).uncoreDone ∧
    (s.uncoreCleared d).die (1 - d) = { s.die (1 - d) with copies := (s.die (1 - d)).copies.filter fun c => !s.homedOn d c.1 } := by
  obtain rfl | rfl : d = 0 ∨ d = 1 := by omega
  all_goals exact ⟨rfl, rfl⟩

theorem State.dropHome_memRead (s : State) (d : Nat) {b : Nat} (h : s.remoteDev (b / 64 * 64) = none) :
    memRead (s.dropHome d).mem b = memRead s.mem b := by
  unfold State.dropHome memRead
  dsimp only
  rw [Tab.find_filter_key s.mem fun k => !((s.remoteDev (k / 64 * 64)).isSome && s.homeDie (k / 64 * 64) = d)]
  rw [if_pos (by simp [h])]

/-- What a die's cores reset and its offset measured leave of the rest. -/
theorem State.reset_measured (s : State) (d : Nat) : ∃ cs, ((s.resetCores d).resetManagerCores d).measure =
    { (s.onDie d fun x => { x with ltBase := (s.die d).mft }) with
      cores := cs
      tcoff := s.die1.tcount.setWidth 32 - s.die0.tcount.setWidth 32 +
        BitVec.ofNat 32 (Config.freeTcoffError s.freeCtr % 5) - 2 } := by
  obtain ⟨cs, h⟩ := s.resetCores_eq d
  obtain ⟨cs', h'⟩ := (s.resetCores d).resetManagerCores_eq d
  rw [h', h]
  unfold State.measure State.onDie
  refine ⟨cs', ?_⟩
  split <;> rfl

theorem uncoreResetComplete_idle {s : State} {d : Nat} (h : (s.die d).resetting = false) :
    Happens .uncoreResetComplete (.uncoreResetComplete d) s fun t => t = s := by
  refine happens_of_onEvent rfl rfl ?_
  dsimp only
  rw [h]
  rfl

theorem uncoreResetComplete_happens {s : State} {d : Nat} (hd : d < 2) (h : (s.die d).resetting = true) :
    Happens .uncoreResetComplete (.uncoreResetComplete d) s fun t =>
      (t.die d).resetting = false ∧ (t.die d).mft = (s.die d).mirror + 2048 ∧ (t.die d).copies = [] ∧
      (∀ l c, (l, c) ∈ (t.die (1 - d)).copies → s.homedOn d l = false) ∧
      (∀ c, 0 ≤ c → c < 2064 → dieOfCore c = d → CoreReset t d c) ∧ t.ctl.resetFailed = false ∧
      (∃ n, n ≤ 4 ∧ t.tcoff = s.die1.tcount.setWidth 32 - s.die0.tcount.setWidth 32 + BitVec.ofNat 32 n - 2) ∧
      ∀ b, s.remoteDev (b / 64 * 64) = none → memRead t.mem b = memRead s.mem b := by
  refine happens_of_onEvent rfl rfl ?_
  dsimp only
  rw [if_pos h, Option.getD_some, s.uncoreDone_eq hd]
  have hcores : ∀ c, dieOfCore c = d → CoreReset (((s.uncoreCleared d).resetCores d).resetManagerCores d) d c := fun c hcd => by
    refine State.resetManagerCores_core _ d c ?_
    by_cases hc : c < 2048
    · exact .inl (State.resetCores_core _ hc hcd)
    · exact .inr (dieOfCore_manager hcd hc)
  have hmem : ∀ b, s.remoteDev (b / 64 * 64) = none → memRead (s.uncoreCleared d).mem b = memRead s.mem b := fun b hb => by
    have h1 : (s.uncoreCleared d).mem = ((s.onDie (1 - d) fun x =>
      { x with copies := x.copies.filter fun c => !s.homedOn d c.1 }).dropHome d).mem := State.onDie_mem ..
    rw [h1, State.dropHome_memRead _ d (by unfold State.remoteDev State.norm State.ownFabric at hb ⊢; rwa [State.onDie_csr]),
      State.onDie_mem]
  have htc : (s.uncoreCleared d).die0.tcount = s.die0.tcount ∧ (s.uncoreCleared d).die1.tcount = s.die1.tcount := by
    obtain rfl | rfl : d = 0 ∨ d = 1 := by omega
    all_goals exact ⟨rfl, rfl⟩
  obtain ⟨hdie, hother⟩ := s.uncoreCleared_die hd
  obtain ⟨cs, he⟩ := (s.uncoreCleared d).reset_measured d
  have hc : ∀ (r : State) c, CoreReset r d c → CoreReset (r.measure.onCtl fun c =>
    { c with resetFailed := false, bondFailed := false }) d c := fun _ _ h => h
  have hreset := fun c hcd => hc _ c (hcores c hcd)
  rw [he] at hreset ⊢
  generalize s.uncoreCleared d = m at *
  have hsame := m.onDie_die_same (d := d) fun x => { x with ltBase := (m.die d).mft }
  have hoth := m.onDie_die_other (fun x => { x with ltBase := (m.die d).mft }) (State.die_other hd)
  refine ⟨?_, ?_, ?_, ?_, fun c _ _ hcd => hreset c hcd, rfl,
    ⟨Config.freeTcoffError m.freeCtr % 5, ?_, ?_⟩, fun b hb => ?_⟩
  · exact (congrArg Die.resetting hsame).trans (congrArg Die.resetting hdie)
  · exact (congrArg Die.mft hsame).trans (congrArg Die.mft hdie)
  · exact (congrArg Die.copies hsame).trans (congrArg Die.copies hdie)
  · intro l c hlc
    have hlc : (l, c) ∈ ((m.onDie d fun x => { x with ltBase := (m.die d).mft }).die (1 - d)).copies := hlc
    rw [hoth, hother] at hlc
    simpa using (List.mem_filter.1 hlc).2
  · omega
  · rw [← htc.1, ← htc.2]; rfl
  · rw [← hmem b hb]
    exact congrArg (memRead · b) (State.onDie_mem ..)

end Sys2Proof.Machine

end

section
/-! PROOF. The loss of a die (O59). -/

namespace Sys2Proof.Machine

/-! ### The loss of a die -/

theorem State.evictHome_teams (s : State) (line : Nat) : (s.evictHome line).teams = s.teams := by
  unfold State.evictHome
  split
  next => rfl
  next =>
    dsimp only
    split
    next => rfl
    next => exact State.onDie_teams ..

theorem State.roomFor_teams (s : State) (line : Nat) : (s.roomFor line).teams = s.teams := by
  unfold State.roomFor State.makeRoom
  dsimp only
  split
  next => rfl
  next =>
    split
    next => rfl
    next =>
      split
      next => exact State.evictHome_teams ..
      next => exact State.onDie_teams ..

theorem homeStamp_teams (s : State) (line T : Nat) : (homeStamp s line T).1.teams = s.teams := by
  have ht : (s.takeLine line).teams = s.teams := by unfold State.takeLine; split <;> rfl
  refine (State.roomFor_teams _ line).trans ?_
  split
  · exact ht
  · exact ht

theorem State.deviceStore_teams (s : State) (T pa n v : Nat) : (s.deviceStore T pa n v).teams = s.teams := by
  have hr : ∀ t : State, (t.repairBytes (2 * s.freeCtr) pa n).teams = t.teams := fun t => by
    unfold State.repairBytes; dsimp only; split <;> rfl
  have hp : ∀ t : State, (t.poke pa n v).teams = t.teams := fun t => by
    unfold State.poke; dsimp only; split <;> rfl
  unfold State.deviceStore
  split
  · unfold State.storeAway; split <;> rfl
  · exact (hr _).trans ((hp _).trans (homeStamp_teams ..))

theorem State.enqueueRecord_teams (s : State) (d : Delivery) : (s.enqueueRecord d).teams = s.teams :=
  congrArg (fun v => v.2.2.2.2.2.1) (s.enqueueAt_calm (s.managerOf d) d)

theorem State.report_teams (s : State) (u : Source) (r : Report) : (s.report u r).1.teams = s.teams := by
  unfold State.report State.sendRecord
  refine (State.enqueueRecord_teams ..).trans ?_
  unfold State.ringWrite
  dsimp only
  split
  · exact State.deviceStore_teams ..
  · rfl

theorem State.wakeParents_moves (s : State) : s.wakeParents.moves = s.moves := by
  unfold State.wakeParents
  refine (foldl_keeps State.moves _ ?_ _ _).trans rfl
  exact fun _ _ => rfl

/-- A group that is not there is not woken. -/
theorem State.wakeParents_group {s : State} {k : Nat} (h : s.group? k = none) : s.wakeParents.group? k = none := by
  unfold State.wakeParents
  refine List.foldlRecOn (motive := fun t : State => t.group? k = none) _ _ h fun t ht j _ => ?_
  refine (Tab.find_alter t.groups j (fun g => { g with block := .none }) k).trans ?_
  split
  next hj => rw [← hj]; exact congrArg _ ht
  next => exact ht

/-- The managers of a lost die stop: their groups are gone (R431). -/
theorem State.moveRecords_group (s : State) {d n : Nat} (h : 8 * d ≤ n ∧ n < 8 * d + 8) :
    (s.moveRecords d).group? (privKey n) = none := by
  have hmem : n ∈ (List.range 8).map (8 * d + ·) := List.mem_map.2 ⟨n - 8 * d, List.mem_range.2 (by omega), by omega⟩
  unfold State.moveRecords
  rw [State.group?, foldl_keeps State.groups State.enqueueRecord State.enqueueRecord_groups]
  refine foldl_establishes (fun n (t : State) => t.group? (privKey n) = none) _ (fun t n => ?_) (fun t n m hm => ?_) hmem s
  · rw [State.group?, Tab.find_del, if_pos rfl]
  · rw [State.group?, Tab.find_del]
    split
    · rfl
    · exact hm

theorem State.moveRecords_held (s : State) (d : Nat) : (s.moveRecords d).held = s.held := by
  unfold State.moveRecords
  rw [foldl_held State.enqueueRecord fun s d => s.enqueueAt_held (s.managerOf d) d]
  refine (foldl_held _ ?_ _ _).trans rfl
  exact fun _ _ => rfl

theorem State.moveRecords_teams (s : State) (d : Nat) : (s.moveRecords d).teams = s.teams := by
  unfold State.moveRecords
  rw [foldl_keeps State.teams State.enqueueRecord State.enqueueRecord_teams]
  refine (foldl_keeps State.teams _ ?_ _ _).trans rfl
  exact fun _ _ => rfl

/-- The state of a die's loss before its teams end: marked lost, with a reset that failed if one ran. -/
def State.markLost (s : State) (d : Nat) : State :=
  let s0 := (s.onDie d fun x => { x with lost := true, resetting := false, copies := [] }).clearPending d
  if (s.die d).resetting then s0.onCtl fun c => { c with resetFailed := true } else s0

theorem State.markLost_spec (s : State) {d : Nat} (hd : d < 2) : (s.markLost d).teams = s.teams ∧
    ((s.markLost d).die d).lost = true ∧ ((s.markLost d).die (1 - d)).lost = (s.die (1 - d)).lost ∧
    ((s.die d).resetting = true → (s.markLost d).ctl.resetFailed = true) := by
  have ho := State.onDie_die_other s (fun x => { x with lost := true, resetting := false, copies := [] }) (State.die_other hd)
  have hs := State.onDie_die_same s (d := d) fun x => { x with lost := true, resetting := false, copies := [] }
  have ht := State.onDie_teams s d fun x => { x with lost := true, resetting := false, copies := [] }
  unfold State.markLost
  generalize (s.onDie d fun x => { x with lost := true, resetting := false, copies := [] }) = r at *
  dsimp only
  refine ⟨?_, ?_, ?_, fun h => ?_⟩
  · split <;> exact ht
  · split <;> exact congrArg Die.lost hs
  · split <;> exact congrArg Die.lost ho
  · rw [if_pos h]; rfl

/-- The state of a die's loss with its teams ended, the loss recorded and its managers stopped. -/
def State.lossEnded (s : State) (d : Nat) : State :=
  let s2 := (s.cutGrids d).endDieTeams d 3 true (s.lostSaves d)
  (((s2.contexts.filter fun x => x.2.asid ≠ 0).map (·.1)).foldl (fun s x => s.lossRecord x) s2).moveRecords d

theorem State.lossEnded_spec (s : State) (d : Nat) : (s.lossEnded d).ctl = s.ctl ∧
    (∀ x, ((s.lossEnded d).die x).lost = (s.die x).lost) ∧ Teamless s (s.lossEnded d) d ∧
    ∀ n, 8 * d ≤ n ∧ n < 8 * d + 8 → (s.lossEnded d).group? (privKey n) = none := by
  have hl := ((Loads.of_held (s := s) (t := s.cutGrids d) rfl).trans ((s.cutGrids d).endDieTeams_loads d 3 true (s.lostSaves d)))
  have ht : Teamless s ((s.cutGrids d).endDieTeams d 3 true (s.lostSaves d)) d := fun _ _ h hd =>
    (s.cutGrids d).endDieTeams_team d 3 true (s.lostSaves d) h hd
  unfold State.lossEnded
  generalize (s.cutGrids d).endDieTeams d 3 true (s.lostSaves d) = r at *
  dsimp only
  generalize (r.contexts.filter fun x => x.2.asid ≠ 0).map (·.1) = xs
  have hl2 := (hl.trans (Loads.foldl (n := 1) State.lossRecord (fun s x => State.report_loads ..) xs r)).then_held
    (State.moveRecords_held _ d)
  refine ⟨hl2.ctl, hl2.lost, ht.of_teams ?_, fun n hn => State.moveRecords_group _ hn⟩
  rw [State.moveRecords_teams]
  exact foldl_keeps State.teams State.lossRecord (fun s x => State.report_teams ..) xs r

/-- The moves that `hit` names end, and their contexts show it (log 60). -/
def State.endMoves (s : State) (hit : Move2 → Bool) : State :=
  (s.moves.filter fun m => hit m.2).foldl (fun s m => s.migShow m.2.ctx 3 m.2.round)
    { s with moves := s.moves.filter fun m => !hit m.2 }

theorem State.endMoves_keeps {α : Type} (π : State → α) (s : State) (hit : Move2 → Bool)
    (h : ∀ (t : State) (ms : Tab Move2), π { t with moves := ms } = π t) (hc : ∀ (t : State) (xs : Tab Context),
      π { t with contexts := xs } = π t) : π (s.endMoves hit) = π s :=
  (foldl_keeps π _ (fun _ _ => hc ..) _ _).trans (h ..)

theorem State.endMoves_moves (s : State) (hit : Move2 → Bool) : (s.endMoves hit).moves = s.moves.filter fun m => !hit m.2 := by
  unfold State.endMoves
  refine (foldl_keeps State.moves _ ?_ _ _).trans rfl
  exact fun _ _ => rfl

/-- The state after the loss of a die, from the one with its moves ended. -/
theorem State.loseDie_eq (s : State) (d : Nat) : ∃ keep : Nat × CopyLine → Bool, s.loseDie d =
    (((((s.markLost d).lossEnded d).endMoves fun m => s.homeDie m.old = d || s.homeDie m.new = d).onDie (1 - d) fun x =>
      { x with copies := x.copies.filter keep }).dropHome d).wakeParents :=
  ⟨_, rfl⟩

theorem State.wakeParents_lost (s : State) (x : Nat) : (s.wakeParents.die x).lost = (s.die x).lost :=
  (Loads.of_held s.wakeParents_held).lost x

/-- A die's L2 emptied of copies and lines, and parents woken, leave what the statement speaks of. -/
theorem State.lossDropped_keeps (s : State) (d e : Nat) (keep : Nat × CopyLine → Bool) :
    let t := ((s.onDie e fun x => { x with copies := x.copies.filter keep }).dropHome d).wakeParents
    t.ctl = s.ctl ∧ (∀ x, (t.die x).lost = (s.die x).lost) ∧ t.teams = s.teams ∧ t.moves = s.moves ∧
      ∀ k, s.group? k = none → t.group? k = none := by
  have hctl := State.onDie_ctl s e fun x => { x with copies := x.copies.filter keep }
  have hteams := State.onDie_teams s e fun x => { x with copies := x.copies.filter keep }
  have hmoves := State.onDie_moves s e fun x => { x with copies := x.copies.filter keep }
  have hgroups := State.onDie_groups s e fun x => { x with copies := x.copies.filter keep }
  have hlost : ∀ x, ((s.onDie e fun x => { x with copies := x.copies.filter keep }).die x).lost = (s.die x).lost := fun x => by
    unfold State.onDie State.die
    split <;> split <;> rfl
  generalize (s.onDie e fun x => { x with copies := x.copies.filter keep }) = r at *
  have hw := (r.dropHome d).wakeParents_held
  refine ⟨?_, fun x => ?_, ?_, ?_, fun k hk => ?_⟩
  · exact (congrArg Prod.fst hw).trans hctl
  · exact (State.wakeParents_lost _ x).trans (hlost x)
  · exact (State.wakeParents_teams _).trans hteams
  · exact (State.wakeParents_moves _).trans hmoves
  · exact State.wakeParents_group ((congrArg (Tab.find · k) hgroups).trans hk)

theorem dieLost_idle {s : State} {d : Nat} (h : (s.die d).lost = true) : Happens .dieLost (.dieLost d) s fun t => t = s := by
  refine happens_of_onEvent rfl rfl ?_
  dsimp only
  rw [h]
  rfl

theorem dieLost_happens {s : State} {d : Nat} (hd : d < 2) (h : (s.die d).lost = false) :
    Happens .dieLost (.dieLost d) s fun t => (t.die d).lost = true ∧ Teamless s t d ∧
      (t.die (1 - d)).lost = (s.die (1 - d)).lost ∧ ((s.die d).resetting = true → t.ctl.resetFailed = true) ∧
      (∀ x, x ∈ t.moves → s.homeDie x.2.old ≠ d ∧ s.homeDie x.2.new ≠ d) ∧
      ∀ n, 8 * d ≤ n → n < 8 * d + 8 → t.group? (privKey n) = none := by
  refine happens_of_onEvent rfl rfl ?_
  dsimp only
  rw [h, if_neg Bool.false_ne_true, Option.getD_some]
  obtain ⟨hteams1, hlost1, hother1, hfailed1⟩ := s.markLost_spec hd
  obtain ⟨hctl2, hlost2, hteams2, hgroups2⟩ := (s.markLost d).lossEnded_spec d
  obtain ⟨keep, he⟩ := s.loseDie_eq d
  rw [he]
  generalize (s.markLost d).lossEnded d = r at *
  have hhit := r.endMoves_moves fun m => s.homeDie m.old = d || s.homeDie m.new = d
  have hkeep {α : Type} (π : State → α) h1 h2 := r.endMoves_keeps π (fun m => s.homeDie m.old = d || s.homeDie m.new = d) h1 h2
  have hctl3 := hkeep State.ctl (fun _ _ => rfl) fun _ _ => rfl
  have hlost3 x := hkeep (fun t => (t.die x).lost) (fun _ _ => rfl) fun _ _ => rfl
  have hteams3 := hkeep State.teams (fun _ _ => rfl) fun _ _ => rfl
  have hgroups3 := hkeep State.groups (fun _ _ => rfl) fun _ _ => rfl
  generalize r.endMoves (fun m => s.homeDie m.old = d || s.homeDie m.new = d) = q at *
  obtain ⟨hctl, hlost, hteams, hmoves, hgroup⟩ := q.lossDropped_keeps d (1 - d) keep
  generalize ((q.onDie (1 - d) fun x => { x with copies := x.copies.filter keep }).dropHome d).wakeParents = t at *
  refine ⟨?_, fun id x hx hxd => ?_, ?_, fun hr => ?_, fun x hx => ?_, fun n h1 h2 => hgroup _ ?_⟩
  · rw [hlost, hlost3, hlost2, hlost1]
  · have hx1 : (s.markLost d).team? id = some x := (congrArg (Tab.find · id) hteams1).trans hx
    exact (congrArg (Tab.find · id) (hteams.trans hteams3)).trans (hteams2 id x hx1 hxd)
  · rw [hlost, hlost3, hlost2, hother1]
  · rw [hctl, hctl3, hctl2]; exact hfailed1 hr
  · rw [hmoves, hhit] at hx
    simpa using (List.mem_filter.1 hx).2
  · exact (congrArg (Tab.find · _) hgroups3).trans (hgroups2 n ⟨h1, h2⟩)

end Sys2Proof.Machine

end

section
/-! PROOF. Package power-on reset, and the resets together (O59). -/

namespace Sys2Proof.Machine

/-! ### Package power-on reset -/

/-- `t` is `r` but for quads, ports and the record of the spares in use, which the self-tests of a start change (R464). -/
def SelfTested (r t : State) : Prop :=
  ∃ (qs : Tab Quad) (ps : Tab Port) (n m : Nat),
    t = { r with quads := qs, ports := ps, ctl := { r.ctl with spareQuads := n, sparePchan := m } }

theorem SelfTested.refl (r : State) : SelfTested r r := ⟨_, _, _, _, rfl⟩

theorem SelfTested.trans {r t u : State} (h : SelfTested r t) (h' : SelfTested t u) : SelfTested r u := by
  obtain ⟨qs, ps, n, m, rfl⟩ := h
  obtain ⟨qs', ps', n', m', rfl⟩ := h'
  exact ⟨qs', ps', n', m', rfl⟩

theorem SelfTested.idle {r t : State} (h : SelfTested r t) (hc : r.cores = [] ∧ r.colls = []) : t.cores = [] ∧ t.colls = [] := by
  obtain ⟨qs, ps, n, m, rfl⟩ := h
  exact hc

/-- A fold of self-tests on a device without cores in use and collectives is one. -/
theorem SelfTested.foldl {α : Type} (f : State → α → State) (h : ∀ t x, t.cores = [] ∧ t.colls = [] → SelfTested t (f t x))
    (l : List α) (r : State) (hc : r.cores = [] ∧ r.colls = []) : SelfTested r (l.foldl f r) :=
  List.foldlRecOn (motive := fun t => SelfTested r t) l f (.refl r) fun t ht x _ => ht.trans (h t x (ht.idle hc))

theorem State.substitute_selfTested (s : State) (q : Nat) (hc : s.cores = [] ∧ s.colls = []) : SelfTested s (s.substitute q) := by
  unfold State.substitute
  split
  next => exact .refl s
  next n _ =>
    refine ⟨Tab.put s.quads q { s.quad q with failed := false, spare := some n, tlb := [], ahead := [] }, s.ports,
      s.ctl.spareQuads + 2 ^ (2 * (q / 32) + n), s.ctl.sparePchan, ?_⟩
    simp only [State.onCtl, hc.1, List.map_nil]

theorem State.replaceFaulty_selfTested (s : State) (u : FailUnit) (hc : s.cores = [] ∧ s.colls = []) :
    SelfTested s (s.replaceFaulty u) := by
  cases u with
  | quad q =>
    have h : SelfTested s (s.onQuad q fun x => { x with failed := true }) := ⟨_, _, _, _, rfl⟩
    exact h.trans (State.substitute_selfTested _ q (h.idle hc))
  | pseudoChannel k =>
    unfold State.replaceFaulty
    dsimp only
    split
    next => exact .refl s
    next => exact ⟨_, _, _, _, rfl⟩
  | bondLane => exact .refl s
  | linkLane p => exact .refl s

theorem State.narrow_selfTested (s : State) (p : Nat) (hc : s.cores = [] ∧ s.colls = []) : SelfTested s (s.narrow p) := by
  have h : SelfTested s (s.onPort p fun x => { x with lanes := x.lanes - 1 }) := ⟨_, _, _, _, rfl⟩
  unfold State.narrow
  dsimp only
  split
  next =>
    refine h.trans ?_
    have hc2 := h.idle hc
    generalize (s.onPort p fun x => { x with lanes := x.lanes - 1 }) = r at *
    unfold State.portDies State.loseRanks
    have hcolls : (r.onPort p fun x => { x with dead := true, routeDead := true }).colls = [] := hc2.2
    rw [hcolls]
    exact ⟨_, _, _, _, rfl⟩
  next => exact h

theorem State.trainLinks_selfTested (s : State) (hc : s.cores = [] ∧ s.colls = []) : SelfTested s s.trainLinks := by
  have h : SelfTested s { s with ports := [] } := ⟨_, _, _, _, rfl⟩
  refine h.trans (SelfTested.foldl _ (fun t u ht => ?_) _ _ hc)
  split
  next p => exact t.narrow_selfTested p ht
  next => exact .refl t

/-- The state of a start before the links train, its self-tests aside: HBM, the L2s and the time counters are clear (R464). -/
def State.cleared (s : State) : State :=
  { s with
    mem := s.mem.filter fun c => 2 ^ 51 ≤ c.1
    lineMeta := []
    home := []
    badLines := []
    races := []
    die0 := { s.die0 with tcount := 0, windows := 0, copies := [] }
    die1 := { s.die1 with tcount := 0, windows := 0, copies := [] } }

/-- Steps 2 to 6 of a start, the self-tests aside. -/
def State.started (s : State) (img : List Byte) : State := s.cleared.measure.onCtl fun c => { c with fwstat := 3, runningImage := img }

/-- Clearing, measuring and training after the self-tests differ by self-tests from clearing and measuring before them (R464). -/
theorem SelfTested.started {r t : State} (h : SelfTested r t) (img : List Byte) (hc : r.cores = [] ∧ r.colls = []) :
    SelfTested (r.started img) (t.cleared.measure.trainLinks.onCtl fun c => { c with fwstat := 3, runningImage := img }) := by
  have ht := t.cleared.measure.trainLinks_selfTested (h.idle hc)
  obtain ⟨qs', ps', n', m', ht⟩ := ht
  rw [ht]
  obtain ⟨qs, ps, n, m, rfl⟩ := h
  exact ⟨qs', ps', n', m', rfl⟩

/-- The self-tests of a start: spares for the failed quads, then for the units that fail (R461, R464). -/
def State.tested (s : State) : State :=
  let waiting := ((s.quads.filter fun q => q.2.failed).map (·.1)).foldl (fun s q => s.substitute q) s
  s.ctl.faulty.foldl (fun s u => s.replaceFaulty u) waiting

theorem State.tested_selfTested (s : State) (hc : s.cores = [] ∧ s.colls = []) : SelfTested s s.tested := by
  have h := SelfTested.foldl State.substitute State.substitute_selfTested ((s.quads.filter fun q => q.2.failed).map (·.1)) s hc
  exact h.trans (SelfTested.foldl State.replaceFaulty State.replaceFaulty_selfTested _ _ (h.idle hc))

theorem State.boot_eq (s : State) (img : List Byte) : s.boot img =
    s.tested.cleared.measure.trainLinks.onCtl fun c => { c with fwstat := 3, runningImage := img } := rfl

/-- A start from the boot ROM's state leaves it cleared and running, its self-tests aside. -/
theorem State.boot_started (s : State) (img : List Byte) (hc : s.cores = [] ∧ s.colls = []) :
    SelfTested (s.started img) (s.boot img) := by
  rw [State.boot_eq]
  exact (s.tested_selfTested hc).started img hc

/-- What a power-on leaves in either case: the state `t` from `s`, for the units `us` that fail. -/
structure PoweredOn (s : State) (us : List FailUnit) (t : State) : Prop where
  temps : t.ctl.temp0 = s.ctl.temp0 ∧ t.ctl.temp1 = s.ctl.temp1 ∧ t.ctl.tempIo = s.ctl.tempIo
  withheld : t.ctl.withheld = s.ctl.withheld
  faulty : t.ctl.faulty = us
  en : t.csr.en = false
  tcount : t.die0.tcount = 0 ∧ t.die1.tcount = 0
  mft : t.die0.mft = 0 ∧ t.die1.mft = 0
  base : t.die0.ltBase = 0 ∧ t.die1.ltBase = 0
  epoch : t.epoch = false
  home : t.home = []
  lineMeta : t.lineMeta = []
  cores : t.cores = []
  mem : ∀ a, memRead t.mem a = if a < 2 ^ 51 then 0 else memRead s.mem a
  teams : t.teams = []
  grids : t.grids = []
  contexts : t.contexts = []
  owner : t.ctl.owner = 0
  ownerEpoch : t.ctl.epoch = 0
  attidx : t.ctl.attidx = s.ctl.attidx
  minVersion : t.ctl.minVersion = s.ctl.minVersion
  tcoff : ∃ n, n ≤ 4 ∧ t.tcoff = BitVec.ofNat 32 n - 2

/-- Self-tests leave what a power-on leaves. -/
theorem PoweredOn.selfTested {s r t : State} {us : List FailUnit} (h : PoweredOn s us r) (ht : SelfTested r t) :
    PoweredOn s us t := by
  obtain ⟨qs, ps, n, m, rfl⟩ := ht
  exact { h with }

/-- Memory above a bound is kept, and below it reads 0. -/
theorem memRead_filter (m : List Host.Cell) (n a : Nat) :
    memRead (m.filter fun c => n ≤ c.1) a = if a < n then 0 else memRead m a := by
  rw [memRead, Tab.find_filter_key m fun k => decide (n ≤ k)]
  by_cases h : a < n
  · rw [if_neg (by simpa using h), if_pos h]; rfl
  · rw [if_pos (by simpa using h), if_neg h]; rfl

/-- The boot ROM leaves all as after reset (R464). -/
theorem State.bootRom_poweredOn (s : State) (us : List FailUnit) : PoweredOn s us (s.bootRom us) where
  temps := ⟨rfl, rfl, rfl⟩
  withheld := rfl
  faulty := rfl
  en := rfl
  tcount := ⟨rfl, rfl⟩
  mft := ⟨rfl, rfl⟩
  base := ⟨rfl, rfl⟩
  epoch := rfl
  home := rfl
  lineMeta := rfl
  cores := rfl
  mem := memRead_filter s.mem _
  teams := rfl
  grids := rfl
  contexts := rfl
  owner := rfl
  ownerEpoch := rfl
  attidx := rfl
  minVersion := rfl
  tcoff := ⟨2, by decide, rfl⟩

/-- The firmware's status and image are no part of it. -/
theorem PoweredOn.onCtl {s t : State} {us : List FailUnit} (h : PoweredOn s us t) (n : Nat) (img : List Byte) :
    PoweredOn s us (t.onCtl fun c => { c with fwstat := n, runningImage := img }) :=
  { h with }

/-- A start clears what the boot ROM had cleared. -/
theorem PoweredOn.started {s t : State} {us : List FailUnit} (h : PoweredOn s us t) (img : List Byte) :
    PoweredOn s us (t.started img) := by
  refine PoweredOn.onCtl (t := t.cleared.measure) ?_ 3 img
  refine { h with
    tcount := ⟨rfl, rfl⟩
    home := rfl
    lineMeta := rfl
    mem := fun a => ?_
    tcoff := ⟨Config.freeTcoffError t.freeCtr % 5, by omega, ?_⟩ }
  · refine (memRead_filter t.mem _ a).trans ?_
    rw [h.mem]
    split <;> rfl
  · have h0 : BitVec.setWidth 32 (0 : DWord) - BitVec.setWidth 32 (0 : DWord) = 0 := by decide
    show BitVec.setWidth 32 (0 : DWord) - BitVec.setWidth 32 (0 : DWord) + _ - _ = _
    rw [h0, zero_add]
    rfl

/-- A start that is to be made with an image runs it. -/
theorem State.boot_runs (s : State) (img : List Byte) (hc : s.cores = [] ∧ s.colls = []) :
    (s.boot img).ctl.fwstat = 3 ∧ (s.boot img).ctl.runningImage = img := by
  obtain ⟨qs, ps, n, m, h⟩ := s.boot_started img hc
  rw [h]
  exact ⟨rfl, rfl⟩

/-- The state of a power-on before the sensors are looked at. -/
def State.powerUp (s : State) (us : List FailUnit) : State :=
  match s.ctl.storedImage.filter s.bootable with
  | some img => (s.bootRom us).boot img
  | none => (s.bootRom us).onCtl fun c => { c with fwstat := 2 }

theorem State.powerUp_poweredOn (s : State) (us : List FailUnit) : PoweredOn s us (s.powerUp us) := by
  have h := s.bootRom_poweredOn us
  unfold State.powerUp
  split
  next img _ => exact (h.started img).selfTested ((s.bootRom us).boot_started img ⟨rfl, rfl⟩)
  next => exact h.onCtl 2 (s.bootRom us).ctl.runningImage

theorem State.powerUp_firmware (s : State) (us : List FailUnit) :
    ((∃ img, s.ctl.storedImage = some img ∧ s.bootable img = true) →
      (s.powerUp us).ctl.fwstat = 3 ∧ s.ctl.storedImage = some (s.powerUp us).ctl.runningImage) ∧
    (¬ (∃ img, s.ctl.storedImage = some img ∧ s.bootable img = true) → (s.powerUp us).ctl.fwstat = 2) := by
  unfold State.powerUp
  split
  next img h =>
    have hs := Option.filter_eq_some_iff.1 h
    obtain ⟨h3, himg⟩ := (s.bootRom us).boot_runs img ⟨rfl, rfl⟩
    exact ⟨fun _ => ⟨h3, by rw [himg]; exact hs.1⟩, fun hn => absurd ⟨img, hs⟩ hn⟩
  next h =>
    refine ⟨fun ⟨img, hi, hb⟩ => ?_, fun _ => rfl⟩
    have hf := Option.filter_eq_some_iff.2 ⟨hi, hb⟩
    rw [h] at hf
    cases hf

theorem packagePowerOnReset_happens (s : State) (us : List FailUnit) :
    Happens .packagePowerOnReset (.packagePowerOnReset us) s fun t =>
      (t.powered = true ↔ s.ctl.temp0 < 110 ∧ s.ctl.temp1 < 110 ∧ s.ctl.tempIo < 110) ∧
      t.ctl.withheld = s.ctl.withheld ∧ t.ctl.faulty = us ∧ t.csr.en = false ∧ t.die0.tcount = 0 ∧ t.die1.tcount = 0 ∧
      t.die0.mft = 0 ∧ t.die1.mft = 0 ∧ t.epoch = false ∧ t.home = [] ∧ t.lineMeta = [] ∧
      (∀ c, (t.core c).lt = 0 ∧ (t.core c).l1 = []) ∧
      (∀ a, memRead t.mem a = if a < 2 ^ 51 then 0 else memRead s.mem a) ∧ t.teams = [] ∧ t.grids = [] ∧ t.contexts = [] ∧
      t.ctl.owner = 0 ∧ t.ctl.epoch = 0 ∧ t.ctl.attidx = s.ctl.attidx ∧ t.ctl.minVersion = s.ctl.minVersion ∧
      ((∃ img, s.ctl.storedImage = some img ∧ s.bootable img = true) →
        t.ctl.fwstat = 3 ∧ s.ctl.storedImage = some t.ctl.runningImage) ∧
      (¬ (∃ img, s.ctl.storedImage = some img ∧ s.bootable img = true) → t.ctl.fwstat = 2) ∧
      (∃ n, n ≤ 4 ∧ t.tcoff = BitVec.ofNat 32 n - 2) := by
  refine happens_of_onEvent rfl rfl ?_
  have hp := s.powerUp_poweredOn us
  have hfw := s.powerUp_firmware us
  have he : s.powerOn us = { s.powerUp us with powered :=
    (s.powerUp us).ctl.temp0 < 110 && (s.powerUp us).ctl.temp1 < 110 && (s.powerUp us).ctl.tempIo < 110 } := rfl
  dsimp only
  rw [Option.getD_some, he]
  generalize s.powerUp us = t at *
  obtain ⟨h0, h1, h2⟩ := hp.temps
  refine ⟨?_, hp.withheld, hp.faulty, hp.en, hp.tcount.1, hp.tcount.2, hp.mft.1, hp.mft.2, hp.epoch, hp.home, hp.lineMeta,
    fun c => ?_, hp.mem, hp.teams, hp.grids, hp.contexts, hp.owner, hp.ownerEpoch, hp.attidx, hp.minVersion, hfw.1, hfw.2,
    hp.tcoff⟩
  · simp only [h0, h1, h2, Bool.and_eq_true, decide_eq_true_eq, and_assoc]
  · have hbase : (t.die (dieOfCore c)).ltBase = 0 := by
      unfold State.die
      split
      · exact hp.base.1
      · exact hp.base.2
    have hcore : t.core c = { Core.reset with lt := 0 } := by
      rw [State.core, hp.cores, hbase]; rfl
    exact ⟨congrArg Core.lt hcore, congrArg Core.l1 hcore⟩

/-- Settles O59: each event's row, of an event that is due and of one that is not, for either die. -/
theorem resetEvents : Obligations.ResetEvents := by
  unfold Obligations.ResetEvents
  refine ⟨fun s d hd => ⟨coreReset_idle, coreReset_happens hd, uncoreReset_requested_idle, uncoreReset_requested hd,
    uncoreReset_failure_idle, uncoreReset_failure hd, uncoreResetComplete_idle, uncoreResetComplete_happens hd, dieLost_idle,
    dieLost_happens hd⟩, fun s us => packagePowerOnReset_happens s us⟩

end Sys2Proof.Machine

end

section
/-! PROOF. A step runs the move at the head of the agenda (O38). -/

namespace Sys2Proof.Machine

/-- What a port picks at an issue address whose header is checked, whose clause waits for nothing and whose word the TLB serves
(R39, R40, R144). -/
theorem pickAt_word {s : State} {k h : Nat} {g : Group} {pc hw w m : Word} (second : Bool) (hst : g.stopped pc = false)
    (hm : m ≠ 0) (hu : ∀ v ∈ g.unseen, v.lanes &&& m = 0) (hc : clauseAt (codeReader s k) pc.toNat = some (h, hw))
    (hw' : pc.toNat = h + 4 → g.waitMet hw = true) (hit : s.codeHit k pc.toNat w) :
    pickAt s k g pc m second = .word s ⟨k, pc, m, w, second, h, hw, none, false⟩ := by
  have hnone : (g.unseen.find? fun u => decide (u.lanes &&& m ≠ 0)) = none := by
    rw [List.find?_eq_none]
    intro v hv
    simp [hu v hv]
  have hwait : ¬(decide (pc.toNat = h + 4) && !g.waitMet hw) = true := by
    by_cases he : pc.toNat = h + 4
    · simp [hw' he]
    · simp [he]
  unfold pickAt
  rw [hst, decide_eq_false hm, if_neg (by simp), hnone]
  dsimp only
  rw [hc]
  dsimp only
  rw [if_neg hwait, fetchCode_hit s k _ w hit]

theorem State.step_move {s : State} {m : Move} {rest : List Move} (hp : s.powered = true) (ha : s.agenda = m :: rest) :
    step s = s.taken.ordered (runMove s.taken m) := by
  unfold step
  rw [if_pos hp, ha]

/-- The primary port of a partition whose turn goes on issues the word at the minimum PC of the turn's group (R40, R41, R44). -/
theorem primaryPick_word {s : State} {c p : Nat} {u : Turn} {g : Group} {pc : Word}
    (ht : (s.part (partKey c p)).turn = some u) (hg : s.group? (mkKey c p u.place) = some g) (hi : u.issues < 24)
    (hcy : s.cycles (dieOfCore c) < u.start + 256) (hpc : g.minPc = some pc) {i : Issue}
    (hpick : pickAt s (mkKey c p u.place) g pc (g.lanesAt pc) false = .word s i) :
    primaryPick s c p = .word (s.onPart (partKey c p) fun q =>
      { q with second := g.secondPc.map fun z => ⟨mkKey c p u.place, z, g.lanesAt z, i.word⟩ }) i := by
  unfold primaryPick
  rw [ht]
  dsimp only
  rw [hg]
  dsimp only
  rw [if_neg (by simp only [Bool.or_eq_true, decide_eq_true_eq]; omega), hpc]
  dsimp only
  rw [hpick]

theorem primary_runs {s : State} {c p h : Nat} {rest : List Move} {u : Turn} {g : Group} {pc hw w : Word}
    (hp : s.powered = true) (ha : s.agenda = .primary c p :: rest) (ht : (s.part (partKey c p)).turn = some u)
    (hg : s.group? (mkKey c p u.place) = some g) (hi : u.issues < 24) (hcy : s.cycles (dieOfCore c) < u.start + 256)
    (hpc : g.minPc = some pc) (hst : g.stopped pc = false) (hl : g.lanesAt pc ≠ 0)
    (hu : ∀ v ∈ g.unseen, v.lanes &&& g.lanesAt pc = 0)
    (hcl : clauseAt (codeReader (s.taken.clearSecond (partKey c p)) (mkKey c p u.place)) pc.toNat = some (h, hw))
    (hwait : pc.toNat = h + 4 → g.waitMet hw = true)
    (hit : (s.taken.clearSecond (partKey c p)).codeHit (mkKey c p u.place) pc.toNat w) :
    step s = s.taken.ordered (exec (decodeWord w) { (s.taken.clearSecond (partKey c p)).onPart (partKey c p) (fun q =>
      { q with second := g.secondPc.map fun z => ⟨mkKey c p u.place, z, g.lanesAt z, w⟩ }) with
      cur := ⟨mkKey c p u.place, pc, g.lanesAt pc, w, false, h, hw, none, false⟩ }) := by
  have hcy' : (s.taken.clearSecond (partKey c p)).cycles (dieOfCore c) < u.start + 256 := by
    unfold State.clearSecond
    split <;> exact hcy
  rw [State.step_move hp ha]
  unfold runMove
  dsimp only
  rw [primaryPick_word ((s.taken.clearSecond_turn _ _).trans ht) ((s.taken.clearSecond_group _ _).trans hg) hi hcy' hpc
    (pickAt_word false hst hl hu hcl hwait hit)]
  unfold runPick
  dsimp only
  rw [wordInstr_eq]

theorem manage_runs {s : State} {n h : Nat} {rest : List Move} {g : Group} {pc hw w : Word}
    (hp : s.powered = true) (ha : s.agenda = .manage n :: rest) (hg : s.group? (privKey n) = some g)
    (hh : (s.manager n).halted = false) (ho : (s.manager n).open_ = false ∨ s.canDeliver n = false)
    (hpc : g.minPc = some pc) (hst : g.stopped pc = false) (hl : g.lanesAt pc ≠ 0)
    (hu : ∀ v ∈ g.unseen, v.lanes &&& g.lanesAt pc = 0)
    (hcl : clauseAt (codeReader s.taken (privKey n)) pc.toNat = some (h, hw))
    (hwait : pc.toNat = h + 4 → g.waitMet hw = true) (hit : s.taken.codeHit (privKey n) pc.toNat w) :
    step s = s.taken.ordered (exec (decodeWord w) { s.taken.onManager n (fun m => { m with open_ := false }) with
      cur := ⟨privKey n, pc, g.lanesAt pc, w, false, h, hw, none, false⟩ }) := by
  have hheld : s.taken.manageHeld n = false := by
    show ((s.manager n).halted || ((s.manager n).open_ && s.canDeliver n)) = false
    rcases ho with ho | ho <;> simp [hh, ho]
  have hpick : managePick s.taken n = .word (s.taken.onManager n fun m => { m with open_ := false })
      ⟨privKey n, pc, g.lanesAt pc, w, false, h, hw, none, false⟩ := by
    unfold managePick
    rw [show s.taken.group? (privKey n) = some g from hg]
    dsimp only
    rw [hheld, if_neg (by simp), hpc]
    dsimp only
    rw [pickAt_word false hst hl hu hcl hwait hit]
  rw [State.step_move hp ha]
  unfold runMove
  dsimp only
  rw [hpick]
  unfold runPick
  dsimp only
  rw [wordInstr_eq]

@[simp] theorem State.lookFor_cur (s : State) (e : Event) : (s.lookFor e).cur = s.cur := by
  unfold State.lookFor State.look; split <;> rfl

theorem runEvent_eq (s : State) (e : Event) :
    runEvent s e = exec e.row { s.lookFor e with cur := { s.cur with event := some e } } := by
  unfold runEvent; dsimp only; rw [State.lookFor_cur]

/-- Settles O38: the picks of the primary port and of a management core, each run by the move that names it, and the events. -/
theorem stepRunsWord : Obligations.StepRunsWord := by
  unfold Obligations.StepRunsWord
  refine ⟨?_, ?_, ?_, ?_⟩
  · intro s c p rest u g pc hw w h hp ha ht hg hi hcy hpc hst hl hu s1 hcl hwait hit
    exact primary_runs hp ha ht hg hi hcy hpc hst hl hu hcl hwait hit
  · intro s n rest g pc hw w h hp ha hg hh ho hpc hst hl hu hcl hwait hit
    exact manage_runs hp ha hg hh ho hpc hst hl hu hcl hwait hit
  · intro s e rest hp ha
    rw [State.step_move hp ha, runMove, runEvent_eq]
    rfl
  · intro s hp ha
    unfold step
    rw [if_pos hp, ha]
    exact runEvent_eq ..

end Sys2Proof.Machine

end

section
/-! PROOF. How turns are granted and end (O43). -/

namespace Sys2Proof.Machine

/-! ### The best of a list -/

/-- `x` stands in a list before which every entry measures less and after which none measures more. -/
theorem bestBy_of_ne_nil (f : Nat × Group → Nat) {l : List (Nat × Group)} (h : l ≠ []) :
    ∃ l1 x l2, bestBy f l = some x ∧ l = l1 ++ x :: l2 ∧ (∀ y ∈ l1, f y < f x) ∧ ∀ y ∈ l2, f y ≤ f x := by
  induction l with
  | nil => exact absurd rfl h
  | cons a t ih =>
    by_cases ht : t = []
    · subst ht
      exact ⟨[], a, [], rfl, rfl, by simp, by simp⟩
    · obtain ⟨l1, x, l2, hx, rfl, h1, h2⟩ := ih ht
      unfold bestBy
      rw [hx]
      dsimp only
      by_cases hlt : f a < f x
      · refine ⟨a :: l1, x, l2, if_pos hlt, rfl, fun y hy => ?_, h2⟩
        rcases List.mem_cons.1 hy with rfl | hy
        · exact hlt
        · exact h1 y hy
      · refine ⟨[], a, l1 ++ x :: l2, if_neg hlt, rfl, by simp, fun y hy => ?_⟩
        rcases List.mem_append.1 hy with hy | hy
        · exact (h1 y hy).le.trans (Nat.not_lt.1 hlt)
        · rcases List.mem_cons.1 hy with rfl | hy
          · exact Nat.not_lt.1 hlt
          · exact (h2 y hy).trans (Nat.not_lt.1 hlt)

/-! ### The order of R47 -/

/-- The priority of a group raised by its wait (R47). -/
def Group.aged (g : Group) : Nat := min 7 (g.pri + g.wait / 512)

/-- One group goes before another: a starving one before one that is not, and by its wait before one that is; else by aged priority,
then by wait (R47). -/
def Group.outranks (y x : Group) : Prop :=
  (1792 ≤ y.wait ∧ (x.wait < 1792 ∨ x.wait < y.wait)) ∨
    (y.wait < 1792 ∧ x.wait < 1792 ∧ (x.aged < y.aged ∨ (x.aged = y.aged ∧ x.wait < y.wait)))

/-- A group that starves is outranked only by one that waits longer. -/
theorem Group.outranks_starving {x y : Group} (h : 1792 ≤ x.wait) : y.outranks x ↔ x.wait < y.wait := by
  unfold Group.outranks; omega

/-- A group that starves outranks those that do not. -/
theorem Group.starving_outranks {x y : Group} (h : 1792 ≤ x.wait) (hy : 1792 ≤ y.wait → y.wait < x.wait) : x.outranks y := by
  unfold Group.outranks; omega

/-- Below starvation the measure of `turnWinner` orders as R47 says. -/
theorem Group.outranks_iff_measure {x y : Group} (hx : x.wait < 1792) (hy : y.wait < 1792) :
    y.outranks x ↔ min 7 (x.pri + x.wait / 512) * 2 ^ 64 + x.wait < min 7 (y.pri + y.wait / 512) * 2 ^ 64 + y.wait := by
  unfold Group.outranks Group.aged; omega

theorem turnWinner_of_ne_nil {gs : List (Nat × Group)} (h : gs ≠ []) :
    ∃ l1 x l2, turnWinner gs = some x ∧ gs = l1 ++ x :: l2 ∧ (∀ y ∈ l1, x.2.outranks y.2) ∧ ∀ y ∈ l2, ¬ y.2.outranks x.2 := by
  unfold turnWinner
  dsimp only
  by_cases hs : gs.filter (fun x => decide (1792 ≤ x.2.wait)) = []
  · have hlow : ∀ y ∈ gs, y.2.wait < 1792 := fun y hy => by
      have := List.filter_eq_nil_iff.1 hs y hy
      simpa using this
    rw [if_neg (not_not.2 hs)]
    obtain ⟨l1, x, l2, hx, rfl, h1, h2⟩ :=
      bestBy_of_ne_nil (fun x => min 7 (x.2.pri + x.2.wait / 512) * 2 ^ 64 + x.2.wait) h
    have hxl := hlow x (by simp)
    refine ⟨l1, x, l2, hx, rfl, fun y hy => ?_, fun y hy => ?_⟩
    · exact (Group.outranks_iff_measure (hlow y (by simp [hy])) hxl).2 (h1 y hy)
    · exact fun ho => absurd ((Group.outranks_iff_measure hxl (hlow y (by simp [hy]))).1 ho) (Nat.not_lt.2 (h2 y hy))
  · rw [if_pos hs]
    obtain ⟨a, x, b, hx, hab, h1, h2⟩ := bestBy_of_ne_nil (fun x => x.2.wait) hs
    obtain ⟨l1, r, rfl, rfl, hr⟩ := List.filter_eq_append_iff.1 hab
    obtain ⟨m, l2, rfl, hm, hxs, rfl⟩ := List.filter_eq_cons_iff.1 hr
    have hx1 : 1792 ≤ x.2.wait := by simpa using hxs
    refine ⟨l1 ++ m, x, l2, hx, by simp, fun y hy => ?_, fun y hy ho => ?_⟩
    · refine Group.starving_outranks hx1 fun hy1 => ?_
      rcases List.mem_append.1 hy with hy | hy
      · exact h1 y (List.mem_filter.2 ⟨hy, by simpa using hy1⟩)
      · exact absurd (by simpa using hy1) (hm y hy)
    · have hlt := (Group.outranks_starving hx1).1 ho
      have := h2 y (List.mem_filter.2 ⟨hy, by simp; omega⟩)
      omega

/-- A group as it stood `d` cycles ago. -/
def Group.before (g : Group) (d : Nat) : Group := { g with wait := g.wait - d }

/-- The order of R47 among groups as they stood `d` cycles ago, by the waits that they have now. -/
theorem Group.before_outranks {x y : Group} {d : Nat} (hx : d ≤ x.wait) (hy : d ≤ y.wait) :
    (y.before d).outranks (x.before d) ↔ (1792 ≤ y.wait - d ∧ (x.wait - d < 1792 ∨ x.wait < y.wait)) ∨
      (y.wait - d < 1792 ∧ x.wait - d < 1792 ∧
        (min 7 (x.pri + (x.wait - d) / 512) < min 7 (y.pri + (y.wait - d) / 512) ∨
          (min 7 (x.pri + (x.wait - d) / 512) = min 7 (y.pri + (y.wait - d) / 512) ∧ x.wait < y.wait))) := by
  unfold Group.outranks Group.aged Group.before
  dsimp only
  omega

/-- The next turn when some groups were ready as the turn before ended. -/
theorem nextTurn_before {d : Nat} {gs : List (Nat × Group)} (h : ∃ x ∈ gs, d ≤ x.2.wait) :
    ∃ l1 x l2 g, nextTurn d gs = some (x.1, g) ∧ (gs.filter fun x => decide (d ≤ x.2.wait)) = l1 ++ x :: l2 ∧
      (∀ y ∈ l1, (x.2.before d).outranks (y.2.before d)) ∧ ∀ y ∈ l2, ¬ (y.2.before d).outranks (x.2.before d) := by
  have hne : (gs.filter fun x => decide (d ≤ x.2.wait)).map (fun x => (x.1, x.2.before d)) ≠ [] := by
    obtain ⟨x, hx, hd⟩ := h
    simp only [ne_eq, List.map_eq_nil_iff, List.filter_eq_nil_iff, not_forall]
    exact ⟨x, hx, by simpa using hd⟩
  obtain ⟨a, z, b, hz, hab, h1, h2⟩ := turnWinner_of_ne_nil hne
  obtain ⟨l1, r, hl, rfl, hr⟩ := List.map_eq_append_iff.1 hab
  obtain ⟨x, l2, rfl, rfl, rfl⟩ := List.map_eq_cons_iff.1 hr
  refine ⟨l1, x, l2, x.2.before d, ?_, hl, fun y hy => ?_, fun y hy => ?_⟩
  · unfold nextTurn
    exact (if_pos hne).trans hz
  · exact h1 _ (List.mem_map.2 ⟨y, hy, rfl⟩)
  · exact h2 _ (List.mem_map.2 ⟨y, hy, rfl⟩)

/-- The next turn when no group was ready as the turn before ended. -/
theorem nextTurn_since {d : Nat} {gs : List (Nat × Group)} (hne : gs ≠ []) (h : ∀ x ∈ gs, x.2.wait < d) :
    ∃ l1 x l2, nextTurn d gs = some x ∧ gs = l1 ++ x :: l2 ∧ (∀ y ∈ l1, y.2.wait < x.2.wait) ∧
      ∀ y ∈ l2, y.2.wait ≤ x.2.wait := by
  have hnil : gs.filter (fun x => decide (d ≤ x.2.wait)) = [] :=
    List.filter_eq_nil_iff.2 fun x hx => by simpa using h x hx
  obtain ⟨l1, x, l2, hx, hl, h1, h2⟩ := bestBy_of_ne_nil (fun x => x.2.wait) hne
  refine ⟨l1, x, l2, ?_, hl, h1, h2⟩
  unfold nextTurn
  rw [hnil]
  exact hx

/-! ### The grant -/

/-- The state in which a group of a partition holds a new turn (R44, R47). -/
def State.granted (s : State) (c p k : Nat) : State :=
  (s.onPart (partKey c p) fun q => { q with turn := some ⟨keyPlace k, 0, s.cycles (dieOfCore c)⟩, second := none }).onGroup k
    fun g => { g with wait := 0 }

theorem Tab.find_isSome_of_mem {α : Type} {t : List (Nat × α)} {k : Nat} {v : α} (h : (k, v) ∈ t) :
    (Tab.find t k).isSome = true := by
  induction t with
  | nil => cases h
  | cons x t ih =>
    obtain ⟨j, w⟩ := x
    unfold Tab.find
    split
    · rfl
    · next hne =>
      rcases List.mem_cons.1 h with he | he
      · exact absurd (Prod.mk.inj he).1 hne
      · exact ih he

theorem State.granted_part (s : State) (c p k n : Nat) : (s.granted c p k).part n =
    if n = partKey c p then { s.part n with turn := some ⟨keyPlace k, 0, s.cycles (dieOfCore c)⟩, second := none } else s.part n := by
  unfold State.granted
  rw [State.onGroup_part, State.onPart_part]
  split
  next h => rw [h]
  next => rfl

theorem State.granted_group (s : State) (c p k j : Nat) :
    (s.granted c p k).group? j = if j = k then (s.group? j).map fun g => { g with wait := 0 } else s.group? j :=
  State.onGroup_group ..

theorem State.granted_fileOf (s : State) (c p k j : Nat) : (s.granted c p k).fileOf j = s.fileOf j := by
  unfold State.fileOf
  rw [State.granted_group]
  split
  · cases s.group? j <;> rfl
  · rfl

/-- What a grant to a resident group leaves: the turn, its wait at 0 and no other change of a group, partition or register. -/
theorem State.granted_spec {s : State} {c p : Nat} {x : Nat × Group} (hx : x ∈ s.groups) :
    ((s.granted c p x.1).part (partKey c p)).turn = some ⟨keyPlace x.1, 0, s.cycles (dieOfCore c)⟩ ∧
      (∀ n, n ≠ partKey c p → (s.granted c p x.1).part n = s.part n) ∧
      (∃ g, (s.granted c p x.1).group? x.1 = some g ∧ g.wait = 0) ∧
      (∀ k, (s.granted c p x.1).fileOf k = s.fileOf k) ∧
      (∀ k, k ≠ x.1 → (s.granted c p x.1).group? k = s.group? k) ∧ (s.granted c p x.1).mem = s.mem := by
  obtain ⟨g, hg⟩ := Option.isSome_iff_exists.1 (Tab.find_isSome_of_mem hx)
  refine ⟨?_, fun n hn => ?_, ⟨{ g with wait := 0 }, ?_, rfl⟩, s.granted_fileOf c p x.1, fun k hk => ?_, rfl⟩
  · rw [State.granted_part, if_pos rfl]
  · rw [State.granted_part, if_neg hn]
  · rw [State.granted_group, if_pos rfl, show s.group? x.1 = some g from hg]; rfl
  · rw [State.granted_group, if_neg hk]

/-- A partition without a turn grants one to the winner. -/
theorem turnGrant_happens {s : State} {c p k : Nat} {g : Group} {R : State → Prop} (ht : (s.part (partKey c p)).turn = none)
    (hn : nextTurn (s.cycles (dieOfCore c) - (s.part (partKey c p)).freed) (s.readyGroups c p) = some (k, g))
    (hR : R (s.granted c p k)) : Happens .turnGrant (.turnGrant c p) s R := by
  refine happens_of_onEvent rfl rfl ?_
  simp only [ht, hn]
  exact hR

theorem turnGrant_idle {s : State} {c p : Nat}
    (h : (s.part (partKey c p)).turn.isSome = true ∨ s.readyGroups c p = []) :
    Happens .turnGrant (.turnGrant c p) s fun t => t = s := by
  refine happens_of_onEvent rfl rfl ?_
  dsimp only
  rcases h with h | h
  · rw [if_pos h]; rfl
  · rw [h]
    split
    · rfl
    · rfl

theorem mem_groups_of_ready {s : State} {c p : Nat} {x : Nat × Group} (h : x ∈ s.readyGroups c p) : x ∈ s.groups :=
  (List.mem_filter.1 h).1

/-! ### The end of a turn -/

theorem mkKey_fields {c p n : Nat} (hc : c < 2048) (hp : p < 4) (hn : n < 16) :
    mkKey c p n < 0x20000 ∧ keyCore (mkKey c p n) = c ∧ keyPart (mkKey c p n) = p ∧ keyPlace (mkKey c p n) = n := by
  have hlt : mkKey c p n < 0x20000 := by unfold mkKey; omega
  refine ⟨hlt, ?_, ?_, ?_⟩
  · unfold keyCore; rw [if_neg (by omega)]; unfold mkKey; omega
  · unfold keyPart; rw [if_neg (by omega)]; unfold mkKey; omega
  · unfold keyPlace; rw [if_neg (by omega)]; unfold mkKey; omega

theorem partOf_mkKey {c p n : Nat} (hc : c < 2048) (hp : p < 4) (hn : n < 16) : partOf (mkKey c p n) = partKey c p := by
  obtain ⟨-, h1, h2, -⟩ := mkKey_fields hc hp hn
  rw [partOf, h1, h2]

/-- The end of the turn that a partition's group holds. -/
theorem State.endTurn_holder {s : State} {c p : Nat} {u : Turn} (hc : c < 2048) (hp : p < 4) (hu : u.place < 16)
    (ht : (s.part (partKey c p)).turn = some u) :
    ((s.endTurn (mkKey c p u.place)).part (partKey c p)).turn = none ∧
      (∀ n, n ≠ partKey c p → (s.endTurn (mkKey c p u.place)).part n = s.part n) ∧ (s.endTurn (mkKey c p u.place)).mem = s.mem ∧
      ∀ k, (s.endTurn (mkKey c p u.place)).fileOf k = s.fileOf k := by
  obtain ⟨hlt, -, -, hpl⟩ := mkKey_fields hc hp hu
  refine ⟨?_, fun n hn => ?_, ?_, fun k => State.endTurn_fileOf ..⟩ <;> unfold State.endTurn <;> dsimp only <;>
    rw [partOf_mkKey hc hp hu, ht] <;> dsimp only <;> rw [hpl, if_pos (by simpa using hlt)]
  · rw [State.onGroup_part, State.onPart_part, if_pos rfl]
  · rw [State.onGroup_part, State.onPart_part, if_neg hn]
  · rfl

/-- The row of a limit on turns: the turn ends when it is reached, and else nothing happens (R44). -/
theorem turnLimit_happens {s : State} {c p : Nat} {u : Turn} {i : Instr} {e : Event} {f : Event → Option State} {q : Turn → Bool}
    (hi : exec i s = onEvent s f) (hr : e.row = i) (hf : f e = endTurnIf s c p q) (hc : c < 2048) (hp : p < 4)
    (hu : u.place < 16) (ht : (s.part (partKey c p)).turn = some u) :
    (q u = true → Happens i e s fun t => (t.part (partKey c p)).turn = none ∧
      (∀ n, n ≠ partKey c p → t.part n = s.part n) ∧ t.mem = s.mem ∧ ∀ k, t.fileOf k = s.fileOf k) ∧
    (q u = false → Happens i e s fun t => t = s) := by
  refine ⟨fun h => happens_of_onEvent hi hr ?_, fun h => happens_of_onEvent hi hr ?_⟩ <;> rw [hf] <;> unfold endTurnIf <;>
    rw [ht] <;> dsimp only <;> rw [h]
  · exact State.endTurn_holder hc hp hu ht
  · rfl

/-! ### Readiness -/

theorem State.look_group (s : State) (f : Nat → Bool) (k : Nat) : (s.look f).group? k = (s.group? k).map fun g =>
    if g.privileged || !f k then g else { g with ready := s.readyNow k g } := by
  rw [State.group?, State.group?, ← Tab.find_mapKey s.groups fun k g =>
    if g.privileged || !f k then g else { g with ready := s.readyNow k g }]
  refine congrArg (Tab.find · k) (List.map_congr_left fun x _ => ?_)
  split <;> rfl

/-- A group is ready when the word at its issue address is not held (R45). -/
theorem State.readyNow_of_exec {s t : State} {k h : Nat} {g : Group} {pc hw w : Word} (hpc : g.minPc = some pc)
    (hst : g.stopped pc = false) (hl : g.lanesAt pc ≠ 0) (hu : g.unseen = [])
    (hc : clauseAt (codeReader s k) pc.toNat = some (h, hw)) (hwait : pc.toNat = h + 4 → g.waitMet hw = true)
    (hit : s.codeHit k pc.toNat w)
    (he : exec (decodeWord w) { s with cur := ⟨k, pc, g.lanesAt pc, w, false, h, hw, none, false⟩ } = .next t) :
    s.readyNow k g = !t.cur.held := by
  unfold State.readyNow
  rw [hpc]
  dsimp only
  rw [pickAt_word false hst hl (by simp [hu]) hc hwait hit]
  dsimp only
  rw [wordInstr_eq, he]

/-- Settles O43: the winner of R47 by its place in the list of ready groups, the two limits by the one function that they share, and
readiness by what the look of the arbiter notes. -/
theorem turnEvents : Obligations.TurnEvents := by
  unfold Obligations.TurnEvents
  refine ⟨?_, ?_, ?_, ?_, ?_⟩
  · intro s c p hc hp ht hex
    obtain ⟨l1, x, l2, g, hn, hl, h1, h2⟩ := nextTurn_before hex
    have hmem : x ∈ (s.readyGroups c p).filter fun x =>
        decide (s.cycles (dieOfCore c) - (s.part (partKey c p)).freed ≤ x.2.wait) := by rw [hl]; simp
    have hle : ∀ y ∈ l1 ++ x :: l2, s.cycles (dieOfCore c) - (s.part (partKey c p)).freed ≤ y.2.wait := fun y hy => by
      rw [← hl] at hy
      simpa using (List.mem_filter.1 hy).2
    refine turnGrant_happens ht hn ⟨l1, x, l2, hl, fun y hy => ?_, fun y hy => ?_,
      State.granted_spec (mem_groups_of_ready (List.mem_filter.1 hmem).1)⟩
    · exact (Group.before_outranks (hle y (by simp [hy])) (hle x (by simp))).1 (h1 y hy)
    · exact fun hb => h2 y hy ((Group.before_outranks (hle x (by simp)) (hle y (by simp [hy]))).2 hb)
  · intro s c p hc hp ht hne hlt
    obtain ⟨l1, x, l2, hn, hl, h1, h2⟩ := nextTurn_since hne hlt
    have hmem : x ∈ s.readyGroups c p := by rw [hl]; simp
    exact turnGrant_happens ht hn ⟨l1, x, l2, hl, h1, h2, State.granted_spec (mem_groups_of_ready hmem)⟩
  · exact fun s c p h => turnGrant_idle h
  · intro s c p u hc hp ht hu
    obtain ⟨h1, h2⟩ := turnLimit_happens (q := fun t => t.start + 256 ≤ s.cycles (dieOfCore c)) (i := .turnTimeLimit)
      (e := .turnTimeLimit c p) rfl rfl rfl hc hp hu ht
    obtain ⟨h3, h4⟩ := turnLimit_happens (q := fun t => 24 ≤ t.issues) (i := .turnInstructionLimit)
      (e := .turnInstructionLimit c p) rfl rfl rfl hc hp hu ht
    exact ⟨fun h => h1 (by simpa using h), fun h => h2 (by simpa using h), fun h => h3 (by simpa using h),
      fun h => h4 (by simpa using h)⟩
  · intro s c p k g hg hpr hkc hkp
    refine ⟨_, ?_, rfl, fun pc h hw w t hpc hst hl hu hcl hwait hit he =>
      State.readyNow_of_exec hpc hst hl hu hcl hwait hit he⟩
    show (s.look fun k => keyCore k = c && keyPart k = p).group? k = _
    rw [State.look_group, hg, Option.map_some, if_neg (by simp [hpr, hkc, hkp])]

end Sys2Proof.Machine

end

section
/-! SUPPORT. What the device's own accesses to memory do not look at: they give the same answers, and leave the same device, whatever
the tables of a `Cover` hold, as long as the fences in progress and the leases on their way are the same. -/

namespace Sys2Proof.Machine

/-- Tables that the device's own accesses to memory carry along. -/
structure Cover where
  idCtr : Nat
  parts : Tab Part
  groups : Tab Group
  grids : Tab Grid
  formers : Tab Former
  queues : Tab (List Nat)
  accesses : Tab Access
  cmds : Tab Cmd

def State.cover (s : State) : Cover := ⟨s.idCtr, s.parts, s.groups, s.grids, s.formers, s.queues, s.accesses, s.cmds⟩

/-- A state with other tables. -/
def State.under (s : State) (c : Cover) : State :=
  { s with
    idCtr := c.idCtr, parts := c.parts, groups := c.groups, grids := c.grids, formers := c.formers, queues := c.queues,
    accesses := c.accesses, cmds := c.cmds }

/-- The team of a group in a table of groups. -/
def teamIn (gs : Tab Group) (k : Nat) : Option Nat := (Tab.find gs k).bind fun g => if g.privileged then none else some g.team

/-- Two covers that no access tells apart: the same fences in progress, and the same replies on their way (R99, R104). -/
structure Cover.Alike (c d : Cover) : Prop where
  fences : ∀ q : Nat → Option Nat → Fence → Bool,
    (c.groups.any fun x => x.2.fences.any fun y => q x.1 (teamIn c.groups x.1) y.2) =
      d.groups.any fun x => x.2.fences.any fun y => q x.1 (teamIn d.groups x.1) y.2
  replies : c.accesses.map (·.2.status) = d.accesses.map (·.2.status)

theorem Cover.Alike.refl (c : Cover) : c.Alike c := ⟨fun _ => rfl, rfl⟩

@[simp] theorem State.under_cover (s : State) (c : Cover) : (s.under c).cover = c := rfl

variable (c : Cover)

theorem State.under_ite {p : Prop} [Decidable p] (a b : State) :
    (if p then a else b).under c = if p then a.under c else b.under c := by
  split <;> rfl

theorem under_pair_ite {β : Type} {p : Prop} [Decidable p] (a b : State × β) :
    ((if p then a else b).1.under c, (if p then a else b).2) = if p then (a.1.under c, a.2) else (b.1.under c, b.2) := by
  split <;> rfl

/-! ### What a state shows of memory -/

theorem State.remoteDev_under (s : State) (pa : Nat) : (s.under c).remoteDev pa = s.remoteDev pa := rfl

theorem State.lineFault_under (s : State) (pa : Nat) (w b : Bool) : (s.under c).lineFault pa w b = s.lineFault pa w b := rfl

theorem readEntry_under (s : State) (ea l : Nat) : readEntry (s.under c) ea l = readEntry s ea l := rfl

/-! ### Lines and their homes -/

theorem State.poke_under (s : State) (pa n v : Nat) : (s.under c).poke pa n v = (s.poke pa n v).under c := by
  unfold State.poke; dsimp only; rw [State.under_ite]; rfl

theorem State.onDie_under (s : State) (d : Nat) (f : Die → Die) : (s.under c).onDie d f = (s.onDie d f).under c := by
  unfold State.onDie; rw [State.under_ite]; rfl

theorem State.evictHome_under (s : State) (l : Nat) : (s.under c).evictHome l = (s.evictHome l).under c := by
  unfold State.evictHome
  rw [show (s.under c).home = s.home from rfl]
  cases Tab.find s.home l with
  | none => rfl
  | some h =>
    dsimp only
    rw [State.remoteDev_under]
    cases s.remoteDev (l * 64) with
    | none => exact State.onDie_under c { s with home := Tab.del s.home l } ..
    | some d => rfl

theorem State.makeRoom_under (s : State) (d : Nat) : (s.under c).makeRoom d = (s.makeRoom d).under c := by
  unfold State.makeRoom
  dsimp only
  rw [State.under_ite]
  refine congrArg (ite _ _) ?_
  rw [show (s.under c).homesOn d = s.homesOn d from rfl, show (s.under c).die d = s.die d from rfl,
    show (s.under c).freeCtr = s.freeCtr from rfl]
  cases (s.homesOn d)[Config.freePick s.freeCtr % ((s.homesOn d).length + (s.die d).copies.length)]? with
  | none => exact State.onDie_under ..
  | some x => exact State.evictHome_under ..

theorem State.roomFor_under (s : State) (l : Nat) : (s.under c).roomFor l = (s.roomFor l).under c := by
  unfold State.roomFor
  rw [State.under_ite, ← State.makeRoom_under]; rfl

theorem State.setHome_under (s : State) (l : Nat) (h : HomeLine) : (s.under c).setHome l h = (s.setHome l h).under c := by
  unfold State.setHome
  rw [State.roomFor_under]; rfl

theorem State.repairBytes_under (s : State) (w pa n : Nat) : (s.under c).repairBytes w pa n = (s.repairBytes w pa n).under c := by
  unfold State.repairBytes
  rw [show (s.under c).badLines = s.badLines from rfl, show (s.under c).norm pa = s.norm pa from rfl]
  dsimp only
  cases Tab.find s.badLines (lineOf (s.norm pa)) <;> rfl

theorem State.takeLine_under (s : State) (l : Nat) : (s.under c).takeLine l = (s.takeLine l).under c := by
  unfold State.takeLine; rw [State.under_ite]; rfl

/-! ### Leases on their way -/

/-- The lease end that a reply on its way brings to a line. -/
def AccStatus.grant (line : Nat) : AccStatus → Nat
  | .replied l _ r e _ => if l = line then max r e else 0
  | _ => 0

theorem State.grantedHere_eq (s : State) (line : Nat) : s.grantedHere line =
    (s.accesses.map (·.2.status)).foldl (fun n a => max n (a.grant line))
      (s.cores.foldl (fun n x => max n (((Tab.find x.2.l1 line).map (·.rts)).getD 0))
        (max (((Tab.find s.die0.copies line).map (·.rts)).getD 0) (((Tab.find s.die1.copies line).map (·.rts)).getD 0))) := by
  rw [List.foldl_map]; rfl

variable {c}

theorem State.awayLeaseEnd_under {s : State} (h : c.Alike s.cover) (l : Nat) :
    (s.under c).awayLeaseEnd l = s.awayLeaseEnd l := by
  unfold State.awayLeaseEnd
  rw [State.grantedHere_eq, State.grantedHere_eq, show (s.under c).accesses.map (·.2.status) = s.accesses.map (·.2.status) from h.replies]
  rfl

theorem State.under_self (s : State) : s.under s.cover = s := rfl

/-- What an operation carries along it leaves as it was. -/
theorem State.cover_kept {s : State} {f : State → State} (hf : ∀ c : Cover, c.Alike s.cover → f (s.under c) = (f s).under c) :
    (f s).cover = s.cover := by
  have h := hf s.cover (.refl _)
  rw [State.under_self] at h
  rw [h]; rfl

theorem State.fst_cover_kept {β : Type} {s : State} {f : State → State × β}
    (hf : ∀ c : Cover, c.Alike s.cover → f (s.under c) = ((f s).1.under c, (f s).2)) : (f s).1.cover = s.cover :=
  State.cover_kept (f := fun s => (f s).1) fun c h => congrArg Prod.fst (hf c h)

theorem homeStamp_under {s : State} (h : c.Alike s.cover) (l T : Nat) :
    homeStamp (s.under c) l T = ((homeStamp s l T).1.under c, (homeStamp s l T).2) := by
  unfold homeStamp
  dsimp only
  rw [State.takeLine_under, State.awayLeaseEnd_under h]
  refine Prod.ext ?_ rfl
  dsimp only
  rw [← State.setHome_under]
  refine congrArg (State.setHome · _ _) ?_
  rw [State.under_ite]; rfl

theorem State.storeAway_under {s : State} (h : c.Alike s.cover) (T pa : Nat) :
    (s.under c).storeAway T pa = (s.storeAway T pa).under c := by
  unfold State.storeAway
  rw [State.awayLeaseEnd_under h, State.under_ite]; rfl

theorem State.deviceStore_under {s : State} (h : c.Alike s.cover) (T pa n v : Nat) :
    (s.under c).deviceStore T pa n v = (s.deviceStore T pa n v).under c := by
  unfold State.deviceStore
  rw [State.under_ite, State.storeAway_under h, homeStamp_under h]
  dsimp only
  rw [State.poke_under, State.repairBytes_under]; rfl

theorem foldl_under {α : Type} {f : State → α → State}
    (hf : ∀ (s : State) (x : α) (c : Cover), c.Alike s.cover → f (s.under c) x = (f s x).under c) (l : List α) {s : State}
    (h : c.Alike s.cover) : l.foldl f (s.under c) = (l.foldl f s).under c := by
  induction l generalizing s with
  | nil => rfl
  | cons x l ih =>
    rw [List.foldl_cons, List.foldl_cons, hf s x c h]
    exact ih ((State.cover_kept (f := (f · x)) (hf s x)).symm ▸ h)

theorem State.deviceBytes_under {s : State} (h : c.Alike s.cover) (T pa : Nat) (bs : List Byte) :
    (s.under c).deviceBytes T pa bs = (s.deviceBytes T pa bs).under c :=
  foldl_under (fun _ _ _ h => State.deviceStore_under h ..) _ h

/-! ### Translation -/

variable (c)

theorem State.cacheTable_under (s : State) (d asid va l t : Nat) :
    (s.under c).cacheTable d asid va l t = (s.cacheTable d asid va l t).under c := by
  unfold State.cacheTable
  dsimp only
  rw [State.under_ite, ← State.onDie_under]; rfl

theorem walkGo_under (d asid va l tbl : Nat) (s : State) :
    walkGo none d asid va l tbl (s.under c) = ((walkGo none d asid va l tbl s).1.under c, (walkGo none d asid va l tbl s).2) := by
  induction l generalizing tbl s with
  | zero => rfl
  | succ l ih =>
    unfold walkGo
    dsimp only
    rw [readEntry_under, show (s.under c).cachedTable d asid va (l + 1) = s.cachedTable d asid va (l + 1) from rfl,
      show (s.under c).freeCtr = s.freeCtr from rfl, show ∀ ea, (s.under c).entryLoad none ea = s.under c from fun _ => rfl,
      show ∀ ea, s.entryLoad none ea = s from fun _ => rfl]
    split
    · rw [State.cacheTable_under, ih]
    · split
      · rw [State.cacheTable_under, ih]
      · rfl

theorem walkFrom_under (s : State) (d x va : Nat) :
    walkFrom (s.under c) none d x va = ((walkFrom s none d x va).1.under c, (walkFrom s none d x va).2) := by
  unfold walkFrom
  rw [show (s.under c).rootOf x = s.rootOf x from rfl, show (s.under c).asidOf x = s.asidOf x from rfl, walkGo_under]
  split <;> rfl

theorem walkFrom_cover (s : State) (d x va : Nat) : (walkFrom s none d x va).1.cover = s.cover :=
  State.fst_cover_kept (f := fun s => walkFrom s none d x va) fun c _ => walkFrom_under c s ..

theorem pickEntry_under (s : State) (ea pte : Nat) :
    pickEntry (s.under c) ea pte = ((pickEntry s ea pte).1.under c, (pickEntry s ea pte).2) := by
  unfold pickEntry
  dsimp only
  split
  · rw [under_pair_ite]; rfl
  · rfl

theorem pickEntry_cover (s : State) (ea pte : Nat) : (pickEntry s ea pte).1.cover = s.cover :=
  State.fst_cover_kept (f := fun s => pickEntry s ea pte) fun c _ => pickEntry_under c s ..

variable {c}

/-- An engine's walk. -/
theorem walk_under {s : State} (h : c.Alike s.cover) (d x va : Nat) (acc : AccessKind) (spec : Bool) :
    walk (s.under c) d x va acc spec none = ((walk s d x va acc spec none).1.under c, (walk s d x va acc spec none).2) := by
  have hk := walkFrom_cover s d x va
  unfold walk
  rw [walkFrom_under]
  generalize walkFrom s none d x va = w at hk ⊢
  obtain ⟨s1, r⟩ := w
  cases r with
  | fail r => rfl
  | table t => rfl
  | leaf ea0 pte0 level =>
    dsimp only at hk ⊢
    have hq : (if level = 0 then pickEntry (s1.under c) ea0 pte0 else (s1.under c, .ok (ea0, pte0))) =
        ((if level = 0 then pickEntry s1 ea0 pte0 else (s1, .ok (ea0, pte0))).1.under c,
          (if level = 0 then pickEntry s1 ea0 pte0 else (s1, .ok (ea0, pte0))).2) := by
      rw [under_pair_ite, pickEntry_under]
    have hqk : (if level = 0 then pickEntry s1 ea0 pte0 else (s1, .ok (ea0, pte0))).1.cover = s.cover := by
      split
      · exact (pickEntry_cover ..).trans hk
      · exact hk
    rw [hq]
    generalize (if level = 0 then pickEntry s1 ea0 pte0 else (s1, .ok (ea0, pte0))) = q at hqk ⊢
    obtain ⟨s2, r⟩ := q
    cases r with
    | error r => rfl
    | ok e =>
      obtain ⟨ea, pte⟩ := e
      dsimp only at hqk ⊢
      rw [show (s2.under c).regionOf x va = s2.regionOf x va from rfl, show (s2.under c).asidOf x = s2.asidOf x from rfl]
      split
      · rfl
      · split
        · rfl
        · refine Prod.ext ?_ rfl
          dsimp only
          rw [State.under_ite]
          refine congrArg (ite _ _) ?_
          exact State.deviceStore_under (hqk ▸ h) ..

theorem translateWalk_under {s : State} (h : c.Alike s.cover) (x va : Nat) (acc : AccessKind) :
    translateWalk (s.under c) x va acc = ((translateWalk s x va acc).1.under c, (translateWalk s x va acc).2) := by
  unfold translateWalk
  rw [under_pair_ite, under_pair_ite, walk_under h]; rfl

theorem translateWalk_cover (s : State) (x va : Nat) (acc : AccessKind) : (translateWalk s x va acc).1.cover = s.cover :=
  State.fst_cover_kept (f := fun s => translateWalk s x va acc) fun _ h => translateWalk_under h ..

/-! ### Meeting lines -/

theorem State.veils_under {s : State} (h : c.Alike s.cover) (ag : Agent) (self pa : Nat) :
    (s.under c).veils ag self pa = s.veils ag self pa := by
  have hv : ∀ s : State, s.veils ag self pa = s.groups.any fun x => x.2.fences.any fun y =>
      (decide (x.1 ≠ self) && (y.2.early.contains (lineOf (s.norm pa)) &&
        if y.2.dom = 0 then (teamIn s.groups x.1).isSome && decide (teamIn s.groups x.1 = ag.team)
        else if y.2.dom = 1 then decide (dieOfCore (keyCore x.1) = ag.die) else true)) := by
    intro s
    unfold State.veils
    refine congrArg (List.any s.groups) (funext fun x => ?_)
    rw [← List.and_any_distrib_left]
    rfl
  rw [hv, hv]
  exact h.fences fun k t f => decide (k ≠ self) && (f.early.contains (lineOf (s.norm pa)) &&
    if f.dom = 0 then t.isSome && decide (t = ag.team) else if f.dom = 1 then decide (dieOfCore (keyCore k) = ag.die) else true)

theorem State.pinBy_under (s : State) (c : Cover) (ag : Agent) (dom pa : Nat) :
    (s.under c).pinBy ag dom pa = (s.pinBy ag dom pa).under c := by
  unfold State.pinBy
  dsimp only
  rw [State.under_ite, ← State.setHome_under]; rfl

theorem State.refuse_under (s : State) (c : Cover) (ag : Agent) (p : Pin) :
    (s.under c).refuse ag p = ((s.refuse ag p).1.under c, (s.refuse ag p).2) := by
  unfold State.refuse
  dsimp only
  rw [under_pair_ite, show (s.under c).refusals = s.refusals from rfl]
  refine congrArg (ite _ _) ?_
  cases Tab.find s.refusals ag.gid with
  | none => rfl
  | some n => dsimp only; rw [under_pair_ite]; rfl

theorem State.meetLine_under {s : State} (h : c.Alike s.cover) (ag : Agent) (w b : Bool) (va pa : Nat) :
    (s.under c).meetLine ag w b va pa = ((s.meetLine ag w b va pa).1.under c, (s.meetLine ag w b va pa).2) := by
  unfold State.meetLine
  rw [State.lineFault_under, State.veils_under h, show (s.under c).regionOf ag.space va = s.regionOf ag.space va from rfl,
    show (s.under c).pinAgainst ag pa = s.pinAgainst ag pa from rfl]
  split
  · rfl
  · rw [under_pair_ite, under_pair_ite]
    refine congrArg (ite _ _) (congrArg (ite _ _) ?_)
    cases s.pinAgainst ag pa with
    | some p => dsimp only; rw [State.refuse_under]
    | none =>
      refine Prod.ext ?_ rfl
      dsimp only
      rw [← State.pinBy_under, State.under_ite]; rfl

theorem State.meetLine_cover (s : State) (ag : Agent) (w b : Bool) (va pa : Nat) :
    (s.meetLine ag w b va pa).1.cover = s.cover :=
  State.fst_cover_kept (f := fun s => s.meetLine ag w b va pa) fun _ h => State.meetLine_under h ..

theorem meetLines_under {s : State} (h : c.Alike s.cover) (ag : Agent) (w : Bool) (va pa n m : Nat) :
    meetLines ag w va pa n m (s.under c) = ((meetLines ag w va pa n m s).1.under c, (meetLines ag w va pa n m s).2) := by
  induction m generalizing s with
  | zero => rfl
  | succ m ih =>
    unfold meetLines
    dsimp only
    generalize max pa (pa / 64 * 64 + 64 * (ceilDiv (pa % 64 + n) 64 - (m + 1))) = lo
    generalize (w && decide (lo % 64 = 0) && decide (lo + 64 ≤ pa + n)) = b
    have hk := s.meetLine_cover ag w b (va + (lo - pa)) lo
    rw [State.meetLine_under h]
    generalize s.meetLine ag w b (va + (lo - pa)) lo = r at hk ⊢
    obtain ⟨s1, o⟩ := r
    cases o with
    | none => exact ih (hk ▸ h)
    | some x => rfl

theorem meetLines_cover (ag : Agent) (w : Bool) (va pa n m : Nat) (s : State) : (meetLines ag w va pa n m s).1.cover = s.cover :=
  State.fst_cover_kept (f := meetLines ag w va pa n m) fun _ h => meetLines_under h ..

theorem State.noteBlock_under (s : State) (c : Cover) (pa : Nat) (u : RaceUse) :
    (s.under c).noteBlock pa u = (s.noteBlock pa u).under c := by
  unfold State.noteBlock
  dsimp only
  rw [State.under_ite]; rfl

theorem State.noteSpan_under {s : State} (h : c.Alike s.cover) (ag : Agent) (dom pa n : Nat) (w : Bool) :
    (s.under c).noteSpan ag dom pa n w = (s.noteSpan ag dom pa n w).under c :=
  foldl_under (fun s _ c _ => State.noteBlock_under s c ..) _ h

/-! ### Accesses by virtual address -/

theorem reach_under {s : State} (h : c.Alike s.cover) (x va n : Nat) (acc : AccessKind) :
    reach (s.under c) x va n acc = ((reach s x va n acc).1.under c, (reach s x va n acc).2) := by
  have ht := translateWalk_cover s x va acc
  unfold reach
  dsimp only
  rw [translateWalk_under h]
  generalize translateWalk s x va acc = r at ht ⊢
  obtain ⟨s1, o⟩ := r
  cases o with
  | ok e =>
    dsimp only at ht ⊢
    have h1 : c.Alike s1.cover := ht ▸ h
    have hm := meetLines_cover (ioAgent x) (acc = .store) va (e.phys va) n (ceilDiv (e.phys va % 64 + n) 64) s1
    rw [meetLines_under h1]
    generalize meetLines (ioAgent x) (acc = .store) va (e.phys va) n (ceilDiv (e.phys va % 64 + n) 64) s1 = r at hm ⊢
    obtain ⟨s2, o⟩ := r
    cases o with
    | some r => rfl
    | none =>
      refine Prod.ext ?_ rfl
      dsimp only
      rw [State.noteSpan_under (hm ▸ h1), State.under_ite]; rfl
  | _ => rfl

theorem reach_cover (s : State) (x va n : Nat) (acc : AccessKind) : (reach s x va n acc).1.cover = s.cover :=
  State.fst_cover_kept (f := fun s => reach s x va n acc) fun _ h => reach_under h ..

theorem State.agentByte_under (s : State) (c : Cover) (x dom pa : Nat) :
    (s.under c).agentByte (ioAgent x) dom pa = s.agentByte (ioAgent x) dom pa := by
  have hd : ∀ s : State, s.samplerDomain (ioAgent x) = none := fun _ => rfl
  unfold State.agentByte
  rw [hd, hd]; rfl

/-- A read by the device gives the same bytes and leaves the same device under another cover. -/
theorem readVirt_under {s : State} (h : c.Alike s.cover) (x va n : Nat) :
    readVirt (s.under c) x va n = ((readVirt s x va n).1.under c, (readVirt s x va n).2) := by
  unfold readVirt
  rw [reach_under h]
  generalize reach s x va n .load = r
  obtain ⟨s1, o⟩ := r
  cases o with
  | error r => rfl
  | ok e =>
    refine Prod.ext rfl (congrArg (fun rd => Except.ok (readBytes rd (e.phys va) n)) (funext fun a => ?_))
    exact State.agentByte_under s1 c ..

/-- A write by the device succeeds or fails alike and leaves the same device under another cover. -/
theorem writeVirt_under {s : State} (h : c.Alike s.cover) (x va n v : Nat) :
    writeVirt (s.under c) x va n v = ((writeVirt s x va n v).1.under c, (writeVirt s x va n v).2) := by
  have hr := reach_cover s x va n .store
  unfold writeVirt
  rw [reach_under h]
  generalize reach s x va n .store = r at hr ⊢
  obtain ⟨s1, o⟩ := r
  cases o with
  | error r => rfl
  | ok e => exact Prod.ext (State.deviceBytes_under (hr ▸ h) ..) rfl

theorem writeVirt_cover (s : State) (x va n v : Nat) : (writeVirt s x va n v).1.cover = s.cover :=
  State.fst_cover_kept (f := fun s => writeVirt s x va n v) fun _ h => writeVirt_under h ..

theorem State.deviceStore_cover (s : State) (T pa n v : Nat) : (s.deviceStore T pa n v).cover = s.cover :=
  State.cover_kept (f := fun s => s.deviceStore T pa n v) fun _ h => State.deviceStore_under h ..

/-- The checks of a launch record under another cover (R343, R444). -/
theorem recordRefusal_under {s : State} (h : c.Alike s.cover) (r ctx : Nat) (slot : Option Nat) :
    recordRefusal (s.under c) r ctx slot = recordRefusal s r ctx slot := by
  unfold recordRefusal
  rw [readVirt_under h]; rfl

end Sys2Proof.Machine
end

section
/-! SUPPORT. What a grid that enters its queue without a completion record leaves (R49, R342, R347). -/

namespace Sys2Proof.Machine

/-- What a grid is, but for when it became ready and since when it waits. -/
def Grid.unread (g : Grid) : Grid := { g with ready := none, unplaced0 := 0, unplaced1 := 0 }

/-- The grid that acceptance makes of a record. -/
def State.newGrid (s : State) (r : Nat) (a : Acceptance) : Grid :=
  { ctx := a.ctx, record := r, tier := a.tier, parent := a.parent, parentTeam := a.parentTeam, depth := a.depth,
    queue := recQueue r, accepted := s.ticks 0, ready := none, next0 := 0, next1 := 0, live := 0, params := a.params,
    code := 0, perSlot := a.perSlot, slots := a.slots, step := a.step, unplaced0 := s.ticks 0, unplaced1 := s.ticks 0,
    preempting := none, cut := 0 }

/-- A host record that entered in this tick, none of whose teams has been placed (R342). -/
def State.lateHost (s : State) (m : Nat) : Bool :=
  (s.grid? m).any fun h => h.parent.isNone && !h.step && h.accepted = s.ticks 0 && h.next0 = 0 && h.next1 = 0

/-- Those of a queue that a record enters behind, and those before which it enters (R342). -/
def State.queueParts (s : State) (q : Nat) (child : Bool) : List Nat × List Nat :=
  ((Tab.get s.queues q []).takeWhile fun m => !(child && s.lateHost m), (Tab.get s.queues q []).dropWhile fun m => !(child && s.lateHost m))

theorem State.onGrid_unread (s : State) (n : Nat) (f : Grid → Grid) (hf : ∀ g, (f g).unread = g.unread) (m : Nat) :
    ((s.onGrid n f).grid? m).map Grid.unread = (s.grid? m).map Grid.unread := by
  unfold State.onGrid State.grid?
  dsimp only
  rw [Tab.find_alter]
  split
  next h => rw [h]; cases Tab.find s.grids n <;> simp [hf]
  next => rfl

theorem State.readyHead_eq (s : State) (q : Nat) : ∃ gs, s.readyHead q = { s with grids := gs } := by
  unfold State.readyHead
  cases (Tab.get s.queues q []).head? with
  | none => exact ⟨s.grids, rfl⟩
  | some n => exact ⟨_, rfl⟩

/-- Readiness of the head of a queue says nothing else of a grid. -/
theorem State.readyHead_unread (s : State) (q m : Nat) :
    ((s.readyHead q).grid? m).map Grid.unread = (s.grid? m).map Grid.unread := by
  unfold State.readyHead
  cases (Tab.get s.queues q []).head? with
  | none => rfl
  | some n => exact s.onGrid_unread n _ (fun g => by split <;> rfl) m

/-- An older grid of the queue waits again when the record enters before it. -/
def State.waiting (s : State) (r : Nat) (child : Bool) (m : Nat) (g : Grid) : Grid :=
  if (child && s.lateHost m) && (Tab.get s.queues (recQueue r) []).contains m then { g with ready := none } else g

/-- The device with the grid of a record at its place in its queue, before the queue's head is made ready. -/
def State.entered (s : State) (r : Nat) (a : Acceptance) : State :=
  { s with
    idCtr := s.idCtr + 1
    grids := (Tab.put s.grids s.idCtr (s.newGrid r a)).map fun x => (x.1, s.waiting r a.parent.isSome x.1 x.2)
    queues := Tab.put s.queues (recQueue r) ((s.queueParts (recQueue r) a.parent.isSome).1 ++
      s.idCtr :: (s.queueParts (recQueue r) a.parent.isSome).2) }

theorem State.acceptGrid_entered {s : State} {r : Nat} (a : Acceptance) (hk : recKind r ≠ 2) (hc : recCompletion r = 0) :
    s.acceptGrid r a = ((s.entered r a).readyHead (recQueue r), s.idCtr) := by
  have hw : ∀ x : Nat × Grid, (if (a.parent.isSome && s.lateHost x.1) && (Tab.get s.queues (recQueue r) []).contains x.1 then
      (x.1, { x.2 with ready := none }) else x) = (x.1, s.waiting r a.parent.isSome x.1 x.2) := by
    intro x; unfold State.waiting; split <;> rfl
  unfold State.entered
  simp only [← hw]
  unfold State.acceptGrid State.writeCompletion
  rw [if_neg hk]
  dsimp only
  rw [if_pos hc]; rfl

theorem State.entered_grid (s : State) (r : Nat) (a : Acceptance) :
    (s.entered r a).grid? s.idCtr = some (s.waiting r a.parent.isSome s.idCtr (s.newGrid r a)) := by
  unfold State.grid? State.entered
  rw [Tab.find_mapKey, Tab.find_put_self]; rfl

/-- A record with no completion address that is none of the batch former's becomes a grid of the next number in its queue, and nothing
else of the device changes. -/
theorem State.acceptGrid_eq {s : State} {r : Nat} (a : Acceptance) (hk : recKind r ≠ 2) (hc : recCompletion r = 0) :
    ∃ gs, s.acceptGrid r a = ({ s with
        idCtr := s.idCtr + 1
        grids := gs
        queues := Tab.put s.queues (recQueue r) ((s.queueParts (recQueue r) a.parent.isSome).1 ++
          s.idCtr :: (s.queueParts (recQueue r) a.parent.isSome).2) }, s.idCtr) ∧
      (Tab.find gs s.idCtr).map Grid.unread = some (s.newGrid r a).unread := by
  obtain ⟨gs, hgs⟩ := (s.entered r a).readyHead_eq (recQueue r)
  refine ⟨gs, by rw [s.acceptGrid_entered a hk hc, hgs]; rfl, ?_⟩
  have h := (s.entered r a).readyHead_unread (recQueue r) s.idCtr
  rw [hgs, s.entered_grid] at h
  refine h.trans (congrArg some ?_)
  unfold State.waiting
  split <;> rfl

end Sys2Proof.Machine

end

section
/-! PROOF. WAITCH (R49, R51, R53, R210). -/

namespace Sys2Proof.Machine

/-! ### A group's new entry in its table -/

/-- A test that the new entry of a number passes as its old one did passes in the same tables. -/
theorem Tab.any_put {α : Type} {t : List (Nat × α)} {k : Nat} {v w : α} {p : Nat × α → Bool} (h : Tab.find t k = some w)
    (hp : p (k, v) = p (k, w)) : (Tab.put t k v).any p = t.any p := by
  induction t with
  | nil => cases h
  | cons x t ih =>
    obtain ⟨j, u⟩ := x
    unfold Tab.put
    split
    · rw [List.any_cons, hp, Bool.or_eq_right_iff_imp]
      exact fun hw => List.any_eq_true.2 ⟨_, Tab.mem_of_find h, hw⟩
    · unfold Tab.find at h
      split
      next hkj => subst hkj; rw [if_pos rfl] at h; cases h; rw [List.any_cons, List.any_cons, hp]
      next hkj => rw [if_neg hkj] at h; rw [List.any_cons, List.any_cons, ih h]

/-- Whether a LAUNCH of a team is not answered depends on no more of a group than its team and its LAUNCHes. -/
theorem State.launching_setGroup {s : State} {k : Nat} {g g2 : Group} (h : s.group? k = some g)
    (hp : g2.privileged = g.privileged) (ht : g2.team = g.team) (hl : g2.launches = g.launches) (t : Nat) :
    (s.setGroup k g2).launching t = s.launching t :=
  Tab.any_put (t := s.groups) h (by simp only [hp, ht, hl])

/-- A word that writes no register overtakes nothing. -/
theorem State.begun_writesNone {i : Instr} (h : written i = []) (s : State) (g : Group) :
    s.begun i g = s.setGroup s.cur.grp g.countIssue := by
  unfold State.begun State.overtaken
  simp only [h, ne_eq, not_true_eq_false, decide_false, Bool.and_false, Bool.false_eq_true, if_false]

/-! ### A word after which its group is blocked -/

/-- Before the last word of a clause, a group that blocks advances and gives up its turn (R39, R44). -/
theorem State.finish_blocked {s2 : State} {u : Issue} {g2 : Group} (h4 : u.pc.toNat % 4 = 0)
    (hm : u.pc.toNat ≠ u.hdr + 4 * hdrCount u.head) (ha : u.active ≠ 0) (hg : s2.group? u.grp = some g2)
    (hs : u.active &&& ~~~ (g2.lanesAt u.pc) = 0) (hb : g2.block ≠ .none) (hk : u.grp < 0x20000) (h2 : u.second = false) :
    s2.finish u = (s2.moved u).endTurn u.grp := by
  obtain ⟨l, -, hl⟩ := exists_lane ha
  have hpc := g2.standing hs hl
  have hlen : l < g2.pcs.length := (List.getElem?_eq_some_iff.1 hpc).1
  have hne : (g2.setPcs u.active fun _ => u.pc + 4).allExited = false :=
    Group.not_allExited _ (l := l) (by rw [Group.setPcs_pcs _ _ _ hlen, if_pos hl]) (next_ne_exited h4)
  have hgm : (s2.moved u).group? u.grp = some (g2.setPcs u.active fun _ => u.pc + 4) := by
    rw [State.moved_group, if_pos rfl, hg]; rfl
  have hec : (s2.moved u).exitCheck u.grp = s2.moved u := by
    unfold State.exitCheck
    simp only [hgm, hne, Bool.false_and, Bool.false_eq_true, if_false]
  have hmv : s2.moved u = (s2.onGroup u.grp fun g => g.setPcs u.active fun _ => u.pc + 4).onPart (partOf u.grp) fun p =>
      { p with turn := p.turn.map fun t => { t with issues := t.issues + 1 } } := by
    unfold State.moved
    rw [if_neg (by simp [h2, hk])]
  have hblk : (g2.setPcs u.active fun _ => u.pc + 4).block ≠ .none := hb
  unfold State.finish State.afterIssue
  rw [State.advance_mid _ _ _ hm ha, if_neg (Nat.not_le.2 hk), h2]
  dsimp only
  rw [if_neg Bool.false_ne_true, ← hmv, hec, hgm]
  dsimp only
  rw [if_pos (by simp only [Bool.or_eq_true, decide_eq_true_eq]; exact .inl (.inl (.inr hblk)))]

/-! ### WAITCH -/

theorem Untouched.core {k : Nat} {s t : State} (h : Untouched k s t) (c : Nat) : t.core c = s.core c := by
  simp only [State.core, State.die, h.cores, h.die0, h.die1]

/-- The children of a team that have not retired (R210). -/
def State.openChildren (s : State) (tm : Team) : List Nat := tm.children.filter fun n => (s.grid? n).isSome

/-- The body of WAITCH for a group of a team. -/
theorem waitch_issues {f : FmtA} {s : State} {g : Group} {tm : Team} (h : Issues (.waitch f) s g) (hp : g.privileged = false)
    (ht : s.team? g.team = some tm) (hl : (s.admitted g).getLsbD (lowestLane s.cur.active) = true) :
    ∃ body, exec (.waitch f) s = issue (.waitch f) s body ∧ body (s.begun (.waitch f) g) g.countIssue (s.admitted g) =
      if s.launching g.team then .hold
      else if s.openChildren tm = [] then .ok ((s.setGroup s.cur.grp g.countIssue).acquire (keyCore s.cur.grp))
      else .ok ((s.begun (.waitch f) g).setGroup s.cur.grp { g.countIssue with block := .waitch (s.openChildren tm) }) := by
  refine ⟨_, by show execWaitch f s = _; unfold execWaitch once; rfl, ?_⟩
  have hch : (((s.setGroup s.cur.grp g.countIssue).team? g.countIssue.team).map (·.children)).getD [] = tm.children := by
    show ((s.team? g.team).map (·.children)).getD [] = _
    rw [ht]; rfl
  have hla := State.launching_setGroup (g2 := g.countIssue) h.found rfl rfl rfl g.team
  have hp' : g.countIssue.privileged = false := hp
  rw [State.begun_writesNone rfl]
  dsimp only
  rw [hch, show (s.setGroup s.cur.grp g.countIssue).cur = s.cur from rfl, if_pos hl, hp', show g.countIssue.team = g.team from rfl, hla]
  simp only [Bool.not_false, Bool.true_and, Bool.false_or, decide_eq_true_eq]
  rfl

/-- A word that is held changes no group, no team and no byte (R45). -/
theorem State.holdWord_frame (s : State) : s.holdWord.cur.held = true ∧ s.holdWord.groups = s.groups ∧
    s.holdWord.teams = s.teams ∧ s.holdWord.mem = s.mem := by
  unfold State.holdWord State.clearSecond
  dsimp only
  split
  · exact ⟨rfl, rfl, rfl, rfl⟩
  · split <;> exact ⟨rfl, rfl, rfl, rfl⟩

/-- A WAITCH behind a LAUNCH that is not answered is held. -/
theorem waitch_held {f : FmtA} {s : State} {g : Group} {tm : Team} (h : Issues (.waitch f) s g) (hp : g.privileged = false)
    (ht : s.team? g.team = some tm) (hl : (s.admitted g).getLsbD (lowestLane s.cur.active) = true)
    (hw : s.launching g.team = true) : exec (.waitch f) s = .next s.holdWord := by
  obtain ⟨body, he, hb⟩ := waitch_issues h hp ht hl
  rw [he, issue_of h, hb, if_pos hw]

/-- A WAITCH with no child left raises the core's logical time and goes on. -/
theorem waitch_goesOn {f : FmtA} {s : State} {g : Group} {tm : Team} (h : Issues (.waitch f) s g) (hc : s.inClause)
    (hp : g.privileged = false) (ht : s.team? g.team = some tm) (hl : (s.admitted g).getLsbD (lowestLane s.cur.active) = true)
    (hw : s.launching g.team = false) (hn : s.openChildren tm = []) : StepsTo (.waitch f) s fun t g' =>
      g'.block = .none ∧ Quiet s t g g' ∧ (t.core (keyCore s.cur.grp)).lt = max (s.core (keyCore s.cur.grp)).lt s.frontier := by
  obtain ⟨body, he, hb⟩ := waitch_issues h hp ht hl
  obtain ⟨r1, r2, r3⟩ := Group.running h.ready
  rw [if_neg (by simp [hw]), if_pos hn] at hb
  have hg : ((s.setGroup s.cur.grp g.countIssue).acquire (keyCore s.cur.grp)).group? s.cur.grp = some g.countIssue :=
    Tab.find_put_self ..
  refine ⟨_, g.countIssue.setPcs s.cur.active fun _ => s.cur.pc + 4, he.trans (issue_inClause h hc hb hg rfl r1 r2 r3), ?_, r2, Quiet.moved (Untouched.setGroup _ s g.countIssue) rfl rfl, ?_⟩
  · rw [State.moved_group, if_pos rfl, hg]; rfl
  · rw [(Untouched.moved _ s.cur).core]
    exact congrArg Core.lt ((State.onCore_core ..).trans (if_pos rfl))

/-- A WAITCH with children left blocks its group on them. -/
theorem waitch_blocks {f : FmtA} {s : State} {g : Group} {tm : Team} (h : Issues (.waitch f) s g) (hc : s.inClause)
    (h2 : s.cur.second = false) (hk : s.cur.grp < 0x20000) (hp : g.privileged = false) (ht : s.team? g.team = some tm)
    (hl : (s.admitted g).getLsbD (lowestLane s.cur.active) = true) (hw : s.launching g.team = false)
    (hn : s.openChildren tm ≠ []) : StepsTo (.waitch f) s fun t g' =>
      g'.block = .waitch (s.openChildren tm) ∧ t.noTurn s.cur.grp ∧ Quiet s t g g' ∧ Untouched s.cur.grp s t := by
  obtain ⟨body, he, hb⟩ := waitch_issues h hp ht hl
  rw [if_neg (by simp [hw]), if_neg hn] at hb
  generalize hg2 : ({ g.countIssue with block := .waitch (s.openChildren tm) } : Group) = g2 at hb
  generalize hs2 : (s.begun (.waitch f) g).setGroup s.cur.grp g2 = s2 at hb
  have hg : s2.group? s.cur.grp = some g2 := by rw [← hs2, State.setGroup_group, if_pos rfl]
  have hpcs : g2.pcs = g.pcs := by rw [← hg2]; rfl
  have hfin := State.finish_blocked hc.1 hc.2 h.active hg (by rw [Group.lanesAt, hpcs]; exact h.standing)
    (by rw [← hg2]; exact Block.noConfusion) hk h2
  have hu : Untouched s.cur.grp s ((s2.moved s.cur).endTurn s.cur.grp) := by
    refine Untouched.trans ?_ (Untouched.endTurn ..)
    refine Untouched.trans ?_ (Untouched.moved s2 s.cur)
    rw [← hs2]
    exact (Untouched.begun s _ g).trans (Untouched.setGroup ..)
  have hm : (s2.moved s.cur).group? s.cur.grp = some (g2.setPcs s.cur.active fun _ => s.cur.pc + 4) := by
    rw [State.moved_group, if_pos rfl, hg]; rfl
  have hq : ∃ g', ((s2.moved s.cur).endTurn s.cur.grp).group? s.cur.grp = some g' ∧ g'.block = .waitch (s.openChildren tm) ∧
      OnlyWrites g g' [] [] [] ∧ PcsAre s g g' 0 fun _ => 0 := by
    have ho : OnlyWrites g.countIssue g2 [] [] [] := OnlyWrites.of_file (by rw [← hg2]; rfl) (OnlyWrites.refl g.countIssue ..)
    have hpm := PcsAre.moved (s := s) hpcs
    have hbl : g2.block = .waitch (s.openChildren tm) := by rw [← hg2]
    rcases (s2.moved s.cur).endTurn_group s.cur.grp s.cur.grp with h | h
    · exact ⟨_, h.trans hm, hbl, ho.advanced _ _, hpm⟩
    · exact ⟨_, (h.trans (congrArg _ hm)), hbl, .of_file (by rfl) (ho.advanced s.cur.active fun _ => s.cur.pc + 4), hpm⟩
  obtain ⟨g', hg', hbl, ho, hpc⟩ := hq
  refine ⟨_, g', ?_, hg', hbl, State.endTurn_noTurn _ _ hk, ⟨ho, hpc, hu.mem, hu.groups⟩, hu⟩
  rw [he, issue_of h, hb]
  exact congrArg _ hfin

end Sys2Proof.Machine

end

section
/-! SUPPORT. What the issue of a word marks dead: which stores a group still has to perform does not depend on it, nor what an access of
the device answers. -/

namespace Sys2Proof.Machine

/-! ### The operand log of a group does not depend on what is marked dead in it -/

/-- The earlier of a log entry and one met before, in program order. -/
def logPick (b : Option (Nat × LogEntry)) (x : Nat × LogEntry) : Option (Nat × LogEntry) :=
  match b with
  | none => some x
  | some y => if x.2.op < y.2.op || (x.2.op = y.2.op && x.1 < y.1) then some x else some y

/-- One more log entry in program order. -/
def logStep (mine acc : List (Nat × LogEntry)) : List (Nat × LogEntry) :=
  match (mine.filter fun x => !(acc.any fun y => y.1 = x.1)).foldl logPick none with
  | none => acc
  | some x => acc ++ [x]

/-- Log entries in program order. -/
def logOrder (mine : List (Nat × LogEntry)) : List (Nat × LogEntry) :=
  (List.range mine.length).foldl (fun acc _ => logStep mine acc) []

theorem State.logOf_order (s : State) (k : Nat) :
    s.logOf k = logOrder ((s.part (partOf k)).log.filter fun x => x.2.grp = k) := by
  unfold State.logOf logOrder logStep logPick; rfl

section
variable {F : Nat × LogEntry → Nat × LogEntry} (hF : ∀ x, (F x).1 = x.1 ∧ (F x).2.op = x.2.op)
include hF

theorem logPick_map (b : Option (Nat × LogEntry)) (x : Nat × LogEntry) : logPick (b.map F) (F x) = (logPick b x).map F := by
  cases b with
  | none => rfl
  | some y =>
    simp only [Option.map_some, logPick, (hF _).1, (hF _).2]
    split <;> rfl

theorem logStep_map (mine acc : List (Nat × LogEntry)) : logStep (mine.map F) (acc.map F) = (logStep mine acc).map F := by
  have hf : (mine.map F).filter (fun x => !((acc.map F).any fun y => y.1 = x.1)) =
      (mine.filter fun x => !(acc.any fun y => y.1 = x.1)).map F := by
    rw [List.filter_map]
    refine congrArg (List.map F) (List.filter_congr fun x _ => ?_)
    simp only [Function.comp_apply, List.any_map, (hF _).1, Function.comp_def]
  have hp : ∀ l : List (Nat × LogEntry), (l.map F).foldl logPick none = (l.foldl logPick none).map F := by
    intro l
    rw [List.foldl_map]
    exact List.foldl_hom (Option.map F) (init := none) fun b x => logPick_map hF b x
  unfold logStep
  rw [hf, hp]
  cases (mine.filter fun x => !(acc.any fun y => y.1 = x.1)).foldl logPick none with
  | none => rfl
  | some x => simp only [Option.map_some, List.map_append, List.map_cons, List.map_nil]

theorem logOrder_map (mine : List (Nat × LogEntry)) : logOrder (mine.map F) = (logOrder mine).map F := by
  unfold logOrder
  rw [List.length_map]
  exact List.foldl_hom (List.map F) (init := []) fun acc _ => logStep_map hF mine acc

end

/-- What an overtaking word marks in the log of its partition. -/
def deadened (k : Nat) (m : Word) (rs : List Nat) (x : Nat × LogEntry) : Nat × LogEntry :=
  (x.1, if x.2.grp = k then { x.2 with dead := rs.flatMap (fun r => (lanesOf m).map fun l => (l, r)) ++ x.2.dead } else x.2)

theorem State.overtake_log (s : State) (k : Nat) (m : Word) (rs : List Nat) :
    ((s.overtake k m rs).part (partOf k)).log = ((s.part (partOf k)).log).map (deadened k m rs) := by
  unfold State.overtake State.part
  dsimp only
  split
  next h => rw [h]; rfl
  next h => rw [Tab.get_put, if_pos rfl]; rfl

/-- An overtaking word leaves which stores and atomics its group still has to perform. -/
theorem State.overtake_storesDone (s : State) (k : Nat) (m : Word) (rs : List Nat) (op : Nat) :
    (s.overtake k m rs).storesDone k op = s.storesDone k op := by
  have hg : ∀ x, (deadened k m rs x).2.grp = x.2.grp ∧ (deadened k m rs x).2.op = x.2.op ∧
      (deadened k m rs x).2.word = x.2.word := by
    intro x; unfold deadened; dsimp only; split <;> exact ⟨rfl, rfl, rfl⟩
  have hl : (s.overtake k m rs).logOf k = (s.logOf k).map (deadened k m rs) := by
    rw [State.logOf_order, State.logOf_order, State.overtake_log, List.filter_map, ← logOrder_map (F := deadened k m rs) fun x => ⟨rfl, (hg x).2.1⟩]
    simp only [Function.comp_def, (hg _).1]
  unfold State.storesDone
  rw [hl]
  simp only [List.any_map, Function.comp_def, (hg _).2]
  refine congrArg (fun b => !b && _) ?_
  unfold State.overtake
  rw [List.any_map]
  refine congrArg (List.any s.accesses) (funext fun x => ?_)
  dsimp only [Function.comp_apply]
  split <;> rfl

theorem State.begun_storesDone (s : State) (i : Instr) (g : Group) (op : Nat) :
    (s.begun i g).storesDone s.cur.grp op = s.storesDone s.cur.grp op := by
  show (s.overtaken i s.cur (s.admitted g)).storesDone s.cur.grp op = _
  unfold State.overtaken
  dsimp only
  split
  · exact s.overtake_storesDone ..
  · rfl

/-! ### The issue of a word as a change of cover -/

theorem State.begun_under (s : State) (i : Instr) (g : Group) : s.begun i g = s.under (s.begun i g).cover := by
  unfold State.begun State.overtaken
  dsimp only
  split <;> rfl

theorem State.overtake_replies (s : State) (k : Nat) (m : Word) (rs : List Nat) :
    (s.overtake k m rs).accesses.map (·.2.status) = s.accesses.map (·.2.status) := by
  unfold State.overtake
  rw [List.map_map]
  refine List.map_congr_left fun x _ => ?_
  dsimp only [Function.comp_apply]
  split <;> rfl

theorem State.begun_replies (s : State) (i : Instr) (g : Group) :
    (s.begun i g).accesses.map (·.2.status) = s.accesses.map (·.2.status) := by
  show (s.overtaken i s.cur (s.admitted g)).accesses.map _ = _
  unfold State.overtaken
  dsimp only
  split
  · exact s.overtake_replies ..
  · rfl

/-- A new entry of a group, in which its team and its fences are as before, is seen by no access of the device. -/
theorem Cover.Alike.setGroup {c d : Cover} (h : c.Alike d) {k : Nat} {g g2 : Group} (hk : Tab.find c.groups k = some g)
    (hp : g2.privileged = g.privileged) (ht : g2.team = g.team) (hf : g2.fences = g.fences) :
    Cover.Alike { c with groups := Tab.put c.groups k g2 } d := by
  have hteam : teamIn (Tab.put c.groups k g2) = teamIn c.groups := by
    funext j
    unfold teamIn
    rw [Tab.find_put]
    split
    next hj => rw [hj, hk]; simp only [Option.bind_some, hp, ht]
    next => rfl
  refine ⟨fun q => Eq.trans ?_ (h.fences q), h.replies⟩
  dsimp only
  rw [hteam]
  exact Tab.any_put hk (by simp only [hf])

theorem State.begun_alike {s : State} {i : Instr} {g : Group} (h : s.group? s.cur.grp = some g) :
    (s.begun i g).cover.Alike s.cover := by
  have h1 : Cover.Alike { (s.begun i g).cover with groups := s.groups } s.cover := ⟨fun _ => rfl, s.begun_replies i g⟩
  have h2 := h1.setGroup (g2 := g.countIssue) h rfl rfl rfl
  have hg : (s.begun i g).groups = Tab.put s.groups s.cur.grp g.countIssue := by
    unfold State.begun
    rw [State.setGroup_groups, State.overtaken_groups]
  rw [show (s.begun i g).cover = { (s.begun i g).cover with groups := (s.begun i g).groups } from rfl, hg]
  exact h2

end Sys2Proof.Machine

end

section
/-! PROOF. LAUNCH, and the settling of WAITCH and LAUNCH (R49, R51, R209, R210, R342). -/

namespace Sys2Proof.Machine

/-! ### LAUNCH in lanes that do not lead -/

/-- A LAUNCH outside group 0, or in which the lowest active lane takes no part, gives 3. -/
theorem launch_others {f : FmtA} {s : State} {g : Group} (h : Issues (.launch f) s g) (hc : s.inClause)
    (hm : s.admitted g ≠ 0) (ho : g.gid ≠ 0 ∨ (s.admitted g).getLsbD (lowestLane s.cur.active) = false) :
    ∃ t, exec (.launch f) s = .next t ∧ Untouched s.cur.grp s t ∧ t.group? s.cur.grp =
      some ((g.countIssue.setRow (s.admitted g) f.d.toNat fun _ => 3).setPcs s.cur.active fun _ => s.cur.pc + 4) := by
  show ∃ t, execLaunch f s = .next t ∧ _
  unfold execLaunch
  refine issue_withGroup_inClause h hc ?_ rfl rfl rfl rfl
  dsimp only
  rw [if_neg hm, State.begun_cur, if_pos]
  · rw [State.withGroup, State.begun_cur]
  · rcases ho with ho | ho
    · simp [show g.countIssue.gid = g.gid from rfl, ho]
    · simp [ho]

/-! ### The leader -/

/-- The group when every lane but the leader has its answer. -/
def Group.asked (g : Group) (m : Word) (l d : Nat) : Group := g.countIssue.setRow (m &&& ~~~ (maskOf [l])) d fun _ => 3

/-- The group when the leader has received `c`. -/
def Group.answered (g : Group) (m : Word) (l d c : Nat) : Group := (g.asked m l d).setRow (maskOf [l]) d fun _ => BitVec.ofNat 32 c

theorem Group.answered_vreg (g : Group) {m : Word} {l : Nat} (d c : Nat) (hl : m.getLsbD l = true) {j : Nat} (hj : j < 32) :
    (g.answered m l d c).vreg d j = if m.getLsbD j then (if j = l then BitVec.ofNat 32 c else 3) else g.vreg d j := by
  unfold Group.answered Group.asked
  rw [Group.setRow_vreg_same _ _ _ _ hj, Group.setRow_vreg_same _ _ _ _ hj, BitVec.getLsbD_and, BitVec.getLsbD_not, getLsbD_maskOf]
  by_cases hjl : j = l
  · subst hjl; simp [hl, hj]
  · simp [hjl, hj]

theorem OnlyWrites.answered (g : Group) (m : Word) (l d c : Nat) : OnlyWrites g.countIssue (g.answered m l d c) [d] [] [] := by
  have h1 := OnlyWrites.setRow g.countIssue (m &&& ~~~ (maskOf [l])) d fun _ => 3
  have h2 := OnlyWrites.setRow (g.asked m l d) (maskOf [l]) d fun _ => BitVec.ofNat 32 c
  exact ⟨fun r hr j => (h2.vregs r hr j).trans (h1.vregs r hr j), fun u hu => (h2.uregs u hu).trans (h1.uregs u hu),
    fun q hq => (h2.preds q hq).trans (h1.preds q hq), rfl, rfl, rfl, rfl, rfl⟩

theorem State.gridOf_eq {s : State} {k : Nat} {g : Group} {tm : Team} {p : Grid} (hg : s.group? k = some g)
    (hp : g.privileged = false) (ht : s.team? g.team = some tm) (hr : s.grid? tm.grid = some p) :
    s.teamOf k = some tm ∧ s.gridOf k = some p := by
  have h : s.teamOf k = some tm := by
    unfold State.teamOf
    rw [hg]
    dsimp only
    rw [if_neg (by simp [hp]), ht]
  refine ⟨h, ?_⟩
  unfold State.gridOf
  rw [h]
  exact hr

/-- The answers that LAUNCH gives before it reads the record (R49). -/
def State.earlyAnswer (s : State) (p : Grid) (va : Nat) : Option Nat :=
  if p.depth = 10 then some 1 else if (s.context p.ctx).children = 4096 then some 2 else if va % 256 ≠ 0 then some 4 else none

theorem launchEarly_eq {s : State} {k : Nat} {p : Grid} (h : s.gridOf k = some p) (va : Nat) :
    launchEarly s k va = s.earlyAnswer p va := by
  unfold launchEarly State.earlyAnswer
  rw [h]

theorem State.begun_idCtr (s : State) (i : Instr) (g : Group) : (s.begun i g).idCtr = s.idCtr := by
  show (s.overtaken i s.cur (s.admitted g)).idCtr = _
  unfold State.overtaken
  dsimp only
  split <;> rfl

theorem State.begun_queues (s : State) (i : Instr) (g : Group) : (s.begun i g).queues = s.queues := by
  show (s.overtaken i s.cur (s.admitted g)).queues = _
  unfold State.overtaken
  dsimp only
  split <;> rfl

@[simp] theorem State.moved_queues (s : State) (u : Issue) : (s.moved u).queues = s.queues := by
  unfold State.moved; dsimp only; split <;> rfl

/-- The state in which every lane of a LAUNCH but the leader has its answer. -/
def State.leading (s : State) (f : FmtA) (g : Group) : State :=
  (s.begun (.launch f) g).setGroup s.cur.grp (g.asked (s.admitted g) (lowestLane s.cur.active) f.d.toNat)

/-- The LAUNCH of the latch. -/
def State.asks (s : State) (f : FmtA) (g : Group) : Launching :=
  ⟨lowestLane s.cur.active, g.regN f.a.toNat (lowestLane s.cur.active) 2, f.d.toNat, s.cur.word, s.cur.pc⟩

/-- A group whose LAUNCH of number `op` waits for its answer. -/
def Group.awaits (g : Group) (op : Nat) (x : Launching) : Group :=
  { g with launches := Tab.put g.launches op x, busy := Tab.put g.busy op [x.d] }

/-- The state in which a LAUNCH waits for its answer. -/
def State.unanswered (s : State) (f : FmtA) (g : Group) : State :=
  { (s.leading f g).onGroup s.cur.grp fun q => q.awaits s.idCtr (s.asks f g) with idCtr := s.idCtr + 1 }

section
variable {f : FmtA} {s : State} {g : Group} {tm : Team} {p : Grid}

theorem State.leading_group : (s.leading f g).group? s.cur.grp =
    some (g.asked (s.admitted g) (lowestLane s.cur.active) f.d.toNat) := by
  unfold State.leading
  rw [State.setGroup_group, if_pos rfl]

theorem State.leading_untouched : Untouched s.cur.grp s (s.leading f g) :=
  (Untouched.begun s _ g).trans (Untouched.setGroup ..)

theorem State.leading_under : s.leading f g = s.under (s.leading f g).cover := by
  unfold State.leading
  rw [s.begun_under]; rfl

theorem State.leading_alike (h : s.group? s.cur.grp = some g) : (s.leading f g).cover.Alike s.cover :=
  (State.begun_alike h).setGroup (k := s.cur.grp) (g := g.countIssue)
    (by show (s.begun (.launch f) g).group? s.cur.grp = _; rw [State.begun_group, if_pos rfl]) rfl rfl rfl

theorem State.leading_teamOf (hp : g.privileged = false) (ht : s.team? g.team = some tm) (hr : s.grid? tm.grid = some p) :
    (s.leading f g).teamOf s.cur.grp = some tm ∧ (s.leading f g).gridOf s.cur.grp = some p :=
  State.gridOf_eq State.leading_group hp
    (by rw [← ht]; exact congrArg (Tab.find · _) State.leading_untouched.teams)
    (by rw [← hr]; exact congrArg (Tab.find · _) State.leading_untouched.grids)

/-- The body of a LAUNCH with a leader. -/
theorem launch_issues (hid : g.gid = 0) (hp : g.privileged = false)
    (hl : (s.admitted g).getLsbD (lowestLane s.cur.active) = true) (ht : s.team? g.team = some tm)
    (hr : s.grid? tm.grid = some p) :
    ∃ body, exec (.launch f) s = issue (.launch f) s body ∧ body (s.begun (.launch f) g) g.countIssue (s.admitted g) =
      if !(s.earlyAnswer p (s.asks f g).va).isSome && !canonical (s.asks f g).va then
        .trap 0x0204 s.cur.active.toNat (s.asks f g).va (2 ^ lowestLane s.cur.active) 0
      else .ok (if (s.earlyAnswer p (s.asks f g).va).isSome || s.storesDone s.cur.grp s.idCtr then
        ((s.leading f g).answerLaunch s.cur.grp s.idCtr (s.asks f g)).getD (s.unanswered f g) else s.unanswered f g) := by
  refine ⟨_, by show execLaunch f s = _; unfold execLaunch; rfl, ?_⟩
  have hm : s.admitted g ≠ 0 := fun h0 => by rw [h0] at hl; simp at hl
  have hb : (s.begun (.launch f) g).idCtr = s.idCtr := State.begun_idCtr s _ g
  have hu := Untouched.begun s (.launch f) g
  have hgr : (s.begun (.launch f) g).gridOf s.cur.grp = some p :=
    (State.gridOf_eq (g := g.countIssue) (by rw [State.begun_group, if_pos rfl]) hp
      (by rw [← ht]; exact congrArg (Tab.find · _) hu.teams) (by rw [← hr]; exact congrArg (Tab.find · _) hu.grids)).2
  have he : ∀ va, launchEarly (s.begun (.launch f) g) s.cur.grp va = s.earlyAnswer p va := by
    intro va
    rw [launchEarly_eq hgr, s.begun_under]; rfl
  dsimp only
  rw [if_neg hm, State.begun_cur, hb, Group.countIssue_regN, he, s.begun_storesDone, if_neg (by simp [show g.countIssue.gid = g.gid from rfl, hid, show g.countIssue.privileged = g.privileged from rfl, hp, hl])]
  rfl

/-- The leader of the word of the latch receives `c`, the other lanes that take part 3, and they advance. -/
def LaunchGives (f : FmtA) (s : State) (g : Group) (c : Nat) (g' : Group) : Prop :=
  (∀ l, l < 32 → g'.vreg f.d.toNat l =
    if (s.admitted g).getLsbD l then (if l = lowestLane s.cur.active then BitVec.ofNat 32 c else 3) else g.vreg f.d.toNat l) ∧
  OnlyWrites g g' [f.d.toNat] [] [] ∧ PcsAre s g g' 0 fun _ => 0

/-- A LAUNCH whose leader has received `c` in a state that is `s` but for the tables that it changes. -/
theorem launch_moved {s2 : State} {c : Nat} (h : Issues (.launch f) s g) (hc : s.inClause)
    (hl : (s.admitted g).getLsbD (lowestLane s.cur.active) = true) {body : State → Group → Word → Eff}
    (he : exec (.launch f) s = issue (.launch f) s body)
    (hb : body (s.begun (.launch f) g) g.countIssue (s.admitted g) = .ok s2)
    (hg : s2.group? s.cur.grp = some (g.answered (s.admitted g) (lowestLane s.cur.active) f.d.toNat c)) :
    StepsTo (.launch f) s fun t g' => t = s2.moved s.cur ∧ LaunchGives f s g c g' := by
  obtain ⟨r1, r2, r3⟩ := Group.running h.ready
  refine ⟨_, (g.answered (s.admitted g) (lowestLane s.cur.active) f.d.toNat c).setPcs s.cur.active fun _ => s.cur.pc + 4,
    he.trans (issue_inClause h hc hb hg rfl r1 r2 r3), ?_, rfl, fun l hl32 => g.answered_vreg _ _ hl hl32,
    (OnlyWrites.answered ..).advanced _ _, PcsAre.moved rfl⟩
  rw [State.moved_group, if_pos rfl, hg]; rfl

/-- The leader receives what is decided before the record is read (R49). -/
theorem launch_early {c : Nat} (h : Issues (.launch f) s g) (hc : s.inClause) (hid : g.gid = 0) (hp : g.privileged = false)
    (hl : (s.admitted g).getLsbD (lowestLane s.cur.active) = true) (ht : s.team? g.team = some tm)
    (hr : s.grid? tm.grid = some p) (hec : s.earlyAnswer p (s.asks f g).va = some c) :
    StepsTo (.launch f) s fun t g' =>
      LaunchGives f s g c g' ∧ Untouched s.cur.grp s t := by
  obtain ⟨body, he, hb⟩ := launch_issues hid hp hl ht hr
  have hgr := (State.leading_teamOf (f := f) hp ht hr).2
  have ha : (s.leading f g).answerLaunch s.cur.grp s.idCtr (s.asks f g) = some ((s.leading f g).onGroup s.cur.grp fun g =>
      g.setRow (maskOf [lowestLane s.cur.active]) f.d.toNat fun _ => BitVec.ofNat 32 c) := by
    have hel : launchEarly (s.leading f g) s.cur.grp (s.asks f g).va = some c := by
      rw [launchEarly_eq hgr, s.leading_under]; exact hec
    unfold State.answerLaunch
    rw [hel]; rfl
  rw [hec, ha, if_neg (by simp), if_pos (by simp)] at hb
  refine (launch_moved (c := c) h hc hl he hb ?_).imp ?_
  · rw [Option.getD_some, State.onGroup_group, if_pos rfl, State.leading_group]; rfl
  · rintro t g' ⟨rfl, h3⟩
    exact ⟨h3, (State.leading_untouched.trans (Untouched.onGroup ..)).trans (Untouched.moved _ s.cur)⟩

/-- The answer waits while the record's read must follow a store or atomic of the group (R209). -/
theorem launch_later (h : Issues (.launch f) s g) (hc : s.inClause) (hid : g.gid = 0) (hp : g.privileged = false)
    (hl : (s.admitted g).getLsbD (lowestLane s.cur.active) = true) (ht : s.team? g.team = some tm)
    (hr : s.grid? tm.grid = some p) (hec : s.earlyAnswer p (s.asks f g).va = none) (hcan : canonical (s.asks f g).va = true)
    (hsd : s.storesDone s.cur.grp s.idCtr = false) : StepsTo (.launch f) s fun t g' =>
      Tab.find g'.launches s.idCtr = some (s.asks f g) ∧ Tab.find g'.busy s.idCtr = some [f.d.toNat] ∧
      (PcsAre s g g' 0 fun _ => 0) ∧ Untouched s.cur.grp s t := by
  obtain ⟨body, he, hb⟩ := launch_issues hid hp hl ht hr
  obtain ⟨r1, r2, r3⟩ := Group.running h.ready
  rw [hec, hcan, hsd, if_neg (by simp), if_neg (by simp)] at hb
  have hg : (s.unanswered f g).group? s.cur.grp =
      some ((g.asked (s.admitted g) (lowestLane s.cur.active) f.d.toNat).awaits s.idCtr (s.asks f g)) := by
    refine (State.onGroup_group (s.leading f g) ..).trans ?_
    rw [if_pos rfl, State.leading_group]; rfl
  have hu : Untouched s.cur.grp (s.leading f g) (s.unanswered f g) := by
    obtain ⟨a1, a2, a3, a4, a5, a6, a7, a8, a9, b1, b2, b3, b4, b5⟩ :=
      Untouched.onGroup s.cur.grp (s.leading f g) fun q => q.awaits s.idCtr (s.asks f g)
    exact ⟨a1, a2, a3, a4, a5, a6, a7, a8, a9, b1, b2, b3, b4, b5⟩
  refine ⟨_, ((g.asked (s.admitted g) (lowestLane s.cur.active) f.d.toNat).awaits s.idCtr (s.asks f g)).setPcs s.cur.active
    fun _ => s.cur.pc + 4, he.trans (issue_inClause h hc hb hg rfl r1 r2 r3), ?_, Tab.find_put_self .., Tab.find_put_self ..,
    PcsAre.moved rfl, (State.leading_untouched.trans hu).trans (Untouched.moved _ s.cur)⟩
  rw [State.moved_group, if_pos rfl, hg]; rfl

/-- The record is read at its place, through the core's own TLB. -/
theorem launch_reads {pa : Nat} (hg : s.group? s.cur.grp = some g) (hp : g.privileged = false) (ht : s.team? g.team = some tm)
    (hr : s.grid? tm.grid = some p) (hd : s.dataHit s.cur.grp (s.asks f g).va .load pa) (hs : s.spanFault pa 256 false = none) :
    heldRead (s.leading f g) s.cur.grp (s.asks f g).va 256 .load = (s.leading f g, .ok (s.peekLE pa 256)) := by
  obtain ⟨hcan, hfr, e, he, hpf, rfl⟩ := hd
  have hx : (s.leading f g).spaceOf s.cur.grp = s.spaceOf s.cur.grp := by
    unfold State.spaceOf State.ctxOf
    rw [(State.leading_teamOf hp ht hr).2, (State.gridOf_eq hg hp ht hr).2]
  have htr : translate (s.leading f g) (keyCore s.cur.grp) (s.spaceOf s.cur.grp) (s.asks f g).va .load = (s.leading f g, .ok e) := by
    refine translate_hit _ _ _ _ _ e hcan ?_ ?_ ?_ <;> rw [s.leading_under] <;> assumption
  have hrd : readAt (s.leading f g) e (s.asks f g).va 256 = .ok (s.peekLE (e.phys (s.asks f g).va) 256) := by
    have hs' : (s.leading f g).spanFault (e.phys (s.asks f g).va) 256 false = none := by rw [s.leading_under]; exact hs
    unfold readAt
    rw [hs', s.leading_under]; rfl
  unfold heldRead
  rw [hx, htr]
  exact congrArg (Prod.mk _) hrd

/-- The leader receives what the record of its address gives. -/
theorem launch_answered {pa c : Nat} {s2 : State} (h : Issues (.launch f) s g) (hc : s.inClause) (hid : g.gid = 0)
    (hp : g.privileged = false) (hl : (s.admitted g).getLsbD (lowestLane s.cur.active) = true) (ht : s.team? g.team = some tm)
    (hr : s.grid? tm.grid = some p) (hec : s.earlyAnswer p (s.asks f g).va = none)
    (hsd : s.storesDone s.cur.grp s.idCtr = true) (hd : s.dataHit s.cur.grp (s.asks f g).va .load pa)
    (hs : s.spanFault pa 256 false = none)
    (hch : launchChild (s.leading f g) s.cur.grp (s.asks f g).va (s.peekLE pa 256) = (s2, c))
    (hg : s2.group? s.cur.grp = some (g.asked (s.admitted g) (lowestLane s.cur.active) f.d.toNat)) :
    StepsTo (.launch f) s fun t g' => LaunchGives f s g c g' ∧ t = (s2.onGroup s.cur.grp fun g =>
      g.setRow (maskOf [lowestLane s.cur.active]) f.d.toNat fun _ => BitVec.ofNat 32 c).moved s.cur := by
  obtain ⟨body, he, hb⟩ := launch_issues hid hp hl ht hr
  have hcan : canonical (s.asks f g).va = true := hd.1
  have ha : (s.leading f g).answerLaunch s.cur.grp s.idCtr (s.asks f g) = some (s2.onGroup s.cur.grp fun g =>
      g.setRow (maskOf [lowestLane s.cur.active]) f.d.toNat fun _ => BitVec.ofNat 32 c) := by
    have hel : launchEarly (s.leading f g) s.cur.grp (s.asks f g).va = none := by
      rw [launchEarly_eq (State.leading_teamOf hp ht hr).2, s.leading_under]; exact hec
    unfold State.answerLaunch
    rw [hel, launch_reads h.found hp ht hr hd hs]
    dsimp only
    rw [hch]; rfl
  rw [hec, hcan, hsd, ha, if_neg (by simp), if_pos (by simp)] at hb
  refine (launch_moved (c := c) h hc hl he hb ?_).imp fun t g' ht => ⟨ht.2, ht.1⟩
  rw [Option.getD_some, State.onGroup_group, if_pos rfl, hg]; rfl

theorem State.earlyAnswer_none {s : State} {va : Nat} (h : s.earlyAnswer p va = none) :
    p.depth ≠ 10 ∧ (s.context p.ctx).children ≠ 4096 ∧ ¬ va % 256 ≠ 0 := by
  unfold State.earlyAnswer at h
  split_ifs at h with h1 h2 h3
  exact ⟨h1, h2, h3⟩

/-- LAUNCH does nothing with an invalid record. -/
theorem launchChild_refused {s : State} {k va r : Nat} (ht : s.teamOf k = some tm) (hr : s.gridOf k = some p)
    (hec : s.earlyAnswer p va = none) (href : (recordRefusal s r p.ctx none).isSome = true) :
    launchChild s k va r = (s, 4) := by
  obtain ⟨h1, h2, h3⟩ := State.earlyAnswer_none hec
  obtain ⟨c, hc⟩ := Option.isSome_iff_exists.1 href
  unfold launchChild
  rw [ht, hr]
  dsimp only
  rw [if_neg h1, if_neg h2, if_neg h3, hc]

/-- What a LAUNCH by a team of a grid accepts. -/
def Grid.childOf (p : Grid) (r grid team : Nat) : Acceptance :=
  ⟨p.ctx, max (recTier r) p.tier, some grid, team, p.depth + 1, false, 0, [], none⟩

/-- LAUNCH of a valid record: the child enters its queue, and its context and its team count it. -/
theorem launchChild_accepted {s : State} {k va r : Nat} (hg : s.group? k = some g) (ht : s.teamOf k = some tm)
    (hr : s.gridOf k = some p) (hec : s.earlyAnswer p va = none) (href : recordRefusal s r p.ctx none = none) (hk : recKind r ≠ 2) :
    launchChild s k va r =
      ((((s.acceptGrid r (p.childOf r tm.grid g.team)).1.onContext p.ctx fun c => { c with children := c.children + 1 }).onTeam g.team
        fun t => { t with children := (s.acceptGrid r (p.childOf r tm.grid g.team)).2 :: t.children }), 0) := by
  obtain ⟨h1, h2, h3⟩ := State.earlyAnswer_none hec
  unfold launchChild
  rw [ht, hr]
  dsimp only
  rw [if_neg h1, if_neg h2, if_neg h3, href, hg]
  dsimp only [Option.map_some, Option.getD_some]
  rw [if_neg hk]; rfl

theorem State.leading_refusal (h : s.group? s.cur.grp = some g) (r x : Nat) :
    recordRefusal (s.leading f g) r x none = recordRefusal s r x none := by
  rw [s.leading_under, recordRefusal_under (State.leading_alike h)]

/-- The leader receives 4 for an invalid record, and nothing else changes. -/
theorem launch_refused {pa : Nat} (h : Issues (.launch f) s g) (hc : s.inClause) (hid : g.gid = 0) (hp : g.privileged = false)
    (hl : (s.admitted g).getLsbD (lowestLane s.cur.active) = true) (ht : s.team? g.team = some tm)
    (hr : s.grid? tm.grid = some p) (hec : s.earlyAnswer p (s.asks f g).va = none)
    (hsd : s.storesDone s.cur.grp s.idCtr = true) (hd : s.dataHit s.cur.grp (s.asks f g).va .load pa)
    (hs : s.spanFault pa 256 false = none) (href : (recordRefusal s (s.peekLE pa 256) p.ctx none).isSome = true) :
    StepsTo (.launch f) s fun t g' => LaunchGives f s g 4 g' ∧ Untouched s.cur.grp s t := by
  obtain ⟨htm, hgr⟩ := State.leading_teamOf (f := f) hp ht hr
  have hec' : (s.leading f g).earlyAnswer p (s.asks f g).va = none := by rw [s.leading_under]; exact hec
  rw [← State.leading_refusal h.found] at href
  have hch := launchChild_refused htm hgr hec' href
  refine (launch_answered h hc hid hp hl ht hr hec hsd hd hs hch State.leading_group).imp ?_
  rintro t g' ⟨h3, rfl⟩
  exact ⟨h3, (State.leading_untouched.trans (Untouched.onGroup ..)).trans (Untouched.moved _ s.cur)⟩

/-- Which grids of a queue a child enters before (R342). -/
theorem State.lateHost_iff (s : State) (m : Nat) : s.lateHost m = true ↔ ∃ h, s.grid? m = some h ∧ h.parent = none ∧
    h.step = false ∧ h.accepted = s.ticks 0 ∧ h.next0 = 0 ∧ h.next1 = 0 := by
  unfold State.lateHost
  cases s.grid? m with
  | none => simp
  | some h => simp [and_assoc]

/-- A child stands behind the first of its queue before which it may not enter. -/
theorem State.queueParts_child (s : State) (q : Nat) :
    Tab.get s.queues q [] = (s.queueParts q true).1 ++ (s.queueParts q true).2 ∧
      (∀ m ∈ (s.queueParts q true).1, s.lateHost m = false) ∧ ∀ m, (s.queueParts q true).2.head? = some m → s.lateHost m = true := by
  refine ⟨List.takeWhile_append_dropWhile.symm, fun m hm => ?_, fun m hm => ?_⟩
  · simpa using List.mem_takeWhile_imp hm
  · have h := List.head?_dropWhile_not (fun m => !(true && s.lateHost m)) (Tab.get s.queues q [])
    rw [show ((Tab.get s.queues q []).dropWhile fun m => !(true && s.lateHost m)).head? = some m from hm] at h
    simpa using h

theorem State.leading_idCtr : (s.leading f g).idCtr = s.idCtr := s.begun_idCtr (.launch f) g

theorem State.leading_queues : (s.leading f g).queues = s.queues := s.begun_queues (.launch f) g

theorem State.leading_queueParts (q : Nat) (c : Bool) : (s.leading f g).queueParts q c = s.queueParts q c := by
  have hq := State.leading_queues (s := s) (f := f) (g := g)
  have hg := (State.leading_untouched (s := s) (f := f) (g := g)).grids
  have ht : (s.leading f g).ticks 0 = s.ticks 0 := by rw [s.leading_under]; rfl
  unfold State.queueParts State.lateHost State.grid?
  rw [hq, hg, ht]

/-- The device when a LAUNCH has made its child. -/
structure LaunchMakes (s : State) (g : Group) (tm : Team) (p : Grid) (r : Nat) (t : State) : Prop where
  grid : (t.grid? s.idCtr).map Grid.unread = some (s.newGrid r (p.childOf r tm.grid g.team)).unread
  queue : Tab.get t.queues (recQueue r) [] = (s.queueParts (recQueue r) true).1 ++ s.idCtr :: (s.queueParts (recQueue r) true).2
  context : (t.context p.ctx).children = (s.context p.ctx).children + 1
  team : t.team? g.team = some { tm with children := s.idCtr :: tm.children }
  mem : ∀ a, memRead t.mem a = memRead s.mem a
  groups : ∀ j, j ≠ s.cur.grp → t.group? j = s.group? j

/-- The leader receives 0 for a valid record, which becomes a child grid. -/
theorem launch_makes {pa : Nat} (h : Issues (.launch f) s g) (hc : s.inClause) (hid : g.gid = 0) (hp : g.privileged = false)
    (hl : (s.admitted g).getLsbD (lowestLane s.cur.active) = true) (ht : s.team? g.team = some tm)
    (hr : s.grid? tm.grid = some p) (hec : s.earlyAnswer p (s.asks f g).va = none)
    (hsd : s.storesDone s.cur.grp s.idCtr = true) (hd : s.dataHit s.cur.grp (s.asks f g).va .load pa)
    (hs : s.spanFault pa 256 false = none) (href : recordRefusal s (s.peekLE pa 256) p.ctx none = none)
    (hk : recKind (s.peekLE pa 256) ≠ 2) (hrc : recCompletion (s.peekLE pa 256) = 0) :
    StepsTo (.launch f) s fun t g' => LaunchGives f s g 0 g' ∧ LaunchMakes s g tm p (s.peekLE pa 256) t := by
  obtain ⟨htm, hgr⟩ := State.leading_teamOf (f := f) hp ht hr
  have hec' : (s.leading f g).earlyAnswer p (s.asks f g).va = none := by rw [s.leading_under]; exact hec
  rw [← State.leading_refusal h.found] at href
  have hch := launchChild_accepted State.leading_group htm hgr hec' href hk
  obtain ⟨gs, hac, hun⟩ := (s.leading f g).acceptGrid_eq (p.childOf (s.peekLE pa 256) tm.grid g.team) hk hrc
  have hu := State.leading_untouched (s := s) (f := f) (g := g)
  rw [show (g.asked (s.admitted g) (lowestLane s.cur.active) f.d.toNat).team = g.team from rfl, hac, State.leading_queueParts,
    State.leading_idCtr, State.leading_queues] at hch
  rw [State.leading_idCtr] at hun
  refine (launch_answered h hc hid hp hl ht hr hec hsd hd hs hch ?_).imp ?_
  · rw [State.group?, State.onTeam_groups, State.onContext_groups]
    exact State.leading_group
  rintro t g' ⟨h3, rfl⟩
  refine ⟨h3, ?_⟩
  generalize hA : State.onGroup _ _ _ = A
  have hm := Untouched.moved A s.cur
  constructor
  · rw [State.grid?, hm.grids, ← hA]
    refine hun.trans ?_
    rw [State.newGrid, State.newGrid, show (s.leading f g).ticks 0 = s.ticks 0 by rw [s.leading_under]; rfl]
  · rw [State.moved_queues, ← hA]
    exact (Tab.get_put ..).trans (if_pos rfl)
  · have hcx : A.contexts = Tab.put s.contexts p.ctx { s.context p.ctx with children := (s.context p.ctx).children + 1 } := by
      rw [← hA]
      simp only [State.onGroup_contexts, State.onTeam_contexts, State.onContext_contexts, State.context, hu.contexts]
    rw [State.context, hm.contexts, hcx, Tab.get_put, if_pos rfl]
  · rw [State.team?, hm.teams, ← hA]
    refine (Tab.find_alter ..).trans ?_
    rw [if_pos rfl]
    show Option.map _ (Tab.find (s.leading f g).teams g.team) = _
    rw [hu.teams, show Tab.find s.teams g.team = some tm from ht]; rfl
  · intro a
    rw [hm.mem, ← hA]
    exact hu.mem a
  · intro j hj
    rw [hm.groups j hj, ← hA, State.onGroup_group, if_neg hj]
    exact hu.groups j hj

theorem State.earlyAnswer_eq_none {va : Nat} (h1 : p.depth ≠ 10) (h2 : (s.context p.ctx).children ≠ 4096) (h3 : va % 256 = 0) :
    s.earlyAnswer p va = none := by
  unfold State.earlyAnswer
  rw [if_neg h1, if_neg h2, if_neg (by simp [h3])]

theorem State.mem_openChildren {n : Nat} : n ∈ s.openChildren tm ↔ n ∈ tm.children ∧ (s.grid? n).isSome = true :=
  List.mem_filter

/-- What the statement says of the child and of its place in its queue. -/
theorem LaunchMakes.child {r : Nat} {t : State} (h : LaunchMakes s g tm p r t) :
    ∃ gr, t.grid? s.idCtr = some gr ∧ gr.record = r ∧ gr.ctx = p.ctx ∧ gr.tier = max (bits r 160 2) p.tier ∧
      gr.parent = some tm.grid ∧ gr.parentTeam = g.team ∧ gr.depth = p.depth + 1 ∧ gr.next0 = 0 ∧ gr.live = 0 := by
  obtain ⟨gr, hgr, hun⟩ := Option.map_eq_some_iff.1 h.grid
  exact ⟨gr, hgr, (congrArg Grid.record hun :), (congrArg Grid.ctx hun :), (congrArg Grid.tier hun :), (congrArg Grid.parent hun :),
    (congrArg Grid.parentTeam hun :), (congrArg Grid.depth hun :), (congrArg Grid.next0 hun :), (congrArg Grid.live hun :)⟩

end

/-- Settles O25: a WAITCH is held behind a LAUNCH, raises the core's time when no child is left, and blocks otherwise; a LAUNCH is
answered for its leader as the early checks, the record's checks or the outstanding stores decide. -/
theorem launchWords : Obligations.LaunchWords := by
  unfold Obligations.LaunchWords
  refine ⟨⟨?_, ?_, ?_⟩, ?_, ?_, ?_, ?_, ?_, ?_⟩
  · rintro f s g tm ⟨h, -, h2, -, hp, ht, hl⟩ hw
    exact ⟨_, waitch_held h hp ht hl hw, s.holdWord_frame⟩
  · rintro f s g tm ⟨h, hc, -, -, hp, ht, hl⟩ hw hn
    refine waitch_goesOn h hc hp ht hl hw (List.filter_eq_nil_iff.2 fun n hm => ?_)
    rw [hn n hm]
    exact Bool.false_ne_true
  · rintro f s g tm ⟨h, hc, h2, hk, hp, ht, hl⟩ hw ⟨n, hn⟩
    have hne : s.openChildren tm ≠ [] := List.ne_nil_of_mem (State.mem_openChildren.2 hn)
    exact (waitch_blocks h hc h2 hk hp ht hl hw hne).imp fun t g' ⟨hb, hr⟩ =>
      ⟨⟨_, hb, fun n => State.mem_openChildren⟩, hr⟩
  · intro f s g h hc hm ho
    obtain ⟨t, he, hu, hg⟩ := launch_others h hc hm ho
    exact ⟨t, _, he, hg, fun l hl => g.countIssue.setRow_vreg_same _ _ _ hl,
      (OnlyWrites.setRow g.countIssue ..).advanced _ _, PcsAre.moved rfl, hu⟩
  · rintro f s g tm p ⟨h, hc, hid, hp, hl, -, ht, hr⟩ h10
    exact launch_early h hc hid hp hl ht hr (by unfold State.earlyAnswer; rw [if_pos h10])
  · rintro f s g tm p ⟨h, hc, hid, hp, hl, -, ht, hr⟩ h10 hch
    exact launch_early h hc hid hp hl ht hr (by unfold State.earlyAnswer; rw [if_neg h10, if_pos hch])
  · rintro f s g tm p ⟨h, hc, hid, hp, hl, -, ht, hr⟩ h10 hch hva
    exact launch_early h hc hid hp hl ht hr (by unfold State.earlyAnswer; rw [if_neg h10, if_neg hch]; exact if_pos hva)
  · rintro f s g tm p pa ⟨h, hc, hid, hp, hl, hsd, ht, hr⟩ h10 hch va r hva hd hs
    have hec : s.earlyAnswer p (s.asks f g).va = none := State.earlyAnswer_eq_none h10 hch hva
    refine ⟨fun href => launch_refused h hc hid hp hl ht hr hec hsd hd hs href, fun href hk hrc => ?_⟩
    refine (launch_makes h hc hid hp hl ht hr hec hsd hd hs href hk hrc).imp fun t g' ⟨hgv, hmk⟩ => ?_
    obtain ⟨hq, hq1, hq2⟩ := s.queueParts_child (recQueue r)
    refine ⟨hgv, hmk.child, ⟨_, _, hq, hmk.queue, fun m hm hlate => ?_, fun m hm => s.lateHost_iff m |>.1 (hq2 m hm)⟩,
      hmk.context, hmk.team, hmk.mem, hmk.groups⟩
    exact Bool.false_ne_true ((hq1 m hm).symm.trans ((s.lateHost_iff m).2 hlate))
  · intro f s g tm p h hc hid hp hl ht hr hsd h10 hch va hva hcan
    exact launch_later h hc hid hp hl ht hr (State.earlyAnswer_eq_none h10 hch hva) hcan hsd

end Sys2Proof.Machine

end

section
/-! PROOF. Decisions of the dispatcher (R345, R348, R350). -/

namespace Sys2Proof.Machine

/-! ### Which core is chosen -/

theorem mem_of_mem_leastBy {f : Nat → Nat} {l : List Nat} {x : Nat} (h : x ∈ leastBy f l) : x ∈ l := by
  cases l with
  | nil => exact h
  | cons a t => exact (List.mem_filter.1 h).1

/-- The chosen core is one of the die on which the team fits. -/
theorem State.pickCore_spec {s : State} {d c : Nat} {q : Need} (h : s.pickCore d q = some c) :
    s.fits c q = true ∧ ∃ j, j < 1024 ∧ c = 1024 * d + j := by
  have hbest : ∀ {f f' : Nat → Nat} {l : List Nat}, c ∈ leastBy f (leastBy f' l) → c ∈ l :=
    fun h => mem_of_mem_leastBy (mem_of_mem_leastBy h)
  have hc : c ∈ ((List.range 1024).map (1024 * d + ·)).filter fun c => s.fits c q := by
    unfold State.pickCore at h
    dsimp only at h
    split at h
    next hf => cases h; exact hbest (List.mem_of_find?_eq_some hf)
    next => exact hbest (List.mem_of_mem_head? h)
  obtain ⟨hm, hf⟩ := List.mem_filter.1 hc
  obtain ⟨j, hj, rfl⟩ := List.mem_map.1 hm
  exact ⟨hf, j, List.mem_range.1 hj, rfl⟩

theorem State.pickCore_die {s : State} {d c : Nat} {q : Need} (hd : d < 2) (h : s.pickCore d q = some c) : dieOfCore c = d := by
  obtain ⟨-, j, hj, hc⟩ := State.pickCore_spec h
  unfold dieOfCore
  rw [if_pos (show c < 2048 by omega)]
  omega

/-- `pickCore` is hidden here, since the check of the two sides would otherwise run it over its 1,024 cores. -/
theorem State.firstFit_cons (s : State) (d : Nat) (y : Waiting) (l : List Waiting) : s.firstFit d (y :: l) =
    match s.pickCore d (y.work.need y.id y.g) with
    | some c => some (y, c)
    | none => s.firstFit d l := by
  delta State.firstFit State.firstFit._f
  generalize State.pickCore s d = P
  rfl

/-- The entry that a decision serves, with the core on which it fits. -/
theorem State.firstFit_pickCore {s : State} {d : Nat} {l : List Waiting} {x : Waiting} {c : Nat} (h : s.firstFit d l = some (x, c)) :
    s.pickCore d (x.work.need x.id x.g) = some c := by
  induction l with
  | nil => exact absurd (show none = some (x, c) from h) (Option.some_ne_none _).symm
  | cons y l ih =>
    rw [State.firstFit_cons] at h
    cases hp : s.pickCore d (y.work.need y.id y.g) with
    | none => rw [hp] at h; exact ih h
    | some c' => rw [hp] at h; cases h; exact hp

/-! ### Waits that restart -/

/-- A state that differs in its grids alone, and in them at most in readiness and waits. -/
structure Rewaits (s t : State) : Prop where
  grids : ∃ gs, t = { s with grids := gs }
  same : ∀ m, (t.grid? m).map Grid.unread = (s.grid? m).map Grid.unread

theorem Rewaits.refl (s : State) : Rewaits s s := ⟨⟨s.grids, rfl⟩, fun _ => rfl⟩

theorem Rewaits.trans {s t u : State} (h1 : Rewaits s t) (h2 : Rewaits t u) : Rewaits s u := by
  obtain ⟨⟨gs, rfl⟩, h1⟩ := h1
  obtain ⟨⟨gs', rfl⟩, h2⟩ := h2
  exact ⟨⟨gs', rfl⟩, fun m => (h2 m).trans (h1 m)⟩

theorem State.restartUnplaced_rewaits (s : State) (n d : Nat) : Rewaits s (s.restartUnplaced n d) :=
  ⟨⟨_, rfl⟩, s.onGrid_unread n _ fun g => by split <;> rfl⟩

theorem foldl_rewaits {α : Type} {f : State → α → State} (hf : ∀ s x, Rewaits s (f s x)) (l : List α) (s : State) :
    Rewaits s (l.foldl f s) := by
  induction l generalizing s with
  | nil => exact Rewaits.refl s
  | cons x l ih => exact (hf s x).trans (ih _)

/-! ### Placing a new team -/

theorem State.newKeys_gids (s : State) (c : Nat) (seen l : List Nat) : (s.newKeys c seen l).map (·.2) = l := by
  induction l generalizing seen with
  | nil => rfl
  | cons g l ih =>
    unfold State.newKeys
    exact congrArg (g :: ·) (ih _)

theorem State.allocate_eq (s : State) (c : Nat) (q : Need) :
    ∃ n cs, s.allocate c q = { s with idCtr := n, cores := cs } := by
  unfold State.allocate
  split
  · exact ⟨_, _, rfl⟩
  · exact ⟨s.idCtr, s.cores, rfl⟩

/-- A new team of a grid enters the table of teams under a number of its own, and its grid counts it. -/
theorem State.placeFresh_eq (s : State) (n d t c : Nat) (g : Grid) :
    ∃ id cs tm, s.placeFresh n d t c g =
        (({ s with idCtr := id + 1, cores := cs, teams := Tab.put s.teams id tm }).onGrid n fun g =>
          { g.setNext d (t + 1 - (g.share d).1) with live := g.live + 1 }).passCore c ∧
      tm.grid = n ∧ tm.tix = t ∧ tm.core = c ∧ tm.resident = false ∧ tm.winW = recWindow g.record ∧
      tm.scratchSize = recScratch g.record ∧ tm.groups.map (·.2) = List.range (recGroups g.record) := by
  obtain ⟨m, cs, ha⟩ := s.allocate_eq c (g.need n none)
  unfold State.placeFresh
  dsimp only
  rw [ha]
  exact ⟨m, cs, _, rfl, rfl, rfl, rfl, rfl, rfl, rfl, s.newKeys_gids ..⟩

/-! ### Decisions -/

/-- A die's dispatcher decides nothing while it is lost or resetting, twice in a tick, or without an entry (R348). -/
theorem State.decision_none {s : State} {d : Nat} (h : (s.die d).lost = true ∨ (s.die d).resetting = true ∨
    (s.die d).decided = s.ticks d + 1 ∨ s.cands d = []) : s.decision d = none := by
  unfold State.decision
  dsimp only
  rw [if_pos]
  simpa [or_assoc] using h

/-- The counters of a die that decides (R348). -/
def State.counted (s : State) (d : Nat) : State :=
  s.onDie d fun x => { x with decisions := x.decisions + 1, decided := s.ticks d + 1, last := (s.decisionOrder d).2.2.getD x.last }

/-- The device once the waits of entries that are not at tier 0 have restarted (R353). -/
def State.rewaited (s : State) (d : Nat) : State :=
  (s.cands d).foldl (fun s x => if (s.effective x.g).1 = 0 then s else s.restartUnplaced x.id d) (s.counted d)

theorem State.rewaited_rewaits (s : State) (d : Nat) : Rewaits (s.counted d) (s.rewaited d) :=
  foldl_rewaits (fun s x => by
    split
    · exact Rewaits.refl s
    · exact s.restartUnplaced_rewaits ..) _ _

section
variable {s : State} {d : Nat} (hl : (s.die d).lost = false) (hr : (s.die d).resetting = false)
  (hd : (s.die d).decided ≠ s.ticks d + 1) (hc : s.cands d ≠ [])
include hl hr hd hc

omit hl hr hd hc in
theorem State.onDie_id (s : State) (d : Nat) : s.onDie d id = s := by
  unfold State.onDie
  split <;> rfl

/-- No entry fits. -/
theorem State.decision_noFit (hf : s.firstFit d ((s.decisionOrder d).1.take 8) = none) : s.decision d = some (s.rewaited d) := by
  unfold State.decision
  dsimp only
  rw [if_neg (by simp [hl, hr, hd, hc]), hf]; rfl

/-- A new team is placed, and the pointer of R348 moves when its entry was tied with another. -/
theorem State.decision_fresh {x : Waiting} {c tix : Nat} (hf : s.firstFit d ((s.decisionOrder d).1.take 8) = some (x, c))
    (hw : x.work = .fresh tix) (hp : x.g.needsParams = false) :
    ∃ t, s.decision d = some t ∧ ∃ f : Die → Die, (∀ z, (f z).placePtr = z.placePtr ∧ (f z).decisions = z.decisions) ∧
      t = (((s.rewaited d).placeFresh x.id d tix c x.g).restartUnplaced x.id d).onDie d f := by
  unfold State.decision
  dsimp only
  rw [if_neg (by simp [hl, hr, hd, hc]), hf]
  dsimp only
  unfold State.loadParams
  rw [if_pos (by simp [hp]), hw]
  refine ⟨_, rfl, ?_⟩
  split
  · exact ⟨fun z => { z with ptr := (x.g.queue + 1) % 4096 }, fun z => ⟨rfl, rfl⟩, rfl⟩
  · exact ⟨id, fun z => ⟨rfl, rfl⟩, (State.onDie_id ..).symm⟩

end

/-- What a decision that places a new team leaves. -/
structure PlacesTeam (s : State) (x : Waiting) (d tix c : Nat) (t : State) : Prop where
  team : ∃ id tm, t.team? id = some tm ∧ tm.grid = x.id ∧ tm.tix = tix ∧ tm.core = c ∧ tm.resident = false ∧
    tm.winW = recWindow x.g.record ∧ tm.scratchSize = recScratch x.g.record ∧
    tm.groups.map (·.2) = List.range (recGroups x.g.record) ∧ ∀ j, j ≠ id → t.team? j = s.team? j
  grid : ∃ g', t.grid? x.id = some g' ∧ g'.live = x.g.live + 1 ∧ g'.next d = tix + 1 - (x.g.share d).1
  placePtr : (t.die d).placePtr = (c % 1024 + 1) % 1024
  decisions : (t.die d).decisions = (s.die d).decisions + 1
  groups : t.groups = s.groups
  mem : t.mem = s.mem

theorem Grid.share_unread {g h : Grid} (e : g.unread = h.unread) (d : Nat) : g.share d = h.share d := by
  have hr : g.record = h.record := (congrArg Grid.record e :)
  unfold Grid.share
  rw [hr]

theorem PlacesTeam.of {s : State} {x : Waiting} {d tix c : Nat} {f : Die → Die} (hg : s.grid? x.id = some x.g)
    (hdc : dieOfCore c = d) (hf : ∀ z, (f z).placePtr = z.placePtr ∧ (f z).decisions = z.decisions) :
    PlacesTeam s x d tix c ((((s.rewaited d).placeFresh x.id d tix c x.g).restartUnplaced x.id d).onDie d f) := by
  obtain ⟨⟨gs, hgs⟩, hsame⟩ := s.rewaited_rewaits d
  obtain ⟨id, cs, tm, hpl, h1, h2, h3, h4, h5, h6, h7⟩ := (s.rewaited d).placeFresh_eq x.id d tix c x.g
  have hdies : ∀ z, (s.rewaited d).die z = (s.counted d).die z := by
    intro z; rw [hgs]; rfl
  rw [hpl]
  refine ⟨⟨id, tm, ?_, h1, h2, h3, h4, h5, h6, h7, fun j hj => ?_⟩, ?_, ?_, ?_, ?_, ?_⟩
  · simp only [State.team?, State.onDie_teams, State.restartUnplaced, State.onGrid_teams, State.passCore, Tab.find_put_self]
  · simp only [State.team?, State.onDie_teams, State.restartUnplaced, State.onGrid_teams, State.passCore, Tab.find_put_ne _ _ hj]
    rw [hgs, State.counted, State.onDie_teams]
  · obtain ⟨y, hy, hun⟩ : ∃ y, (s.rewaited d).grid? x.id = some y ∧ y.unread = x.g.unread := by
      have h := hsame x.id
      rw [show (s.counted d).grid? x.id = s.grid? x.id by simp only [State.grid?, State.counted, State.onDie_grids], hg] at h
      exact Option.map_eq_some_iff.1 h
    refine ⟨_, by simp only [State.grid?, State.onDie_grids, State.restartUnplaced, State.onGrid_grids, State.passCore, Tab.find_alter, if_true, show Tab.find (s.rewaited d).grids x.id = some y from hy, Option.map_some]; rfl, ?_, ?_⟩
    · have hlive : y.live = x.g.live := (congrArg Grid.live hun :)
      split <;> exact congrArg (· + 1) hlive
    · have hshare : (y.share d).1 = (x.g.share d).1 := congrArg Prod.fst (Grid.share_unread hun d)
      unfold Grid.next Grid.setNext
      split <;> exact congrArg (tix + 1 - ·) hshare
  · rw [State.onDie_die_same, (hf _).1]
    show ((State.passCore _ c).die d).placePtr = _
    rw [State.passCore, hdc, State.onDie_die_same]
  · rw [State.onDie_die_same, (hf _).2]
    show ((State.passCore _ c).die d).decisions = _
    rw [State.passCore, hdc, State.onDie_die_same]
    show ((s.rewaited d).die d).decisions = _
    rw [hdies, State.counted, State.onDie_die_same]
  · simp only [State.onDie_groups, State.restartUnplaced, State.onGrid_groups, State.passCore]
    rw [hgs, State.counted, State.onDie_groups]
  · simp only [State.onDie_mem, State.restartUnplaced, State.onGrid_mem, State.passCore]
    rw [hgs, State.counted, State.onDie_mem]

end Sys2Proof.Machine

end

section
/-! PROOF. Teams that become resident (R38, R58, R350). -/

namespace Sys2Proof.Machine

/-! ### A run that begins at the entry header -/

theorem hdrCount_le (h : Word) : hdrCount h ≤ 15 := by unfold hdrCount bits; omega

/-- A run that begins with the header at the start of a block counts that header's words alone (R149, R404). -/
theorem runCount_entry (rd : Nat → Option Word) {H : Nat} (h : H % 64 = 0) : runCount rd H H ≤ 15 := by
  unfold runCount
  rw [if_neg (Nat.lt_irrefl _)]
  refine List.foldlRecOn (motive := fun a : Nat × Bool => a.1 ≤ 15) _ _ (Nat.zero_le _) fun acc hacc b _ => ?_
  dsimp only
  split
  · exact hacc
  next hb =>
    refine List.foldlRecOn (motive := fun a : Nat × Bool => a.1 ≤ 15) _ _ hacc fun a ha x _ => ?_
    split
    · exact ha
    next hx =>
      have hat : (b - 4) * 64 + 4 * x.1 = H := by
        simp only [Bool.or_eq_true, decide_eq_true_eq, not_or] at hb
        omega
      dsimp only
      rw [if_pos (by simp [hat])]
      exact hdrCount_le _

/-! ### A group starts -/

theorem Tab.find_rangeMap {α : Type} (f : Nat → α) (n r : Nat) :
    Tab.find ((List.range n).map fun i => (i, f i)) r = if r < n then some (f r) else none := by
  induction n with
  | zero => rfl
  | succ n ih =>
    have happ : ∀ l : List (Nat × α), Tab.find (l ++ [(n, f n)]) r = (Tab.find l r).or (if r = n then some (f n) else none) := by
      intro l
      induction l with
      | nil => rfl
      | cons x l ih => simp only [List.cons_append, Tab.find, ih]; split <;> rfl
    rw [List.range_succ, List.map_append, List.map_cons, List.map_nil, happ, ih]
    by_cases h : r < n
    · rw [if_pos h, if_pos (Nat.lt_succ_of_lt h)]; rfl
    · rw [if_neg h]
      by_cases hr : r = n
      · rw [if_pos hr, if_pos (by omega), hr]; rfl
      · rw [if_neg hr, if_neg (by omega)]; rfl

/-- The parameter block stands in the first registers of a group that starts (R38). -/
theorem newGroup_vreg (g : Grid) (tid gid stamp : Nat) {r l : Nat} (hr : r < (g.params.getD []).length) (hl : l < 32) :
    (newGroup g tid gid stamp).vreg r l = ((g.params.getD [])[r]?).getD 0 := by
  have hf : Tab.find (newGroup g tid gid stamp).vregs r = some (List.replicate 32 (((g.params.getD [])[r]?).getD 0)) := by
    refine (Tab.find_rangeMap (fun i => List.replicate 32 (((g.params.getD [])[i]?).getD 0)) _ r).trans (if_pos hr)
  unfold Group.vreg Group.vrow
  rw [hf]
  dsimp only
  rw [List.getElem?_replicate_of_lt hl]; rfl

/-- A group that has passed its entry header stands where it started. -/
theorem newGroup_passed (g : Grid) (tid gid stamp : Nat) :
    (newGroup g tid gid stamp).setPcs (BitVec.allOnes 32) (fun _ => BitVec.ofNat 32 (recEntry g.record + 4)) =
      newGroup g tid gid stamp := by
  have h : (List.range 32).map (fun l => if (BitVec.allOnes 32).getLsbD l then BitVec.ofNat 32 (recEntry g.record + 4)
      else (((newGroup g tid gid stamp).pcs[l]?).getD exitedPc)) = List.replicate 32 (BitVec.ofNat 32 (recEntry g.record + 4)) := by
    refine List.eq_replicate_iff.2 ⟨by rw [List.length_map, List.length_range], fun w hw => ?_⟩
    obtain ⟨l, hl, rfl⟩ := List.mem_map.1 hw
    rw [BitVec.getLsbD_allOnes, if_pos (by simpa using hl)]
  exact congrArg (fun ps : List Word => { newGroup g tid gid stamp with pcs := ps }) h

/-- The entry header of a grid is read by a core as `h`, through an entry of its own TLB (R70, R84). -/
def State.entryHit (s : State) (g : Grid) (c : Nat) (h : Word) : Prop :=
  s.frozenAt (s.asidOf g.ctx) (s.codeVa g.ctx (recEntry g.record)) = false ∧
  ∃ e, (tlbFind (s.core c).tlb (s.asidOf g.ctx) (s.codeVa g.ctx (recEntry g.record))).filter (·.serves .fetch) = some e ∧
    permFault e .fetch (s.regionOf g.ctx (s.codeVa g.ctx (recEntry g.record))) = none ∧
    s.spanFault (e.phys (s.codeVa g.ctx (recEntry g.record))) 4 false = none ∧
    h = BitVec.ofNat 32 (s.peekLE (e.phys (s.codeVa g.ctx (recEntry g.record))) 4)

theorem State.entryHit.codeHit {s : State} {g : Grid} {k c : Nat} {h : Word} (he : s.entryHit g c h)
    (hx : s.spaceOf k = g.ctx) (hc : keyCore k = c) : s.codeHit k (recEntry g.record) h := by
  unfold State.codeHit
  rw [hx, hc]
  exact he

/-- A team that takes its place is resident there, and only the place counts. -/
structure StartsAt (s : State) (g : Grid) (id c : Nat) (h : Word) : Prop where
  team : ∃ tm, s.team? id = some tm ∧ s.grid? tm.grid = some g
  entry : s.entryHit g c h

section
variable {g : Grid} {id c : Nat} {h : Word} (ha : recEntry g.record % 64 = 0) (hdt : hdrData h = false)
  (hrs : hdrReason h 0 false = none)
include ha hdt hrs

/-- A group whose entry header passes its check starts behind it (R38). -/
theorem State.startGroup_eq {s : State} {k gid : Nat} (hs : StartsAt s g id c h) (hk : k < 0x20000) (hc : keyCore k = c) :
    ∃ gs, s.startGroup g id k gid = { s with idCtr := s.idCtr + 1, groups := gs } ∧
      ∀ j, Tab.find gs j = if j = k then some (newGroup g id gid s.idCtr) else s.group? j := by
  obtain ⟨⟨tm, ht, hg⟩, he⟩ := hs
  generalize hs1 : ({ s with idCtr := s.idCtr + 1, groups := Tab.put s.groups k (newGroup g id gid s.idCtr) } : State) = s1
  have hgrp : s1.group? k = some (newGroup g id gid s.idCtr) := by rw [← hs1]; exact Tab.find_put_self ..
  have hsp : s1.spaceOf k = g.ctx := by
    unfold State.spaceOf State.ctxOf
    rw [if_neg (by omega), (State.gridOf_eq (tm := tm) (p := g) hgrp rfl (by rw [← hs1]; exact ht) (by rw [← hs1]; exact hg)).2]
  have hf : fetchCode s1 k (recEntry g.record) = (s1, .ok h) := by
    refine fetchCode_hit _ _ _ _ (State.entryHit.codeHit ?_ hsp hc)
    rw [← hs1]; exact he
  have hal : recEntry g.record % 4 = 0 := by omega
  have harr : ((s1.group? k).map (·.arrived)).getD 0 = recEntry g.record := by rw [hgrp]; rfl
  have hrun : ¬ 24 < runCount (codeReader s1 k) (recEntry g.record) (recEntry g.record) := by
    have := runCount_entry (codeReader s1 k) ha
    omega
  have hst : s.startGroup g id k gid =
      s1.onGroup k fun g' => g'.setPcs (BitVec.allOnes 32) fun _ => BitVec.ofNat 32 (recEntry g.record + 4) := by
    unfold State.startGroup
    dsimp only
    rw [hs1]
    unfold State.arriveSeq
    rw [hf]
    dsimp only
    rw [hdt, if_neg Bool.false_ne_true, if_neg (by simp [hal]), ha, hrs]
    dsimp only
    rw [harr, if_neg hrun]
  refine ⟨_, hst.trans (by rw [← hs1]; rfl), fun j => ?_⟩
  refine (Tab.find_alter ..).trans ?_
  split
  next hj =>
    show Option.map _ (Tab.find (Tab.put s.groups k _) k) = _
    rw [Tab.find_put_self, Option.map_some, newGroup_passed]
  next hj => exact Tab.find_put_ne _ _ hj

/-- The groups of a team start one after the other. -/
theorem startGroups_eq (l : List (Nat × Nat)) {s : State} (hs : StartsAt s g id c h) (hnd : (l.map (·.1)).Nodup)
    (hkc : ∀ x ∈ l, x.1 < 0x20000 ∧ keyCore x.1 = c) :
    ∃ n gs, l.foldl (fun s k => s.startGroup g id k.1 k.2) s = { s with idCtr := n, groups := gs } ∧
      (∀ x ∈ l, ∃ stamp, Tab.find gs x.1 = some (newGroup g id x.2 stamp)) ∧
      ∀ j, j ∉ l.map (·.1) → Tab.find gs j = s.group? j := by
  induction l generalizing s with
  | nil => exact ⟨s.idCtr, s.groups, rfl, fun x hx => absurd hx List.not_mem_nil, fun j _ => rfl⟩
  | cons x l ih =>
    obtain ⟨hx, hl⟩ := List.nodup_cons.1 hnd
    obtain ⟨gs1, h1, hf1⟩ := State.startGroup_eq ha hdt hrs (gid := x.2) hs (hkc x List.mem_cons_self).1 (hkc x List.mem_cons_self).2
    obtain ⟨n, gs, h2, hin, hout⟩ := ih (s := { s with idCtr := s.idCtr + 1, groups := gs1 }) ⟨hs.team, hs.entry⟩ hl
      fun y hy => hkc y (List.mem_cons_of_mem _ hy)
    refine ⟨n, gs, ?_, fun y hy => ?_, fun j hj => ?_⟩
    · rw [List.foldl_cons, h1, h2]
    · rcases List.mem_cons.1 hy with rfl | hy
      · exact ⟨s.idCtr, (hout _ hx).trans ((hf1 _).trans (if_pos rfl))⟩
      · exact hin y hy
    · rw [List.map_cons, List.mem_cons, not_or] at hj
      exact (hout j hj.2).trans ((hf1 j).trans (if_neg hj.1))

end

/-- A team that takes its place is resident (R263). -/
theorem State.takePlace_eq {s : State} {id : Nat} {tm : Team} (ht : s.team? id = some tm) :
    ∃ qs ts tm', s.takePlace id = { s with quads := qs, teams := ts } ∧ Tab.find ts id = some tm' ∧ tm'.resident = true ∧
      tm'.groups = tm.groups ∧ tm'.core = tm.core ∧ tm'.grid = tm.grid := by
  unfold State.takePlace
  rw [ht]
  refine ⟨_, _, _, rfl, (Tab.find_alter ..).trans ((if_pos rfl).trans (congrArg (Option.map _) ht)), rfl, rfl, rfl, rfl⟩

/-- A placed team of a grid whose teams have work starts its groups, and acquires when its grid is a child (R38, R51). -/
theorem State.becomeResident_starts {s : State} {id : Nat} {tm : Team} {g : Grid} (ht : s.team? id = some tm)
    (hg : s.grid? tm.grid = some g) (hr : tm.resident = false) (hs : Tab.find s.saved id = none) (he : g.emptyTeam tm.tix = false) :
    s.becomeResident id = some (if g.parent.isSome then
      (tm.groups.foldl (fun s k => s.startGroup g id k.1 k.2) (s.takePlace id)).acquire tm.core
      else tm.groups.foldl (fun s k => s.startGroup g id k.1 k.2) (s.takePlace id)) := by
  unfold State.becomeResident
  rw [ht]
  dsimp only
  rw [hg]
  dsimp only
  rw [if_neg (by simp [hr, hs]), if_neg (by simp [he])]

/-- A placed team of an empty slot leaves at once (R58). -/
theorem State.becomeResident_empty {s : State} {id : Nat} {tm : Team} {g : Grid} (ht : s.team? id = some tm)
    (hg : s.grid? tm.grid = some g) (hr : tm.resident = false) (hs : Tab.find s.saved id = none) (he : g.emptyTeam tm.tix = true) :
    s.becomeResident id = some (s.removeTeam id) := by
  unfold State.becomeResident
  rw [ht]
  dsimp only
  rw [hg]
  dsimp only
  rw [if_neg (by simp [hr, hs]), if_pos he]

/-- A team that leaves gives up its number, its grid has one team less, and its core's regions may go. -/
theorem State.removeTeam_eq {s : State} {id : Nat} {tm : Team} (ht : s.team? id = some tm) :
    ∃ cs, s.removeTeam id = { s with
      teams := Tab.del s.teams id
      grids := Tab.alter s.grids tm.grid fun g => { g with live := g.live - 1 }
      cores := cs } := by
  unfold State.removeTeam
  rw [ht]
  exact ⟨_, rfl⟩

/-- What the end of a team leaves. -/
theorem State.removeTeam_spec {s : State} {id : Nat} {tm : Team} {g : Grid} (ht : s.team? id = some tm)
    (hg : s.grid? tm.grid = some g) :
    (s.removeTeam id).team? id = none ∧ (∀ j, j ≠ id → (s.removeTeam id).team? j = s.team? j) ∧
      (∃ g', (s.removeTeam id).grid? tm.grid = some g' ∧ g'.live = g.live - 1) ∧
      (s.removeTeam id).groups = s.groups ∧ (s.removeTeam id).mem = s.mem := by
  obtain ⟨cs, he⟩ := State.removeTeam_eq ht
  rw [he]
  refine ⟨(Tab.find_del ..).trans (if_pos rfl), fun j hj => (Tab.find_del ..).trans (if_neg hj),
    ⟨{ g with live := g.live - 1 }, ?_, rfl⟩, rfl, rfl⟩
  refine (Tab.find_alter ..).trans ?_
  rw [if_pos rfl, show Tab.find s.grids tm.grid = some g from hg]; rfl

/-- What a placed team leaves that becomes resident. -/
structure Seats (s : State) (id : Nat) (tm : Team) (g : Grid) (t : State) : Prop where
  team : ∃ tm', t.team? id = some tm' ∧ tm'.resident = true ∧ tm'.groups = tm.groups ∧ tm'.core = tm.core
  starts : ∀ x ∈ tm.groups, ∃ stamp, t.group? x.1 = some (newGroup g id x.2 stamp)
  others : ∀ j, j ∉ tm.groups.map (·.1) → t.group? j = s.group? j
  mem : t.mem = s.mem

theorem State.startGroups_seats {s : State} {id : Nat} {tm : Team} {g : Grid} {h : Word} (ht : s.team? id = some tm)
    (hg : s.grid? tm.grid = some g) (hnd : (tm.groups.map (·.1)).Nodup)
    (hk : ∀ x ∈ tm.groups, x.1 < 0x20000 ∧ keyCore x.1 = tm.core) (ha : recEntry g.record % 64 = 0)
    (he : s.entryHit g tm.core h) (hdt : hdrData h = false) (hrs : hdrReason h 0 false = none) :
    Seats s id tm g (tm.groups.foldl (fun s k => s.startGroup g id k.1 k.2) (s.takePlace id)) := by
  obtain ⟨qs, ts, tm', hpl, hf, hres, hgr, hco, hgd⟩ := State.takePlace_eq ht
  have hst : StartsAt { s with quads := qs, teams := ts } g id tm.core h := ⟨⟨tm', hf, by rw [hgd]; exact hg⟩, he⟩
  obtain ⟨n, gs, heq, hin, hout⟩ := startGroups_eq ha hdt hrs tm.groups hst hnd hk
  rw [hpl, heq]
  exact ⟨⟨tm', hf, hres, hgr, hco⟩, hin, hout, rfl⟩

end Sys2Proof.Machine

end

section
/-! SUPPORT. The device's own accesses to memory leave every context. -/

namespace Sys2Proof.Machine

theorem State.poke_contexts (s : State) (pa n v : Nat) : (s.poke pa n v).contexts = s.contexts := by
  unfold State.poke; dsimp only; split <;> rfl

theorem State.evictHome_contexts (s : State) (l : Nat) : (s.evictHome l).contexts = s.contexts := by
  unfold State.evictHome
  cases Tab.find s.home l with
  | none => rfl
  | some h =>
    dsimp only
    cases s.remoteDev (l * 64) with
    | none => exact State.onDie_contexts ..
    | some d => rfl

theorem State.roomFor_contexts (s : State) (l : Nat) : (s.roomFor l).contexts = s.contexts := by
  unfold State.roomFor State.makeRoom
  dsimp only
  split
  · rfl
  · split
    · rfl
    · split
      · exact State.evictHome_contexts ..
      · exact State.onDie_contexts ..

theorem homeStamp_contexts (s : State) (l T : Nat) : (homeStamp s l T).1.contexts = s.contexts := by
  have ht : (s.takeLine l).contexts = s.contexts := by unfold State.takeLine; split <;> rfl
  refine (State.roomFor_contexts _ l).trans ?_
  split
  · exact ht
  · exact ht

theorem State.deviceStore_contexts (s : State) (T pa n v : Nat) : (s.deviceStore T pa n v).contexts = s.contexts := by
  have hr : ∀ t : State, (t.repairBytes (2 * s.freeCtr) pa n).contexts = t.contexts := fun t => by
    unfold State.repairBytes; dsimp only; split <;> rfl
  unfold State.deviceStore
  split
  · unfold State.storeAway; split <;> rfl
  · exact (hr _).trans ((State.poke_contexts ..).trans (homeStamp_contexts ..))

theorem State.deviceBytes_contexts (s : State) (T pa : Nat) (bs : List Byte) : (s.deviceBytes T pa bs).contexts = s.contexts :=
  foldl_keeps State.contexts _ (fun _ _ => State.deviceStore_contexts ..) _ s

theorem State.cacheTable_contexts (s : State) (d asid va l t : Nat) : (s.cacheTable d asid va l t).contexts = s.contexts := by
  unfold State.cacheTable
  dsimp only
  split
  · rfl
  · exact State.onDie_contexts ..

theorem walkGo_contexts (d asid va l tbl : Nat) (s : State) : (walkGo none d asid va l tbl s).1.contexts = s.contexts := by
  induction l generalizing tbl s with
  | zero => rfl
  | succ l ih =>
    unfold walkGo
    grind [State.entryLoad, State.cacheTable_contexts]

theorem walkFrom_contexts (s : State) (d x va : Nat) : (walkFrom s none d x va).1.contexts = s.contexts := by
  unfold walkFrom; grind [!walkGo_contexts]

theorem pickEntry_contexts (s : State) (ea pte : Nat) : (pickEntry s ea pte).1.contexts = s.contexts := by
  unfold pickEntry; grind

theorem walk_contexts (s : State) (d x va : Nat) (acc : AccessKind) (b : Bool) :
    (walk s d x va acc b none).1.contexts = s.contexts := by
  unfold walk; grind [!walkFrom_contexts, !pickEntry_contexts, !State.deviceStore_contexts]

theorem translateWalk_contexts (s : State) (x va : Nat) (acc : AccessKind) : (translateWalk s x va acc).1.contexts = s.contexts := by
  unfold translateWalk; grind [!walk_contexts]

theorem State.noteBlock_contexts (s : State) (pa : Nat) (u : RaceUse) : (s.noteBlock pa u).contexts = s.contexts := by
  unfold State.noteBlock; dsimp only; split <;> rfl

theorem State.noteSpan_contexts (s : State) (ag : Agent) (dom pa n : Nat) (w : Bool) :
    (s.noteSpan ag dom pa n w).contexts = s.contexts :=
  foldl_keeps State.contexts _ (fun _ _ => State.noteBlock_contexts ..) _ s

theorem State.pinBy_contexts (s : State) (ag : Agent) (dom pa : Nat) : (s.pinBy ag dom pa).contexts = s.contexts := by
  unfold State.pinBy
  dsimp only
  split
  · exact State.roomFor_contexts ..
  · rfl

theorem State.refuse_contexts (s : State) (ag : Agent) (p : Pin) : (s.refuse ag p).1.contexts = s.contexts := by
  unfold State.refuse; grind

theorem State.meetLine_contexts (s : State) (ag : Agent) (w b : Bool) (va pa : Nat) :
    (s.meetLine ag w b va pa).1.contexts = s.contexts := by
  unfold State.meetLine; grind [!State.refuse_contexts, !State.pinBy_contexts]

theorem meetLines_contexts (ag : Agent) (w : Bool) (va pa n m : Nat) (s : State) :
    (meetLines ag w va pa n m s).1.contexts = s.contexts := by
  induction m generalizing s with
  | zero => rfl
  | succ m ih => unfold meetLines; grind [!State.meetLine_contexts]

theorem reach_contexts (s : State) (x va n : Nat) (acc : AccessKind) : (reach s x va n acc).1.contexts = s.contexts := by
  unfold reach; grind [!translateWalk_contexts, !meetLines_contexts, !State.noteSpan_contexts]

theorem writeVirt_contexts (s : State) (x va n v : Nat) : (writeVirt s x va n v).1.contexts = s.contexts := by
  unfold writeVirt; grind [!reach_contexts, !State.deviceBytes_contexts]

/-! ### Records that the device writes -/

theorem State.enqueueAt_frame (s : State) (n : Nat) (d : Delivery) :
    (s.enqueueAt n d).cover = s.cover ∧ (s.enqueueAt n d).contexts = s.contexts := by
  unfold State.enqueueAt
  dsimp only
  split
  · exact ⟨rfl, rfl⟩
  · split <;> exact ⟨rfl, rfl⟩

/-- A record of a fault leaves of each context all but what counts records. -/
theorem State.report_frame (s : State) (u : Source) (r : Report) : (s.report u r).1.cover = s.cover ∧
    ∀ x, ((s.report u r).1.context x).children = (s.context x).children := by
  obtain ⟨hc, hx⟩ := State.enqueueAt_frame (s.ringWrite u (recordBits s u r)).1
    ((s.ringWrite u (recordBits s u r)).1.managerOf ⟨(s.ringWrite u (recordBits s u r)).2, u.origin ≠ .group, u.stamp⟩)
    ⟨(s.ringWrite u (recordBits s u r)).2, u.origin ≠ .group, u.stamp⟩
  have hon : ∀ (t : State) (f : Context → Context), (∀ c, (f c).children = c.children) → ∀ x,
      ((t.onContext u.ctx f).context x).children = (t.context x).children := by
    intro t f hf x
    rw [State.context, State.onContext_contexts, Tab.get_put]
    split
    next h => rw [h]; exact hf _
    next => rfl
  have hrw : (s.ringWrite u (recordBits s u r)).1.cover = s.cover ∧
      ∀ x, ((s.ringWrite u (recordBits s u r)).1.context x).children = (s.context x).children := by
    unfold State.ringWrite
    dsimp only
    split
    · refine ⟨(s.deviceStore_cover ..).trans rfl, fun x => (hon _ _ (by exact fun _ => rfl) x).trans ?_⟩
      rw [State.context, State.deviceStore_contexts]; rfl
    · exact ⟨rfl, fun x => hon _ _ (by exact fun _ => rfl) x⟩
  refine ⟨hc.trans hrw.1, fun x => Eq.trans ?_ (hrw.2 x)⟩
  exact congrArg (fun cs => (Tab.get cs x Context.reset).children) hx

/-- A completion record, or the record of the fault that its write meets, leaves the tables of a cover and the counts of child grids. -/
theorem State.writeCompletion_frame (s : State) (x va v : Nat) : (s.writeCompletion x va v).cover = s.cover ∧
    ∀ y, ((s.writeCompletion x va v).context y).children = (s.context y).children := by
  have hc := writeVirt_cover s x va 64 v
  have hx : ∀ y, ((writeVirt s x va 64 v).1.context y).children = (s.context y).children := fun y => by
    rw [State.context, writeVirt_contexts]; rfl
  unfold State.writeCompletion
  split
  · exact ⟨rfl, fun _ => rfl⟩
  · generalize writeVirt s x va 64 v = w at hc hx
    obtain ⟨s1, o⟩ := w
    have hrep : ∀ u r, (s1.report u r).1.cover = s.cover ∧ ∀ y, ((s1.report u r).1.context y).children = (s.context y).children :=
      fun u r => ⟨(s1.report_frame u r).1.trans hc, fun y => ((s1.report_frame u r).2 y).trans (hx y)⟩
    cases o with
    | ok u => exact ⟨hc, hx⟩
    | error e =>
      cases e with
      | fault code level => exact hrep ..
      | broken code i0 i1 => exact hrep ..
      | _ => exact ⟨hc, hx⟩

end Sys2Proof.Machine

end

section
/-! PROOF. Grids that retire, and the settling of the dispatcher's events (R52, R53, R208, R345, R431). -/

namespace Sys2Proof.Machine

/-! ### Parents that wake -/

/-- A group that no longer waits. -/
def Group.unblocked (g : Group) : Group := { g with block := .none }

/-- What waking some groups leaves of each group. -/
theorem foldl_unblock_group (l : List Nat) (s : State) (k : Nat) :
    (l.foldl (fun s k => (s.onGroup k fun g => { g with block := .none }).acquire (keyCore k)) s).group? k =
      if k ∈ l then (s.group? k).map Group.unblocked else s.group? k := by
  induction l generalizing s with
  | nil => rfl
  | cons j l ih =>
    rw [List.foldl_cons, ih]
    have h : ((s.onGroup j fun g => { g with block := .none }).acquire (keyCore j)).group? k =
        if k = j then (s.group? k).map Group.unblocked else s.group? k := by
      refine (State.onGroup_group s j (fun g => { g with block := .none }) k).trans ?_
      split <;> rfl
    rw [h]
    by_cases hkj : k = j
    · rw [if_pos hkj, if_pos (List.mem_cons.2 (.inl hkj))]
      cases s.group? k <;> split <;> rfl
    · simp only [List.mem_cons, hkj, false_or, if_false]

/-- A group whose WAITCH has no child left wakes (R53). -/
theorem State.wakeParents_wakes {s : State} {k : Nat} {q : Group} {ns : List Nat} (hq : s.group? k = some q)
    (hb : q.block = .waitch ns) (hn : ∀ m ∈ ns, s.grid? m = none) : s.wakeParents.group? k = some q.unblocked := by
  unfold State.wakeParents
  rw [foldl_unblock_group, if_pos, hq]
  · rfl
  · refine List.mem_map.2 ⟨(k, q), List.mem_filter.2 ⟨Tab.mem_of_find hq, ?_⟩, rfl⟩
    dsimp only
    rw [hb]
    exact List.all_eq_true.2 fun m hm => by rw [hn m hm]; rfl

/-- Waking parents changes groups and cores alone. -/
theorem State.wakeParents_eq (s : State) : ∃ gs cs, s.wakeParents = { s with groups := gs, cores := cs } := by
  unfold State.wakeParents
  dsimp only
  generalize (List.map _ (List.filter _ s.groups)) = l
  induction l generalizing s with
  | nil => exact ⟨s.groups, s.cores, rfl⟩
  | cons k l ih =>
    obtain ⟨gs, cs, h⟩ := ih ((s.onGroup k fun g => { g with block := .none }).acquire (keyCore k))
    exact ⟨gs, cs, by rw [List.foldl_cons, h]; rfl⟩

/-! ### A grid that retires -/

/-- What the statement says of the memory after a completion record. -/
def Recorded (s : State) (g : Grid) (code : Nat) (t : State) : Prop :=
  if recCompletion g.record = 0 then t.mem = s.mem
  else ∀ s1 u, writeVirt s g.ctx (recCompletion g.record) 64 (completionBits (recSeq g.record) 2 code
    (missedBy (s.ticks 0) (recDeadline g.record)) g.accepted (s.ticks 0) (recDeadline g.record)) = (s1, .ok u) → t.mem = s1.mem

theorem State.completeGrid_recorded (s : State) (g : Grid) (code : Nat) : Recorded s g code (s.completeGrid g code) := by
  unfold Recorded State.completeGrid State.writeCompletion
  dsimp only
  split
  · rfl
  · intro s1 u h
    rw [h]

theorem Recorded.of_mem {s t u : State} {g : Grid} {code : Nat} (h : Recorded s g code t) (hm : u.mem = t.mem) : Recorded s g code u := by
  unfold Recorded at h ⊢
  rw [hm]
  exact h

/-- The state of a retired grid before the next head of its queue is made ready. -/
def State.unlisted (s : State) (n : Nat) (g : Grid) : State :=
  let s1 := s.completeGrid g g.code
  let drop (t : Team) : Team := { t with children := t.children.filter (· ≠ n) }
  { s1 with
    grids := Tab.del s1.grids n
    queues := Tab.put s1.queues g.queue ((Tab.get s1.queues g.queue []).filter (· ≠ n))
    teams := s1.teams.map fun x => (x.1, drop x.2)
    saved := s1.saved.map fun x => (x.1, { x.2 with team := drop x.2.team })
    formers := s1.formers.map fun x => (x.1, if x.2.grid = some n then { x.2 with grid := none } else x.2) }

/-- The same with the children of its context counted. -/
def State.uncounted (s : State) (n : Nat) (g : Grid) : State :=
  if g.parent.isSome then (s.unlisted n g).onContext g.ctx fun c => { c with children := c.children - 1 } else s.unlisted n g

theorem State.retireGrid_eq (s : State) (n : Nat) (g : Grid) :
    s.retireGrid n g = ((s.uncounted n g).readyHead g.queue).wakeParents := rfl

/-- What the retirement of a grid leaves. -/
structure Retires (s : State) (n : Nat) (g : Grid) (t : State) : Prop where
  grid : t.grid? n = none
  queue : Tab.get t.queues g.queue [] = (Tab.get s.queues g.queue []).filter (· ≠ n)
  recorded : Recorded s g g.code t
  children : g.parent.isSome = true → (t.context g.ctx).children = (s.context g.ctx).children - 1
  wakes : ∀ k q ns, s.group? k = some q → q.block = .waitch ns → (∀ m, m ∈ ns → m = n ∨ s.grid? m = none) →
    t.group? k = some q.unblocked

theorem State.retireGrid_retires (s : State) (n : Nat) (g : Grid) : Retires s n g (s.retireGrid n g) := by
  obtain ⟨hcov, hch⟩ := s.writeCompletion_frame g.ctx (recCompletion g.record) (completionBits (recSeq g.record) 2 g.code
    (missedBy (s.ticks 0) (recDeadline g.record)) g.accepted (s.ticks 0) (recDeadline g.record))
  have hgr : (s.completeGrid g g.code).grids = s.grids := congrArg Cover.grids hcov
  have hqu : (s.completeGrid g g.code).queues = s.queues := congrArg Cover.queues hcov
  have hgp : (s.completeGrid g g.code).groups = s.groups := congrArg Cover.groups hcov
  have hu : (s.uncounted n g).grids = Tab.del s.grids n ∧ (s.uncounted n g).groups = s.groups ∧
      (s.uncounted n g).mem = (s.completeGrid g g.code).mem ∧
      (s.uncounted n g).queues = Tab.put s.queues g.queue ((Tab.get s.queues g.queue []).filter (· ≠ n)) := by
    rw [← hgr, ← hqu, ← hgp]
    unfold State.uncounted
    split <;> exact ⟨rfl, rfl, rfl, rfl⟩
  obtain ⟨hu1, hu2, hu3, hu4⟩ := hu
  have hnone : ∀ m, m = n ∨ s.grid? m = none → ((s.uncounted n g).readyHead g.queue).grid? m = none := by
    intro m hm
    have h := (s.uncounted n g).readyHead_unread g.queue m
    rw [show (s.uncounted n g).grid? m = none by
      rw [State.grid?, hu1, Tab.find_del]
      split
      · rfl
      · exact hm.resolve_left ‹_›] at h
    exact Option.map_eq_none_iff.1 h
  obtain ⟨gs, hrh⟩ := (s.uncounted n g).readyHead_eq g.queue
  obtain ⟨gs', cs, hwp⟩ := ((s.uncounted n g).readyHead g.queue).wakeParents_eq
  rw [State.retireGrid_eq]
  refine ⟨?_, ?_, s.completeGrid_recorded g g.code |>.of_mem ?_, fun hp => ?_, fun k q ns hq hb hn => ?_⟩
  · rw [hwp]
    exact hnone n (.inl rfl)
  · rw [hwp, hrh]
    show Tab.get (s.uncounted n g).queues g.queue [] = _
    rw [hu4, Tab.get_put, if_pos rfl]
  · rw [hwp, hrh]
    exact hu3
  · rw [hwp, hrh]
    show ((s.uncounted n g).context g.ctx).children = _
    unfold State.uncounted
    rw [if_pos hp, State.onContext_context]
    exact congrArg (· - 1) (hch g.ctx)
  · refine State.wakeParents_wakes ?_ hb fun m hm => hnone m (hn m hm)
    rw [hrh]
    show Tab.find (s.uncounted n g).groups k = _
    rw [hu2]
    exact hq

/-! ### The events -/

section
variable {s : State} {n : Nat} {g : Grid}

theorem gridRetire_happens (hg : s.grid? n = some g) (hd : s.gridDone n g = true) (hc : g.cut ≠ 2)
    (hh : s.heldAt g.ctx (recCompletion g.record) = false) (hl : s.shareLost n g = false) :
    Happens .gridRetire (.gridRetire n) s (Retires s n g) := by
  refine happens_of_onEvent rfl rfl ?_
  dsimp only
  rw [hg]
  dsimp only
  rw [if_neg (by simp [hd, hc, hh]), if_neg (by simp [hl])]
  exact s.retireGrid_retires n g

theorem gridRetire_lost (hg : s.grid? n = some g) (hd : s.gridDone n g = true) (hc : g.cut ≠ 2)
    (hh : s.heldAt g.ctx (recCompletion g.record) = false) (hl : s.shareLost n g = true) :
    Happens .gridRetire (.gridRetire n) s fun t =>
      (∃ g', t.grid? n = some g' ∧ g'.cut = 2) ∧ t.queues = s.queues ∧ Recorded s g 0x0405 t := by
  refine happens_of_onEvent rfl rfl ?_
  dsimp only
  rw [hg]
  dsimp only
  rw [if_neg (by simp [hd, hc, hh]), if_pos hl]
  obtain ⟨hcov, -⟩ := s.writeCompletion_frame g.ctx (recCompletion g.record) (completionBits (recSeq g.record) 2 0x0405
    (missedBy (s.ticks 0) (recDeadline g.record)) g.accepted (s.ticks 0) (recDeadline g.record))
  have hgr : (s.completeGrid g 0x0405).grids = s.grids := congrArg Cover.grids hcov
  refine ⟨⟨{ g with cut := 2 }, ?_, rfl⟩, congrArg Cover.queues hcov, s.completeGrid_recorded g 0x0405⟩
  refine (Tab.find_alter ..).trans ?_
  rw [if_pos rfl, hgr, show Tab.find s.grids n = some g from hg]; rfl

theorem gridRetire_waits (hg : s.grid? n = some g) (hd : s.gridDone n g = false) :
    Happens .gridRetire (.gridRetire n) s fun t => t = s := by
  refine happens_of_onEvent rfl rfl ?_
  dsimp only
  rw [hg]
  dsimp only
  rw [if_pos (by simp [hd]), Option.getD_none]

end

theorem groupPlaceRelease_happens {s : State} {k : Nat} {g : Group} {tm : Team} (hg : s.group? k = some g)
    (hp : g.privileged = false) (he : g.exited = true) (ht : s.team? g.team = some tm) (hq : s.quiet k = true) :
    Happens .groupPlaceRelease (.groupPlaceRelease k) s fun t =>
      t.group? k = none ∧ (∀ j, j ≠ k → t.group? j = s.group? j) ∧
      t.team? g.team = some { tm with groups := tm.groups.filter fun x => x.1 ≠ k } ∧ t.mem = s.mem := by
  refine happens_of_onEvent rfl rfl ?_
  dsimp only
  rw [hg]
  dsimp only
  rw [if_neg (by simp [hp, he, hq])]
  refine ⟨(Tab.find_del ..).trans (if_pos rfl), fun j hj => (Tab.find_del ..).trans (if_neg hj), ?_, rfl⟩
  refine (Tab.find_alter ..).trans ?_
  rw [if_pos rfl]
  exact congrArg (Option.map _) ht

/-- The statement's words for a group that has started. -/
theorem newGroup_spec (g : Grid) (tid gid stamp : Nat) :
    (newGroup g tid gid stamp).privileged = false ∧ (newGroup g tid gid stamp).team = tid ∧ (newGroup g tid gid stamp).gid = gid ∧
      (newGroup g tid gid stamp).pcs = List.replicate 32 (BitVec.ofNat 32 (recEntry g.record + 4)) ∧
      (newGroup g tid gid stamp).pri = 6 - 2 * g.tier ∧ (newGroup g tid gid stamp).suspension = none ∧
      (newGroup g tid gid stamp).exited = false ∧
      ∀ r l, r < (g.params.getD []).length → l < 32 → (newGroup g tid gid stamp).vreg r l = ((g.params.getD [])[r]?).getD 0 :=
  ⟨rfl, rfl, rfl, rfl, rfl, rfl, rfl, fun _ _ hr hl => newGroup_vreg g tid gid stamp hr hl⟩

/-- Settles O49: each event by what its row leaves: the decision by the team that it places, the resident team by the groups that it
starts, and the retired grid by its record, its queue and the parents that wake. -/
theorem dispatchEvents : Obligations.DispatchEvents := by
  unfold Obligations.DispatchEvents
  refine ⟨?_, ?_, ?_, ?_, ?_, ?_, ?_, ?_, ?_⟩
  · intro s d x c tix hd hl hr hdc hcs hf hw hg hp
    have hpick := State.firstFit_pickCore hf
    rw [hw] at hpick
    have hdie := State.pickCore_die hd hpick
    obtain ⟨t, ht, f, hf', rfl⟩ := State.decision_fresh hl hr hdc hcs hf hw hp
    refine happens_of_onEvent (f := fun | .dispatchDecision d => s.decision d | _ => none) rfl rfl ?_
    dsimp only
    rw [ht, Option.getD_some]
    have h := PlacesTeam.of (tix := tix) hg hdie hf'
    exact ⟨(State.pickCore_spec hpick).1, hdie, h.team, h.grid, h.placePtr, h.decisions, h.groups, h.mem⟩
  · intro s d hd hl hr hdc hcs hf
    refine happens_of_onEvent (f := fun | .dispatchDecision d => s.decision d | _ => none) rfl rfl ?_
    dsimp only
    rw [State.decision_noFit hl hr hdc hcs hf, Option.getD_some]
    obtain ⟨⟨gs, hgs⟩, -⟩ := s.rewaited_rewaits d
    rw [hgs]
    refine ⟨?_, State.onDie_teams .., State.onDie_groups .., State.onDie_mem ..⟩
    exact congrArg Die.decisions (State.onDie_die_same ..)
  · intro s d h
    refine happens_of_onEvent (f := fun | .dispatchDecision d => s.decision d | _ => none) rfl rfl ?_
    dsimp only
    rw [State.decision_none h, Option.getD_none]
  · intro s id tm g h e ht hg hr hs he hnd hk ha va hf htlb hpf hsp hh hdt hrs
    refine happens_of_onEvent (f := fun | .teamResident id => s.becomeResident id | _ => none) rfl rfl ?_
    dsimp only
    rw [State.becomeResident_starts ht hg hr hs he, Option.getD_some]
    have hseat := State.startGroups_seats ht hg hnd hk ha ⟨hf, e, htlb, hpf, hsp, hh⟩ hdt hrs
    generalize tm.groups.foldl (fun s k => s.startGroup g id k.1 k.2) (s.takePlace id) = t at hseat
    have hseat' : Seats s id tm g (if g.parent.isSome then t.acquire tm.core else t) := by
      split
      · exact ⟨hseat.team, hseat.starts, hseat.others, hseat.mem⟩
      · exact hseat
    refine ⟨hseat'.team, fun k gid hm => ?_, hseat'.others, hseat'.mem⟩
    obtain ⟨stamp, hq⟩ := hseat'.starts _ hm
    exact ⟨_, hq, newGroup_spec g id gid stamp⟩
  · intro s id tm g ht hg hr hs he
    refine happens_of_onEvent (f := fun | .teamResident id => s.becomeResident id | _ => none) rfl rfl ?_
    dsimp only
    rw [State.becomeResident_empty ht hg hr hs he, Option.getD_some]
    obtain ⟨h1, -, h3, h4, -⟩ := State.removeTeam_spec ht hg
    exact ⟨h1, h4, h3⟩
  · intro s k g tm hg hp he ht
    refine ⟨groupPlaceRelease_happens hg hp he ht, fun hq => happens_of_onEvent rfl rfl ?_⟩
    dsimp only
    rw [hg]
    dsimp only
    rw [if_pos (by simp [hq]), Option.getD_none]
  · intro s id tm g ht hr hgs hg
    refine ⟨fun hb => happens_of_onEvent rfl rfl ?_, fun hb => happens_of_onEvent rfl rfl ?_⟩
    · dsimp only
      rw [ht]
      dsimp only
      rw [if_neg (by simp [hr, hgs, hb]), Option.getD_some]
      exact State.removeTeam_spec ht hg
    · dsimp only
      rw [ht]
      dsimp only
      rw [if_pos (by simp [hb]), Option.getD_none]
  · intro s n g hg hd hc hh
    refine ⟨fun hl he => ?_, fun hl => gridRetire_lost hg hd hc hh hl⟩
    obtain ⟨hrow, t, ht, hret⟩ := gridRetire_happens hg hd hc hh hl he
    exact ⟨hrow, t, ht, hret.grid, hret.queue, hret.recorded, hret.children, fun k q ns hq hb hn =>
      ⟨_, hret.wakes k q ns hq hb hn, rfl, rfl, rfl⟩⟩
  · exact fun s n g hg hd => gridRetire_waits hg hd

end Sys2Proof.Machine

end

section
/-! SUPPORT. The batch formers' table in what a step does to memory: each operation on records and trees gives the same device whatever
that table holds, and leaves it. -/

namespace Sys2Proof.Machine

/-- A state with another table of batch formers. -/
def State.refit (s : State) (fs : Tab Former) : State := { s with formers := fs }

/-- What gives the same device whatever the batch formers are leaves them. -/
theorem formers_of_refit {f : State → State} {s : State} (h : ∀ fs, f (s.refit fs) = (f s).refit fs) : (f s).formers = s.formers :=
  (congrArg State.formers (h s.formers) :)

theorem foldl_refit {α : Type} {f : State → α → State} (h : ∀ s x fs, f (s.refit fs) x = (f s x).refit fs) (l : List α) (s : State)
    (fs : Tab Former) : l.foldl f (s.refit fs) = (l.foldl f s).refit fs := by
  induction l generalizing s with
  | nil => rfl
  | cons x l ih => rw [List.foldl_cons, List.foldl_cons, h, ih]

/-- What gives the same device under every cover does so whatever the batch formers are. -/
theorem refit_of_under {f : State → State} {s : State} (h : ∀ c : Cover, c.Alike s.cover → f (s.under c) = (f s).under c)
    (fs : Tab Former) : f (s.refit fs) = (f s).refit fs := by
  have hc := State.cover_kept (f := f) h
  refine (h { s.cover with formers := fs } ⟨fun _ => rfl, rfl⟩).trans ?_
  rw [← hc]; rfl

section
variable (s : State) (fs : Tab Former)

/-! ### Records -/

theorem writeVirt_refit (x va n v : Nat) :
    writeVirt (s.refit fs) x va n v = ((writeVirt s x va n v).1.refit fs, (writeVirt s x va n v).2) := by
  refine (writeVirt_under (c := { s.cover with formers := fs }) ⟨fun _ => rfl, rfl⟩ x va n v).trans ?_
  rw [← writeVirt_cover s x va n v]; rfl

theorem readVirt_refit (x va n : Nat) : (readVirt (s.refit fs) x va n).2 = (readVirt s x va n).2 :=
  (congrArg Prod.snd (readVirt_under (s := s) (c := { s.cover with formers := fs }) ⟨fun _ => rfl, rfl⟩ x va n) :)

theorem recordRefusal_refit (r x : Nat) (slot : Option Nat) :
    recordRefusal (s.refit fs) r x slot = recordRefusal s r x slot :=
  recordRefusal_under (s := s) (c := { s.cover with formers := fs }) ⟨fun _ => rfl, rfl⟩ r x slot

theorem State.request_refit (x a : Nat) : (s.refit fs).request x a = s.request x a := by
  unfold State.request
  rw [readVirt_refit]

theorem State.rqWrite_refit (x a byte n v : Nat) : (s.refit fs).rqWrite x a byte n v = (s.rqWrite x a byte n v).refit fs :=
  congrArg Prod.fst (writeVirt_refit s fs x (a + byte) n v)

/-! ### Trees -/

theorem State.deviceStore_refit (T pa n v : Nat) : (s.refit fs).deviceStore T pa n v = (s.deviceStore T pa n v).refit fs :=
  refit_of_under (f := fun s => s.deviceStore T pa n v) (fun _ h => State.deviceStore_under h ..) fs

theorem State.setHdr_refit (t v : Nat) : (s.refit fs).setHdr t v = (s.setHdr t v).refit fs := s.deviceStore_refit ..

theorem State.setNode_refit (t n v : Nat) : (s.refit fs).setNode t n v = (s.setNode t n v).refit fs := s.deviceStore_refit ..

theorem State.setEntry_refit (t : Nat) (p : Place) (j v : Nat) : (s.refit fs).setEntry t p j v = (s.setEntry t p j v).refit fs :=
  s.deviceStore_refit ..

theorem State.pushSet_refit (d f : Nat) : (s.refit fs).pushSet d f = (s.pushSet d f).refit fs := by
  unfold State.pushSet
  dsimp only
  rw [← State.deviceStore_refit, ← State.deviceStore_refit, ← State.deviceStore_refit]; rfl

theorem State.refit_ite {p : Prop} [Decidable p] (a b : State) : (if p then a else b).refit fs = if p then a.refit fs else b.refit fs := by
  split <;> rfl

theorem State.dropRef_refit (d f : Nat) : (s.refit fs).dropRef d f = (s.dropRef d f).refit fs := by
  unfold State.dropRef
  dsimp only
  rw [State.refit_ite, State.refit_ite, ← State.deviceStore_refit, ← State.deviceStore_refit, ← State.pushSet_refit]; rfl

/-- Drop a map entry and its reference. -/
def State.dropEntry (s : State) (t : Nat) (p : Place) (j : Nat) : State :=
  if meV (s.mapEntry t p j) then (s.setEntry t p j 0).dropRef (treeDie t) (meSet (s.mapEntry t p j)) else s

theorem State.dropEntry_refit (t : Nat) (p : Place) (j : Nat) : (s.refit fs).dropEntry t p j = (s.dropEntry t p j).refit fs := by
  unfold State.dropEntry
  rw [State.refit_ite, ← State.dropRef_refit, ← State.setEntry_refit]; rfl

/-- Drop the entries of some page indices of a place. -/
def State.dropEntries (s : State) (t : Nat) (p : Place) (js : List Nat) : State := js.foldl (fun s j => s.dropEntry t p j) s

theorem State.dropEntries_refit (t : Nat) (p : Place) (js : List Nat) :
    (s.refit fs).dropEntries t p js = (s.dropEntries t p js).refit fs :=
  foldl_refit (fun s j fs => s.dropEntry_refit fs t p j) js s fs

theorem State.killNode_eq (t n : Nat) : s.killNode t n =
    let s1 := s.dropEntries t (some n) ((List.range (thNC (s.treeHdr t))).map (s.firstPage t (some n) + ·))
    let s2 := s1.setNode t n (setBits (s1.nodeRec t n) 0 2 3)
    (s2.setHdr t (setBits (s2.treeHdr t) (96 + n) 1 0)).doom (tagIs t n (ndGen (s.nodeRec t n))) := by
  unfold State.dropEntries
  rw [List.foldl_map]; rfl

theorem State.killNode_refit (t n : Nat) : (s.refit fs).killNode t n = (s.killNode t n).refit fs := by
  rw [State.killNode_eq, State.killNode_eq]
  dsimp only
  rw [show (s.refit fs).treeHdr t = s.treeHdr t from rfl, show (s.refit fs).firstPage t (some n) = s.firstPage t (some n) from rfl,
    State.dropEntries_refit]
  generalize s.dropEntries _ _ _ = s1
  rw [show (s1.refit fs).nodeRec t n = s1.nodeRec t n from rfl, State.setNode_refit]
  generalize s1.setNode _ _ _ = s2
  rw [show (s2.refit fs).treeHdr t = s2.treeHdr t from rfl, State.setHdr_refit]; rfl

theorem State.freeSlots_refit (t : Nat) : (s.refit fs).freeSlots t = (s.freeSlots t).refit fs :=
  foldl_refit (fun s n fs => s.setNode_refit fs t n _) _ s fs

/-- A tree with no live node and no trunk entry, before it is free (R306). -/
def State.prunedTree (s : State) (t : Nat) : State :=
  ((liveSlots (s.treeHdr t)).foldl (fun s m => s.killNode t m) s).dropEntries t none
    (List.range (min (thTC (s.treeHdr t)) (ceilDiv (thLen (s.treeHdr t)) (thT (s.treeHdr t)))))

theorem treePrune_eq (t : Nat) : (treePrune s t none).1 =
    (((s.prunedTree t).freeSlots t).setHdr t (setBits (((s.prunedTree t).freeSlots t).treeHdr t) 0 4 0)).doom fun x => x.tree = t := rfl

theorem State.prunedTree_refit (t : Nat) : (s.refit fs).prunedTree t = (s.prunedTree t).refit fs := by
  unfold State.prunedTree
  rw [show (s.refit fs).treeHdr t = s.treeHdr t from rfl, foldl_refit fun s m fs => s.killNode_refit fs t m,
    State.dropEntries_refit]

/-- Release of a tree. -/
theorem treePrune_refit (t : Nat) : (treePrune (s.refit fs) t none).1 = (treePrune s t none).1.refit fs := by
  rw [treePrune_eq, treePrune_eq, State.prunedTree_refit]
  generalize s.prunedTree t = s1
  rw [State.freeSlots_refit]
  generalize s1.freeSlots t = s2
  rw [show (s2.refit fs).treeHdr t = s2.treeHdr t from rfl, State.setHdr_refit]; rfl

theorem State.releaseTree_refit (x t : Nat) : (s.refit fs).releaseTree x t = (s.releaseTree x t).refit fs := by
  unfold State.releaseTree
  rw [State.refit_ite, ← treePrune_refit]; rfl

end

end Sys2Proof.Machine

end

section
/-! PROOF. Steps of a batch former that end without a request in a slot (R335, R356, R358, R437, R442). -/

namespace Sys2Proof.Machine

/-! ### What the parts of a step leave of the batch formers -/

section
variable (s : State)

theorem State.rqWrite_formers (x a byte n v : Nat) : (s.rqWrite x a byte n v).formers = s.formers :=
  congrArg Cover.formers (writeVirt_cover s x (a + byte) n v)

theorem State.writeCompletion_formers (x va v : Nat) : (s.writeCompletion x va v).formers = s.formers :=
  congrArg Cover.formers (s.writeCompletion_frame x va v).1

theorem State.setHdr_formers (t v : Nat) : (s.setHdr t v).formers = s.formers :=
  formers_of_refit (f := fun s => s.setHdr t v) fun fs => s.setHdr_refit fs t v

theorem State.releaseTree_formers (x t : Nat) : (s.releaseTree x t).formers = s.formers :=
  formers_of_refit (f := fun s => s.releaseTree x t) fun fs => s.releaseTree_refit fs x t

theorem State.onFormer_find {x : Nat} {f : Former} (h : Tab.find s.formers x = some f) (u : Former → Former) :
    Tab.find (s.onFormer x u).formers x = some (u f) := by
  refine (Tab.find_alter ..).trans ?_
  rw [if_pos rfl, h]; rfl

end

/-! ### Evictions -/

section
variable {s : State} {x d low n : Nat} {f : Former}

/-- A die with enough free sets, or without a request to evict, sees none evicted (R358). -/
theorem evictDie_skip (hf : Tab.find s.formers x = some f) (h : low ≤ s.freeCount d ∨ s.evictee x d f = none) :
    evictDie x d low (n + 1) s = (s, n + 1) := by
  unfold evictDie
  by_cases hl : low ≤ s.freeCount d
  · rw [if_pos hl]
  · rw [if_neg hl, hf, Option.bind_some, h.resolve_left hl]

/-- One request is evicted. -/
theorem evictDie_step {z : Nat × Nat × Nat × Nat} (hf : Tab.find s.formers x = some f) (hl : ¬ low ≤ s.freeCount d)
    (h : s.evictee x d f = some z) : evictDie x d low (n + 1) s = evictDie x d low n (s.evict x z) := by
  rw [evictDie, if_neg hl, hf, Option.bind_some, h]

theorem State.evictable_slots (h : f.requeued = []) : s.evictable x f = f.slots := by
  unfold State.evictable
  rw [h, List.filterMap_nil, List.append_nil]

theorem State.evictee_nil (hr : f.requeued = []) (hs : f.slots = []) : s.evictee x d f = none := by
  unfold State.evictee
  rw [State.evictable_slots hr, hs]; rfl

/-- The only request is evicted on the die of its tree alone. -/
theorem State.evictee_one {z : Nat × Nat × Nat × Nat} (hr : f.requeued = []) (hs : f.slots = [z]) :
    s.evictee x d f = if treeDie (rqTree (s.request x z.2.1)) ≠ d then none else some z := by
  unfold State.evictee
  rw [State.evictable_slots hr, hs]; rfl

end

/-- What an eviction writes. -/
def State.evictWrites (s : State) (x : Nat) (z : Nat × Nat × Nat × Nat) : State :=
  let s1 := (s.rqWrite x z.2.1 8 1 1).rqWrite x z.2.1 10 1 (setBits (rqFlags (s.request x z.2.1)) 1 1 1)
  let s2 := s1.releaseTree x (rqTree (s.request x z.2.1))
  if s2.ownsTree (rqTree (s.request x z.2.1)) x then
    s2.setHdr (rqTree (s.request x z.2.1)) (setBits (s2.treeHdr (rqTree (s.request x z.2.1))) 0 4 1)
  else s2

/-- What an eviction leaves of its batch former. -/
def Former.evicts (f : Former) (z : Nat × Nat × Nat × Nat) (now : Nat) : Former :=
  { f with slots := f.slots.filter (fun y => y.2.1 ≠ z.2.1), found := Tab.put f.found z.2.1 now, halves := Tab.put f.halves z.2.1 z.2.2.2 }

theorem State.evict_eq (s : State) (x : Nat) (z : Nat × Nat × Nat × Nat) :
    s.evict x z = (s.evictWrites x z).onFormer x fun f => f.evicts z (s.ticks 0) := rfl

theorem State.evictWrites_formers (s : State) (x : Nat) (z : Nat × Nat × Nat × Nat) : (s.evictWrites x z).formers = s.formers := by
  unfold State.evictWrites
  dsimp only
  split
  · rw [State.setHdr_formers, State.releaseTree_formers, State.rqWrite_formers, State.rqWrite_formers]
  · rw [State.releaseTree_formers, State.rqWrite_formers, State.rqWrite_formers]

theorem State.evictWrites_refit (s : State) (fs : Tab Former) (x : Nat) (z : Nat × Nat × Nat × Nat) :
    (s.refit fs).evictWrites x z = (s.evictWrites x z).refit fs := by
  unfold State.evictWrites
  dsimp only
  rw [State.request_refit, State.rqWrite_refit, State.rqWrite_refit, State.releaseTree_refit]
  generalize State.releaseTree _ _ _ = s2
  rw [State.refit_ite, ← State.setHdr_refit]; rfl

theorem State.evict_find {s : State} {x : Nat} {f : Former} (h : Tab.find s.formers x = some f) (z : Nat × Nat × Nat × Nat) :
    Tab.find (s.evict x z).formers x = some (f.evicts z (s.ticks 0)) := by
  rw [State.evict_eq]
  exact State.onFormer_find _ (by rw [State.evictWrites_formers]; exact h) _

/-! ### A step without a request table -/

theorem State.ticks_of_clock {s t : State} (h : t.clock = s.clock) (d : Nat) : t.ticks d = s.ticks d := by
  obtain ⟨h0, h1⟩ := Prod.mk.inj h
  unfold State.ticks State.die
  split
  · rw [h0]
  · rw [h1]

/-- The device once the slots of a batch former have been looked at. -/
def State.retired (s : State) (x : Nat) (f : Former) : State := f.slots.foldl (fun s z => s.retireSlot x (dsKeep f.desc) z) s

theorem State.retired_clock (s : State) (x : Nat) (f : Former) : (s.retired x f).clock = s.clock :=
  foldl_clock _ (fun _ _ => State.retireSlot_clock ..) _ s

/-- A batch former that has looked at the tokens of its last step. -/
def Former.heard (f : Former) : Former := { f with emitted := [] }

/-- The device after the evictions of a step. -/
def State.evicted (s : State) (x low : Nat) : State :=
  (evictDie x 1 low (evictDie x 0 low 64 s).2 (evictDie x 0 low 64 s).1).1

theorem State.evicted_skip {s : State} {x low : Nat} {f : Former} (hf : Tab.find s.formers x = some f)
    (h0 : low ≤ s.freeCount 0 ∨ s.evictee x 0 f = none) (h1 : low ≤ s.freeCount 1 ∨ s.evictee x 1 f = none) :
    s.evicted x low = s := by
  unfold State.evicted
  rw [evictDie_skip hf h0]
  dsimp only
  rw [evictDie_skip hf h1]

/-- A step grid, when the batch former is there. -/
def State.launched (s : State) (x : Nat) : State :=
  match Tab.find s.formers x with
  | none => s
  | some f => s.launchStep x f

theorem State.launched_eq {s : State} {x : Nat} {f : Former} (h : Tab.find s.formers x = some f) : s.launched x = s.launchStep x f := by
  unfold State.launched
  rw [h]

/-- The device once the request table has been looked at. -/
def State.scanned (s : State) (x d : Nat) : State := (tableAddrs d).foldl (fun s a => s.scanRecord x (dsKeep d) a) s

/-- The device after the admissions of a step. -/
def State.admits (s : State) (x d : Nat) : State :=
  match Tab.find s.formers x with
  | none => s
  | some f => (s.admitOrder x d f).foldl (fun s a => s.admitSlot x d a) s

/-- The end of a step after its evictions. -/
def State.stepEnd (s : State) (x d : Nat) : State :=
  match Tab.find s.formers x with
  | none => s
  | some f1 =>
    match Tab.find ((s.admitOrder x d f1).foldl (fun s a => s.admitSlot x d a) s).formers x with
    | none => (s.admitOrder x d f1).foldl (fun s a => s.admitSlot x d a) s
    | some f2 => ((s.admitOrder x d f1).foldl (fun s a => s.admitSlot x d a) s).launchStep x f2

theorem State.stepEnd_eq (s : State) (x d : Nat) : s.stepEnd x d = (s.admits x d).launched x := by
  unfold State.stepEnd State.admits
  cases h : Tab.find s.formers x with
  | none => unfold State.launched; rw [h]
  | some f => rfl

/-- A step retires, looks at the table, evicts, admits and launches (R358). -/
theorem State.formerWork_eq (s : State) (x : Nat) (f : Former) : s.formerWork x f =
    (((((s.retired x f).onFormer x Former.heard).scanned x f.desc).evicted x (dsLow f.desc)).admits x f.desc).launched x := by
  rw [← State.stepEnd_eq]; rfl

/-- Without a request table nothing is looked at or admitted. -/
theorem State.formerWork_noTable {s : State} {x : Nat} {f : Former} (h : dsEntries f.desc = 0) :
    s.formerWork x f = (((s.retired x f).onFormer x Former.heard).evicted x (dsLow f.desc)).launched x := by
  have ht : tableAddrs f.desc = [] := by unfold tableAddrs; rw [h]; rfl
  rw [State.formerWork_eq]
  refine congrArg (State.launched · x) ?_
  rw [show ((s.retired x f).onFormer x Former.heard).scanned x f.desc = (s.retired x f).onFormer x Former.heard by
    unfold State.scanned; rw [ht]; rfl]
  generalize ((s.retired x f).onFormer x Former.heard).evicted x (dsLow f.desc) = e
  unfold State.admits State.admitOrder
  rw [ht]
  cases Tab.find e.formers x <;> rfl

theorem State.launchStep_nil {s : State} {x : Nat} {f : Former} (h : f.slots = []) : s.launchStep x f = s.idleFormer x := by
  unfold State.launchStep
  simp only [h, List.getLast?_nil, Option.map_none, Option.getD_none, if_true]

/-- What a step that holds no request in the end leaves: nothing is written after the retirements, and the batch former idles (R361). -/
theorem State.formerWork_idles {s : State} {x : Nat} {f f1 : Former} (h : dsEntries f.desc = 0)
    (hf : Tab.find (s.retired x f).formers x = some f1) (hs : f1.slots = []) (hr : f1.requeued = []) :
    Tab.find (s.formerWork x f).formers x = some { f1.heard with idleAt := some (s.ticks 0 + 10000) } ∧
      (s.formerWork x f).mem = (s.retired x f).mem := by
  have h2 := State.onFormer_find _ hf Former.heard
  have hnil : ∀ (t : State) d, t.evictee x d f1.heard = none := fun t d => State.evictee_nil hr hs
  rw [State.formerWork_noTable h, State.evicted_skip h2 (.inr (hnil _ 0)) (.inr (hnil _ 1)), State.launched_eq h2,
    State.launchStep_nil (f := f1.heard) hs, ← State.ticks_of_clock (s.retired_clock x f) 0]
  exact ⟨State.onFormer_find _ h2 _, rfl⟩

/-! ### Retirement of a slot -/

/-- A request has met its stop condition, no token of its last step aside (R56). -/
def Stopped (r : Nat) : Prop := rqMax r ≠ 0 ∧ rqMax r ≤ rqEmitted r

theorem stopMet_none (r : Nat) : stopMet r none = true ↔ Stopped r := by
  unfold stopMet Stopped
  simp

section
variable {s : State} {x n a cur half r : Nat} {f : Former} (keep : Bool) (hf : Tab.find s.formers x = some f) (he : f.emitted = [])
  (hr : s.request x a = r)
include hf he hr

/-- Why a slot ends, with the state that its request takes (R56, R358, R442). -/
theorem State.retireSlot_finishes {v : Nat} (hv : (rqState r = 5 ∧ v = 6) ∨ (rqState r ≠ 5 ∧ rqFault r ≠ 0 ∧ rqFault r ≠ 0x0502 ∧ v = 4) ∨
      (rqState r ≠ 5 ∧ rqFault r = 0 ∧ Stopped r ∧ v = 3)) :
    s.retireSlot x keep (n, a, cur, half) = s.finishRequest x a r v v keep := by
  unfold State.retireSlot
  simp only [hr, hf, he, Tab.find_nil]
  rcases hv with ⟨h5, rfl⟩ | ⟨h5, h0, h2, rfl⟩ | ⟨h5, h0, hs, rfl⟩
  · rw [if_pos h5]
  · rw [if_neg h5, if_neg h2, if_pos h0]
  · rw [if_neg h5, if_neg (by rw [h0]; decide), if_neg (not_not.2 h0), if_pos ((stopMet_none r).2 hs)]

omit hf he in
/-- A request that lost its shard goes back to the queue (R335, R442). -/
theorem State.retireSlot_requeues (h5 : rqState r ≠ 5) (h2 : rqFault r = 0x0502) :
    s.retireSlot x keep (n, a, cur, half) = s.requeue x a half := by
  unfold State.retireSlot
  dsimp only
  rw [hr, if_neg h5, if_pos h2]

/-- A request that goes on keeps its slot. -/
theorem State.retireSlot_stays (h5 : rqState r ≠ 5) (h0 : rqFault r = 0) (hs : ¬ Stopped r) :
    s.retireSlot x keep (n, a, cur, half) = s := by
  unfold State.retireSlot
  simp only [hr, hf, he, Tab.find_nil]
  rw [if_neg h5, if_neg (by rw [h0]; decide), if_neg (not_not.2 h0), if_neg fun h => hs ((stopMet_none r).1 h)]

end

theorem State.request_of {s : State} {x a r : Nat} (h : (readVirt s x a 256).2 = .ok r) : s.request x a = r := by
  unfold State.request
  rw [h]

theorem State.rqWrite_of {s s1 : State} {x a byte n v : Nat} {u : Unit} (h : writeVirt s x (a + byte) n v = (s1, .ok u)) :
    s.rqWrite x a byte n v = s1 := congrArg Prod.fst h

/-- The writes of a request that ends, before its tree is released. -/
def State.finishWrites (s : State) (x a r state status : Nat) : State :=
  let miss := missedBy (s.ticks 0) (rqDeadline r)
  let s1 := s.rqWrite x a 8 1 state
  let s2 := if miss then s1.rqWrite x a 10 1 (setBits (rqFlags r) 0 1 1) else s1
  s2.writeCompletion x (rqCompletion r)
    (completionBits (rqId r) status (rqFault r) miss (rqAdmitted r) (s.ticks 0) (rqDeadline r))

theorem State.finishRequest_eq (s : State) (x a r state status : Nat) (keep : Bool) : s.finishRequest x a r state status keep =
    (if keep then s.finishWrites x a r state status else (s.finishWrites x a r state status).releaseTree x (rqTree r)).onFormer x
      fun f => f.forget a := rfl

theorem State.finishWrites_formers (s : State) (x a r state status : Nat) : (s.finishWrites x a r state status).formers = s.formers := by
  unfold State.finishWrites
  dsimp only
  rw [State.writeCompletion_formers]
  split
  · rw [State.rqWrite_formers, State.rqWrite_formers]
  · rw [State.rqWrite_formers]

theorem State.finishRequest_find {s : State} {x : Nat} {f : Former} (h : Tab.find s.formers x = some f) (a r state status : Nat)
    (keep : Bool) : Tab.find (s.finishRequest x a r state status keep).formers x = some (f.forget a) := by
  rw [State.finishRequest_eq]
  refine State.onFormer_find _ ?_ _
  split
  · rw [State.finishWrites_formers]; exact h
  · rw [State.releaseTree_formers, State.finishWrites_formers]; exact h

/-- The writes of a request that ends, when none of them faults. -/
theorem State.finishWrites_ok {s s1 s2 s3 : State} {x a r v : Nat} {u : Unit} (h1 : writeVirt s x (a + 8) 1 v = (s1, .ok u))
    (h2 : if decide (rqDeadline r ≠ 0 ∧ rqDeadline r < s.ticks 0) then
      writeVirt s1 x (a + 10) 1 (setBits (rqFlags r) 0 1 1) = (s2, .ok u) else s2 = s1)
    (h3 : if rqCompletion r = 0 then s3 = s2 else writeVirt s2 x (rqCompletion r) 64 (completionBits (rqId r) v (rqFault r)
      (decide (rqDeadline r ≠ 0 ∧ rqDeadline r < s.ticks 0)) (rqAdmitted r) (s.ticks 0) (rqDeadline r)) = (s3, .ok u)) :
    s.finishWrites x a r v v = s3 := by
  have hm : missedBy (s.ticks 0) (rqDeadline r) = decide (rqDeadline r ≠ 0 ∧ rqDeadline r < s.ticks 0) := by
    unfold missedBy
    rw [Bool.decide_and]
  unfold State.finishWrites
  dsimp only
  rw [hm, State.rqWrite_of h1]
  generalize decide (rqDeadline r ≠ 0 ∧ rqDeadline r < s.ticks 0) = miss at h2 h3
  have hs2 : (if miss then s1.rqWrite x a 10 1 (setBits (rqFlags r) 0 1 1) else s1) = s2 := by
    cases miss with
    | true => rw [if_pos rfl] at h2 ⊢; exact State.rqWrite_of h2
    | false => rw [if_neg Bool.false_ne_true] at h2 ⊢; exact h2.symm
  rw [hs2]
  unfold State.writeCompletion
  split at h3
  next hc => rw [if_pos hc]; exact h3.symm
  next hc => rw [if_neg hc, h3]

/-- A request that lost its shard: its record is QUEUED and its fault code cleared (R335, R442). -/
theorem State.requeue_find {s : State} {x : Nat} {f : Former} (h : Tab.find s.formers x = some f) (a half : Nat) :
    Tab.find (s.requeue x a half).formers x = some { f with
      slots := f.slots.filter (fun z => z.2.1 ≠ a)
      found := Tab.put f.found a (s.ticks 0)
      halves := Tab.put f.halves a half } := by
  unfold State.requeue
  exact State.onFormer_find _ (by rw [State.rqWrite_formers, State.rqWrite_formers]; exact h) _

end Sys2Proof.Machine

end

section
/-! PROOF. Evictions of a step (R358, R359, R437). -/

namespace Sys2Proof.Machine

theorem treeDie_cases (t : Nat) : treeDie t = 0 ∨ treeDie t = 1 := by
  have h : treeDie t < 2 := Nat.mod_lt _ (by decide)
  omega

/-- A request goes on (R56, R358). -/
def Stays (r : Nat) : Prop := rqState r ≠ 5 ∧ rqFault r = 0 ∧ ¬ Stopped r

/-- When every request goes on, a step without a table evicts and launches. -/
theorem State.formerWork_stays {s : State} {x : Nat} {f : Former} (hf : Tab.find s.formers x = some f) (he : f.emitted = [])
    (hd : dsEntries f.desc = 0) (hs : ∀ z ∈ f.slots, Stays (s.request x z.2.1)) :
    s.formerWork x f = ((s.onFormer x Former.heard).evicted x (dsLow f.desc)).launched x := by
  have hret : s.retired x f = s :=
    List.foldlRecOn (motive := (· = s)) _ _ rfl fun t ht z hz => by
      obtain ⟨h5, h0, hst⟩ := hs z hz
      rw [ht]
      exact State.retireSlot_stays _ hf he rfl h5 h0 hst
  rw [State.formerWork_noTable hd, hret]

section
variable {s : State} {x low : Nat} {f : Former} {z : Nat × Nat × Nat × Nat}

/-- The only request of a die that lacks free sets is evicted. -/
theorem State.evicted_one (hf : Tab.find s.formers x = some f) (hr : f.requeued = []) (hs : f.slots = [z])
    (hl : s.freeCount (treeDie (rqTree (s.request x z.2.1))) < low) : s.evicted x low = s.evict x z := by
  have h2 := State.evict_find hf z
  have hnil : (f.evicts z (s.ticks 0)).slots = [] := by
    show f.slots.filter (fun y => y.2.1 ≠ z.2.1) = []
    rw [hs]
    simp
  have hgone : ∀ d, (s.evict x z).evictee x d (f.evicts z (s.ticks 0)) = none := fun d => State.evictee_nil hr hnil
  have hone := fun d => State.evictee_one (s := s) (x := x) (d := d) hr hs
  unfold State.evicted
  rcases treeDie_cases (rqTree (s.request x z.2.1)) with hd | hd <;> rw [hd] at hl
  · rw [evictDie_step hf (Nat.not_le.2 hl) ((hone 0).trans (if_neg (not_not.2 hd))), evictDie_skip h2 (.inr (hgone 0))]
    dsimp only
    rw [evictDie_skip h2 (.inr (hgone 1))]
  · rw [evictDie_skip hf (.inr ((hone 0).trans (if_pos (by rw [hd]; decide))))]
    dsimp only
    rw [evictDie_step hf (Nat.not_le.2 hl) ((hone 1).trans (if_neg (not_not.2 hd))), evictDie_skip h2 (.inr (hgone 1))]

/-- A step that evicts its only request writes no more than the eviction, and idles. -/
theorem State.formerWork_evicts (hf : Tab.find s.formers x = some f) (he : f.emitted = []) (hr : f.requeued = [])
    (hd : dsEntries f.desc = 0) (hs : f.slots = [z]) (hst : Stays (s.request x z.2.1))
    (hl : s.freeCount (treeDie (rqTree (s.request x z.2.1))) < dsLow f.desc) :
    Tab.find (s.formerWork x f).formers x = some { f.heard.evicts z (s.ticks 0) with idleAt := some (s.ticks 0 + 10000) } ∧
      (s.formerWork x f).mem = (s.evictWrites x z).mem := by
  have hall : ∀ y ∈ f.slots, Stays (s.request x y.2.1) := by
    rw [hs]
    exact fun y hy => List.mem_singleton.1 hy ▸ hst
  have h2 := State.onFormer_find s hf Former.heard
  have hrq : (s.onFormer x Former.heard).request x z.2.1 = s.request x z.2.1 := s.request_refit ..
  have hev := State.evicted_one (low := dsLow f.desc) h2 hr hs (by rw [hrq]; exact hl)
  have h3 := State.evict_find h2 z
  have hnil : (f.heard.evicts z ((s.onFormer x Former.heard).ticks 0)).slots = [] := by
    show f.slots.filter (fun y => y.2.1 ≠ z.2.1) = []
    rw [hs]
    simp
  rw [State.formerWork_stays hf he hd hall, hev, State.launched_eq h3, State.launchStep_nil hnil]
  refine ⟨?_, ?_⟩
  · refine (State.onFormer_find _ h3 _).trans ?_
    rw [State.ticks_of_clock (s := s.onFormer x Former.heard) (State.evict_clock ..)]; rfl
  · show ((s.refit _).evictWrites x z).mem = _
    rw [State.evictWrites_refit]; rfl

/-- The writes of an eviction, when none of them faults and the tree is one of the context's (R291, R358). -/
theorem State.evictWrites_ok {s1 s2 : State} {r : Nat} {u : Unit} (hr : s.request x z.2.1 = r)
    (h1 : writeVirt s x (z.2.1 + 8) 1 1 = (s1, .ok u))
    (h2 : writeVirt s1 x (z.2.1 + 10) 1 (setBits (rqFlags r) 1 1 1) = (s2, .ok u)) (ho : s2.ownsTree (rqTree r) x = true)
    (ha : thState (s2.treeHdr (rqTree r)) = 2) : s.evictWrites x z =
      if (treePrune s2 (rqTree r) none).1.ownsTree (rqTree r) x then
        (treePrune s2 (rqTree r) none).1.setHdr (rqTree r) (setBits ((treePrune s2 (rqTree r) none).1.treeHdr (rqTree r)) 0 4 1)
      else (treePrune s2 (rqTree r) none).1 := by
  unfold State.evictWrites
  dsimp only
  have hrel : s2.releaseTree x (rqTree r) = (treePrune s2 (rqTree r) none).1 := by
    unfold State.releaseTree
    rw [if_pos (by simp [ho, ha])]
  rw [hr, State.rqWrite_of h1, State.rqWrite_of h2, hrel]

end

/-! ### Of two requests -/

/-- No slot holds the request at an address. -/
def Former.without (f : Former) (a : Nat) : Prop := ∀ z ∈ f.slots, z.2.1 ≠ a

/-- An evicted request holds no slot, and an eviction gives no slot to another. -/
theorem Former.evicts_without (f : Former) (z : Nat × Nat × Nat × Nat) (now a : Nat) (h : z.2.1 = a ∨ f.without a) :
    (f.evicts z now).without a := by
  intro y hy
  obtain ⟨hm, hne⟩ := List.mem_filter.1 hy
  rcases h with rfl | h
  · exact of_decide_eq_true hne
  · exact h y hm

theorem evictDie_without {x d low a : Nat} (n : Nat) {s : State} {f : Former} (hf : Tab.find s.formers x = some f) (h : f.without a) :
    ∃ f', Tab.find (evictDie x d low n s).1.formers x = some f' ∧ f'.without a := by
  induction n generalizing s f with
  | zero => exact ⟨f, hf, h⟩
  | succ n ih =>
    by_cases hs : low ≤ s.freeCount d ∨ s.evictee x d f = none
    · rw [evictDie_skip hf hs]
      exact ⟨f, hf, h⟩
    · rw [not_or] at hs
      obtain ⟨z, hz⟩ := Option.ne_none_iff_exists'.1 hs.2
      rw [evictDie_step hf hs.1 hz]
      exact ih (State.evict_find hf z) (f.evicts_without z _ a (.inr h))

theorem lexLt_cons_of_lt {a b : Nat} (h : b < a) (s t : List Nat) : lexLt (a :: s) (b :: t) = false := by
  unfold lexLt
  simp only [Bool.or_eq_false_iff, Bool.and_eq_false_iff, decide_eq_false_iff_not]
  exact ⟨by omega, .inl (by omega)⟩

/-- A lower tier is evicted before a higher one, and of one tier the later deadline (R359). -/
theorem State.evictKey_order (s : State) {ra rb : Nat} (h : rqTier rb < rqTier ra ∨
    (rqTier rb = rqTier ra ∧ orderDeadline (rqDeadline rb) < orderDeadline (rqDeadline ra))) :
    lexLt (s.evictKey rb) (s.evictKey ra) = false := by
  have ht : rqTier ra < 4 := Nat.mod_lt _ (by decide)
  have hd : orderDeadline (rqDeadline ra) < 2 ^ 48 := by
    have : rqDeadline ra < 2 ^ 48 := Nat.mod_lt _ (Nat.two_pow_pos _)
    unfold orderDeadline
    split <;> omega
  unfold State.evictKey
  rcases h with h | ⟨h, hlt⟩
  · exact lexLt_cons_of_lt (by omega) _ _
  · rw [h, lexLt, lexLt_cons_of_lt (by omega)]
    simp

section
variable {s : State} {x low : Nat} {f : Former} {za zb : Nat × Nat × Nat × Nat} {D : Nat}

/-- Of two requests of one die the one of lower tier, or later deadline, is evicted first. -/
theorem State.evictee_two (hr : f.requeued = []) (hs : f.slots = [za, zb]) (ha : treeDie (rqTree (s.request x za.2.1)) = D)
    (hb : treeDie (rqTree (s.request x zb.2.1)) = D)
    (hk : lexLt (s.evictKey (s.request x zb.2.1)) (s.evictKey (s.request x za.2.1)) = false) (d : Nat) :
    s.evictee x d f = if D ≠ d then none else some za := by
  unfold State.evictee
  rw [State.evictable_slots hr, hs]
  simp only [List.foldl_cons, List.foldl_nil, ha, hb]
  split
  · rfl
  · simp only [hk, Bool.false_eq_true, if_false]

/-- Nothing is evicted, or the request that R359 puts first holds no slot any more. -/
theorem State.evicted_two (hf : Tab.find s.formers x = some f) (hr : f.requeued = []) (hs : f.slots = [za, zb])
    (ha : treeDie (rqTree (s.request x za.2.1)) = D) (hb : treeDie (rqTree (s.request x zb.2.1)) = D)
    (hk : lexLt (s.evictKey (s.request x zb.2.1)) (s.evictKey (s.request x za.2.1)) = false) :
    s.evicted x low = s ∨ ∃ f', Tab.find (s.evicted x low).formers x = some f' ∧ f'.without za.2.1 := by
  have htwo := State.evictee_two hr hs ha hb hk
  have hgone := f.evicts_without za (s.ticks 0) za.2.1 (.inl rfl)
  by_cases hl : low ≤ s.freeCount D
  · refine .inl (State.evicted_skip hf ?_ ?_) <;> rw [htwo]
    · by_cases hD : D = 0
      · exact .inl (hD ▸ hl)
      · exact .inr (if_pos hD)
    · by_cases hD : D = 1
      · exact .inl (hD ▸ hl)
      · exact .inr (if_pos hD)
  · right
    unfold State.evicted
    rcases treeDie_cases (rqTree (s.request x za.2.1)) with hd | hd <;> rw [ha] at hd <;> subst hd
    · rw [evictDie_step hf hl ((htwo 0).trans (if_neg (by simp)))]
      obtain ⟨f', hf', hw⟩ := evictDie_without 63 (State.evict_find hf za) hgone (d := 0) (low := low)
      exact evictDie_without _ hf' hw
    · rw [evictDie_skip hf (.inr ((htwo 0).trans (if_pos (by decide))))]
      dsimp only
      rw [evictDie_step hf hl ((htwo 1).trans (if_neg (by simp)))]
      exact evictDie_without 63 (State.evict_find hf za) hgone

end

/-! ### The launch of a step keeps the requests in their slots -/

theorem State.acceptGrid_formers (s : State) {r : Nat} (a : Acceptance) (hk : recKind r ≠ 2) :
    (s.acceptGrid r a).1.formers = s.formers := by
  unfold State.acceptGrid
  rw [if_neg hk]
  dsimp only
  generalize hs2 : State.writeCompletion _ _ _ _ = s2
  obtain ⟨gs, hgs⟩ := s2.readyHead_eq (recQueue r)
  rw [hgs]
  show s2.formers = _
  rw [← hs2, State.writeCompletion_formers]

theorem writeEntries_formers {x base : Nat} {f : Former} {fit : Tab (Nat × Nat)} (m : Nat) {n off : Nat} {s t : State}
    (h : writeEntries x base f fit m n off s = some t) : t.formers = s.formers := by
  induction m generalizing n off s with
  | zero => cases h; rfl
  | succ m ih =>
    unfold writeEntries at h
    dsimp only at h
    generalize hw : writeVirt s x (base + 64 + 32 * n) 32 _ = w at h
    obtain ⟨s1, o⟩ := w
    cases o with
    | error e => cases h
    | ok u =>
      refine (ih h).trans ?_
      exact (congrArg (fun w => w.1.formers) hw).symm.trans (congrArg Cover.formers (writeVirt_cover ..))

/-- Whether the batch former of a context has a request in a slot whenever it has another in one. -/
def State.Guards (s : State) (x a b : Nat) : Prop :=
  ∃ f, Tab.find s.formers x = some f ∧ ((∃ z, z ∈ f.slots ∧ z.2.1 = a) → ∃ z, z ∈ f.slots ∧ z.2.1 = b)

/-- The slots of a batch former up to the last that holds a request. -/
def Former.places (f : Former) : Nat := (f.slots.getLast?.map fun z => z.1 + 1).getD 0

/-- The extents and half-ticks that fit a step. -/
def State.fit (s : State) (x : Nat) (f : Former) : Tab (Nat × Nat) := fitSlots s x f.desc f.step f.slots (dsTokens f.desc)

/-- The record of a step grid. -/
def State.gridRecord (s : State) (x : Nat) (f : Former) (template : Nat) : Nat :=
  stepRecord template (f.places * (bits template 152 6 + 1)) f.tier f.queue (s.stepDeadline x f)

/-- The device once the manifest of a step grid is written, unless its record is refused or the manifest cannot be written. -/
def State.manifested (s : State) (x : Nat) (f : Former) (template r : Nat) : Option State :=
  if (recordRefusal s r x none).isSome || recKind r ≠ 0 then none
  else match writeVirt s x (dsManifest f.desc) 64 (manifestHeader f.step (fitTokens (s.fit x f)) (bits template 152 6 + 1) f.places) with
    | (s1, .ok _) => writeEntries x (dsManifest f.desc) f (s.fit x f) f.places 0 0 s1
    | (_, .error _) => none

/-- What a launch leaves of the batch former. -/
def State.advanced (s : State) (x : Nat) (fit : Tab (Nat × Nat)) (id : Nat) (f : Former) : Former :=
  { f with grid := some id, step := f.step + 1, emitted := [], idleAt := none, slots := f.slots.map fun z => s.advanceCursor x fit z }

/-- What a step grid is accepted with. -/
def State.acceptance (s : State) (x : Nat) (f : Former) (template : Nat) : Acceptance :=
  ⟨x, f.tier, none, 0, 0, true, bits template 152 6 + 1,
    f.slots.map fun z => (z.1, (Tab.get (s.fit x f) z.1 (0, 0)).1, rqId (s.request x z.2.1), z.2.1),
    some [BitVec.ofNat 32 (dsManifest f.desc), BitVec.ofNat 32 (dsManifest f.desc / 2 ^ 32)]⟩

/-- The step grid enters its queue. -/
def State.gridStarted (s s2 : State) (x : Nat) (f : Former) (template r : Nat) : State :=
  let g := s2.acceptGrid r (s.acceptance x f template)
  g.1.onFormer x (s.advanced x (s.fit x f) g.2)

/-- A launch by its outcomes. The record is hidden as the kernel, where two texts of the step differ, would evaluate it. -/
theorem State.launchStep_eq (s : State) (x : Nat) (f : Former) : s.launchStep x f =
    if f.places = 0 then s.idleFormer x
    else match (readVirt s x (dsTemplate f.desc) 256).2 with
      | .error _ => s.idleFormer x
      | .ok template =>
        match s.manifested x f template (s.gridRecord x f template) with
        | none => s.idleFormer x
        | some s2 => s.gridStarted s2 x f template (s.gridRecord x f template) := by
  obtain ⟨record, hrecord⟩ : ∃ r, r = @stepRecord := ⟨_, rfl⟩
  have hgrid : s.gridRecord x f = fun template =>
      record template (f.places * (bits template 152 6 + 1)) f.tier f.queue (s.stepDeadline x f) := by rw [hrecord]; rfl
  unfold State.launchStep
  rw [hgrid, ← hrecord]
  clear hgrid hrecord
  rfl

section
variable {s s2 : State} {x template : Nat} {f : Former}

/-- A launch starts a step grid, or the batch former idles (R358, R361). -/
theorem State.launchStep_cases (s : State) (x : Nat) (f : Former) : s.launchStep x f = s.idleFormer x ∨ ∃ template s2,
    s.manifested x f template (s.gridRecord x f template) = some s2 ∧
      s.launchStep x f = s.gridStarted s2 x f template (s.gridRecord x f template) := by
  obtain ⟨manifest, hm⟩ : ∃ m, m = s.manifested x f := ⟨_, rfl⟩
  rw [State.launchStep_eq, ← hm]
  by_cases hp : f.places = 0
  · exact .inl (if_pos hp)
  rw [if_neg hp]
  cases (readVirt s x (dsTemplate f.desc) 256).2 with
  | error e => exact .inl rfl
  | ok template =>
    dsimp only
    cases h2 : manifest template (s.gridRecord x f template) with
    | none => exact .inl rfl
    | some s2 => exact .inr ⟨template, s2, h2, rfl⟩

/-- What a manifest that is written says of the record and the writes. -/
theorem State.manifested_some {r : Nat} (h : s.manifested x f template r = some s2) : recKind r = 0 ∧
    ∃ s1 u, writeVirt s x (dsManifest f.desc) 64
        (manifestHeader f.step (fitTokens (s.fit x f)) (bits template 152 6 + 1) f.places) = (s1, .ok u) ∧
      writeEntries x (dsManifest f.desc) f (s.fit x f) f.places 0 0 s1 = some s2 := by
  unfold State.manifested at h
  split at h
  · cases h
  next hk =>
    refine ⟨by simp_all, ?_⟩
    split at h
    next s1 u hw => exact ⟨s1, u, hw, h⟩
    · cases h

theorem State.manifested_formers {r : Nat} (h : s.manifested x f template r = some s2) : s2.formers = s.formers := by
  obtain ⟨-, s1, u, hw, he⟩ := State.manifested_some h
  have h1 : s1.formers = s.formers :=
    (congrArg (fun w => w.1.formers) hw).symm.trans (congrArg Cover.formers (writeVirt_cover ..))
  exact (writeEntries_formers _ he).trans h1

theorem State.gridStarted_find {r : Nat} (hf : Tab.find s.formers x = some f) (h : s.manifested x f template r = some s2) :
    Tab.find (s.gridStarted s2 x f template r).formers x =
      some (s.advanced x (s.fit x f) (s2.acceptGrid r (s.acceptance x f template)).2 f) := by
  refine State.onFormer_find _ ?_ _
  rw [State.acceptGrid_formers _ _ (by rw [(State.manifested_some h).1]; decide), State.manifested_formers h]
  exact hf

end

theorem State.launchStep_guards {s : State} {x a b : Nat} {f : Former} (hf : Tab.find s.formers x = some f)
    (h : (∃ z, z ∈ f.slots ∧ z.2.1 = a) → ∃ z, z ∈ f.slots ∧ z.2.1 = b) : (s.launchStep x f).Guards x a b := by
  rcases s.launchStep_cases x f with hl | ⟨template, s2, h2, hl⟩ <;> rw [hl]
  · exact ⟨_, State.onFormer_find _ hf _, h⟩
  · refine ⟨_, State.gridStarted_find hf h2, ?_⟩
    rintro ⟨z, hz, hza⟩
    obtain ⟨y, hy, rfl⟩ := List.mem_map.1 hz
    obtain ⟨w, hw, hwb⟩ := h ⟨y, hy, hza⟩
    exact ⟨_, List.mem_map.2 ⟨w, hw, rfl⟩, hwb⟩

/-- Of two requests the one that R359 puts first holds a slot no longer than the other. -/
theorem State.formerWork_guards {s : State} {x n m a b ca cb ha hb : Nat} {f : Former} (hf : Tab.find s.formers x = some f)
    (he : f.emitted = []) (hr : f.requeued = []) (hd : dsEntries f.desc = 0) (hs : f.slots = [(n, a, ca, ha), (m, b, cb, hb)])
    (hsa : Stays (s.request x a)) (hsb : Stays (s.request x b))
    (hdie : treeDie (rqTree (s.request x a)) = treeDie (rqTree (s.request x b)))
    (hk : rqTier (s.request x b) < rqTier (s.request x a) ∨ (rqTier (s.request x b) = rqTier (s.request x a) ∧
      orderDeadline (rqDeadline (s.request x b)) < orderDeadline (rqDeadline (s.request x a)))) :
    (s.formerWork x f).Guards x a b := by
  have hall : ∀ z ∈ f.slots, Stays (s.request x z.2.1) := by
    rw [hs]
    intro z hz
    rcases List.mem_cons.1 hz with rfl | hz
    · exact hsa
    · rcases List.mem_singleton.1 hz with rfl
      exact hsb
  have h2 := State.onFormer_find s hf Former.heard
  have hrq : ∀ c, (s.onFormer x Former.heard).request x c = s.request x c := fun c => s.request_refit ..
  have htwo := State.evicted_two (low := dsLow f.desc) h2 hr hs (congrArg (fun r => treeDie (rqTree r)) (hrq a))
    ((congrArg (fun r => treeDie (rqTree r)) (hrq b)).trans hdie.symm)
    (State.evictKey_order _ (by dsimp only; rw [hrq, hrq]; exact hk))
  rw [State.formerWork_stays hf he hd hall]
  rcases htwo with hev | ⟨f', hf', hw⟩
  · rw [hev, State.launched_eq h2]
    refine State.launchStep_guards h2 fun _ => ⟨(m, b, cb, hb), ?_, rfl⟩
    show _ ∈ f.slots
    rw [hs]
    simp
  · rw [State.launched_eq hf']
    exact State.launchStep_guards hf' fun ⟨z, hz, hza⟩ => absurd hza (hw z hz)

end Sys2Proof.Machine

end

section
/-! PROOF. What a step of a batch former does (O51). -/

namespace Sys2Proof.Machine

/-- A batch former whose step starts. -/
def State.Starts (s : State) (x : Nat) (f : Former) : Prop :=
  Tab.find s.formers x = some f ∧ f.grid = none ∧ f.idleAt = none ∧ f.pending = none ∧ s.spaceFrozen x = false ∧
    f.requeued = [] ∧ f.emitted = []

/-- A batch former that starts a step does the step's work (R358). -/
theorem batchFormerStep_happens {s : State} {x : Nat} {f : Former} {R : State → Prop} (h : s.Starts x f)
    (hR : R (s.formerWork x f)) : Happens .batchFormerStep (.batchFormerStep x) s R := by
  obtain ⟨hf, hg, hi, hp, hz, -, -⟩ := h
  refine happens_of_onEvent rfl rfl ?_
  dsimp only
  rw [hf]
  dsimp only
  rw [if_neg (by simp [hg, hi, hz]), Option.getD_some, State.formerStep, hp]
  exact hR

/-! ### Retirement -/

section
variable {s : State} {x n a cur half r : Nat} {f : Former}

theorem State.retired_one (hs : f.slots = [(n, a, cur, half)]) :
    s.retired x f = s.retireSlot x (dsKeep f.desc) (n, a, cur, half) := by
  unfold State.retired
  rw [hs]; rfl

theorem filter_other_one (n a cur half : Nat) : [(n, a, cur, half)].filter (fun z => z.2.1 ≠ a) = [] := by simp

/-- A step that retires its only request writes no more than the retirement, and idles (R56, R358). -/
theorem State.formerWork_finishes {v : Nat} {s3 : State} (hf : Tab.find s.formers x = some f) (he : f.emitted = [])
    (hq : f.requeued = []) (hd : dsEntries f.desc = 0) (hs : f.slots = [(n, a, cur, half)]) (hr : s.request x a = r)
    (hv : (rqState r = 5 ∧ v = 6) ∨ (rqState r ≠ 5 ∧ rqFault r ≠ 0 ∧ rqFault r ≠ 0x0502 ∧ v = 4) ∨
      (rqState r ≠ 5 ∧ rqFault r = 0 ∧ Stopped r ∧ v = 3)) (hw : s.finishWrites x a r v v = s3) :
    Tab.find (s.formerWork x f).formers x = some { (f.forget a).heard with idleAt := some (s.ticks 0 + 10000) } ∧
      (s.formerWork x f).mem = (if dsKeep f.desc then s3 else s3.releaseTree x (rqTree r)).mem := by
  have hret : s.retired x f = s.finishRequest x a r v v (dsKeep f.desc) :=
    (State.retired_one hs).trans (State.retireSlot_finishes _ hf he hr hv)
  have hslots : (f.forget a).slots = [] := by unfold Former.forget; rw [hs]; exact filter_other_one ..
  have hreq : (f.forget a).requeued = [] := by unfold Former.forget; rw [hq]; rfl
  obtain ⟨hfind, hmem⟩ := State.formerWork_idles hd (hret ▸ State.finishRequest_find hf ..) hslots hreq
  refine ⟨hfind, hmem.trans ?_⟩
  rw [hret, State.finishRequest_eq, hw]; rfl

/-- A step whose only request lost its shard writes its record back to the queue, and idles (R335, R442). -/
theorem State.formerWork_requeues {s1 s2 : State} {u : Unit} (hf : Tab.find s.formers x = some f) (hq : f.requeued = [])
    (hd : dsEntries f.desc = 0) (hs : f.slots = [(n, a, cur, half)]) (hr : s.request x a = r) (h5 : rqState r ≠ 5)
    (h2 : rqFault r = 0x0502) (hw1 : writeVirt s x (a + 8) 1 1 = (s1, .ok u)) (hw2 : writeVirt s1 x (a + 12) 2 0 = (s2, .ok u)) :
    (s.formerWork x f).mem = s2.mem ∧ ∃ f', Tab.find (s.formerWork x f).formers x = some f' ∧ f'.slots = [] ∧ f'.grid = f.grid ∧
      f'.idleAt = some (s.ticks 0 + 10000) ∧ f'.found = Tab.put f.found a (s.ticks 0) ∧ f'.halves = Tab.put f.halves a half := by
  have hret : s.retired x f = s.requeue x a half := (State.retired_one hs).trans (State.retireSlot_requeues _ hr h5 h2)
  have hslots : f.slots.filter (fun z => z.2.1 ≠ a) = [] := by rw [hs]; exact filter_other_one ..
  have hkept := State.requeue_find hf a half
  rw [← hret] at hkept
  obtain ⟨hfind, hmem⟩ := State.formerWork_idles hd hkept hslots hq
  refine ⟨hmem.trans ?_, _, hfind, hslots, rfl, rfl, rfl, rfl⟩
  rw [hret]
  show ((s.rqWrite x a 8 1 1).rqWrite x a 12 2 0).mem = _
  rw [State.rqWrite_of hw1, State.rqWrite_of hw2]

/-- The release of a tree in memory (R306, R358). -/
theorem State.releaseTree_mem (s : State) (x t : Nat) :
    (s.ownsTree t x = false ∨ thState (s.treeHdr t) ≠ 2 → s.releaseTree x t = s) ∧
      (s.ownsTree t x = true → thState (s.treeHdr t) = 2 → s.releaseTree x t = (treePrune s t none).1) := by
  unfold State.releaseTree
  exact ⟨fun h => if_neg (by simpa [imp_iff_not_or] using h), fun h h2 => if_pos (by simp [h, h2])⟩

end

/-! ### Admission -/

section
variable {s : State} {x r : Nat} {f : Former}

/-- A batch former that has found a record of its table at a tick, or had found it before. -/
def Former.notes (f : Former) (a now : Nat) : Former :=
  if (Tab.find f.found a).isSome then f else { f with found := Tab.put f.found a now }

theorem Former.notes_found (f : Former) (a now : Nat) : (Tab.find (f.notes a now).found a).isSome = true := by
  unfold Former.notes
  split
  next h => exact h
  next => exact (congrArg Option.isSome (Tab.find_put_self ..)).trans rfl

theorem Former.notes_slots (f : Former) (a now : Nat) : (f.notes a now).slots = f.slots := by unfold Former.notes; split <;> rfl
theorem Former.notes_requeued (f : Former) (a now : Nat) : (f.notes a now).requeued = f.requeued := by
  unfold Former.notes; split <;> rfl
theorem Former.notes_halves (f : Former) (a now : Nat) : (f.notes a now).halves = f.halves := by unfold Former.notes; split <;> rfl
theorem Former.notes_desc (f : Former) (a now : Nat) : (f.notes a now).desc = f.desc := by unfold Former.notes; split <;> rfl
theorem Former.notes_step (f : Former) (a now : Nat) : (f.notes a now).step = f.step := by unfold Former.notes; split <;> rfl
theorem Former.notes_grid (f : Former) (a now : Nat) : (f.notes a now).grid = f.grid := by unfold Former.notes; split <;> rfl

theorem tableAddrs_one {d : Nat} (h : dsEntries d = 1) : tableAddrs d = [dsTable d] := by unfold tableAddrs; rw [h]; rfl

/-- A QUEUED record that holds no slot is noted (R55, R359). -/
theorem State.scanRecord_queued {a : Nat} (keep : Bool) (hf : Tab.find s.formers x = some f) (hs : f.slots = [])
    (hr : s.request x a = r) (h1 : rqState r = 1) (hm : s.malformed r = false) :
    s.scanRecord x keep a = s.onFormer x fun f => f.notes a (s.ticks 0) := by
  unfold State.scanRecord
  simp only [hf, hr, Option.any_some, hs, List.any_nil, Bool.false_eq_true, if_false]
  rw [if_neg (by rw [h1]; decide), if_pos (by rw [h1]; decide), hm]; rfl

/-- The only QUEUED record is the first to be admitted. -/
theorem State.admitOrder_one {d : Nat} (hd : dsEntries d = 1) (h1 : rqState (s.request x (dsTable d)) = 1)
    (h : (Tab.find f.found (dsTable d)).isSome = true) : s.admitOrder x d f = [dsTable d] := by
  unfold State.admitOrder
  rw [tableAddrs_one hd]
  simp only [List.foldl_cons, List.foldl_nil, h1, h, decide_true, Bool.and_self, if_true]
  rfl

/-- Whether the die of a request has the free sets that its admission takes. -/
def State.hasSets (s : State) (d r : Nat) : Prop := dsHigh d ≤ s.freeCount (treeDie (rqTree r))

theorem State.admitSlot_waits {d a : Nat} (hf : Tab.find s.formers x = some f) (hr : s.request x a = r) (hm : s.malformed r = false)
    (h : ¬ s.hasSets d r) : s.admitSlot x d a = s := by
  unfold State.admitSlot
  rw [hf]
  dsimp only
  rw [hr, if_neg (by rw [hm]; decide), if_pos]
  unfold State.hasSets at h
  simp [Nat.not_le.1 h]

/-- What an admission writes. -/
def State.admitWrites (s : State) (x a r : Nat) : State :=
  if rqAdmitted r = 0 then (s.rqWrite x a 8 1 2).rqWrite x a 104 8 (s.ticks 0) else s.rqWrite x a 8 1 2

theorem State.admitWrites_formers (s : State) (x a r : Nat) : (s.admitWrites x a r).formers = s.formers := by
  unfold State.admitWrites
  split <;> simp only [State.rqWrite_formers]

theorem State.admitWrites_refit (s : State) (fs : Tab Former) (x a r : Nat) :
    (s.refit fs).admitWrites x a r = (s.admitWrites x a r).refit fs := by
  unfold State.admitWrites
  rw [State.refit_ite, State.rqWrite_refit, State.rqWrite_refit]; rfl

/-- The writes of an admission, when none of them faults. -/
theorem State.admitWrites_ok {s1 s2 : State} {a : Nat} {u : Unit} (h1 : writeVirt s x (a + 8) 1 2 = (s1, .ok u))
    (h2 : if rqAdmitted r = 0 then writeVirt s1 x (a + 104) 8 (s.ticks 0) = (s2, .ok u) else s2 = s1) :
    s.admitWrites x a r = s2 := by
  unfold State.admitWrites
  rw [State.rqWrite_of h1]
  split at h2
  next h0 => rw [if_pos h0]; exact State.rqWrite_of h2
  next h0 => rw [if_neg h0]; exact h2.symm

/-- What an admission to the first slot leaves of an empty batch former. -/
def Former.admitted (f : Former) (a : Nat) : Former :=
  { f with slots := [(0, a, 0, 0)], found := Tab.del f.found a, requeued := Tab.del f.requeued a, halves := Tab.del f.halves a }

/-- The first admission of an empty batch former (R335, R358, R359). -/
theorem State.admitSlot_admits {d a : Nat} (hf : Tab.find s.formers x = some f) (hs : f.slots = []) (hq : f.requeued = [])
    (hh : f.halves = []) (hr : s.request x a = r) (hm : s.malformed r = false) (h : s.hasSets d r)
    (he : (extentOf d f.step 0 0 r).1 ≤ dsTokens d) :
    Tab.find (s.admitSlot x d a).formers x = some (f.admitted a) ∧
      ∃ fs, s.admitSlot x d a = (s.admitWrites x a r).refit fs := by
  have hhalf : f.halfFor a = 0 := by unfold Former.halfFor; rw [hs, hh]; rfl
  have hslot : f.freeSlot = 0 := by unfold Former.freeSlot; rw [hs]; rfl
  have hadm : s.admitSlot x d a = (s.admitWrites x a r).onFormer x fun f =>
      { f with slots := Tab.put f.slots f.freeSlot (a, 0, 0), found := Tab.del f.found a,
               requeued := Tab.del f.requeued a, halves := Tab.del f.halves a } := by
    unfold State.admitSlot
    rw [hf]
    dsimp only
    rw [hr, if_neg (by rw [hm]; decide), hhalf, hs, hq, if_neg]
    · rfl
    · unfold State.hasSets at h
      simp [fitSlots, fitTokens, Tab.get, Tab.find, Nat.not_lt.2 he, Nat.not_lt.2 h, dsSlots]
  refine ⟨?_, _, hadm⟩
  rw [hadm]
  refine (State.onFormer_find _ (f := f) (by rw [State.admitWrites_formers]; exact hf) _).trans ?_
  rw [hslot, hs]; rfl

/-- A step with nothing but one QUEUED record up to its admission (R358). -/
theorem State.formerWork_queued (hf : Tab.find s.formers x = some f) (hs : f.slots = []) (hq : f.requeued = [])
    (hd : dsEntries f.desc = 1) (hr : s.request x (dsTable f.desc) = r) (h1 : rqState r = 1) (hm : s.malformed r = false) :
    ∃ fs, Tab.find (s.refit fs).formers x = some (f.heard.notes (dsTable f.desc) (s.ticks 0)) ∧
      s.formerWork x f = ((s.refit fs).admitSlot x f.desc (dsTable f.desc)).launched x := by
  have hret : s.retired x f = s := by unfold State.retired; rw [hs]; rfl
  have h2 := State.onFormer_find s hf Former.heard
  have hscan : (s.onFormer x Former.heard).scanned x f.desc =
      (s.onFormer x Former.heard).onFormer x fun g => g.notes (dsTable f.desc) (s.ticks 0) := by
    unfold State.scanned
    rw [tableAddrs_one hd]
    exact State.scanRecord_queued _ h2 hs ((s.request_refit ..).trans hr) h1 hm
  have h3 := State.onFormer_find _ h2 fun g => g.notes (dsTable f.desc) (s.ticks 0)
  have hnil : ∀ (t : State) d, t.evictee x d (f.heard.notes (dsTable f.desc) (s.ticks 0)) = none := fun t d =>
    State.evictee_nil ((Former.notes_requeued ..).trans hq) ((Former.notes_slots ..).trans hs)
  refine ⟨_, h3, ?_⟩
  rw [State.formerWork_eq, hret, hscan, State.evicted_skip h3 (.inr (hnil _ 0)) (.inr (hnil _ 1))]
  unfold State.admits
  rw [h3]
  dsimp only
  rw [State.admitOrder_one hd ?_ (Former.notes_found ..)]
  · rfl
  · exact (congrArg rqState ((s.request_refit ..).trans hr)).trans h1

/-- A step without the free sets for its only request notes it, and idles (R359, R361). -/
theorem State.formerWork_waits (hf : Tab.find s.formers x = some f) (hs : f.slots = []) (hq : f.requeued = [])
    (hd : dsEntries f.desc = 1) (hr : s.request x (dsTable f.desc) = r) (h1 : rqState r = 1) (hm : s.malformed r = false)
    (h : ¬ s.hasSets f.desc r) : (s.formerWork x f).mem = s.mem ∧ Tab.find (s.formerWork x f).formers x =
      some { f.heard.notes (dsTable f.desc) (s.ticks 0) with idleAt := some (s.ticks 0 + 10000) } := by
  obtain ⟨fs, h3, hw⟩ := State.formerWork_queued hf hs hq hd hr h1 hm
  rw [hw, State.admitSlot_waits h3 ((s.request_refit ..).trans hr) hm h, State.launched_eq h3,
    State.launchStep_nil (f := f.heard.notes ..) ((Former.notes_slots ..).trans hs)]
  exact ⟨rfl, State.onFormer_find _ h3 _⟩

/-- A launch whose template cannot be read (log 41). -/
theorem State.launchStep_unread {e : Xlat} (h : (readVirt s x (dsTemplate f.desc) 256).2 = .error e) :
    s.launchStep x f = s.idleFormer x := by
  rw [State.launchStep_eq, h]
  exact ite_self _

/-- A step that admits its only request and launches no grid (R335, R359; log 41). -/
theorem State.formerWork_admits {e : Xlat} (hf : Tab.find s.formers x = some f) (hs : f.slots = []) (hq : f.requeued = [])
    (hh : f.halves = []) (hd : dsEntries f.desc = 1) (hr : s.request x (dsTable f.desc) = r) (h1 : rqState r = 1)
    (hm : s.malformed r = false) (h : s.hasSets f.desc r) (he : (extentOf f.desc f.step 0 0 r).1 ≤ dsTokens f.desc)
    (ht : (readVirt (s.admitWrites x (dsTable f.desc) r) x (dsTemplate f.desc) 256).2 = .error e) :
    (s.formerWork x f).mem = (s.admitWrites x (dsTable f.desc) r).mem ∧ ∃ f', Tab.find (s.formerWork x f).formers x = some f' ∧
      f'.slots = [(0, dsTable f.desc, 0, 0)] ∧ Tab.find f'.found (dsTable f.desc) = none ∧ f'.grid = f.grid ∧
      f'.idleAt = some (s.ticks 0 + 10000) := by
  obtain ⟨fs, h3, hw⟩ := State.formerWork_queued hf hs hq hd hr h1 hm
  obtain ⟨h4, fs', hadm⟩ := State.admitSlot_admits (d := f.desc) h3 ((Former.notes_slots ..).trans hs)
    ((Former.notes_requeued ..).trans hq) ((Former.notes_halves ..).trans hh) ((s.request_refit ..).trans hr) hm h
    (by rw [Former.notes_step]; exact he)
  have hticks : ((s.refit fs).admitSlot x f.desc (dsTable f.desc)).ticks 0 = s.ticks 0 :=
    State.ticks_of_clock (s := s.refit fs) (State.admitSlot_clock ..) 0
  have hidle : s.formerWork x f = ((s.refit fs).admitSlot x f.desc (dsTable f.desc)).idleFormer x := by
    rw [hw, State.launched_eq h4, State.launchStep_unread (e := e)]
    rw [hadm, State.admitWrites_refit, readVirt_refit, readVirt_refit]
    show (readVirt _ x (dsTemplate (f.heard.notes _ _).desc) 256).2 = _
    rw [Former.notes_desc]
    exact ht
  have hfind := State.onFormer_find _ h4 fun g =>
    { g with idleAt := some (((s.refit fs).admitSlot x f.desc (dsTable f.desc)).ticks 0 + 10000) }
  rw [hidle]
  refine ⟨?_, _, hfind, rfl, (Tab.find_del ..).trans (if_pos rfl), Former.notes_grid .., ?_⟩
  · show ((s.refit fs).admitSlot x f.desc (dsTable f.desc)).mem = _
    rw [hadm, State.admitWrites_refit]; rfl
  · rw [← hticks]

end

end Sys2Proof.Machine

end

section
/-! PROOF. The launch of the step grid of one request (R57, R58, R359). -/

namespace Sys2Proof.Machine

theorem orderDeadline_step (r : Nat) : (if min (2 ^ 48 - 1) (orderDeadline (rqDeadline r)) = 2 ^ 48 - 1 then 0
    else min (2 ^ 48 - 1) (orderDeadline (rqDeadline r))) =
      if rqDeadline r = 0 ∨ rqDeadline r = 2 ^ 48 - 1 then 0 else rqDeadline r := by
  have hd : rqDeadline r < 2 ^ 48 := Nat.mod_lt _ (Nat.two_pow_pos _)
  unfold orderDeadline
  generalize rqDeadline r = d at hd
  by_cases h0 : d = 0
  · simp [h0]
  · rw [if_neg h0, Nat.min_eq_right (by omega)]
    simp [h0]

section
variable {s : State} {x a cur half r template : Nat} {f : Former} (hs : f.slots = [(0, a, cur, half)]) (hr : s.request x a = r)
include hs

theorem Former.places_one : f.places = 1 := by unfold Former.places; rw [hs]; rfl

include hr

/-- The record of the step grid of one request (R359). -/
theorem State.gridRecord_one : s.gridRecord x f template =
    setBits (setBits (setBits (setBits (setBits (setBits template 32 31 (bits template 152 6 + 1)) 64 16 1) 80 16 1) 160 2 f.tier)
      164 12 f.queue) 192 48 (if rqDeadline r = 0 ∨ rqDeadline r = 2 ^ 48 - 1 then 0 else rqDeadline r) := by
  have hd : s.stepDeadline x f = if rqDeadline r = 0 ∨ rqDeadline r = 2 ^ 48 - 1 then 0 else rqDeadline r := by
    rw [← orderDeadline_step]
    unfold State.stepDeadline
    rw [hs, ← hr]; rfl
  unfold State.gridRecord stepRecord
  rw [hd, Former.places_one hs, Nat.one_mul]

variable (hfit : (extentOf f.desc f.step cur half r).1 ≤ dsTokens f.desc)
include hfit

theorem State.fit_one : s.fit x f = [(0, extentOf f.desc f.step cur half r)] := by
  unfold State.fit
  rw [hs, fitSlots, hr, if_pos hfit]; rfl

theorem State.acceptance_one : s.acceptance x f template =
    ⟨x, f.tier, none, 0, 0, true, bits template 152 6 + 1, [(0, (extentOf f.desc f.step cur half r).1, rqId r, a)],
      some [BitVec.ofNat 32 (dsManifest f.desc), BitVec.ofNat 32 (dsManifest f.desc / 2 ^ 32)]⟩ := by
  unfold State.acceptance
  rw [State.fit_one hs hr hfit, hs, ← hr]; rfl

theorem State.advanced_one (id : Nat) : s.advanced x (s.fit x f) id f = { f with
    grid := some id, step := f.step + 1, emitted := [], idleAt := none
    slots := [(0, a, if rqPosition r ≤ cur + (extentOf f.desc f.step cur half r).1 then 2 ^ 32
      else cur + (extentOf f.desc f.step cur half r).1, half)] } := by
  have hcur : s.advanceCursor x [(0, extentOf f.desc f.step cur half r)] (0, a, cur, half) =
      (0, a, if rqPosition r ≤ cur + (extentOf f.desc f.step cur half r).1 then 2 ^ 32
        else cur + (extentOf f.desc f.step cur half r).1, half) := by
    unfold State.advanceCursor decoding
    simp only [hr, Tab.get, Tab.find, if_true, Option.getD_some]
    by_cases hp : rqPosition r ≤ cur
    · rw [if_pos hp, if_pos (Nat.le_add_right_of_le hp)]
    · rw [if_neg hp]
  unfold State.advanced
  rw [State.fit_one hs hr hfit, hs, List.map_cons, hcur]; rfl

omit hr hfit in
/-- The entry of one request (R57). -/
theorem writeEntries_one {s1 s2 : State} {u : Unit} {base : Nat} (e : Nat × Nat)
    (hw : writeVirt s1 x (base + 64) 32 (manifestEntry a 0 e.1 half e.2) = (s2, .ok u)) :
    writeEntries x base f [(0, e)] 1 0 0 s1 = some s2 := by
  obtain ⟨entry, hentry⟩ : ∃ m, m = @manifestEntry := ⟨_, rfl⟩
  have hfound : Tab.find f.slots 0 = some (a, cur, half) := by rw [hs]; rfl
  have hfit : Tab.find [(0, e)] 0 = some e := rfl
  unfold writeEntries
  rw [← hentry] at hw ⊢
  rw [hfound, hfit, Nat.mul_zero, Nat.add_zero]
  simp only [Option.map_some, Option.getD_some, hw, writeEntries]

/-- The manifest of one request (R57). -/
theorem State.manifested_one {s1 s2 : State} {u : Unit} {record : Nat} (hrec : recordRefusal s record x none = none)
    (hk : recKind record = 0)
    (hw1 : writeVirt s x (dsManifest f.desc) 64
      (manifestHeader f.step (extentOf f.desc f.step cur half r).1 (bits template 152 6 + 1) 1) = (s1, .ok u))
    (hw2 : writeVirt s1 x (dsManifest f.desc + 64) 32 (manifestEntry a 0 (extentOf f.desc f.step cur half r).1 half
      (extentOf f.desc f.step cur half r).2) = (s2, .ok u)) :
    s.manifested x f template record = some s2 := by
  have htok : fitTokens [(0, extentOf f.desc f.step cur half r)] = (extentOf f.desc f.step cur half r).1 := Nat.zero_add _
  have he := writeEntries_one hs (extentOf f.desc f.step cur half r) hw2
  unfold State.manifested
  rw [if_neg (by simp [hrec, hk]), State.fit_one hs hr hfit, htok, Former.places_one hs, hw1]
  exact he

end

/-- A launch whose manifest is written starts its grid. -/
theorem State.launchStep_starts {s s2 : State} {x template : Nat} {f : Former} (hp : f.places ≠ 0)
    (ht : (readVirt s x (dsTemplate f.desc) 256).2 = .ok template)
    (h2 : s.manifested x f template (s.gridRecord x f template) = some s2) :
    s.launchStep x f = s.gridStarted s2 x f template (s.gridRecord x f template) := by
  obtain ⟨manifest, hm⟩ : ∃ m, m = s.manifested x f := ⟨_, rfl⟩
  rw [← hm] at h2
  rw [State.launchStep_eq, ← hm, if_neg hp, ht]
  dsimp only
  rw [h2]

/-- What a started step grid is (R57, R58, R359). -/
theorem State.gridStarted_grid (s s2 : State) {x template r : Nat} (f : Former) (hk : recKind r = 0) (hc : recCompletion r = 0) :
    (s.gridStarted s2 x f template r).mem = s2.mem ∧ (s2.acceptGrid r (s.acceptance x f template)).2 = s2.idCtr ∧
      ((s.gridStarted s2 x f template r).grid? s2.idCtr).map Grid.unread = some (s2.newGrid r (s.acceptance x f template)).unread := by
  obtain ⟨gs, hacc, hgs⟩ := State.acceptGrid_eq (s := s2) (s.acceptance x f template) (by rw [hk]; decide : recKind r ≠ 2) hc
  unfold State.gridStarted
  rw [hacc]
  exact ⟨rfl, rfl, hgs⟩

/-- The launch of the step grid of one request whose manifest is written (R57, R58, R359). -/
theorem State.launchStep_one {s s2 : State} {x a cur half template record : Nat} {f : Former}
    (hf : Tab.find s.formers x = some f) (hs : f.slots = [(0, a, cur, half)])
    (ht : (readVirt s x (dsTemplate f.desc) 256).2 = .ok template) (hgrid : s.gridRecord x f template = record)
    (hc : recCompletion record = 0) (hman : s.manifested x f template record = some s2) :
    (s.launchStep x f).mem = s2.mem ∧
      ((s.launchStep x f).grid? s2.idCtr).map Grid.unread = some (s2.newGrid record (s.acceptance x f template)).unread ∧
      Tab.find (s.launchStep x f).formers x = some (s.advanced x (s.fit x f) s2.idCtr f) := by
  have hstart := State.launchStep_starts (by rw [Former.places_one hs]; decide) ht (hgrid.symm ▸ hman)
  obtain ⟨hmem, hid, hg⟩ := State.gridStarted_grid s s2 (x := x) (template := template) f (State.manifested_some hman).1 hc
  have hfind := State.gridStarted_find hf hman
  rw [hid] at hfind
  rw [hstart, hgrid]
  exact ⟨hmem, hg, hfind⟩

/-- A step whose only request goes on, on dies with the free sets that LW asks for, comes to its launch (R358). -/
theorem State.formerWork_reaches {s : State} {x n a cur half r : Nat} {f : Former} (hf : Tab.find s.formers x = some f)
    (he : f.emitted = []) (hd : dsEntries f.desc = 0) (hs : f.slots = [(n, a, cur, half)]) (hr : s.request x a = r) (hst : Stays r)
    (h0 : dsLow f.desc ≤ s.freeCount 0) (h1 : dsLow f.desc ≤ s.freeCount 1) :
    ∃ fs, Tab.find (s.refit fs).formers x = some f.heard ∧ s.formerWork x f = (s.refit fs).launchStep x f.heard := by
  have h2 := State.onFormer_find s hf Former.heard
  have hall : ∀ z ∈ f.slots, Stays (s.request x z.2.1) := by
    rw [hs]
    intro z hz
    rw [List.mem_singleton.1 hz]
    exact hr ▸ hst
  refine ⟨_, h2, ?_⟩
  rw [State.formerWork_stays hf he hd hall, State.evicted_skip h2 (.inl h0) (.inl h1), State.launched_eq h2]; rfl

theorem writeVirt_refit_of {s s1 : State} {x va n v : Nat} {o : Except Xlat Unit} (fs : Tab Former)
    (h : writeVirt s x va n v = (s1, o)) : writeVirt (s.refit fs) x va n v = (s1.refit fs, o) := by
  rw [writeVirt_refit, h]

theorem extentOf_eq (d step cur half r : Nat) : extentOf d step cur half r =
    (if cur < rqPosition r then min (dsChunk d) (rqPosition r - cur) else if half = step % 2 then dsDraft d else dsCheck d,
      if cur < rqPosition r then cur else rqPosition r - 1) := by
  unfold extentOf
  split <;> rfl

end Sys2Proof.Machine

end

section
/-! PROOF. What a step of a batch former retires, evicts, admits and launches (O51). -/

namespace Sys2Proof.Machine

/-- Settles O51: a step's work is split into its retirements, evictions, admissions and launch, and of one request each is done or
skipped whole. -/
theorem formerSteps : Obligations.FormerSteps := by
  unfold Obligations.FormerSteps
  refine ⟨?_, ?_, ?_, ?_, ?_, ?_⟩
  · intro s x n a cur half r f v s1 s2 s3 u ⟨hst, hd, hs, hread⟩ hv miss h1 h2 h3 tr
    have ⟨hf, hg, _, _, _, hq, he⟩ := hst
    obtain ⟨hfind, hmem⟩ := State.formerWork_finishes hf he hq hd hs (State.request_of hread) hv (State.finishWrites_ok h1 h2 h3)
    obtain ⟨hkeep, hrel⟩ := State.releaseTree_mem s3 x tr
    refine batchFormerStep_happens hst ⟨⟨_, hfind, ?_, hg, rfl, fun y => Tab.find_del ..⟩, fun h => hmem.trans ?_, fun hk ho h2 => ?_⟩
    · show f.slots.filter (fun z => z.2.1 ≠ a) = []
      rw [hs]
      exact filter_other_one ..
    · split
      · rfl
      next hk => rw [hkeep (h.resolve_left hk)]
    · rw [hmem, hk, hrel ho h2]; rfl
  · intro s x n a cur half r f s1 s2 u ⟨hst, hd, hs, hread⟩ h5 h0502 h1 h2
    have ⟨hf, hg, _, _, _, hq, he⟩ := hst
    obtain ⟨hmem, f', hfind, hslots, hgrid, hidle, hfound, hhalf⟩ :=
      State.formerWork_requeues hf hq hd hs (State.request_of hread) h5 h0502 h1 h2
    refine batchFormerStep_happens hst ⟨hmem, f', hfind, hslots, hgrid.trans hg, hidle, ?_, ?_⟩
    · rw [hfound, Tab.find_put_self]
    · rw [hhalf, Tab.find_put_self]
  · intro s x n a cur half r f s1 s2 u ⟨hst, hd, hs, hread⟩ hstay tr s3 hl h1 h2 ho h
    have ⟨hf, hg, _, _, _, hq, he⟩ := hst
    have hr := State.request_of hread
    subst hr
    obtain ⟨hfind, hmem⟩ := State.formerWork_evicts hf he hq hd hs hstay hl
    rw [State.evictWrites_ok (z := (n, a, cur, half)) rfl h1 h2 ho h] at hmem
    refine batchFormerStep_happens hst ⟨hmem, _, hfind, ?_, hg, rfl, Tab.find_put_self .., Tab.find_put_self ..⟩
    show f.slots.filter (fun z => z.2.1 ≠ a) = []
    rw [hs]
    exact filter_other_one ..
  · intro s x n m a b ca cb ha hb ra rb f hst hd hs _ _ hra hrb hsa hsb hdie latest hk
    have ⟨hf, _, _, _, _, hq, he⟩ := hst
    have ha' := State.request_of hra
    have hb' := State.request_of hrb
    subst ha' hb'
    exact batchFormerStep_happens hst (State.formerWork_guards hf he hq hd hs hsa hsb hdie hk)
  · intro s x f r hst hd hs hh a half extent hread h1 hm
    have ⟨hf, hg, _, _, _, hq, _⟩ := hst
    have hr := State.request_of hread
    refine ⟨fun hlow => ?_, fun hhigh hfit s1 s2 u e hw1 hw2 ht => ?_⟩
    · obtain ⟨hmem, hfind⟩ := State.formerWork_waits hf hs hq hd hr h1 hm (Nat.not_le.2 hlow)
      exact batchFormerStep_happens hst ⟨hmem, _, hfind, (Former.notes_slots ..).trans hs, (Former.notes_grid ..).trans hg, rfl,
        Former.notes_found ..⟩
    · have hw : s.admitWrites x (dsTable f.desc) r = s2 := State.admitWrites_ok hw1 hw2
      obtain ⟨hmem, f', hfind, hslots, hfound, hgrid, hidle⟩ := State.formerWork_admits hf hs hq hh hd hr h1 hm hhigh
        (by rw [extentOf_eq]; exact hfit) (hw.symm ▸ ht)
      exact batchFormerStep_happens hst ⟨hmem.trans (congrArg State.mem hw), f', hfind, hslots, hfound, hgrid.trans hg, hidle⟩
  · intro s x a cur half r f template s1 s2 u ⟨hst, hd, hs, hread⟩ hstay h0 h1 pos extent start S deadline record hfit ht hrec hk hc
      hw1 hw2
    have ⟨hf, _, _, _, _, _, he⟩ := hst
    have hr := State.request_of hread
    obtain ⟨fs, hfind, hwork⟩ := State.formerWork_reaches hf he hd hs hr hstay h0 h1
    have hr' : (s.refit fs).request x a = r := (s.request_refit ..).trans hr
    have hext : extentOf f.heard.desc f.heard.step cur half r = (extent, start) := extentOf_eq ..
    have hfit' : (extentOf f.heard.desc f.heard.step cur half r).1 ≤ dsTokens f.heard.desc := hext ▸ hfit
    have hgrid : (s.refit fs).gridRecord x f.heard template = record := State.gridRecord_one (f := f.heard) hs hr'
    have hman : (s.refit fs).manifested x f.heard template record = some (s2.refit fs) :=
      State.manifested_one (f := f.heard) (s1 := s1.refit fs) (u := u) hs hr' hfit' ((recordRefusal_refit ..).trans hrec) hk
        (by rw [hext]; exact writeVirt_refit_of fs hw1) (by rw [hext]; exact writeVirt_refit_of fs hw2)
    obtain ⟨hmem, hg, hfind'⟩ := State.launchStep_one hfind hs ((readVirt_refit ..).trans ht) hgrid hc hman
    rw [State.acceptance_one (f := f.heard) hs hr' hfit', hext] at hg
    rw [State.advanced_one (f := f.heard) hs hr' hfit', hext] at hfind'
    obtain ⟨g, hg, hu⟩ := Option.map_eq_some_iff.1 hg
    have field : ∀ {α : Type} (p : Grid → α), p g.unread = p _ := fun p => congrArg p hu
    rw [← hwork] at hmem hg hfind'
    exact batchFormerStep_happens hst ⟨hmem, ⟨g, hg, field Grid.ctx, field Grid.record, field Grid.tier, field Grid.step,
      field Grid.perSlot, field Grid.slots, field Grid.params⟩, _, hfind', rfl, rfl, rfl⟩

end Sys2Proof.Machine

end
